-- ==== Sys2Proof/Word.lean ====
section
/-! DEFINITION. The byte and word types, the sparse table every unit's state is kept in, and the few
plain structures that commands carry as operands (what a commander stored, a frame at a port, a DIMM). -/

namespace Sys2Proof

/-- One byte. -/
abbrev Byte := BitVec 8

/-- A 32-bit quantity of the manual that wraps: sequence numbers (R87) and PSNs (R178). -/
abbrev W32 := BitVec 32

/-- A 64-bit register or counter. -/
abbrev W64 := BitVec 64

/-- The widest single register of chapter 17: 128 bits. -/
abbrev W128 := BitVec 128

/-- A sparse table keyed by a number, keys rising; what an unlisted key holds is said where the table is used. -/
abbrev Tab (α : Type) := List (Nat × α)

/-- One store that a commander (host or accelerator) made into its own memory: the host port behind which the
memory lies, the bus address, and the bytes. -/
structure HostStore where
  port  : Nat
  addr  : Nat
  bytes : List Byte
  deriving DecidableEq, Repr

/-- A frame as the MAC of a sub-port hands it over: its bytes from the destination MAC address to the end of the
payload (FCS excluded), whether its FCS was good, the FEC codewords corrected and found uncorrectable since the frame before, and, for a
frame in transit that fails a check, the port and sub-port on which the package had begun to forward it (R165). -/
structure Frame where
  bytes : List Byte
  fcsOk : Bool
  fixed : Nat := 0
  lost  : Nat := 0
  begun : Option (Nat × Nat) := none
  deriving DecidableEq, Repr

/-- What the SPD of the DIMM in one DDR channel says (R326): capacity in GiB, whether the type is a DDR5 MRDIMM with x4
devices and ECC, and the highest speed it supports in MT/s. -/
structure Dimm where
  chan     : Nat
  gib      : Nat
  accepted : Bool
  speed    : Nat
  deriving DecidableEq, Repr

/-- What the symbol code finds when it reads a line (R328): nothing, one corrected symbol at a position
(on a DRAM row or tier-A row), or an uncorrectable codeword; or, on a slice, an uncorrectable error in the cluster port itself (Table 15.5). -/
inductive LineFind where
  | clean
  | corrected (position row : Nat)
  | uncorrectable (row : Nat)
  | portFault
  deriving DecidableEq, Repr

/-- A memory port of the patrol scrub (R334): a tier-A slice by logical cluster, an HBM4 stack or a DDR channel. -/
inductive MemUnit where
  | slice (cluster : Nat)
  | stack (h : Nat)
  | chan  (d : Nat)
  deriving DecidableEq, Repr

/-- A symbol error that has come up in a line of a memory port since its last REFRESH command: the line's number at the port, the
codeword's offset in the line, the symbol position (none where two symbols or more of the codeword are in error), and the row. -/
structure Decay where
  line : Nat
  code : Nat
  pos  : Option Nat
  row  : Nat
  deriving DecidableEq, Repr

/-- A memory port that is refreshed (R334), and the symbol errors that have come up there since its last refresh. -/
structure Refreshed where
  unit   : MemUnit
  decays : List Decay
  deriving DecidableEq, Repr

/-- A row whose repair completes (R338), and whether that has exhausted the repair resources of its bank. -/
structure Repaired where
  row       : Nat
  exhausted : Bool
  deriving DecidableEq, Repr

/-- A VC of which a packet is forwarded (R203), and whether a flit of it was uncorrectable on a NoC hop (R331). -/
structure Hop where
  vc  : Nat
  bad : Bool
  deriving DecidableEq, Repr

/-- A chunk whose fold completes (R250), and the fold-unit slot, if any, whose accumulator file the fold finds uncorrectable (R262). -/
structure Folded where
  chunk : Nat
  bad   : Option Nat
  deriving DecidableEq, Repr

/-- A member of a plan run whose next bundle issues (R298), and the slot of the bundle (Table 9.15), if any, that reads a tile which the code
finds uncorrectable (R328). -/
structure Issue where
  member : Nat
  bad    : Option Nat
  deriving DecidableEq, Repr

/-- The kinds of queue that have a doorbell record and a state record (R83). -/
inductive QueueKind where
  | sq | cq | eq
  deriving DecidableEq, Repr

/-- A reset domain of Table 14.11. -/
inductive Domain where
  | function (f : Nat)
  | port (p : Nat)
  | cluster (c : Nat)
  | gallery (g : Nat)
  | package
  deriving DecidableEq, Repr

/-- An engine that can hang (R449): the TVE, a fold unit or an ME of a cluster, or the TE of a port. -/
inductive Engine where
  | tve (cluster : Nat)
  | fu  (cluster unit : Nat)
  | me  (cluster unit : Nat)
  | te  (port : Nat)
  deriving DecidableEq, Repr

/-- What may wait 10 × hang_timeout (R449): a withdrawal, a quiesce, a laggard-mode collective. -/
inductive LongWaiter where
  | withdrawal (context segment : Nat)
  | quiesce (f : Nat)
  | collective (group : Nat)
  deriving DecidableEq, Repr

/-- One measurement of a gallery by its conservation cycle (R465): for each physical cluster the slack of its eight path-delay monitors in ps;
the fold units (cluster, unit 0–4) whose ring oscillators were read, with the frequency read; and the four oscillators of the NoC. -/
structure Slack where
  clusters : List (Nat × List Nat)
  fus      : List (Nat × Nat × Nat)
  noc      : List Nat
  deriving DecidableEq, Repr

end Sys2Proof
end

