-- ==== Sys2Proof/Syntax.lean ====
section
/-! DEFINITION. The commands of the Zynfen Decas ZD24: one constructor for each row of spec/opcode_table.json,
with the operands of a command that the queue carries. Units are named by number: f a function (Table 12.4), q a queue,
p a port, sub a sub-port, g a gallery, hp a host port, c a context, seg a segment, h an HBM4 stack. -/

namespace Sys2Proof

inductive Instr where
  /-- REGISTER_WRITE (R5). A write to a set-up register that has no behaviour of its own updates its fields under the access types of Table 0.3. -/
  | registerWrite (f off width : Nat) (value : W64)
  /-- PACKAGE_START (R419). Deassertion of PORST_N runs the start sequence: node ID sampling, PLL lock, ROM checks, catalogue map, tier-A zeroing, HBM training and port bring-up. -/
  | packageStart
  /-- DDR_TRAINING_COMPLETE (R326). The end of DDR5 training fixes the channels taken in and the channel speed, and sets FN_MEM_TOP. -/
  | ddrTrainingComplete (dimms : List Dimm)
  /-- PORST_N_ASSERT (R444). Assertion of PORST_N resets the whole package except the fuses, the NOR and the node ID. -/
  | porstNAssert
  /-- I3C_NODE_WRITE (R420). The board controller writes the I3C node register while PORST_N is asserted, and so selects the node ID source. -/
  | i3cNodeWrite (valid : Bool) (node : BitVec 16)
  /-- CLOCK_LOSS (R40). Loss of REFCLK100 or of root PLL lock asserts ALARM_N and stops all on-die activity. -/
  | clockLoss
  /-- TAMPER (R418). A tamper condition erases every key, asserts ALARM_N, stops the package and records the cause in the NOR. -/
  | tamper (sources : BitVec 4)
  /-- THERMAL_TRIP (R57). A die passing its trip temperature asserts THERMTRIP_N, stops activity and journals the trip. -/
  | thermalTrip (die : Nat) (reading : W32)
  /-- ENTROPY_FAILURE (R416). A failed health test of the entropy source makes SEC refuse sign, agree and LOAD until the next package reset. -/
  | entropyFailure
  /-- DIVIDER_CHANGE (R36). At a timetable turn boundary the gallery's ACLK divider changes to the larger of floor and demand, and running work pauses and resumes. -/
  | dividerChange (g : Nat)
  /-- FLIT_REPLAY (R42). A die-to-die flit that arrives uncorrectable is replayed from the sender's replay buffer and counted. -/
  | flitReplay (link dir : Nat) (again : Bool)
  /-- SWEEP_EXPRESS (R106). Every 250 ns the express sweep reads the doorbell records of its SQs and fetches new entries. -/
  | sweepExpress (stores : List HostStore)
  /-- SWEEP_REGULAR (R106). Every 2 µs the regular sweep reads the doorbell records of its SQs and fetches new entries. -/
  | sweepRegular (stores : List HostStore)
  /-- SWEEP_ADMIN (R105). Every 2 µs the admin sweep reads the admin SQ doorbell records and fetches admin commands. -/
  | sweepAdmin (stores : List HostStore)
  /-- OWNER_REREAD (R93). A fetched entry with the wrong ownership sense is re-read 250 ns later, and after four re-reads it is malformed with cause OWNER. -/
  | ownerReread (f q : Nat) (stores : List HostStore)
  /-- CQ_FULL_REREAD (R91). Every 250 ns the ZD24 re-reads the doorbell record of a full CQ and writes held CQEs as H allows. -/
  | cqFullReread (f q : Nat) (stores : List HostStore)
  /-- STATE_RECORD_WRITE (R104). The ZD24 writes a queue's state record at most 250 ns after a change to seq or completed. -/
  | stateRecordWrite (f : Nat) (kind : QueueKind) (q : Nat)
  /-- EVC_MIRROR_WRITE (R139). The ZD24 writes a changed event counter to the function's mirror within 250 ns. -/
  | evcMirrorWrite (c i : Nat)
  /-- SQ_WAKE (R110). FN_WAKE kind 0 makes the ZD24 read the queue's doorbell record, fetch up to P and return the queue to its home list if a place is free. -/
  | sqWake (f q : Nat) (stores : List HostStore)
  /-- CQ_ARM (R111). FN_WAKE kind 1 reads the CQ doorbell record and raises its vector now or at the next entry. -/
  | cqArm (f q : Nat) (stores : List HostStore)
  /-- ERROR_QUEUE_ARM (R111). FN_WAKE kind 2 reads the error-queue doorbell record and raises its vector now or at the next record. -/
  | errorQueueArm (f : Nat) (stores : List HostStore)
  /-- ADMIN_ENABLE (R85). A write setting FN_ADMIN_CFG.enable starts the admin pair, or sets cfg_error, and locks the field. -/
  | adminEnable (f : Nat) (value : W32)
  /-- IDENTIFY (R117). The admin command writes the 4 KiB identity page to the given bus address. -/
  | identify (f : Nat)
  /-- NEGOTIATE (R428). The admin command agrees the interface major version and the feature word, or fails with DEV_NEG_FAILED. -/
  | negotiate (f : Nat)
  /-- CREATE_CONTEXT (R117). The admin command creates a context and returns its number. -/
  | createContext (f : Nat)
  /-- DESTROY_CONTEXT (R117). The admin command destroys a context that nothing refers to, erasing its key slots and plans. -/
  | destroyContext (f : Nat)
  /-- CREATE_CQ (R118). The admin command creates a completion queue bound to a context. -/
  | createCq (f : Nat)
  /-- DESTROY_CQ (R117). The admin command destroys an idle CQ that no SQ names. -/
  | destroyCq (f : Nat)
  /-- CREATE_SQ (R118). The admin command creates a submission queue and places it on its list or parks it. -/
  | createSq (f : Nat)
  /-- DESTROY_SQ (R117). The admin command destroys an SQ whose K, C and P are equal. -/
  | destroySq (f : Nat)
  /-- CREATE_ERROR_QUEUE (R117). The admin command creates the function's one error queue. -/
  | createErrorQueue (f : Nat)
  /-- CREATE_SEGMENT (R65). The admin command loads a segment entry after its checks and mirrors it in the export table if exported. -/
  | createSegment (f : Nat)
  /-- WITHDRAW_SEGMENT (R78). The admin command increments the segment's generation and moves it to WITHDRAWING. -/
  | withdrawSegment (f : Nat)
  /-- WITHDRAWAL_COMPLETE (R78). When references to the old generation reach zero in every engine, the export entry is invalidated and the withdrawal completes. -/
  | withdrawalComplete (c seg : Nat)
  /-- QUERY_SEGMENT (R117). The admin command writes the 32-byte segment entry to the given address. -/
  | querySegment (f : Nat)
  /-- CREATE_QP (R185). The admin command creates an RC or omnibus QP in the context store. -/
  | createQp (f : Nat)
  /-- CONNECT (R186). MODIFY_QP CONNECT loads the remote node, the remote QP and the PSNs into an idle RC QP and makes it READY. -/
  | connect (f : Nat)
  /-- ADD_PEERS (R186). MODIFY_QP ADD_PEERS adds all or none of an array of peer entries to an omnibus QP. -/
  | addPeers (f : Nat)
  /-- REMOVE_PEER (R186). MODIFY_QP REMOVE_PEER removes an idle peer entry from an omnibus QP. -/
  | removePeer (f : Nat)
  /-- SET_ERROR (R189). MODIFY_QP SET_ERROR moves a READY QP or peer entry to ERROR and ends its outstanding operations. -/
  | setError (f : Nat)
  /-- MODIFY_QP_RESET (R189). MODIFY_QP RESET clears an ERROR QP to IDLE, or removes an omnibus peer entry. -/
  | modifyQpReset (f : Nat)
  /-- SET_TIMERS (R186). MODIFY_QP SET_TIMERS changes the retry limit, rto_min and rto_max. -/
  | setTimers (f : Nat)
  /-- QUERY_QP (R187). The admin command writes the 64-byte QP status record. -/
  | queryQp (f : Nat)
  /-- DESTROY_QP (R189). The admin command releases the contexts of a QP that has no operation in flight. -/
  | destroyQp (f : Nat)
  /-- CREATE_GROUP (R237). The admin command creates the neighbour QPs and landing region, and starts forming a collective group. -/
  | createGroup (f : Nat)
  /-- DESTROY_GROUP (R238). The admin command destroys a group with no job in flight or armed, and releases its QPs and region. -/
  | destroyGroup (f : Nat)
  /-- LOAD_PLAN (R287). The admin command copies and verifies a container, or instantiates a family, and returns a plan number. -/
  | loadPlan (f : Nat)
  /-- UNLOAD_PLAN (R288). The admin command removes a loaded plan that no dispatched PLAN_RUN names. -/
  | unloadPlan (f : Nat)
  /-- SET_LATENCY_TOLERANCE (R471). The admin command sets the function's latency tolerance, which limits gallery power states. -/
  | setLatencyTolerance (f : Nat)
  /-- GET_LOG (R451). The admin command writes the boot report or a wait-for graph record. -/
  | getLog (f : Nat)
  /-- READ_COUNTERS (R482). The admin command samples a range of counters or their shadow on one edge, and optionally clears them. -/
  | readCounters (f : Nat)
  /-- LOAD_TIMETABLE (R51). The PF0 command checks declared timetables and holds the gallery's dispatch so that they can be loaded. -/
  | loadTimetable (f : Nat)
  /-- TIMETABLE_SWITCH (R51). Once the gallery has drained, every timetable switches to its shadow at one turn boundary and dispatch resumes. -/
  | timetableSwitch (g : Nat)
  /-- TIMETABLE_DRAIN_TIMEOUT (R52). A gallery that has not drained 1 ms after the hold keeps its tables, and the command ends with DEV_DRAIN_TIMEOUT. -/
  | timetableDrainTimeout (g : Nat)
  /-- SET_TIMETABLE_LIMITS (R50). The PF0 command sets the per-owner floors and ceilings of a gallery for later loads. -/
  | setTimetableLimits (f : Nat)
  /-- SET_FUNCTION_GRANT (R378). The PF0 command checks and applies a grant record for a tenant function. -/
  | setFunctionGrant (f : Nat)
  /-- FABRIC_LOCAL (R452). The PF0 command applies one route message to the node itself as if the fabric manager had sent it. -/
  | fabricLocal (f : Nat)
  /-- CATALOGUE_UPDATE (R461). The PF0 command verifies a signed catalogue update and applies it at the next package reset. -/
  | catalogueUpdate (f : Nat)
  /-- CATALOGUE_CLEAR (R461). The PF0 command removes a port's lane entries and resets the port. -/
  | catalogueClear (f : Nat)
  /-- NOP (R123). Dispatch of a NOP completes it with OK and signals its counter. -/
  | nop (f q : Nat)
  /-- PUT (R123). Dispatch of a PUT checks it under R518 and sends its WRITE packets. -/
  | put (f q : Nat)
  /-- GET (R170). Dispatch of a GET checks it and sends READ_REQs of up to 64 response packets each. -/
  | get (f q : Nat)
  /-- PUT_FINAL (R148). Dispatch of a PUT_FINAL translates its payload and flag, and sends WRITEs whose last packet carries the FINAL extension. -/
  | putFinal (f q : Nat)
  /-- ATOMIC (R130). Dispatch of an ATOMIC checks width and alignment and sends one ATOMIC_REQ. -/
  | atomic (f q : Nat)
  /-- FOLD_PUT (R132). Dispatch of a FOLD_PUT checks its element multiple and sends FOLD packets. -/
  | foldPut (f q : Nat)
  /-- SEND (R133). Dispatch of a SEND checks the frame and passes it to the MAC of the named port. -/
  | send (f q : Nat)
  /-- RECV (R133). Dispatch of a RECV posts a buffer for the next frame steered to the raw queue. -/
  | recv (f q : Nat)
  /-- PLAN_RUN (R290). Dispatch of a PLAN_RUN checks the entry and queues the plan for its gang. -/
  | planRun (f q : Nat)
  /-- ALL_REDUCE (R241). Dispatch of an ALL_REDUCE numbers the collective, computes its signature and sends ENTER. -/
  | allReduce (f q : Nat)
  /-- REDUCE_SCATTER (R241). Dispatch of a REDUCE_SCATTER collective enters it at this member. -/
  | reduceScatter (f q : Nat)
  /-- ALL_GATHER (R241). Dispatch of an ALL_GATHER collective enters it at this member. -/
  | allGather (f q : Nat)
  /-- BROADCAST (R241). Dispatch of a BROADCAST collective enters it at this member. -/
  | broadcast (f q : Nat)
  /-- REDUCE (R241). Dispatch of a REDUCE collective enters it at this member. -/
  | reduce (f q : Nat)
  /-- ALL_TO_ALL (R241). Dispatch of an ALL_TO_ALL collective enters it at this member. -/
  | allToAll (f q : Nat)
  /-- BARRIER (R241). Dispatch of a BARRIER collective enters it at this member. -/
  | barrier (f q : Nat)
  /-- TRIGGER_FIRE (R140). An armed job whose counter reaches its threshold, or takes the error mark, fires when a place in flight is free. -/
  | triggerFire
  /-- FLUSH_COMPLETE (R153). When the flushing reads return, the ZD24 writes the flag that they guard. -/
  | flushComplete (n : Nat)
  /-- ME_TIMER_RUN (R144). A TIMER channel's period expires, making its next run ready or counting an overrun. -/
  | meTimerRun (cluster me channel : Nat)
  /-- ME_RUN_START (R145). An ME starts the oldest ready run of a channel and translates it. -/
  | meRunStart (cluster me : Nat)
  /-- ME_RUN_COMPLETE (R146). An ME run ends, signals its counter, writes its completion record and readies chained runs. -/
  | meRunComplete (cluster me : Nat)
  /-- PEER_REGISTER (R383). Setting HUB_PEER valid registers a peer range and starts a probe. -/
  | peerRegister (n : Nat) (word : W64)
  /-- PEER_UNREGISTER (R383). Clearing HUB_PEER valid unregisters a peer range. -/
  | peerUnregister (n : Nat) (word : W64)
  /-- PEER_PROBE_REQUEST (R383). A write of HUB_PEER probe starts a new probe of the range. -/
  | peerProbeRequest (n : Nat) (word : W64)
  /-- PEER_PROBE_READ (R155). Each microsecond of a probe issues the next zero-length read to the peer's base. -/
  | peerProbeRead (n : Nat)
  /-- PEER_PROBE_DONE (R156). The end of a probe marks the peer reachable or unreachable and records its round trip. -/
  | peerProbeDone (n : Nat) (rtts : List (Option Nat))
  /-- FRAME_RECEIVE (R349). A frame received on a sub-port is checked, classified, and consumed, steered to a raw queue or discarded. -/
  | frameReceive (p sub : Nat) (frame : Frame)
  /-- WRITE (R73). A WRITE packet at its destination passes the remote check and is placed, and a held FINAL takes effect once its message is complete. -/
  | write
  /-- READ_REQ (R171). A READ_REQ passes the remote check and is served by READ_RESP packets. -/
  | readReq
  /-- ATOMIC_REQ (R131). An ATOMIC_REQ passes the remote check, updates the target word indivisibly and is answered by one ATOMIC_RESP. -/
  | atomicReq
  /-- FOLD (R278). A FOLD packet passes the remote check, and its elements are folded into the target elements. -/
  | fold
  /-- ACK (R182). An ACK advances the cumulative acknowledgement, samples RTT, updates the window, and completes or ends operations. -/
  | ack
  /-- READ_RESP (R172). A matching READ_RESP is placed at the initiator and may complete a GET. -/
  | readResp
  /-- ATOMIC_RESP (R172). A matching ATOMIC_RESP places the fetched value and completes the ATOMIC. -/
  | atomicResp
  /-- CONTEXT_FETCH_COMPLETE (R177). A context fetch completes, and the packets waiting in the siding for the QP are processed in arrival order. -/
  | contextFetchComplete (qp node : Nat) (bad : Bool)
  /-- PACKET_INJECT (R200). A TE builds a packet copy when window and pacer allow, stamps its route fields and encrypts it if required. -/
  | packetInject (qp node : Nat)
  /-- PACKET_FORWARD (R203). A waiting packet is granted an output port that holds credit and is forwarded. -/
  | packetForward (inport : Nat) (vc : Hop)
  /-- ESCAPE_WAIT_EXPIRE (R203). A packet that has waited escape_wait at the head of its buffer becomes escape-eligible. -/
  | escapeWaitExpire (inport vc : Nat)
  /-- RESIDENCE_EXPIRE (R211). A packet whose residence reaches hop_residence is discarded and its credits are returned. -/
  | residenceExpire (inport vc : Nat)
  /-- RETRANSMIT_TIMEOUT (R182). A retransmission timer expires: missing packets are resent, or past the retry limit the QP enters ERROR. -/
  | retransmitTimeout (qp node : Nat)
  /-- ACK_DELAY_EXPIRE (R180). The acknowledgement delay runs out since the first unacknowledged accepted packet, and an ACK is sent. -/
  | ackDelayExpire (qp node : Nat)
  /-- PORT_LINK_DOWN (R205). Loss of a port's link removes the port from every candidate set and reports an EVENT message. -/
  | portLinkDown (p sub : Nat)
  /-- PORT_LINK_UP (R205). A port's link coming up lifts its mask at lookup. -/
  | portLinkUp (p sub delay : Nat)
  /-- CREDIT_FRAME_TIMER (R217). A CREDIT frame is sent every 128 ns while counters have changed, and every 4 µs in any case. -/
  | creditFrameTimer (p : Nat)
  /-- CREDIT (R217). A received CREDIT frame updates the credits held for each downstream pool. -/
  | credit (p : Nat)
  /-- ROUTE_BEGIN (R209). The route message clears a slot and moves it to LOADING. -/
  | routeBegin
  /-- ROUTE_WRITE (R213). The route message writes route entries into a loading slot. -/
  | routeWrite
  /-- ROUTE_SEAL (R209). The route message seals a loading slot when its CRC matches. -/
  | routeSeal
  /-- INJECT (R209). The route message sets inject_epoch to a sealed slot. -/
  | inject
  /-- RETIRE (R209). The route message stops routing by a sealed slot that is not injecting. -/
  | retire
  /-- INTERMEDIATES (R213). The route message writes positions of a slot's intermediate set. -/
  | intermediates
  /-- ADDRESS (R213). The route message writes switched-address entries of a loading slot. -/
  | address
  /-- REPLY (R213). A REPLY to a FABRIC message ends its retransmission and reports its status. -/
  | reply
  /-- ROUTE_MESSAGE_RETRY (R213). A FABRIC message without a reply after 100 µs is retransmitted. -/
  | routeMessageRetry (request : Nat)
  /-- GROUP_JOIN (R237). A GROUP_JOIN is answered and, with an OK reply held, the neighbour QP is connected. -/
  | groupJoin
  /-- FORMATION_TIMEOUT (R237). Expiry of the formation timeout before READY ends CREATE_GROUP with COLL_FORM_FAILED. -/
  | formationTimeout (group : Nat)
  /-- COLL_DATA (R249). A COLL data message is checked, then held, placed or folded into a landing slot or a result buffer. -/
  | collData
  /-- CHUNK_FOLD_COMPLETE (R250). A fold with all its contributions sends its partial up or its rounded result down, and frees its accumulator file. -/
  | chunkFoldComplete (group level : Nat) (chunk : Folded)
  /-- ENTER (R251). A received ENTER is compared with the receiver's signature and result range for that collective. -/
  | enter
  /-- FIRST (R251). A FIRST is forwarded up the control tree once, and at the leader it starts the group timer. -/
  | first
  /-- DONE (R251). A DONE is forwarded upward once all children are done, and at the leader it may commit the collective. -/
  | done
  /-- REPORT (R251). A REPORT of a mismatch, loss or fault is forwarded to the leader, which aborts. -/
  | report
  /-- DECISION (R254). A DECISION is forwarded down the control tree and completes the member's job with commit or abort. -/
  | decision
  /-- FREE (R233). A FREE record returns landing-slot credits. -/
  | free
  /-- FORMED (R237). A FORMED record from each control child lets a member report FORMED upward. -/
  | formed
  /-- READY (R237). A READY record is forwarded down the control tree and completes CREATE_GROUP with OK. -/
  | ready
  /-- ALL_ENTERED (R257). In laggard mode, ALL_ENTERED is forwarded down the tree and the member writes its wait counter. -/
  | allEntered
  /-- ENTERED (R257). In laggard mode, ENTERED records rise to the leader and trigger ALL_ENTERED and the laggard report. -/
  | entered
  /-- GROUP_TIMEOUT (R253). In abort mode, the leader's group timer reaching the timeout aborts the collective with COLL_ABORT_TIMEOUT. -/
  | groupTimeout (group : Nat)
  /-- DECISION_WAIT_TIMEOUT (R255). A member with no DECISION 2 × the group timeout after dispatch completes with COLL_MEMBER_LOST, and its group fails. -/
  | decisionWaitTimeout (group : Nat)
  /-- FU_SCRUB_PASS (R262). A fold unit's accumulator-file scrub pass falls due every 10 minutes of powered time. -/
  | fuScrubPass (cluster unit : Nat) (corrected : List Nat) (uncorrectable : Bool)
  /-- PLAN_START (R292). When every cluster of its gang is free, a plan reads its arguments, takes references, loads bundles and arms channels. -/
  | planStart (run : Nat)
  /-- BUNDLE_ISSUE (R298). A TVE issues the next bundle whose tiles are free, and its slots run concurrently. -/
  | bundleIssue (run : Nat) (member : Issue)
  /-- STAGE_COMPLETE (R300). A STAGE or GATHER ends and signals, or marks, its counter slot. -/
  | stageComplete (run member stage : Nat)
  /-- WAIT_RELEASE (R306). The counter a WAIT holds on reaches its mark, or takes the error mark, and the gang passes or the plan fails. -/
  | waitRelease (run : Nat)
  /-- PLAN_END (R310). When every member has ended and every STAGE and channel run has completed, the plan releases its references and completes. -/
  | planEnd (run : Nat)
  /-- PLAN_RESUME (R258). A plan paused for collective service resumes in the cycle after the cluster leaves service. -/
  | planResume (run : Nat)
  /-- SCRUB (R334). In a SCRUB slot, patrol scrub reads the next line, writes back corrections and poisons uncorrectable lines. -/
  | scrub (unit : MemUnit) (find : LineFind)
  /-- REFRESH (R334). DRAM refresh of an HBM4 stack or DDR5 DIMM runs in a SCRUB slot. -/
  | refresh (unit : Refreshed)
  /-- ROW_REPAIR_COMPLETE (R338). The copy of a row to its spare ends and the row's address switches to the spare. -/
  | rowRepairComplete (unit : MemUnit) (row : Repaired)
  /-- PC_SPARE_COMPLETE (R339). The line-by-line copy of a pseudo-channel ends, and the pseudo-channel switches to the spare. -/
  | pcSpareComplete (h pc : Nat)
  /-- FW_COPY_REBUILD (R322). A firmware image copy lost with a retired cluster is rebuilt and verified, and the manager is told. -/
  | fwCopyRebuild (g : Nat)
  /-- LANE_FAIL (R344). A lane losing lock or exceeding ser_limit fails, and is replaced, or the port retrains or goes down. -/
  | laneFail (p lane : Nat)
  /-- LANE_SWAP (R345). A LANE_SWAP message makes the partner copy the named lane onto L8 and switch to it. -/
  | laneSwap (p : Nat)
  /-- LANE_SWAP_DONE (R345). A DONE from the partner ends the driving of the replaced lane. -/
  | laneSwapDone (p : Nat)
  /-- RETRAIN_COMPLETE (R346). A retrain onto four lanes ends and the port comes up as HALF. -/
  | retrainComplete (p : Nat)
  /-- FRAME_START (R358). At a frame start the sub-port chooses the next frame by gates, shapers, priority and deficit round robin. -/
  | frameStart (p sub : Nat)
  /-- PAUSE_FRAME (R360). A received 802.3x pause or PFC frame pauses the classes it names on the sub-port. -/
  | pauseFrame (p sub : Nat)
  /-- PAUSE_EXPIRE (R360). A pause time runs out and the paused class becomes eligible again. -/
  | pauseExpire (p sub cls : Nat)
  /-- GATE_INTERVAL_END (R359). A gate list entry's interval ends and the next entry's gate states apply. -/
  | gateIntervalEnd (p sub : Nat)
  /-- GATE_BANK_SWITCH (R359). At the first cycle start after a commit, the committed bank comes into operation and pending clears. -/
  | gateBankSwitch (p sub : Nat)
  /-- GATE_COMMIT (R359). A write of commit latches base_time and cycle_time and makes the other bank pending. -/
  | gateCommit (p sub : Nat) (word : W64)
  /-- GATE_ENABLE (R359). A write setting the gate enable latches the timing values for the operating bank. -/
  | gateEnable (p sub : Nat) (word : W64)
  /-- STAT_HALF_CLEAR (R362). Writing 1 to a PORT_STAT_HALF bit clears the flag and bit 39 of its counter. -/
  | statHalfClear (p sub word : Nat) (value : W64)
  /-- HP_MODE_WRITE (R364). The first write of HUB_HP_MODE sets the modes of HP1–HP3 and locks them. -/
  | hpModeWrite (value : W32)
  /-- HOST_LINK_UP (R369). A host port link coming up in root-port mode starts enumeration of the accelerator, and on HP0 a retrain reprobes peers. -/
  | hostLinkUp (hp : Nat) (bars : List Nat)
  /-- PERST_ASSERT (R367). Assertion of PERSTn_N on an endpoint port force-resets every function of that port. -/
  | perstAssert (hp : Nat)
  /-- HOT_RESET (R367). A PCIe hot reset force-resets every function of the port. -/
  | hotReset (hp : Nat)
  /-- HOST_LINK_DOWN (R367). A PCIe link-down force-resets every function of the port, or re-enumerates in root-port mode. -/
  | hostLinkDown (hp : Nat)
  /-- PCIE_FLR (R386). A PCIe function-level reset force-resets the function without the 10 ms wait. -/
  | pcieFlr (f : Nat)
  /-- LTR_MESSAGE (R368). An LTR message from the accelerator sets AFn's latency tolerance. -/
  | ltrMessage (hp : Nat) (snoop noSnoop : Option Nat)
  /-- VF_ENABLE_SET (R386). Setting SR-IOV VF Enable enables the VFs with zero grants. -/
  | vfEnableSet (count : Nat)
  /-- VF_ENABLE_CLEAR (R386). Clearing SR-IOV VF Enable force-resets and disables every VF. -/
  | vfEnableClear
  /-- MBOX_SEND_TO_MGR (R381). The tenant's send hands its message to the manager, sets the pending bit and raises PF0 vector 1. -/
  | mboxSendToMgr (f : Nat)
  /-- TEN_ACK (R381). The tenant releases the manager's message and the manager's vector is raised. -/
  | tenAck (f : Nat)
  /-- MBOX_SEND_TO_TEN (R381). The manager's send hands its message to the tenant and raises the tenant's vector 1. -/
  | mboxSendToTen (f : Nat)
  /-- MGR_ACK (R381). The manager releases the tenant's message and the tenant's vector is raised. -/
  | mgrAck (f : Nat)
  /-- FUNCTION_ENABLE (R386). HUB_FN_CTRL ENABLE moves a disabled function to ACTIVE with a zero grant. -/
  | functionEnable
  /-- FUNCTION_DISABLE (R386). HUB_FN_CTRL DISABLE resets a quiesced function, zeroes its grant and ends logging. -/
  | functionDisable
  /-- QUIESCE (R385). HUB_FN_CTRL QUIESCE stops fetching and firing for the function and lets its work drain. -/
  | quiesce
  /-- QUIESCED (R385). When in_flight reaches 0 the function becomes QUIESCED and a record is written. -/
  | quiesced (f : Nat)
  /-- FUNCTION_RESUME (R385). HUB_FN_CTRL RESUME rereads the doorbells, dispatches held jobs and fires held triggers. -/
  | functionResume
  /-- FUNCTION_RESET (R385). HUB_FN_CTRL RESET, with or without force, starts the function-level reset. -/
  | functionReset (force : Bool)
  /-- FENCE_DRAIN_END (R445). At the end of a fence's 1 ms drain, work still outstanding completes with DEV_FENCED. -/
  | fenceDrainEnd (domain : Domain)
  /-- FUNCTION_RESET_COMPLETE (R445). A function-level reset destroys the function's objects, clears any halt and returns it to ACTIVE. -/
  | functionResetComplete (f : Nat)
  /-- DIRTY_ENABLE (R389). Setting HUB_DIRTY_CFG.enable starts dirty logging into set 0. -/
  | dirtyEnable
  /-- DIRTY_DISABLE (R391). Clearing HUB_DIRTY_CFG.enable ends dirty logging. -/
  | dirtyDisable
  /-- SWAP (R391). A swap switches dirty logging to the other bitmap set on one edge. -/
  | swap
  /-- SWAP_COMPLETE (R391). Once every bit of the old set is visible in memory, swap_busy clears. -/
  | swapComplete (f : Nat)
  /-- GET_VERSION (R399). The SPDM request is answered by SEC over DOE. -/
  | getVersion (request : List Byte)
  /-- GET_CAPABILITIES (R399). The SPDM request is answered by SEC over DOE. -/
  | getCapabilities (request : List Byte)
  /-- NEGOTIATE_ALGORITHMS (R399). The SPDM request is answered by SEC over DOE. -/
  | negotiateAlgorithms (request : List Byte)
  /-- GET_DIGESTS (R399). The SPDM request returns the certificate-chain digests. -/
  | getDigests (request : List Byte)
  /-- GET_CERTIFICATE (R398). The SPDM request returns the certificate chain of slot 0. -/
  | getCertificate (request : List Byte)
  /-- CHALLENGE (R399). The SPDM request is answered with an identity-key signature. -/
  | challenge (request : List Byte)
  /-- GET_MEASUREMENTS (R400). The SPDM request returns the boot measurements. -/
  | getMeasurements (request : List Byte)
  /-- SIGN (R401). SEC_KEX_CTRL sign makes SEC generate an ephemeral key pair and sign it together with the challenge. -/
  | sign
  /-- AGREE (R401). SEC_KEX_CTRL agree computes the ECDH secret and derives the KEK. -/
  | agree
  /-- SLOT_LOAD (R402). SEC_SLOT_CTRL LOAD unwraps a key into the selected slot and makes it LOADED. -/
  | slotLoad (word : W64)
  /-- SLOT_ERASE (R402). SEC_SLOT_CTRL ERASE zeroes the selected slot and makes it EMPTY. -/
  | slotErase (word : W64)
  /-- COMMIT_SVN (R396). Fuses the running bundle's security version as the minimum. -/
  | commitSvn
  /-- REVOKE (R396). Fuses the revocation bit of a signing key index. -/
  | revoke (k : Nat)
  /-- CIPHER_PARITY_FAULT (R413). A parity fault in a cipher engine drops the packet, invalidates the slot and errors its bound QPs. -/
  | cipherParityFault (p slot : Nat)
  /-- LLDP_TRANSMIT (R422). The ROM agent or firmware sends the next LLDP frame on a port that is up. -/
  | lldpTransmit (p sub : Nat)
  /-- LLDP_RECEIVE (R421). A received LLDP frame goes to the fabric processors, and a duplicate node ID takes the port out of service. -/
  | lldpReceive (p : Nat)
  /-- TREE (R423). A received TREE message updates the ROM agent's spanning tree. -/
  | tree
  /-- TREE_TIMER (R423). Every 10 ms the ROM agent sends TREE messages to its neighbours. -/
  | treeTimer
  /-- TREE_STABLE (R423). After 20 ms without tree change, the agent sends its subtree and loads, seals and injects slot 0. -/
  | treeStable
  /-- SUBTREE (R423). A received SUBTREE message adds child-subtree nodes to the agent's routes. -/
  | subtree
  /-- AGENT_ROUTE_RETIRE (R423). After one drain time the ROM agent retires its old route slot. -/
  | agentRouteRetire
  /-- HELLO (R431). A received LINK HELLO is answered by HELLO_ACK and sets the ZFT version in force. -/
  | hello (p : Nat)
  /-- HELLO_ACK (R431). A received HELLO_ACK completes the version exchange of a link or node. -/
  | helloAck (p : Nat)
  /-- HELLO_RETRY (R431). Every 1 ms without HELLO_ACK, HELLO is sent again. -/
  | helloRetry (p : Nat)
  /-- PARK (R472). A LINK PARK message from the partner lets a port that meets the conditions park its lanes. -/
  | park (p : Nat)
  /-- PORT_WAKE (R472). A parked port wakes on a sealed route, an enabled filter, a SEND or the partner's signal. -/
  | portWake (p : Nat)
  /-- BLOCK (R425). HUB_LOAD_CTRL BLOCK copies the load window into staging. -/
  | block (n : Nat)
  /-- START (R427). HUB_LOAD_CTRL START verifies the staged bundle, loads the images and releases the processors. -/
  | start (len : Nat)
  /-- PROCESSOR_READY (R427). A processor reporting ready with the bundle ID; when all have reported, stage 3 is set. -/
  | processorReady (proc : Nat) (bundle : W64)
  /-- START_TIMEOUT (R427). A processor that has not reported ready within 500 ms fails the start. -/
  | startTimeout
  /-- BOOT_REPORT (R437). HUB_LOAD_CTRL REPORT places the boot report in the load window. -/
  | bootReport
  /-- CLEAR_FAILURES (R435). Empties the failed-start log, clears the vestibule flag and resets the package. -/
  | clearFailures
  /-- CLEAR_SERVICE (R436). After a power cycle, empties the package-reset log, clears out-of-service and resets the package. -/
  | clearService
  /-- PACKAGE_RESET (R444). HUB_LOAD_CTRL RESET performs a package reset. -/
  | packageReset
  /-- POWERED_TIME_UPDATE (R432). Every 60 s the ZD24 adds elapsed time to the powered-time count in the NOR. -/
  | poweredTimeUpdate
  /-- WATCHDOG_FIRE (R438). A processor's watchdog fires on missed service, a trap or a memory error, and the processor restarts. -/
  | watchdogFire (proc cause : Nat)
  /-- IPC_MESSAGE (R440). An inter-processor message with a foreign bundle ID is discarded and fires the sender's watchdog. -/
  | ipcMessage (sender : Nat) (bundle : W64)
  /-- PORT_RESET (R446). HUB_RESET_CTRL domain 1 fences and resets a port. -/
  | portReset (p : Nat)
  /-- CLUSTER_RESET (R446). HUB_RESET_CTRL domain 2 fences and resets a cluster, retiring it on its third reset within 10 minutes. -/
  | clusterReset (cluster : Nat)
  /-- GALLERY_RESET (R446). HUB_RESET_CTRL domain 3 fences and resets a gallery. -/
  | galleryReset (g : Nat)
  /-- ENGINE_HANG (R449). An engine without progress for hang_timeout builds a wait-for graph and resets its port or cluster. -/
  | engineHang (engine : Engine)
  /-- LONG_WAIT (R449). A withdrawal, quiesce or laggard collective waiting 10 × hang_timeout produces a wait-for graph. -/
  | longWait (waiter : LongWaiter)
  /-- REPLAY_TIMEOUT (R453). A replayed suspect that makes no progress within replay_timeout is found guilty. -/
  | replayTimeout (cluster : Nat)
  /-- REPLAY_COMPLETE (R453). The end of replay completes guilty work with DEV_GUILTY, reruns other work and writes the graph. -/
  | replayComplete (cluster : Nat)
  /-- FU_RETIRE (R464). Once no chunk holds it, a failing fold unit is switched to the spare, or its cluster is retired. -/
  | fuRetire (cluster unit : Nat)
  /-- CATALOGUE_WRITE (R459). A repair entry is written to the NOR field section, and a record of type 0x78 goes to PF0. -/
  | catalogueWrite
  /-- CONSERVATION_CYCLE (R467). A gallery's daily cycle measures slack, adjusts voltage offset and floor, and retires weak units. -/
  | conservationCycle (g : Nat) (slack : Slack)
  /-- CONSERVATION_RUN (R466). A write of GAL_STATUS.run requests a conservation cycle. -/
  | conservationRun (g : Nat)
  /-- TEMPERATURE_CHECK (R466). Every 1 ms a change of 20 °C in a gallery's hottest sensor triggers a conservation cycle. -/
  | temperatureCheck (g : Nat) (reading : Int)
  /-- VOLTAGE_SETTLED (R467). After 0.5 ms of settling the conservation cycle measures slack again. -/
  | voltageSettled (g : Nat) (slack : Slack)
  /-- POWER_STATE_ENTRY (R469). A gallery idle for a state's idle time enters the deepest state its tolerances allow. -/
  | powerStateEntry (g : Nat)
  /-- GALLERY_WAKE (R469). Work reaching a gallery below U0 wakes it within the state's wake time. -/
  | galleryWake (g : Nat)
  /-- POWER_MEASURE (R473). Every 10 µs the package power is measured. -/
  | powerMeasure (watts : Nat) (galleries : List Nat)
  /-- LADDER_STEP (R473). Every 100 µs the throttle ladder steps down for overpower or heat, or up after 1 ms below the cap. -/
  | ladderStep (hottest : Int)
  /-- SNAPSHOT_TAKE (R484). A write of DBG_SNAP_CTRL.take triggers a snapshot. -/
  | snapshotTake
  /-- SNAPSHOT_RELEASE (R485). A write of release frees a held snapshot shadow. -/
  | snapshotRelease
  /-- SNAPSHOT_TIMER (R484). The snapshot period expires and triggers a snapshot. -/
  | snapshotTimer
  /-- SNAPSHOT_EDGE (R484). Sixteen FCLK edges after a trigger, every counter is copied into the shadow and SNAPSHOT records are written. -/
  | snapshotEdge
  /-- STOP (R491). A write of DBG_STOP_CTRL.stop triggers the inventory stop, or makes it pending. -/
  | stop
  /-- STOP_IN (R491). A rising edge on STOP_IN triggers a snapshot, a stop or both under in_action. -/
  | stopIn
  /-- STOP_HALT (R490). Ten FCLK edges after a stop trigger, all ACLK and FCLK activity halts and the memories enter self-refresh. -/
  | stopHalt
  /-- BOUNDARY_WAIT_EXPIRE (R493). A pending stop whose boundary_wait expires is taken although some TVE is mid-plan. -/
  | boundaryWaitExpire
  /-- SCAN (R495). A write of scan starts writing the stop image to the host buffer. -/
  | scan
  /-- SCAN_COMPLETE (R495). The scan image has been written, and the state becomes SCANNED. -/
  | scanComplete
  /-- STOP_RESUME (R496). A write of resume restarts every clock after a landed stop and writes a STOP record. -/
  | stopResume
  /-- STOP_RELEASE (R496). A write of release after a stop performs a package reset. -/
  | stopRelease
  /-- GAP_CLEAR (R508). A write of GAL_GAP_CLEAR zeroes the selected plan-gap registers. -/
  | gapClear (g : Nat) (mask : BitVec 8)
  /-- EVENT (R213). A received FABRIC EVENT message reporting a port change is answered with a REPLY and passed on to the fabric manager. -/
  | event
  /-- GATE_CYCLE_START (R359). At each cycle start base_time + k × cycle_time, the gate list of the operating bank restarts from its first entry, cutting or extending the previous cycle. -/
  | gateCycleStart (p sub : Nat)
  /-- POWER_REMOVAL (R476). The board removes the rails, VDD_AUX last after its hold time, during which pending catalogue and journal writes complete and the package goes unpowered. -/
  | powerRemoval
  /-- AER_UNCORRECTABLE_ERROR (R365). A PCIe uncorrectable error on a function is reported under AER and to the manager in a function-state record with event 4. -/
  | aerUncorrectableError (f : Nat)
  /-- MEMORY_PORT_FAILURE (R444). A memory-port or HBM4 PHY failure triggers a reset of its gallery. -/
  | memoryPortFailure (g : Nat)
  /-- DOMAIN_RESET_COMPLETE (R446). A port, cluster or gallery reset completes, busy clears and PF0 vector 3 is raised. -/
  | domainResetComplete (domain : Domain)
  /-- SUSPECT_REPLAY_COMPLETE (R453). A suspect's replay finishes with progress, and replay moves on to the next suspect. -/
  | suspectReplayComplete (cluster : Nat)
  deriving DecidableEq, Repr

end Sys2Proof
end

