-- ==== Sys2Proof/Machine/Bits.lean ====
section
/-! DEFINITION. Bit fields, little-endian and network-order fields of byte lists, rounding, CRC-32C, and the operations on
sparse tables. -/

namespace Sys2Proof.Machine

/-- The n lowest bytes of v, least significant first (R4). -/
def leBytes : Nat → Nat → List Byte
  | 0, _ => []
  | n + 1, v => BitVec.ofNat 8 v :: leBytes n (v / 256)

/-- The number a little-endian run of bytes holds (R4). -/
def leNat : List Byte → Nat
  | [] => 0
  | b :: r => b.toNat + 256 * leNat r

/-- Network order: the exception R4 makes for Ethernet, IPv6 and UDP fields. -/
def beBytes (n v : Nat) : List Byte := (leBytes n v).reverse

def beNat (l : List Byte) : Nat := leNat l.reverse

/-- Bytes off to off + n − 1 of a structure; zero beyond its end. -/
def slice (l : List Byte) (off n : Nat) : List Byte :=
  let p := (l.drop off).take n
  p ++ List.replicate (n - p.length) 0

/-- The little-endian field of n bytes at byte off. -/
def fld (l : List Byte) (off n : Nat) : Nat := leNat (slice l off n)

/-- Bits [hi:lo] of a number. -/
def bits (v hi lo : Nat) : Nat := (v / 2 ^ lo) % 2 ^ (hi + 1 - lo)

/-- Bit n of a number. -/
def bit (v n : Nat) : Bool := (v / 2 ^ n) % 2 == 1

def ofBool (b : Bool) : Nat := if b then 1 else 0

/-- The bytes of l with d put in at byte off. -/
def splice (l : List Byte) (off : Nat) (d : List Byte) : List Byte :=
  slice l 0 off ++ d ++ l.drop (off + d.length)

/-- Every byte of a run is zero: how reserved fields are checked (R7). -/
def zeroAt (l : List Byte) (off n : Nat) : Bool := (slice l off n).all (· == 0)

/-- v rounded up to a multiple of k. -/
def roundUp (v k : Nat) : Nat := (v + k - 1) / k * k

def ceilDiv (v k : Nat) : Nat := (v + k - 1) / k

/-- The two's complement reading of a w-bit number. -/
def toSigned (w v : Nat) : Int := if v < 2 ^ (w - 1) then v else (v : Int) - 2 ^ w

/-- The w-bit two's complement of a number. -/
def ofSigned (w : Nat) (v : Int) : Nat := (v % 2 ^ w).toNat

/-- How many bits of the numbers below n are set. -/
def popCount (n v : Nat) : Nat := ((List.range n).filter (bit v)).length

/-- The positions below n of the bits set. -/
def bitsSet (n v : Nat) : List Nat := (List.range n).filter (bit v)

/-- The distance from b to a modulo 2^32, as R87 and R178 order sequence numbers. -/
def gap32 (a b : W32) : Nat := (a - b).toNat

/-- One byte of CRC-32C (reflected polynomial 0x82F63B78). -/
def crcBits : Nat → Nat → Nat
  | 0, c => c
  | n + 1, c => crcBits n (if c % 2 = 1 then Nat.xor (c / 2) 0x82F63B78 else c / 2)

def crcByte (c : Nat) (b : Byte) : Nat := crcBits 8 (Nat.xor c b.toNat)

/-- A linear map on 32 bits, as the images of the single bits. -/
def crcApply (cols : List Nat) (v : Nat) : Nat :=
  (cols.zip (List.range cols.length)).foldl (fun acc p => if bit v p.2 then Nat.xor acc p.1 else acc) 0

/-- The effect on the CRC register of n zero bytes, by repeated squaring; fuel is the number of bits of n. -/
def crcZerosGo : Nat → Nat → List Nat → Nat → Nat
  | 0, _, _, c => c
  | fuel + 1, n, m, c =>
    if n = 0 then c
    else crcZerosGo fuel (n / 2) (m.map (crcApply m)) (if n % 2 = 1 then crcApply m c else c)

def crcZeros (n c : Nat) : Nat :=
  crcZerosGo 64 n ((List.range 32).map fun i => crcBits 8 (2 ^ i)) c

def crcStart : Nat := 0xFFFFFFFF

def crcRun (c : Nat) (l : List Byte) : Nat := l.foldl crcByte c

def crcEnd (c : Nat) : Nat := Nat.xor c 0xFFFFFFFF

/-- CRC-32C of a run of bytes. -/
def crc32c (l : List Byte) : Nat := crcEnd (crcRun crcStart l)

/-- The entry of a sparse table under a key. -/
def tget {α : Type} : Tab α → Nat → Option α
  | [], _ => none
  | (k, v) :: r, i => if i = k then some v else if i < k then none else tget r i

/-- The table with an entry put in. -/
def tset {α : Type} : Tab α → Nat → α → Tab α
  | [], i, x => [(i, x)]
  | (k, v) :: r, i, x =>
    if i = k then (k, x) :: r else if i < k then (i, x) :: (k, v) :: r else (k, v) :: tset r i x

/-- The table without the entry of a key. -/
def tdel {α : Type} : Tab α → Nat → Tab α
  | [], _ => []
  | (k, v) :: r, i => if i = k then r else (k, v) :: tdel r i

def tgetD {α : Type} (t : Tab α) (i : Nat) (d : α) : α := (tget t i).getD d

/-- An entry changed, if it is listed. -/
def tmod {α : Type} (t : Tab α) (i : Nat) (f : α → α) : Tab α :=
  match tget t i with
  | some v => tset t i (f v)
  | none => t

/-- An entry changed, an unlisted one being taken as d. -/
def tmodD {α : Type} (t : Tab α) (i : Nat) (d : α) (f : α → α) : Tab α := tset t i (f (tgetD t i d))

/-- The lowest key from a bound on that is not listed: how the ZD24 numbers what it creates. -/
def tfree {α : Type} : Tab α → Nat → Nat
  | [], i => i
  | (k, _) :: r, i => if k < i then tfree r i else if k = i then tfree r (i + 1) else i

/-- The first member for which p holds, and the list without it. -/
def takeFirst {α : Type} (p : α → Bool) : List α → Option (α × List α)
  | [] => none
  | x :: r => if p x then some (x, r) else (takeFirst p r).map fun q => (q.1, x :: q.2)

/-- The list with f applied to each member for which p holds. -/
def updAll {α : Type} (p : α → Bool) (f : α → α) (l : List α) : List α := l.map fun x => if p x then f x else x

def addNew (x : Nat) (l : List Nat) : List Nat := if l.contains x then l else l ++ [x]

/-- A list of numbers, rising. -/
def insertNat (x : Nat) : List Nat → List Nat
  | [] => [x]
  | y :: r => if x ≤ y then x :: y :: r else y :: insertNat x r

def sortNat (l : List Nat) : List Nat := l.foldr insertNat []

def maxOf (l : List Nat) : Nat := l.foldl Nat.max 0

def sum (l : List Nat) : Nat := l.foldl (· + ·) 0

end Sys2Proof.Machine
end

