-- ==== Sys2Proof/Config.lean ====
section
/-! DEFINITION. What a part is fused with or made of and the manual gives no value for, and the free values: constants
with no body, so that nothing can be proved of a value that the manual leaves open (notes/assumptions/3.md, 4.md). -/

namespace Sys2Proof

/-- FN_IDENTITY.stepping (Table 12.8): fused, 0 A0, 1 B0 (R1, R2). -/
opaque Config.stepping : BitVec 4

/-- The MAC address base of the identity fuses (R348). -/
opaque Config.macBase : BitVec 48

/-- The SHA-384 digests of the ECDSA and of the LMS public key of Fjardanik's signing key with an index from 0 to 3, as fused (R392). -/
opaque Config.keyDigest : Nat → List Byte × List Byte

/-- The identity key, which only the engine of SEC reads (R397). -/
opaque Config.identityKey : Nat

/-- The secrets of identity-key signatures that no request draws: in the factory (0, 1, for the field section; 2, 3, for the state journal), and from 4 on
for each writing of the state journal (R395, R456). -/
opaque Config.journalEntropy : Nat → Nat

/-- The signature block that ends the factory section (R393). -/
opaque Config.factoryBlock : List Byte

/-- The device certificate, DER, followed by its signature block, byte by byte as SEC_CERT reads (R398). -/
opaque Config.certificate : Nat → Byte

/-- The draws of SEC's entropy source (R415). -/
opaque Config.entropy : Nat → Nat

/-- The chain from the Fjardanik root to the device certificate, which SPDM certificate slot 0 carries (R398). -/
opaque Config.certChain : List Byte

/-- The body of an SPDM response that SEC gives over DOE (R399): request code, request, the response's fresh value. The
SPDM formats lie outside the manual. -/
opaque Config.spdmBody : Nat → List Byte → Nat → List Byte

/-- The draw of R201 by the hardware generator: the n-th draw over a set of the given size. -/
opaque Config.draw : Nat → Nat → Nat

/-- A byte whose contents the manual calls undefined (R254, R300): the n-th undefining event, and the address. -/
opaque Config.freeByte : Nat → Nat → Byte

/-- The number of the free contents that the manual leaves open but promises to be the same on every run of a plan (R313): a function of the
operands and of the memory that the plan reaches. -/
opaque Config.sameEachRun : List Nat → (Nat → Byte) → Nat

/-- How many bytes of the identity page come before its k-th reported part, after the part before it; the manual does not lay the page out. -/
opaque Config.pageGap : Nat → Nat

/-- An arithmetic or measured value the manual does not fix: the n-th such value. -/
opaque Config.freeNat : Nat → Nat

/-- The digests of the boot ROM (measurement 1 of Table 13.3). -/
opaque Config.romDigest : List Byte

/-- The catalogue entries, as numbers, that a verified update object makes of those of the factory section (0) or the field section (1);
the layout of the object lies outside the manual (R461). -/
opaque Config.catalogueUpdate : List Byte → Nat → List (List Nat) → List (List Nat)

/-- Whether a verified update object replaces the factory section, rather than changing entries of the field section (R461). -/
opaque Config.replacesFactory : List Byte → Bool

/-- The code of the boot event that reports a DIMM left out (R326); Table 14.9 lists none. -/
opaque Config.dimmLeftOut : Nat

/-- The greatest hop_residence in ns, the greatest one-way link delay in ns, and the greatest packet lifetime of a switched segment in ns
on the other nodes of the fabric (R210); one node of the fabric has no way to find them that the manual gives. -/
opaque Config.farResidence : Nat
opaque Config.farDelay : Nat
opaque Config.segmentLife : Nat

/-- An entry of the route table that the root node works out for another node: from a free value, the node and the destination (R207, R210, R424).
What the root node knows of the links between other nodes, the manual does not say. -/
opaque Config.rootRoute : Nat → Nat → Nat → Nat

/-- The factory value of a fold unit's ring oscillator, by gallery, physical cluster and unit (R464); the manual does not say where it is kept. -/
opaque Config.factoryOsc : Nat → Nat → Nat → Nat

/-- A byte of the device event on a firmware copy (R322): the draw, the new fabric address of the copy or none, and the byte's place. The manual
says what the event tells, and lays out no record for it. -/
opaque Config.fwCopyByte : Nat → Option Nat → Nat → Byte

/-- Whether the queue of the fabric processors is full with a number of M packets in it (R220); the manual gives no size. -/
opaque Config.mQueueFull : Nat → Bool

/-- The DRAM row that a memory controller reports for a line (R333, R337): the local address of the line. -/
opaque Config.rowOf : Nat → Nat

/-- Fjardanik's OUI, which the manual gives no value of (R422). -/
opaque Config.oui : BitVec 24

end Sys2Proof
end

