-- ==== Sys2Proof/Machine/Hash.lean ====
section
/-! DEFINITION. SHA-384 and SHA-256 (FIPS 180-4), HMAC and HKDF over SHA-384 (RFC 5869), and LMS verification (RFC 8554), the
algorithms that R393 and R401 name (notes/assumptions/85.md). -/

namespace Sys2Proof.Machine

/-! ### SHA-2 -/

/-- The greatest x below 2^n added to what is given whose k-th power does not exceed v, bit by bit from the top. -/
def rootGo (k v : Nat) : Nat → Nat → Nat
  | 0, x => x
  | n + 1, x => rootGo k v n (if (x + 2 ^ n) ^ k ≤ v then x + 2 ^ n else x)

/-- The first w bits of the fraction of the k-th root of p: where SHA-2 takes its constants from. -/
def fracRoot (k w p : Nat) : Nat := rootGo k (p * 2 ^ (k * w)) (w + 5) 0 % 2 ^ w

def primesBelow (n : Nat) : List Nat :=
  (List.range n).filter fun p => decide (2 ≤ p) && (List.range p).all fun d => decide (d < 2) || p % d != 0

/-- One member of SHA-2: the word width, the rotations of its four functions (the third of the small ones is a shift), the first hash
value, the round constants, and how many bytes the digest has. -/
structure HashAlg where
  width  : Nat
  big0   : Nat × Nat × Nat
  big1   : Nat × Nat × Nat
  small0 : Nat × Nat × Nat
  small1 : Nat × Nat × Nat
  first  : List Nat
  consts : List Nat
  out    : Nat
  deriving DecidableEq, Repr

def algSha384 : HashAlg :=
  { width := 64, big0 := (28, 34, 39), big1 := (14, 18, 41), small0 := (1, 8, 7), small1 := (19, 61, 6),
    first := ((primesBelow 54).drop 8).map (fracRoot 2 64), consts := (primesBelow 410).map (fracRoot 3 64), out := 48 }

def algSha256 : HashAlg :=
  { width := 32, big0 := (2, 13, 22), big1 := (6, 11, 25), small0 := (7, 18, 3), small1 := (17, 19, 10),
    first := (primesBelow 20).map (fracRoot 2 32), consts := (primesBelow 312).map (fracRoot 3 32), out := 32 }

def rotRight (w n x : Nat) : Nat := Nat.lor (x / 2 ^ n) (x * 2 ^ (w - n) % 2 ^ w)

def HashAlg.big (a : HashAlg) (r : Nat × Nat × Nat) (x : Nat) : Nat :=
  Nat.xor (Nat.xor (rotRight a.width r.1 x) (rotRight a.width r.2.1 x)) (rotRight a.width r.2.2 x)

def HashAlg.small (a : HashAlg) (r : Nat × Nat × Nat) (x : Nat) : Nat :=
  Nat.xor (Nat.xor (rotRight a.width r.1 x) (rotRight a.width r.2.1 x)) (x / 2 ^ r.2.2)

/-- The rounds over the sixteen schedule words that come next. -/
def HashAlg.rounds (a : HashAlg) : List Nat → List Nat → List Nat → List Nat
  | k :: ks, w, [ra, rb, rc, rd, re, rf, rg, rh] =>
    let m := 2 ^ a.width
    let w0 := w.headD 0
    let next := (a.small a.small1 (w.getD 14 0) + w.getD 9 0 + a.small a.small0 (w.getD 1 0) + w0) % m
    let ch := Nat.xor (Nat.land re rf) (Nat.land (Nat.xor re (m - 1)) rg)
    let maj := Nat.xor (Nat.xor (Nat.land ra rb) (Nat.land ra rc)) (Nat.land rb rc)
    let t1 := (rh + a.big a.big1 re + ch + k + w0) % m
    let t2 := (a.big a.big0 ra + maj) % m
    HashAlg.rounds a ks (w.tail ++ [next]) [(t1 + t2) % m, ra, rb, rc, (rd + t1) % m, re, rf, rg]
  | _, _, r => r

/-- The big-endian words of a run of bytes. -/
def beWords (n : Nat) : Nat → List Byte → List Nat
  | 0, _ => []
  | k + 1, l => beNat (l.take n) :: beWords n k (l.drop n)

def HashAlg.block (a : HashAlg) (h : List Nat) (l : List Byte) : List Nat :=
  (h.zip (a.rounds a.consts (beWords (a.width / 8) 16 l) h)).map fun x => (x.1 + x.2) % 2 ^ a.width

def HashAlg.blocks (a : HashAlg) : Nat → List Byte → List Nat → List Nat
  | 0, _, h => h
  | n + 1, l, h => HashAlg.blocks a n (l.drop (2 * a.width)) (a.block h (l.take (2 * a.width)))

/-- The message with its padding. -/
def HashAlg.padded (a : HashAlg) (l : List Byte) : List Byte :=
  let b := 2 * a.width
  l ++ 0x80 :: List.replicate ((b - (l.length + 1 + a.width / 4) % b) % b) 0 ++ beBytes (a.width / 4) (8 * l.length)

def HashAlg.digest (a : HashAlg) (l : List Byte) : List Byte :=
  let m := a.padded l
  ((a.blocks (m.length / (2 * a.width)) m a.first).flatMap (beBytes (a.width / 8))).take a.out

/-- SHA-384, 48 bytes. -/
def sha384 (l : List Byte) : List Byte := algSha384.digest l

/-- SHA-256, 32 bytes. -/
def sha256 (l : List Byte) : List Byte := algSha256.digest l

/-! ### HKDF over SHA-384 -/

def xorByte (x : Byte) (l : List Byte) : List Byte := l.map fun b => b ^^^ x

/-- HMAC-SHA-384 under a key of at most 128 bytes. -/
def hmac384 (key m : List Byte) : List Byte :=
  let k := slice key 0 128
  sha384 (xorByte 0x5C k ++ sha384 (xorByte 0x36 k ++ m))

/-- HKDF-SHA-384 with an empty salt, for at most 48 bytes. -/
def hkdf384 (secret info : List Byte) (n : Nat) : List Byte :=
  (hmac384 (hmac384 (List.replicate 48 0) secret) (info ++ [1])).take n

/-! ### LMS: LMS_SHA256_M32_H15 with LMOTS_SHA256_N32_W4 -/

/-- A Winternitz chain from step j on, n steps. -/
def otsChain (key : List Byte) (i : Nat) : Nat → Nat → List Byte → List Byte
  | 0, _, t => t
  | n + 1, j, t => otsChain key i n (j + 1) (sha256 (key ++ beBytes 2 i ++ beBytes 1 j ++ t))

/-- The i-th four bits of a run of bytes. -/
def nibble (l : List Byte) (i : Nat) : Nat :=
  let b := (l.getD (i / 2) 0).toNat
  if i % 2 = 0 then b / 16 else b % 16

/-- The candidate for the one-time public key of leaf q. -/
def otsCandidate (ident : List Byte) (q : Nat) (sig m : List Byte) : List Byte :=
  let key := ident ++ beBytes 4 q
  let h := sha256 (key ++ [0x81, 0x81] ++ slice sig 4 32 ++ m)
  let h := h ++ beBytes 2 (sum ((List.range 64).map fun i => 15 - nibble h i) * 16)
  sha256 (key ++ [0x80, 0x80] ++
    (List.range 67).flatMap fun i => otsChain key i (15 - nibble h i) (nibble h i) (slice sig (36 + 32 * i) 32))

/-- The root that a leaf's path leads to. -/
def lmsClimb (ident : List Byte) : List (List Byte) → Nat → List Byte → List Byte
  | [], _, t => t
  | p :: r, node, t =>
    lmsClimb ident r (node / 2) (sha256 (ident ++ beBytes 4 (node / 2) ++ [0x83, 0x83] ++ if node % 2 = 1 then p ++ t else t ++ p))

/-- Verification of an LMS signature of 2,668 bytes under a public key of 56 bytes. -/
def lmsVerify (m pub sig : List Byte) : Bool :=
  let q := beNat (slice sig 0 4)
  let ident := slice pub 8 16
  beNat (slice pub 0 4) == 7 && beNat (slice pub 4 4) == 3 && beNat (slice sig 4 4) == 3 && beNat (slice sig 2184 4) == 7 &&
  decide (q < 2 ^ 15) &&
  lmsClimb ident ((List.range 15).map fun i => slice sig (2188 + 32 * i) 32) (2 ^ 15 + q)
    (sha256 (ident ++ beBytes 4 (2 ^ 15 + q) ++ [0x82, 0x82] ++ otsCandidate ident q (slice sig 4 2180) m)) == slice pub 24 32

end Sys2Proof.Machine
end

