-- ==== Sys2Proof/Machine/Curve.lean ====
section
/-! DEFINITION. The curve P-384 (FIPS 186-5, SP 800-186): ECDSA with SHA-384 and ECDH, which R393, R397 and R401 name
(notes/assumptions/85.md). -/

namespace Sys2Proof.Machine

def fieldP : Nat := 2 ^ 384 - 2 ^ 128 - 2 ^ 96 + 2 ^ 32 - 1
def orderP : Nat :=
  0xFFFFFFFFFFFFFFFFFFFFFFFFFFFFFFFFFFFFFFFFFFFFFFFFC7634D81F4372DDF581A0DB248B0A77AECEC196ACCC52973
def coeffB : Nat :=
  0xB3312FA7E23EE7E4988E056BE3F82D19181D9C6EFE8141120314088F5013875AC656398D8A2ED19D2A85C8EDD3EC2AEF

/-- A point of the curve: none is the point at infinity. -/
abbrev Point := Option (Nat × Nat)

def basePoint : Point :=
  some (0xAA87CA22BE8B05378EB1C71EF320AD746E1D3B628BA79B9859F741E082542A385502F25DBF55296C3A545E3872760AB7,
    0x3617DE4A96262C6F5D9E98BF9292DC29F8F41DBD289A147CE9DA3113B5F0B8C00A60B1CE1D7E819D7A431D7C90EA0E5F)

/-- x^e modulo m; fuel is the number of bits of e. -/
def powMod (m : Nat) : Nat → Nat → Nat → Nat → Nat
  | 0, _, _, acc => acc
  | n + 1, x, e, acc => powMod m n (x * x % m) (e / 2) (if e % 2 = 1 then acc * x % m else acc)

/-- The inverse modulo a prime of 384 bits. -/
def invMod (m x : Nat) : Nat := powMod m 384 (x % m) (m - 2) 1

def subMod (m x y : Nat) : Nat := (x + (m - y % m)) % m

/-- The point with a given slope through (x, y) and x'. -/
def chord (l x y x' : Nat) : Point :=
  let xr := subMod fieldP (subMod fieldP (l * l) x) x'
  some (xr, subMod fieldP (l * subMod fieldP x xr) y)

/-- The sum of two points. -/
def addPoint : Point → Point → Point
  | none, q => q
  | p, none => p
  | some (x, y), some (x', y') =>
    if x = x' then
      if (y + y') % fieldP = 0 then none else chord ((3 * x * x + (fieldP - 3)) * invMod fieldP (2 * y) % fieldP) x y x'
    else chord (subMod fieldP y' y * invMod fieldP (subMod fieldP x' x) % fieldP) x y x'

/-- k times a point; fuel is the number of bits of k. -/
def timesGo : Nat → Nat → Point → Point → Point
  | 0, _, _, acc => acc
  | n + 1, k, q, acc => timesGo n (k / 2) (addPoint q q) (if k % 2 = 1 then addPoint acc q else acc)

def times (k : Nat) (q : Point) : Point := timesGo 384 k q none

/-- Two 48-byte little-endian integers, as the manual writes points and signatures (R285, R393). -/
def pairOf (l : List Byte) : Nat × Nat := (fld l 0 48, fld l 48 48)
def pairBytes (p : Nat × Nat) : List Byte := leBytes 48 p.1 ++ leBytes 48 p.2

/-- Whether 96 bytes are a point of the curve (SEC_KEX_CTRL.result POINT). -/
def p384Point (l : List Byte) : Bool :=
  let (x, y) := pairOf l
  decide (x < fieldP) && decide (y < fieldP) && decide ((x * x * x + (fieldP - 3) * x + coeffB) % fieldP = y * y % fieldP)

/-- The number that ECDSA takes from a message. -/
def ecdsaHash (m : List Byte) : Nat := beNat (sha384 m)

/-- ECDSA P-384 with SHA-384: message, public key (96 bytes), signature (96 bytes). -/
def ecdsaVerify (m pub sig : List Byte) : Bool :=
  let (r, t) := pairOf sig
  let w := invMod orderP t
  p384Point pub && decide (1 ≤ r) && decide (r < orderP) && decide (1 ≤ t) && decide (t < orderP) &&
  match addPoint (times (ecdsaHash m * w % orderP) basePoint) (times (r * w % orderP) (some (pairOf pub))) with
  | some (x, _) => x % orderP == r
  | none => false

/-- A number from 1 to the order less one, from a draw. -/
def scalarOf (draw : Nat) : Nat := draw % (orderP - 1) + 1

/-- The ECDSA signature of a message under a private key with the per-message secret that a draw gives. -/
def ecdsaSign (key draw : Nat) (m : List Byte) : List Byte :=
  let k := scalarOf draw
  let r := ((times k basePoint).elim 0 (·.1)) % orderP
  pairBytes (r, invMod orderP k * (ecdsaHash m + r * key) % orderP)

/-- The identity key's signature, with the draw it takes from the entropy source (R397, R415). -/
def identitySign (d : Nat) (m : List Byte) : List Byte := ecdsaSign (scalarOf Config.identityKey) (Config.entropy d) m

/-- The public key, X then Y, of the ephemeral pair made from a draw (R401 step 2). -/
def ephemeralKey (d : Nat) : List Byte := pairBytes ((times (scalarOf (Config.entropy d)) basePoint).getD (0, 0))

/-- The KEK of R401 step 4: ECDH, then HKDF-SHA-384 with an empty salt, "ZD24-KEK-1" as info and 32 bytes. -/
def deriveKek (d : Nat) (host : List Byte) : BitVec 256 :=
  let z := (times (scalarOf (Config.entropy d)) (some (pairOf host))).elim 0 (·.1)
  BitVec.ofNat 256 (leNat (hkdf384 (beBytes 48 z) [0x5A, 0x44, 0x32, 0x34, 0x2D, 0x4B, 0x45, 0x4B, 0x2D, 0x31] 32))

end Sys2Proof.Machine
end

