-- ==== Sys2Proof/Machine/TypesCore.lean ====
section
/-! DEFINITION. The state of functions, contexts, segments, queues, jobs and operations in flight
(chapters 2, 3, 4 and 12), as plain data. -/

namespace Sys2Proof.Machine

/-- The status codes of the interface (Table 17.13, R516). -/
inductive Status where
  | ok | locLen | locSeg | locMalformed | locAdmRefused | locAdmNoResource | locPeerUnreachable | locTriggerAborted
  | locDest | locPlanSignature | locPlanArgs | locRawRefused | remAccess | remSegWithdrawn | xportRetryExceeded
  | xportQpError | xportQpIdle | xportNoPeer | collAbortTimeout | collMismatch | collMemberLost | collGroupDown
  | collFormFailed | collMemberFault | secKeyExhausted | secLen | memUncorrectable | devFenced | devFnHalted
  | devDrainTimeout | devGuilty | devNegFailed
  deriving DecidableEq, Repr

/-- Segment states of Table 2.7 (R78). -/
inductive SegState where
  | free | active | withdrawing
  deriving DecidableEq, Repr

/-- A reference that work holds on (context, segment, generation) (R76, R77). -/
structure Ref where
  ctx : Nat
  seg : Nat
  gen : Nat
  deriving DecidableEq, Repr

/-- A job as fetched: the function and SQ, the sequence number of its head, the head entry's 64 bytes, and the 60-byte
bodies of its continuation entries (R95, R97), with the context its SQ is bound to (R84). -/
structure Job where
  f     : Nat
  q     : Nat
  ctx   : Nat := 0
  seq   : W32
  head  : List Byte
  conts : List (List Byte) := []
  orphan : Bool := false          -- the QP that the head names was destroyed after the job was fetched (R189)
  deriving DecidableEq, Repr

/-- A segment entry (Table 2.2, R64), but for its generation, which State.gens keeps (R78). `lost` lists the ranges (local base, length) that the loss of a tier-A slice marked (R321). -/
structure Segment where
  base     : Nat := 0
  limit    : Nat := 0
  state    : SegState := .free
  read     : Bool := false
  write    : Bool := false
  atomic   : Bool := false
  fold     : Bool := false
  planExec : Bool := false
  exported : Bool := false
  rgen     : Nat := 0
  rindex   : Nat := 0
  imported : Bool := false
  key      : W32 := 0
  lost     : List (Nat × Nat) := []
  ticket   : Option Job := none           -- the WITHDRAW_SEGMENT that waits on references …
  askedAt  : Nat := 0                     -- … and since when
  deriving DecidableEq, Repr

/-- A context: its owner, segments 0–15, event counters 0–255 (R136; those not listed are zero), the counters whose mirror
is not up to date (R139), and its plan key (R286). -/
structure Context where
  owner   : Nat
  segs    : Tab Segment := []
  evc     : Tab W64 := []
  dirty   : List Nat := []
  planKey : Option (List Byte) := none
  deriving DecidableEq, Repr

/-- Where an SQ stands (R105). -/
inductive Place where
  | express | regular | parked
  deriving DecidableEq, Repr

/-- What a CQE says of the job it reports: status, result, nonce high part and detail (Table 3.7, R101). -/
structure Report where
  status : Status := .ok
  result : Nat := 0
  nonce  : Nat := 0
  detail : Nat := 0
  deriving DecidableEq, Repr

/-- A fetched job that K has not passed: head, one past its last entry, its batch, whether it has completed, and whether its
own CQE is still held (R99, R104). -/
structure Track where
  head  : W32
  stop  : W32
  batch : Nat
  done  : Bool := false
  owes  : Bool := false
  deriving DecidableEq, Repr

/-- A batch of an SQ (R99): jobs so far, those failed, those not completed, and once closed the job that closes it. A batch is
listed until its CQE has been written. -/
structure Batch where
  no     : Nat
  jobs   : Nat := 0
  failed : Nat := 0
  left   : Nat := 0
  closer : Option Job := none
  report : Report := {}
  issued : Bool := false
  deriving DecidableEq, Repr

/-- What a CQE held by a full CQ stands for (R91): a job's own report, a batch, or neither. -/
inductive HeldFor where
  | job (f q : Nat) (head : W32)
  | batch (f q no : Nat)
  | other
  deriving DecidableEq, Repr

/-- An SQ (R83, R88, R105–R110, R118, R122). Queue 0 is the admin SQ, whose addresses are bus addresses (R85); those of every other
queue are local addresses, translated when it was created (R84). `fetched` is its part of the hardware dispatch buffers, oldest
first; `reread` is the entry whose ownership bit was wrong, how often it has been re-read and when it is next (R93). -/
structure Sq where
  ctx      : Nat := 0
  cq       : Nat := 0
  log2     : Nat
  ring     : Nat
  door     : Nat
  srec     : Nat
  raw      : Bool := false
  flushOff : Bool := false
  home     : Place := .regular
  place    : Place := .regular
  park     : Nat := 0
  idle     : Nat := 0
  p        : W32 := 0
  c        : W32 := 0
  k        : W32 := 0
  reread   : Option (W32 × Nat × Nat) := none
  fetched  : List Job := []
  undone   : List Track := []
  batches  : List Batch := []
  batchNo  : Nat := 0
  recvs    : List Nat := []          -- posted RECV operations of a raw SQ, by operation number, in posting order
  cause    : Nat := 0
  haltSeq  : W32 := 0
  stale    : Bool := false           -- the state record is behind (R104)
  moved    : Nat := 0                -- when a job of it was last dispatched or reported (R450)
  refs     : List Ref := []
  deriving DecidableEq, Repr

/-- A CQ, or the error queue of a function (R83, R91, R111, R517). CQ 0 is the admin CQ. -/
structure Cq where
  ctx    : Nat := 0
  log2   : Nat
  ring   : Nat
  door   : Nat
  srec   : Nat
  vector : Option Nat := none
  w      : W32 := 0
  h      : W32 := 0
  armed  : Bool := false
  held   : List (List Byte × HeldFor) := []
  stale  : Bool := false
  cause   : Nat := 0
  haltSeq : W32 := 0
  refs   : List Ref := []
  deriving DecidableEq, Repr

/-- The states of a function (Table 12.18, R386). -/
inductive FnState where
  | disabled | active | quiescing | quiesced | resetting
  deriving DecidableEq, Repr

/-- Where a function's NEGOTIATE stands (R428, R429). -/
inductive Negotiation where
  | none
  | agreed (major minor : Nat) (features : W128)
  | failed
  deriving DecidableEq, Repr

/-- A grant record (Table 12.11, R377). -/
structure Grant where
  express  : Nat := 0
  regular  : Nat := 0
  ops      : Nat := 0
  triggers : Nat := 0
  contexts : Nat := 0
  sqs      : Nat := 0
  cqs      : Nat := 0
  qpc      : Nat := 0
  pinned   : Nat := 0
  groups   : Nat := 0
  plans    : Nat := 0
  ranges   : List (Nat × Nat) := []
  deriving DecidableEq, Repr

/-- Dirty logging of one VF (Table 12.20, R389–R391). The set being written is `active`. -/
structure Dirty where
  enable   : Bool := false
  busy     : Bool := false
  active   : Bool := false
  overflow : Bool := false
  cfgError : Bool := false
  hostBase : W64 := 0
  hostLen  : W64 := 0
  hostMap0 : W64 := 0
  hostMap1 : W64 := 0
  devMap0  : W64 := 0
  devMap1  : W64 := 0
  deriving DecidableEq, Repr

/-- FN_ADMIN_CFG's own bits (Table 3.2); the pair itself is SQ 0 and CQ 0 of the function. -/
structure Admin where
  enable   : Bool := false
  ready    : Bool := false
  cfgError : Bool := false
  deriving DecidableEq, Repr

/-- A function of Table 12.4. -/
structure Function where
  state     : FnState := .disabled
  halted    : Bool := false
  haltCause : Nat := 0
  haltQueue : Nat := 0
  result    : Nat := 0
  busy      : Bool := false
  quiesceAt : Nat := 0
  grant     : Grant := {}
  admin     : Admin := {}
  neg       : Negotiation := .none
  tolerance : Option (Option Nat) := none   -- SET_LATENCY_TOLERANCE: not stated, no limit (some none), or ns
  ltr       : Option (Option Nat) := none   -- LTR of the accelerator (R368)
  dirty     : Dirty := {}
  fenced    : Nat := 0
  resetFrom : Nat := 0                      -- 0 no reset, 1 manager RESET, 2 forced, 3 DISABLE, 4 VF disabled
  mgrFull   : Bool := false
  tenFull   : Bool := false
  relaxed   : Bool := false                 -- Device Control enable bits (R366)
  idBased   : Bool := false
  wakes     : List W32 := []                -- FN_WAKE values recorded and not yet acted on
  mute      : Bool := false                 -- a reset under R367 is under way: CQEs are not written (R445)
  deriving DecidableEq, Repr

/-- A path by which writes reach memory (Table 4.10, R152). -/
inductive Path where
  | host (hp : Nat)
  | peer (n : Nat)
  | tierA
  | tierB
  | tierC
  deriving DecidableEq, Repr

/-- What an operation in flight is doing. Packets are counted over the whole operation. -/
inductive OpKind where
  /-- PUT, PUT_FINAL and FOLD_PUT: packets in all, those an ACK has covered, and messages still to be reported COMPLETE -/
  | push (total acked awaits : Nat)
  /-- GET: response packets in all, and those placed -/
  | get (total placed : Nat)
  | atomic
  | send
  | recv (addr size : Nat)
  | plan (run : Nat)
  | coll (group : Nat)
  deriving DecidableEq, Repr

/-- An operation in flight (R135): its QP and remote node, its translated local address (with the segment) and remote address, the
handles and the flag address it carries (R72, R148), its first message ID and how many messages carry it (R169), its references (R76),
the paths it has written at this node (R153) and the bytes moved. -/
structure Op where
  id    : Nat
  job   : Job
  kind  : OpKind
  qp    : Nat := 0
  node  : Nat := 0
  near  : Nat := 0
  seg   : Nat := 16
  far   : Nat := 0
  handle : Nat := 0
  flag  : Nat := 0
  flagHandle : Nat := 0
  msg0  : Nat := 0
  msgs  : Nat := 0
  refs  : List Ref := []
  paths : List Path := []
  bytes : Nat := 0
  nonce : Option (W64 × W32) := none
  ended : Bool := false           -- its completion waits for flushing reads (R153)
  deriving DecidableEq, Repr

/-- An armed job (R140): `due` is set once its condition came to hold, in the order in which conditions came to hold, and `marked` where
the comparison saw the error mark (R138, R141). -/
structure Armed where
  job : Job
  due : Option Nat := none
  marked : Bool := false
  deriving DecidableEq, Repr

/-- A flag that waits for flushing reads (R153): the paths still to be flushed and what is written when they return. -/
inductive Flag where
  /-- completion of a job, with its operation if it has one -/
  | job (op : Option Nat) (job : Job) (report : Report)
  /-- a FINAL write at the target: QP, peer node, message, flag address, value, the reference held, layer, operator, timestamp to echo -/
  | final (qp node msg addr : Nat) (value : W64) (ctx seg gen layer oper : Nat) (echo : W32)
  /-- a FOLD_PUT done at the target -/
  | folded (qp node msg : Nat) (echo : W32)
  /-- DONE of a collective at a member -/
  | collDone (group : Nat) (seq : W32)
  /-- SIGNAL of a plan member: run, counter of the context, amount -/
  | signal (run member ctx counter amount : Nat)
  /-- the end of an ME run -/
  | meRun (channel : Nat) (status : Status) (moved : Nat)
  deriving DecidableEq, Repr

structure PendingFlag where
  id    : Nat
  f     : Nat
  paths : List Path
  flag  : Flag
  deriving DecidableEq, Repr

/-- A registered peer (HUB_PEERn, R383, R155, R156); its base and size stand in the register. -/
structure Peer where
  valid   : Bool := false
  state   : Nat := 0
  rtt     : Nat := 0
  probing : Bool := false
  issued  : Nat := 0
  nextAt  : Nat := 0
  deriving DecidableEq, Repr

/-- An ME channel (R142–R146): its descriptor when it is a program channel, or the operations it serves. -/
structure Channel where
  run      : Nat := 0              -- plan run it belongs to
  ctx      : Nat := 0
  desc     : List Byte := []
  armedAt  : Nat := 0
  started  : Nat := 0              -- runs that have become ready so far
  done     : Nat := 0              -- runs completed
  overruns : Nat := 0
  src      : Nat := 0              -- addresses after relocation
  dst      : Nat := 0
  armed    : Bool := false
  deriving DecidableEq, Repr

end Sys2Proof.Machine
end

