-- ==== Sys2Proof/Machine/TypesNet.lean ====
section
/-! DEFINITION. The state of packets, queue pairs, routes and ports (chapters 5, 6, 11 and 13's slots), as plain data. -/

namespace Sys2Proof.Machine

/-- The 48-byte base header (Tables 5.3, 5.4), with the bytes that follow it (extension and payload) and the ICV. `rsvd` holds its
reserved fields: control bits [31:29] in bits [2:0], then bytes 6, 9 and 12. -/
structure Packet where
  version   : Nat := 1
  ty        : Nat := 0
  vc        : Nat := 0
  epoch     : Nat := 0
  encrypted : Bool := false
  hop       : Nat := 0
  phase     : Nat := 0
  first     : Bool := false
  last      : Bool := false
  final     : Bool := false
  ackreq    : Bool := false
  trace     : Bool := false
  dst       : Nat := 0
  src       : Nat := 0
  inter     : Nat := 0
  qp        : Nat := 0
  psn       : W32 := 0
  msg       : Nat := 0
  idx       : Nat := 0
  raddr     : Nat := 0
  handle    : Nat := 0
  plen      : Nat := 0
  layer     : Nat := 0
  oper      : Nat := 0
  ts        : W32 := 0
  rsvd      : Nat := 0
  body      : List Byte := []
  icv       : List Byte := []
  deriving DecidableEq, Repr

/-- A packet addressed to this node that has passed the checks of FRAME_RECEIVE, with the port it arrived on
(16: carried within the node, R128), and when. -/
structure Arrival where
  port : Nat
  pkt  : Packet
  at_  : Nat := 0
  deriving DecidableEq, Repr

/-- A run of an ME that is ready or running: channel (cluster × 32 + ME × 16 + channel), run number, how many consecutive runs
became ready with it (itself included), whether its counter's error mark made it ready (R144), and while it runs its references; of a run
that failed, the device address of the access at fault (R312). A run of a dispatch channel serves an operation of an SQE (R142): it gathers what
the operation sends, or it scatters a response that has been taken, given as the QP, the node of its end, and the packet as decrypted. A run that
another run's completion made ready bears the time of that (R145). -/
structure MeRun where
  chan   : Nat
  k      : Nat
  n      : Nat := 1
  marked : Bool := false
  dev    : Nat := 0
  refs   : List Ref := []
  status : Option Status := none
  moved  : Nat := 0
  paths  : List Path := []
  serves : Option Nat := none
  pkt    : Option (Nat × Nat × Arrival) := none
  chainAt : Option Nat := none
  deriving DecidableEq, Repr

/-- One ME: the runs ready, oldest first, and the one running (R145). -/
structure MeUnit where
  ready   : List MeRun := []
  running : Option MeRun := none
  lastMove : Nat := 0
  deriving DecidableEq, Repr

/-- A message to be sent on an endpoint (R169): what it carries is found from its operation, or is given here for COLL. -/
inductive MsgKind where
  | write
  | readReq
  | atomic
  | fold
  | coll (raddr group level : Nat) (seq sig chunk : W32) (data : List Byte)
  deriving DecidableEq, Repr

/-- A message waiting to be sent: its operation, its ID, the index within the operation of its packet 0, its packets (for a GET, its
response packets), the next to send, whether it is the last of its operation, and the Valiant draw in force (R201). -/
structure Msg where
  op     : Nat
  kind   : MsgKind
  msg    : Nat
  base   : Nat
  count  : Nat
  next   : Nat := 0
  last   : Bool := true
  inter  : Nat := 0
  deriving DecidableEq, Repr

/-- A packet sent and not yet covered (R178), or a request whose responses are outstanding. -/
structure Outstanding where
  psn    : W32
  op     : Nat
  pkt    : Packet              -- as first built, before its route fields and its encryption
  bytes  : Nat := 0            -- as R223 counts it
  first  : Nat := 0            -- READ_REQ: first index and number of response packets asked for
  n      : Nat := 0
  placed : List Nat := []      -- … and those placed
  answer : Bool := false       -- ATOMIC_REQ: its ATOMIC_RESP is still to come
  sampled : Bool := false      -- a READ_RESP has given its sample
  acked  : Bool := false       -- covered by an ACK
  sentAt : Nat := 0
  again  : List (Nat × Nat) := []   -- to be sent again: for a READ_REQ, the runs (first, count)
  deriving DecidableEq, Repr

/-- A response or an acknowledgement that an endpoint owes (R171, R180). For a READ_REQ: the request's timestamp, the local address of the
next packet's data, the initiator's address of packet 0 of the message, the next index, one past the last, the length of the message's part
of the GET, the Valiant draw in force, and the reference held. For an ATOMIC_REQ the reference held until its ATOMIC_RESP is sent (R76). -/
inductive Reply where
  | ack (kind status check msg : Nat) (echo : W32)
  | read (psn echo : W32) (msg layer oper addr init next stop len inter ctx seg gen : Nat)
  | atomic (psn : W32) (msg layer oper init : Nat) (data : List Byte) (ctx seg gen : Nat)
  deriving DecidableEq, Repr

/-- A FINAL held until its message is complete: flag address and value, PSN, the reference it holds, layer and operator IDs. -/
structure HeldFinal where
  addr  : Nat
  value : W64
  psn   : W32
  ctx   : Nat
  seg   : Nat
  gen   : Nat
  layer : Nat
  oper  : Nat
  deriving DecidableEq, Repr

/-- A message being received (R149, R150): its ID and the PSN of its packet 0, which tell it from a message that bears the ID after a wrap (R169);
indices received, the index of LAST once known, a FINAL held, whether it is a FOLD_PUT, the
status and check code with which a packet of it was refused, the paths it wrote. -/
structure RxMsg where
  msg     : Nat
  base    : W32 := 0
  seen    : List Nat := []
  lastIdx : Option Nat := none
  final   : Option HeldFinal := none
  fold    : Bool := false
  refused : Option (Nat × Nat) := none
  paths   : List Path := []
  deriving DecidableEq, Repr

/-- What the response cache keeps of an ATOMIC_REQ (R180, R182): the old value that its ATOMIC_RESP carries, or the status and check code
with which it was refused. -/
inductive AtomicResult where
  | word (data : List Byte)
  | refused (status check : Nat)
  deriving DecidableEq, Repr

inductive EndState where
  | idle | ready | error
  deriving DecidableEq, Repr

/-- One end of an RC QP, or one peer entry of an omnibus QP (R173, R178–R190, R223–R225). Times of the estimator are in
units of 0.125 ns (R181); cwnd is in units of 1/256 byte (R224). -/
structure Endpoint where
  state    : EndState := .idle
  remoteQp : Nat := 0
  psn      : W32 := 0
  msgId    : Nat := 0
  queue    : List Msg := []
  out      : List Outstanding := []
  sinceReq : Nat := 0
  replies  : List Reply := []
  srtt     : Nat := 0
  rttvar   : Nat := 0
  sampled  : Bool := false
  retries  : Nat := 0
  timer    : Option Nat := none
  retx     : Nat := 0
  errStat  : Option Status := none
  peerEpsn : W32 := 0             -- ePSN and SACK bitmap of the latest ACK received
  peerSack : BitVec 512 := 0
  epsn     : W32 := 0
  sack     : BitVec 512 := 0
  wide     : List Path := []      -- paths written since the last FINAL, for QP-wide scope
  rx       : List RxMsg := []
  atoms    : List (W32 × AtomicResult) := []
  turned   : List (W32 × Nat × Nat × Nat) := []   -- READ_REQs refused: PSN, message, status, check code
  unacked  : Nat := 0
  ackDue   : Option Nat := none
  ackEcho  : W32 := 0
  cwnd     : Nat := 0
  rttCur   : Option Nat := none
  rttPrev  : Option Nat := none
  baseAt   : Nat := 0
  tDec     : Nat := 0
  tLast    : Nat := 0
  moved    : Nat := 0              -- when an ACK last covered something of it (R450)
  deriving DecidableEq, Repr

/-- A QP (R173, R175, R185). The endpoint of an RC QP stands under its remote node, as that of an omnibus peer entry does. -/
structure Qp where
  ctx      : Nat
  f        : Nat
  omnibus  : Bool := false
  node     : Nat := 0              -- RC: the remote node, once connected
  ends     : Tab Endpoint := []
  pinned   : Bool := false
  wide     : Bool := false
  encrypted : Bool := false
  slot     : Nat := 0
  payload  : Nat := 4096
  retry    : Nat := 7
  home     : Nat := 0
  tc       : Nat := 0
  rtoMin   : Nat := 4
  rtoMax   : Nat := 4000
  capacity : Nat := 0
  arrival  : Nat := 0
  ackDelay : Nat := 8
  group    : Option Nat := none
  deriving DecidableEq, Repr

/-- A route entry (Table 6.2). -/
structure RouteEntry where
  mask   : BitVec 16 := 0
  escape : Nat := 0
  valid  : Bool := false
  dist   : Nat := 0
  minVia : Nat := 0
  escVia : Nat := 0
  deriving DecidableEq, Repr

/-- A switched-address entry (Table 6.3); addresses as their bytes in network order. -/
structure AddrEntry where
  ip     : List Byte := []
  mac    : List Byte := []
  vlan   : Nat := 0
  valid  : Bool := false
  tagged : Bool := false
  deriving DecidableEq, Repr

inductive SlotState where
  | invalid | loading | sealed_
  deriving DecidableEq, Repr

/-- A route slot (R196): addresses not listed are not valid. -/
structure RouteSlot where
  state : SlotState := .invalid
  table : Tab RouteEntry := []
  rest  : RouteEntry := {}          -- what every entry not listed holds: the ROM agent's escape towards its parent (R423)
  inter : List Nat := []
  addrs : Tab AddrEntry := []
  deriving DecidableEq, Repr

/-- A packet in an input buffer (R193, R194, R203, R211): the traffic class of the QP end that sends it, where this node is its source,
when its first byte entered, when it reached the head, whether it is escape-eligible. -/
structure Waiting where
  pkt     : Packet
  tc      : Nat := 0
  entered : Nat := 0
  headAt  : Option Nat := none
  escape  : Bool := false
  deriving DecidableEq, Repr

/-- What a class queue of a sub-port holds (R355). -/
inductive TxKind where
  | zft (pkt : Packet) (via : Nat)
  | raw (op : Nat)
  | lldp
  deriving DecidableEq, Repr

structure TxFrame where
  cls   : Nat
  vc    : Nat := 0
  kind  : TxKind
  bytes : List Byte
  at_   : Nat := 0               -- when it was queued
  deriving DecidableEq, Repr

/-- The egress scheduler, gate schedule, pause and statistics of a sub-port (R358–R362). -/
structure SubPort where
  up       : Bool := false
  queue    : List TxFrame := []
  deficit  : Tab Nat := []
  visited  : Nat := 5
  tokens   : Tab Int := []
  tokensAt : Nat := 0
  strict   : Nat := 0
  rotation : Tab Nat := []        -- by class, the VC last served of a direct port's sub-queues
  ctrl     : List (List Byte) := []   -- frames sent between frames, ahead of every class
  pausedTo : Tab Nat := []
  gateBase : Nat := 0
  gateCycle : Nat := 1000000
  nextCycle : Nat := 1000000
  pending  : Bool := false
  commitAt : Nat := 0
  bank     : Nat := 0
  entry    : Nat := 0
  gateOn   : Bool := false        -- a first cycle start has been reached
  gates    : BitVec 8 := 0xFF
  cycleAt  : Nat := 0             -- start of the cycle in progress
  entryEnd : Nat := 0
  stats    : Tab W64 := []
  half     : W128 := 0
  ovf      : W128 := 0
  pauses   : List (List (Nat × Option Nat)) := []   -- pause and PFC frames checked and not yet settled: classes, and until when
  lldpNext : Nat := 0
  lldpSent : Nat := 0
  deriving DecidableEq, Repr

inductive Width where
  | down | half | full | spared
  deriving DecidableEq, Repr

/-- An Ethernet port with its TE (chapters 6, 11, 14). -/
structure Port where
  up        : Bool := false
  blocked   : Nat := 0            -- why an up link is held out of the candidate sets: bit 0 DUP_NODE, bit 1 NO_VERSION
  delay     : Nat := 0
  width     : Width := .full
  failed    : BitVec 9 := 0
  peerFailed : BitVec 9 := 0
  spareFor  : Option Nat := none
  swapping  : Option Nat := none
  retrain   : Bool := false
  lanes     : List Nat := [0, 1, 2, 3, 4, 5, 6, 7]
  parked    : Bool := false
  waking    : Option Nat := none
  peerNode  : Nat := 0
  peerMac   : List Byte := []
  version   : Nat := 1
  helloDone : Bool := false       -- this end's HELLO has been answered …
  helloSeen : Bool := false       -- … and the partner's has come (R431)
  helloNext : Nat := 0
  input     : List Waiting := []
  lastPick  : Nat := 31           -- the candidate last chosen (R203): twice the port, and one more for its escape VC
  near      : List Waiting := []  -- packets of the fabric processors for the neighbour, which wait for credit (R216)
  spent     : Tab Nat := []       -- credits spent downstream, cumulative modulo 2^32, by pool of Table 6.7
  freedBy   : Tab Nat := []       -- credits freed by the link partner, as its last CREDIT frame counts
  freed     : Tab Nat := []       -- credits freed here, cumulative
  creditSeq : Nat := 0
  creditAt  : Nat := 0
  creditNew : Bool := false
  subs      : Tab SubPort := []
  lldpIn    : List (Nat × List Byte) := []   -- LLDP frames received and not yet read, with their sub-port
  buckets   : Tab (Int × Int × Nat) := []   -- policers: committed and excess (or peak) tokens in bits/1000, time
  parkSeen  : Bool := false       -- PARK heard, and sent (R472)
  parkSent  : Bool := false
  xoff      : List Nat := []      -- priorities for which XOFF has been sent
  movedAt   : Nat := 0            -- when the TE last sent a frame
  deriving DecidableEq, Repr

/-- A frame that left the package: port, sub-port, bytes from the destination MAC address to the end of the payload, and whether it was
ended with a valid FCS (R165). -/
structure Sent where
  port  : Nat
  sub   : Nat
  bytes : List Byte
  fcsOk : Bool := true
  deriving DecidableEq, Repr

/-- The siding of a core die (R177): packets in arrival order. -/
structure Siding where
  pkts : List Arrival := []
  deriving DecidableEq, Repr

/-- A FABRIC message this node sent and awaits a REPLY for (R213): request ID, destination, payload, time of last sending. -/
structure Request where
  id   : Nat
  dst  : Nat
  data : List Byte
  at_  : Nat
  qpOf : Option (Nat × Nat) := none    -- for a GROUP_JOIN: group, neighbour
  port : Option Nat := none            -- for a message between neighbours (R423): the port it left on
  deriving DecidableEq, Repr

/-- A FABRIC message passed on to the fabric manager's software (R205, EVENT). -/
structure Passed where
  src  : Nat
  data : List Byte
  deriving DecidableEq, Repr

/-- A change of routes that the fabric processors of the root node carry out (R210, R212): the slot that is loaded, the step at hand (1 ROUTE_BEGIN,
2 load, 3 seal, 4 INJECT, 5 drain, 6 RETIRE), the requests sent in it, when the drain ends, and the free value that its tables are made of. -/
structure RouteChange where
  slot    : Nat
  step    : Nat := 1
  asked   : List Nat := []
  drainBy : Nat := 0
  seed    : Nat := 0
  deriving DecidableEq, Repr

/-- The ROM agent (R422, R423): what each neighbour says of the tree, and what the agent has built. -/
structure Agent where
  running  : Bool := false
  heard    : Tab (Nat × Nat × Nat) := []  -- by port: neighbour node, its root, its distance
  root     : Nat := 0
  dist     : Nat := 0
  parent   : Option Nat := none           -- port to the parent
  subtree  : Tab (List Nat) := []         -- by port of a child: nodes of its subtree
  changed  : Nat := 0
  stable   : Bool := false
  nextTree : Nat := 0
  retireAt : Option Nat := none
  lastOld  : Nat := 0
  versions : Tab Nat := []                -- switched mode: ZFT version in force for a node, 1 where not listed (R431)
  acted    : Bool := false                -- a manager of this node has acted on the route slots (R212)
  change   : Option RouteChange := none   -- at the root node, from stage 3 on (R212)
  greeted  : List Nat := []               -- switched mode: nodes sent a HELLO and not yet answered
  deriving DecidableEq, Repr

/-- A key slot (R401). -/
inductive KeyState where
  | empty | loaded | invalid | exhausted
  deriving DecidableEq, Repr

structure KeySlot where
  state : KeyState := .empty
  key   : BitVec 256 := 0
  epoch : Nat := 0
  ctx   : Nat := 0
  n     : Nat := 0
  deriving DecidableEq, Repr

end Sys2Proof.Machine
end

