-- ==== Sys2Proof/Machine/TypesColl.lean ====
section
/-! DEFINITION. The state of collective groups, their jobs, folds and accumulator files, and of plans and their members
(chapters 7, 8 and 9), as plain data. -/

namespace Sys2Proof.Machine

inductive GroupState where
  | forming | ready | failed
  deriving DecidableEq, Repr

/-- Where the bytes of a chunk or of a contribution are: in this member's input, here, or in a landing slot at a local address. -/
inductive Content where
  | input
  | bytes (l : List Byte)
  | slot (addr len : Nat)
  deriving DecidableEq, Repr

/-- A data message to be sent (R248): relay level, chunk, what it carries, and whether it is on the up path, and goes to the receiver's result buffer or to a
landing slot. -/
structure OutMsg where
  level    : Nat
  chunk    : Nat
  what     : Content
  up       : Bool := false
  toResult : Bool := false
  deriving DecidableEq, Repr

/-- A neighbour of a member (R229): member index, node, the level on which it is a peer, the group QP, what formation has seen (R237),
the landing slots it reserves for us at its end, our landing area for it, slot credits (R233) and data messages to be sent. -/
structure Neighbour where
  idx      : Nat
  node     : Nat
  level    : Nat
  qp       : Nat
  remoteQp : Option Nat := none
  remote   : Nat := 0             -- fabric address, at the neighbour, of our landing slots there
  okSeen   : Bool := false
  formed   : Bool := false        -- FORMED has arrived (a control child)
  area     : Nat := 0             -- local address of its landing slots here
  spent    : Nat := 0             -- messages sent into its slots, cumulative
  freedBy  : Nat := 0             -- slots freed there, as its last FREE says
  freed    : Nat := 0             -- its slots freed here, cumulative, as far as they were freed in the order of their use
  ahead    : List Nat := []       -- slots freed before one used earlier
  ctrlOut  : Nat := 0             -- control records sent to it
  moved    : Nat := 0             -- when something of it last arrived (R450)
  out      : List OutMsg := []
  deriving DecidableEq, Repr

/-- A data message being received or held: sender (member index), message ID, level, chunk, sequence, signature, whether it goes to a
landing slot, its bytes by packet index, and the index of LAST once known. -/
structure CollMsg where
  src    : Nat
  msg    : Nat
  level  : Nat
  chunk  : Nat
  seq    : W32
  sig    : W32
  addr   : Nat                    -- remote address of its first packet seen, less that packet's offset
  landing : Bool
  parts  : Tab (List Byte) := []
  lastIdx : Option Nat := none
  dead   : Bool := false          -- discarded, its slot freed: what is left of it is ignored
  deriving DecidableEq, Repr

/-- A contribution that waits for an accumulator file (R250): level, chunk, position of the contributor, its bytes (or the member's own
input), and the landing slot, with its sender, that holds it. -/
structure Contrib where
  level : Nat
  chunk : Nat
  pos   : Nat
  what  : Content
  src   : Option (Nat × Nat) := none
  deriving DecidableEq, Repr

/-- A chunk that holds accumulator files (R250, R260): the cluster and its fold unit slots, the positions folded in, the elements of
each position's EPF pieces so far, and for each element its long accumulator (as its 320 bits) or its value; FP64 contributions
ahead of their turn. -/
structure Fold where
  level   : Nat
  chunk   : Nat
  cluster : Nat
  units   : List Nat
  got     : List Nat := []
  part    : Tab Nat := []
  acc     : List Nat := []
  wait    : List Contrib := []
  moved   : Nat := 0               -- when an addend was last folded
  deriving DecidableEq, Repr

/-- An ENTER received (R251, R252): member, sequence, signature, result address and length, flags. -/
structure Entered where
  idx   : Nat
  seq   : W32
  sig   : W32
  addr  : Nat
  len   : Nat
  flags : Nat
  deriving DecidableEq, Repr

/-- The collective in progress at a member (R240–R254): its job and operation, the element type, reduction and count, its signature, the
translated buffers, what is still to be placed in the result buffer, and how far it has come. -/
structure Coll where
  seq      : W32
  op       : Nat
  job      : Job
  elem     : Nat
  red      : Nat
  n        : Nat
  root     : Nat
  input    : Nat
  inSeg    : Nat
  result   : Nat               -- local address of the result buffer
  resSeg   : Nat
  rlen     : Nat               -- its length, 0 for none
  sig      : W32
  startAt  : Nat
  fault    : Option Status := none
  overAt   : Nat := 0          -- when its job ended on a local fault
  folds    : List Fold := []
  contribs : List Contrib := []
  assigned : List (Nat × Nat) := []   -- (level, chunk) that have had a file
  sentUp   : List (Nat × Nat) := []   -- (level, chunk) sent up from this member
  sentDown : List (Nat × Nat) := []   -- (neighbour, chunk) handed on to a neighbour
  owed     : Nat := 0          -- chunks still to be placed in the result buffer
  paths    : List Path := []
  flushing : Bool := false
  flushed  : Bool := false
  deriving DecidableEq, Repr

/-- What a member keeps for one sequence number of the control tree (R251, R253, R257). -/
structure Round where
  seq       : W32
  firstSent : Bool := false
  done      : List Nat := []          -- control children whose DONE has arrived
  entered   : List Nat := []          -- control children whose ENTERED has arrived
  slowest   : Nat := 0
  lastIn    : Nat := 0
  doneSent  : Bool := false
  enterSent : Bool := false
  timerAt   : Option Nat := none      -- leader: when the group timer started
  mismatch  : Option Nat := none      -- leader: latched reports, by the member they name
  lost      : Option Nat := none
  fault     : Option Nat := none
  decided   : Option (Status × Nat) := none
  deriving DecidableEq, Repr

/-- A collective whose job ended here before the decision: number, signature, layer and operator, and when it ended (R256). -/
structure Over where
  seq   : W32
  sig   : W32
  layer : Nat
  oper  : Nat
  at_   : Nat
  deriving DecidableEq, Repr

structure Group where
  ctx      : Nat
  f        : Nat
  members  : List Nat
  me       : Nat
  sizes    : List Nat
  chunkLog : Nat := 16
  slots    : Nat := 4
  laggard  : Bool := false
  timeout  : Nat := 50
  waitAddr : Nat := 0              -- local address of the wait counter (R257)
  waitSeg  : Nat := 0
  refs     : List Ref := []        -- held on the segments of the landing region and the wait counter (R81)
  report   : Nat := 0
  formBy   : Nat := 0
  serving  : List Nat
  region   : Nat                   -- local address of the landing region
  regionLen : Nat
  regionSeg : Nat := 0             -- the segment through which it was given (R232, R321)
  tc       : Nat := 0
  payload  : Nat := 4096
  encrypted : Bool := false
  slot     : Nat := 0
  crc      : W32 := 0
  state    : GroupState := .forming
  nbrs     : List Neighbour := []
  formedSent : Bool := false
  ticket   : Option Job := none        -- the CREATE_GROUP command that waits
  next     : W32 := 0
  cur      : Option Coll := none
  rounds   : List Round := []
  enters   : List Entered := []
  decisions : List (W32 × Status × Nat) := []
  ended    : List Over := []
  waited   : Nat := 0
  msgs     : List CollMsg := []        -- messages being received, and those held under R249 step 2
  rotation : Tab Nat := []             -- by level, files assigned so far
  deriving DecidableEq, Repr

/-- A loaded plan (R284–R288): its context, the container's device address and bytes, or the family. -/
structure Plan where
  ctx    : Nat
  family : Nat := 0
  addr   : Nat := 0
  bytes  : List Byte := []
  size   : Nat := 65536
  deriving DecidableEq, Repr

/-- A loop of a member (R305): the bundle after LOOP, and the iterations still to begin. -/
structure Loop where
  body : Nat
  left : Nat
  deriving DecidableEq, Repr

/-- A STAGE or GATHER in progress (R299, R300): its opcode, bundle, row count and length, addresses and pitches, slot. -/
structure Stage where
  id     : Nat
  op     : Nat
  bundle : Nat
  rows   : Nat
  len    : Nat
  near   : Nat
  far    : Nat
  list   : Nat
  pitchF : Nat
  pitchN : Nat
  slot   : Nat
  clash  : List (Nat × Nat × Nat × Nat) := []   -- strips (local base, row length, pitch, rows) that others wrote meanwhile
  deriving DecidableEq, Repr

/-- A gang member (R291, R307): registers, wait marks, loops, tiles (32 rows of 1,024 bits, and a scale area of 256 bytes), the next
bundle; whether it stands at a boundary, whether that boundary has been passed, what a WAIT holds it on (slot and mark), the STAGEs
outstanding, the SIGNALs that wait for them (counter, amount, stages), and the paths its stores have written since its last SIGNAL. -/
structure Member where
  cluster : Nat
  pc      : Nat := 0
  a       : List Nat := []
  sreg    : List Nat := []
  marks   : List Nat := []
  loops   : List Loop := []
  tiles   : Tab (Nat × Nat) := []
  atBound : Bool := false
  passed  : Bool := false
  waiting : Option (Nat × Nat) := none
  ended   : Bool := false
  stages  : List Stage := []
  signals : List (Nat × Nat × List Nat) := []
  stored  : List Path := []
  issued  : Nat := 0                  -- bundles issued
  moved   : Nat := 0                  -- when its TVE last issued a bundle
  deriving DecidableEq, Repr

/-- A dispatched PLAN_RUN (R290–R312): waiting for its gang, running or failing. -/
structure PlanRun where
  id      : Nat
  op      : Nat
  plan    : Nat
  ctx     : Nat
  f       : Nat
  gang    : List Nat
  q       : Nat := 0                  -- the SQ of its job, and when it was dispatched (R294)
  at_     : Nat := 0
  started : Bool := false
  paused  : Bool := false
  members : List Member := []
  slots   : List (Option Nat) := []   -- counters bound to the slots
  mask    : Nat := 0                  -- address registers in use
  segs    : List Nat := []            -- the segments on which it took references at its start (R292 step 2) …
  refs    : List Ref := []            -- … and those references, held until the plan ends (R76, R310)
  nextStage : Nat := 0
  startAt : Nat := 0
  startCycle : Nat := 0               -- ACLK cycles of its gallery at the start
  failed  : Option Status := none
  deriving DecidableEq, Repr

/-- A logical cluster that is present: its fold units and its resets (R17, R262, R448). -/
structure Cluster where
  unitMap  : List Nat := [0, 1, 2, 3]       -- physical fold unit of each slot
  spareFu  : Bool := true                    -- the spare fold unit is unused
  badFu    : Tab Nat := []                   -- slots to be retired once no chunk holds them (R261, R464), with the entry's cause
  scrubDue : Tab Nat := []                   -- TCLK time outside stops at which a slot's next pass falls due
  lastCorr : Tab (List Nat) := []            -- accumulators corrected in the last pass, by slot
  service  : Bool := false                   -- in collective service (R258)
  accs     : Tab (List Nat) := []            -- what a chunk left in the accumulators of a slot; zero where nothing is listed (Table 8.5)
  resets   : List Nat := []
  deriving DecidableEq, Repr

end Sys2Proof.Machine
end

