-- ==== Sys2Proof/Machine/TypesSys.lean ====
section
/-! DEFINITION. The state of the package: clocks and lands, fuses and NOR, boot, firmware processors, galleries, memory,
host ports, resets and recovery, power, counters, traces and the inventory stop (chapters 1, 10 and 12–16), as plain data. -/

namespace Sys2Proof.Machine

/-- Whether the package has power, is held by PORST_N, runs, or has stopped all on-die activity until PORST_N
(R40, R57, R418). -/
inductive Activity where
  | unpowered | held | running | stopped
  deriving DecidableEq, Repr

/-- Lands (Table 1.12) that carry a level: the straps, PORST_N and the outputs; and the I3C node register (R420). -/
structure Lands where
  straps    : BitVec 16 := 0
  porst     : Bool := true            -- PORST_N asserted
  alarm     : Bool := false           -- ALARM_N asserted
  thermtrip : Bool := false           -- THERMTRIP_N asserted
  stopOut   : Bool := false
  stopPulses : Nat := 0               -- 64 ns pulses driven on STOP_OUT (R492)
  i3cValid  : Bool := false
  i3cNode   : BitVec 16 := 0
  deriving DecidableEq, Repr

/-- NOR_CS_N, NOR_SCK and NOR_IO at high impedance: while PORST_N is asserted; else the ZD24 drives them (R56). -/
def Lands.norHighZ (l : Lands) : Bool := l.porst

/-- The fuses of HD (R392). PF0 can change the revocation bits and the minimum security version, and no command the digests (R396). -/
structure Fuses where
  keys    : List (List Byte × List Byte) := (List.range 4).map Config.keyDigest   -- the digests of the four key pairs, by index: ECDSA, LMS
  revoked : BitVec 4 := 0
  minSvn  : Nat := 0
  deriving DecidableEq, Repr

/-- A catalogue entry (Table 15.3): type, cause byte, location bytes 2–7, powered time. -/
structure CatEntry where
  ty    : Nat
  cause : Nat
  loc   : List Nat
  time  : Nat
  deriving DecidableEq, Repr

/-- The location bytes 2–7 of an entry. -/
def locBytes (l : List Nat) : List Nat := (l ++ List.replicate 6 0).take 6

/-- The 16 bytes of an entry (Table 15.3). -/
def CatEntry.bytes (e : CatEntry) : List Byte :=
  leBytes 1 e.ty ++ leBytes 1 e.cause ++ (locBytes e.loc).map (BitVec.ofNat 8 ·) ++ leBytes 8 e.time

/-- The sections of the NOR (Table 15.2). -/
inductive NorPart where
  | factory (copy : Nat)
  | field (copy : Nat)
  | journal (copy : Nat)
  | reserved
  deriving DecidableEq, Repr

/-- Their offsets and sizes (Table 15.2). -/
def norLayout : List (NorPart × Nat × Nat) :=
  [(.factory 0, 0x000000, 0x080000), (.factory 1, 0x080000, 0x080000), (.field 0, 0x100000, 0x100000), (.field 1, 0x200000, 0x100000),
   (.journal 0, 0x300000, 0x100000), (.journal 1, 0x400000, 0x100000), (.reserved, 0x500000, 0x300000)]

def norSize (x : NorPart) : Nat := ((norLayout.find? fun e => e.1 == x).map fun e => e.2.2).getD 0

/-- Entries that a field-section copy holds behind its header page: 65,280 (R457). -/
def fieldRoom : Nat := (norSize (.field 0) - 0x1000) / 16

/-- The on-package NOR (R456, R457, R432–R436): the copies of its sections, and the state journal. The two copies of a section hold the same
entries, and those of the journal the same contents, since each writing goes to the one copy and then to the other, and PORST_N and the removal of power
find no writing under way (notes/assumptions/58.md); what stands once for both is `factory` with its block, `field`, and the fields of the journal from `powered` on. -/
structure Nor where
  factory0  : Bool := true            -- factory section copy 0 passes the checks of R394 that no command of the block can change (1, 3, 5, 6)
  factory1  : Bool := true
  seq0      : Nat := 2                -- write sequence numbers of the field-section copies
  seq1      : Nat := 1
  sign0     : List Byte := []         -- signatures of the field-section copies
  sign1     : List Byte := []
  factoryKey : Nat := 0               -- key index and security version in the factory section's signature block
  factorySvn : Nat := 0
  factory   : List CatEntry := []
  factoryBlock : List Byte := Config.factoryBlock
  field     : List CatEntry := []
  updates   : List (List Byte) := []       -- verified updates to be applied at the next package reset, oldest first (R461)
  journalNo : Nat := 4                -- writings of the state journal's copies, with those of the factory
  jsign0    : List Byte := []         -- signatures of the journal's copies
  jsign1    : List Byte := []
  unwritten : List CatEntry := []     -- entries not yet written, held in the island's retained memory, oldest first (R459)
  powered   : Nat := 0                -- powered time, ms, as last brought up to date …
  poweredAt : Nat := 0                -- … and the TCLK time of that
  failed    : List Nat := []          -- failed-start log, newest first, at most 3
  resets    : List Nat := []          -- package-reset log, newest first, at most 4
  vestibule : Bool := false
  outOfSvc  : Bool := false
  cycled    : Bool := false           -- power has been applied since out-of-service was set
  firstReset : Bool := true           -- no package reset since power was applied
  tamper    : BitVec 4 := 0
  tamperAt  : Nat := 0
  tamperNew : Bool := false           -- no start sequence has run since the tamper record was written
  trip      : Option (Nat × W32) := none
  deriving DecidableEq, Repr

/-- The contents of the state journal that the identity key signs. The manual gives no layout; the model's lists the fields in order (notes/assumptions/58.md). -/
def Nor.journal (n : Nor) : List Byte :=
  leBytes 8 n.powered ++ leBytes 8 n.poweredAt ++ leBytes 1 n.failed.length ++ n.failed.flatMap (leBytes 8) ++ leBytes 1 n.resets.length ++
  n.resets.flatMap (leBytes 8) ++ leBytes 1 (ofBool n.vestibule + 2 * ofBool n.outOfSvc + 4 * ofBool n.cycled + 8 * ofBool n.firstReset +
    16 * ofBool n.tamperNew) ++ leBytes 1 n.tamper.toNat ++ leBytes 8 n.tamperAt ++ (n.trip.elim (leBytes 6 0) fun x => leBytes 1 (x.1 + 1) ++ leBytes 4 x.2.toNat ++ [0])

/-- The identity key's signature of what the ZD24 writes to the NOR without a draw of its own. -/
def norSign (k : Nat) (m : List Byte) : List Byte := ecdsaSign (scalarOf Config.identityKey) (Config.journalEntropy k) m

/-- Both copies of the journal written and signed with the identity key (Table 15.2). -/
def Nor.journaled (n : Nor) : Nor :=
  { n with journalNo := n.journalNo + 2, jsign0 := norSign n.journalNo n.journal, jsign1 := norSign (n.journalNo + 1) n.journal }

/-- What the identity key signs of a field-section copy: bytes 0 to 31 of the header page, and the entries (R457). -/
def fieldSigned (seq : Nat) (field : List CatEntry) : List Byte :=
  leBytes 4 0x54414352 ++ leBytes 1 1 ++ leBytes 3 0 ++ leBytes 8 seq ++ leBytes 4 field.length ++ leBytes 12 0 ++ field.flatMap CatEntry.bytes

/-- The NOR as the factory leaves it: no entries, and every copy signed. -/
def Nor.made : Nor :=
  let n : Nor := {}
  { n with sign0 := norSign 0 (fieldSigned n.seq0 []), sign1 := norSign 1 (fieldSigned n.seq1 []), jsign0 := norSign 2 n.journal, jsign1 := norSign 3 n.journal }

/-- A boot event (Table 14.9): powered time, event, cause, processor or port, detail. -/
structure BootEvent where
  at_    : Nat
  event  : Nat
  cause  : Nat := 0
  unit   : Nat := 0
  detail : Nat := 0
  deriving DecidableEq, Repr

/-- An image of a bundle (Table 14.5): target, offset in the bundle, length, digest. -/
structure Image where
  target : Nat
  offset : Nat
  length : Nat
  digest : List Byte
  deriving DecidableEq, Repr

/-- The running firmware bundle (Table 14.4). -/
structure Bundle where
  id       : W64
  keyIndex : Nat
  svn      : Nat
  lowMajor : Nat
  highMajor : Nat
  minor    : Nat
  zft      : BitVec 16
  features : W128
  digest   : List Byte
  images   : List Image := []
  deriving DecidableEq, Repr

/-- Memory as address and byte pairs: addresses rising, and no pair that holds zero, which is what an unlisted address reads
as, except in a range whose contents are undefined (`undef`: base, length, number of the undefining event; newest first),
where an unlisted address reads as the free byte of that event (R254). -/
structure Mem where
  cells : List Host.Cell := []
  undef : List (Nat × Nat × Nat) := []
  deriving DecidableEq, Repr

/-- Start state (R373, R419–R427, R437). -/
structure Boot where
  node    : BitVec 16 := 0
  source  : Nat := 0
  stage   : Nat := 0
  romOk   : Bool := false
  second  : BitVec 2 := 0             -- bit 0 factory section read from its second copy, bit 1 field section likewise
  cause   : Nat := 0
  busy    : Bool := false
  result  : Nat := 0
  window  : Mem := {}
  running : Option Bundle := none
  startBy : Nat := 0
  events  : List BootEvent := []
  ifMajor : Nat := 0
  ddrDone : Bool := false
  deriving DecidableEq, Repr

/-- A firmware processor (Table 14.5's targets 0–7): whether it is released and has reported ready, the image in its local memory (R427), and the
times of its crashes within the last second (R438–R442). -/
structure Proc where
  released : Bool := false
  ready    : Bool := false
  image    : List Byte := []
  crashes  : List Nat := []
  deriving DecidableEq, Repr

/-- Tier C as taken in at boot (R326, R327): channels in ascending order, capacity in GiB, speed in MT/s. -/
structure Ddr where
  chans : List Nat := []
  gib   : Nat := 0
  speed : Nat := 0
  left  : List Nat := []        -- channels whose DIMM was left out, for the boot report
  deriving DecidableEq, Repr

/-- A codeword with one symbol in error, which the code corrects on every read (R328): its 64-byte line, its offset there, the symbol's
position, the row. -/
structure Soft where
  line : Nat
  code : Nat
  pos  : Nat
  row  : Nat
  deriving DecidableEq, Repr

/-- The memory of the package and its faults. `bad` are the codewords (64-byte line, offset within it) in which the code finds an
uncorrectable error; `soft` those with one symbol in error; `poison` the poisoned lines (R330). -/
structure Tiers where
  mem    : Mem := {}
  bad    : List (Nat × Nat) := []
  soft   : List Soft := []
  poison : List Nat := []
  ddr    : Ddr := {}
  deriving DecidableEq, Repr

/-- A timetable port of a gallery (window numbers of R510): the table in force and its shadow copy. -/
structure Timetable where
  live   : List Byte
  shadow : Option (List Byte) := none
  deriving DecidableEq, Repr

/-- The trace of a gallery (R486–R488): the records in the staging buffer, oldest first, those lost since the last LOST record, the pointer
and its wraps, and GAL_TRACE_CFG.full. -/
structure TraceBuf where
  staged  : List (List Byte) := []
  lost    : Nat := 0
  ptr     : Nat := 0
  wraps   : Nat := 0
  full    : Bool := false
  deriving DecidableEq, Repr

/-- The conservation cycle of a gallery (R465–R468). -/
structure Conserve where
  busy    : Bool := false
  settling : Bool := false
  settleAt : Nat := 0            -- when the voltage was last raised
  noc     : List Nat := []       -- the oscillators of the NoC as last read
  again   : Bool := false        -- a further cycle has been asked for
  due     : Nat := 0             -- powered time at which the next daily cycle falls due
  temp    : Option Int := none    -- the hottest sensor as last read, and as read at the end of the last cycle
  lastTemp : Option Int := none
  slack   : Nat := 0
  last    : Nat := 0             -- powered time, in s, of the last cycle's end
  deriving DecidableEq, Repr

/-- A gallery: dividers (R34–R37; 0 ÷4, 1 ÷5, 2 ÷6, 3 ÷8), voltage offset in 5 mV, physical map and spare (R27–R31, R514),
timetables and their limits and change (R48–R53, R509, R510), power state (R469), trace, plan gaps, ladder rungs (R473). -/
structure Gallery where
  divider : Nat := 0
  aclk    : Nat := 0            -- ACLK cycles counted up to a TCLK time: the last change of the divider
  aclkAt  : Nat := 0
  floor   : Nat := 0
  demand  : Nat := 0
  offset  : Int := 0
  phys    : List (Option Nat) := [some 0, some 1, some 2, some 3, some 4, some 5, some 6, some 7]
  spare   : Option Nat := some 8
  tables  : Tab Timetable := []
  limits  : Tab (Nat × Nat) := []
  hold    : Option (Nat × Job) := none    -- since when dispatch is held for a LOAD_TIMETABLE, and that command
  cons    : Conserve := {}
  power   : Nat := 0
  idleAt  : Nat := 0
  waking  : Option Nat := none
  trace   : TraceBuf := {}
  gaps    : Tab Nat := []
  issue   : Nat := 0            -- TVE issue rung, 0–6
  inject  : Nat := 0            -- local injection rung, 0–3
  fwHome  : Option Nat := none  -- logical cluster that holds the firmware image copy
  fwLost  : Bool := false       -- the copy is lost and not (yet) rebuilt
  deriving DecidableEq, Repr

/-- Where an error lies in a memory port: pseudo-channel (0 outside tier B), row, symbol position. -/
structure Spot where
  pc  : Nat
  row : Nat
  pos : Nat
  deriving DecidableEq, Repr

/-- A repair under way: pseudo-channel, row or spare, and the cause of the catalogue entry that it will write. -/
structure Mending where
  pc    : Nat
  to_   : Nat
  cause : Nat
  line  : Nat := 0              -- the copy pointer of a pseudo-channel's copy (R339)
  deriving DecidableEq, Repr

/-- The patrol scrub and the repairs of one memory port (R334–R340): the next line of the pass, the corrected errors of this pass and of
the last one, the positions and rows that have failed, rows being copied to spares and rows repaired, pseudo-channels being copied and
those switched (with the spare), those for which no spare is left, device positions reported failed, spare rows and columns of a slice used,
and refreshes. -/
structure Scrub where
  next    : Nat := 0
  now_    : List Spot := []
  last    : List Spot := []
  marks   : List Spot := []
  rows    : List Mending := []
  fixed   : List (Nat × Nat) := []
  copies  : List Mending := []
  spared  : List (Nat × Nat) := []
  exhausted : List Nat := []
  device  : List Nat := []
  rowsUsed : List Nat := []
  colsUsed : List Nat := []
  refreshes : Nat := 0
  deriving DecidableEq, Repr

/-- The die-to-die links (R42, R43), by link (0 CD0–CD1, 1 CD0–HD, 2 CD1–HD): successive replays of the flit under way, in
each direction. -/
structure DieLinks where
  replays : Tab Nat := []
  deriving DecidableEq, Repr

/-- A host port (R363–R369). -/
structure HostPort where
  up      : Bool := false
  bars    : List (Nat × Nat) := []       -- accelerator BARs: bus address, size (root-port mode)
  disabled : Bool := false               -- the accelerator's BARs do not fit
  refuses : List (Nat × Nat) := []       -- bus ranges at which the host answers with UR or CA (base, length)
  mode    : Nat := 0
  deriving DecidableEq, Repr

/-- A replay after a hang of a TVE or an ME (R453): the cluster, the suspects (function, context) still to be replayed, those found guilty
and those that made progress, the plan run and the ME runs that are held, when the suspect at hand was started, and whether the reset has
completed. -/
structure Replay where
  cluster : Nat
  todo    : List (Nat × Nat)
  guilty  : List (Nat × Nat) := []
  clean   : List (Nat × Nat) := []
  plan    : Option Nat := none
  runs    : List MeRun := []
  startAt : Nat := 0
  ready   : Bool := false
  deriving DecidableEq, Repr

/-- A fence under way (R445): its domain, the end of its drain, whether what was left has been answered, and, where the fence is that of a
retirement (R463), the cause. -/
structure Fence where
  domain : Domain
  drainBy : Nat
  ended  : Bool := false
  retire : Option Nat := none
  deriving DecidableEq, Repr

/-- Resets and recovery (R445–R453). -/
structure Recovery where
  fences  : List Fence := []
  busy    : Bool := false
  result  : Nat := 0
  request : Option Domain := none
  graphs  : List (List Byte) := []       -- the last 16 wait-for graph records, newest first
  graphSeq : Nat := 0
  replays : List Replay := []
  retires : List (Nat × Nat) := []       -- clusters to be retired when the reset that covers them ends, and the causes
  after   : Option (Nat × Nat) := none   -- the package reset that follows the package's fence: why (1 CRASH_FENCE, 2 IMAGE, else 0), processor
  deriving DecidableEq, Repr

/-- The security island (R397–R418). -/
structure Sec where
  slots     : Tab KeySlot := []
  kek       : Option (BitVec 256) := none
  pair      : Option Nat := none         -- an ephemeral key pair, by the number of its draw
  kexDev    : List Byte := []
  kexSig    : List Byte := []
  kexResult : Nat := 0
  slotResult : Nat := 0
  entropyBad : Bool := false
  measures  : List (Nat × List Byte) := []
  answers   : List (Nat × List Byte) := []   -- SPDM responses returned over DOE, newest first: request code, body
  requests  : Nat := 0
  retained  : List Byte := []            -- SEC's image in the island's retained memory (R427, R439)
  deriving DecidableEq, Repr

/-- The power cap's ladder and measurement (R473, R474). -/
structure Power where
  watts    : Nat := 0
  byGal    : List Nat := []
  below    : Option Nat := none          -- since when the measurement has been below the cap − 50 W
  thermal  : Bool := false
  rungs    : List (Nat × Nat) := []      -- rungs applied, newest first: stage, gallery
  deriving DecidableEq, Repr

/-- The states of DBG_STOP_CTRL.state (Table 16.11). -/
inductive StopState where
  | running | pending | stopped | scanning | scanned | resuming
  deriving DecidableEq, Repr

/-- What a host does to a function or a host port while an inventory stop lasts: kept, and acted on at the resume (notes/assumptions/12.md). -/
inductive HostEvent where
  | flr (f : Nat) | vfSet (count : Nat) | vfClear | aer (f : Nat)
  | reset (hp : Nat) | down (hp : Nat) | up (hp : Nat) (bars : List Nat) | ltr (hp : Nat) (value : Option Nat)
  deriving DecidableEq, Repr

/-- Snapshots and the inventory stop (R484–R496). -/
structure Debug where
  snapDue   : Option Nat := none         -- a triggered snapshot's edge, in TCLK ns (16 FCLK edges, 8 ns)
  snapTrig  : Nat := 0
  held      : Bool := false
  missed    : Nat := 0
  snapSeq   : Nat := 0
  trigger   : Nat := 0
  shadow    : Tab W64 := []
  timerAt   : Option Nat := none
  stop      : StopState := .running
  haltDue   : Option Nat := none
  boundBy   : Option Nat := none
  landed    : Bool := false
  cause     : Nat := 0
  result    : Nat := 0
  scanned   : Nat := 0
  stopTime  : Nat := 0                   -- TCLK time spent in stops, which no timer measures (R494)
  haltAt    : Nat := 0                   -- TCLK time of the last halt edge
  kept      : List HostEvent := []
  deriving DecidableEq, Repr

/-- A record of what FABRIC messages this node has answered, by source (R213): source (65,536 for FABRIC_LOCAL), request ID,
status; newest first. -/
structure Answered where
  src    : Nat
  id     : Nat
  status : Nat
  deriving DecidableEq, Repr

end Sys2Proof.Machine
end

