-- ==== Sys2Proof/Machine/State.lean ====
section
/-! DEFINITION. The state of the block, its state at reset, and the reasons for which a step can stop. State is plain data: every
register, queue, buffer, counter, mode and land that the manual gives the ZD24, and the queue of waiting commands. -/

namespace Sys2Proof.Machine

/-- Why a step stops with a fault: none does. -/
inductive Fault where
  /-- raised by no command: every command of the table answers a next state, one that names what a ZD24 does not have answers the state itself (log 11); safe -/
  | never
  deriving DecidableEq, Repr

/-- Why a command has no meaning here. -/
inductive Refusal where
  /-- raised by exec's arm of a command whose meaning is not written yet, by the command's mnemonic; safe -/
  | notModelled (mnemonic : String)
  deriving DecidableEq, Repr

structure State where
  /-- TCLK time in ns since the root PLLs locked, outside inventory stops: what every timer measures (R32, R419, R494) -/
  tclk     : Nat
  activity : Activity
  lands    : Lands
  fuses    : Fuses
  nor      : Nor
  boot     : Boot
  procs    : Tab Proc
  /-- set-up registers (chapter 17) as 32-bit words: function × 2^23 + BAR0 offset; one not listed holds its reset value -/
  regs     : Tab W32
  fns      : Tab Function
  ctxs     : Tab Context
  /-- the generation of each segment index (R64, R78), by context × 16 + segment; one not listed is 0 -/
  gens     : Tab Nat
  sqs      : Tab Sq
  cqs      : Tab Cq
  eqs      : Tab Cq
  ops      : List Op
  nextOp   : Nat
  /-- operations that have completed and whose CQE is still to be written: they hold their place and their references (R76, R135) -/
  spent    : List Op
  armed    : List Armed
  flags    : List PendingFlag
  peers    : Tab Peer
  channels : Tab Channel
  mes      : Tab MeUnit
  tiers    : Tiers
  host     : Mem
  qps      : Tab Qp
  nextHome : Option Nat
  /-- contexts in the cache, most recently used first: QP and, for a peer entry, its node (R176) -/
  cache    : List (Nat × Nat)
  sidings  : Tab Siding
  arrived  : List Arrival
  slots    : Tab RouteSlot
  epoch    : Nat
  answered : List Answered
  requests : List Request
  nextReq  : Nat
  passed   : List Passed
  agent    : Agent
  ports    : Tab Port
  /-- the injection buffer of the node's own TEs (port 16 of the forwarding rules) -/
  local_   : List Waiting
  sent     : List Sent
  groups   : Tab Group
  plans    : Tab Plan
  runs     : List PlanRun
  nextRun  : Nat
  clusters : Tab Cluster
  gals     : Tab Gallery
  scrubs   : Tab Scrub
  links    : DieLinks
  hps      : Tab HostPort
  recov    : Recovery
  sec      : Sec
  power    : Power
  dbg      : Debug
  /-- counters of Table 16.1 by counter ID; one not listed is zero -/
  counters : Tab W64
  /-- interrupt vectors raised, newest first: function, vector (R376) -/
  irqs     : List (Nat × Nat)
  /-- the MSI-X pending bits that are set: function, vector (R502) -/
  msixPend : List (Nat × Nat)
  /-- HUB_MBOX_PENDING (R381): the pending functions -/
  mboxPend : List Nat
  /-- the queue of commands that wait, first in, first out -/
  pending  : List Instr
  /-- the model's own: how many free values have been taken -/
  free     : Nat
  deriving DecidableEq, Repr

/-- Every function of Table 12.4 as it is after a package reset: PF0 ACTIVE, the VFs and AFs DISABLED. -/
def Function.afterReset (f : Nat) : Function :=
  if f = 0 then { state := .active } else {}

/-- The ZD24 right after reset, PORST_N asserted and power applied, before PACKAGE_START runs the start sequence (R419, R444,
R476). Every value is the manual's reset value, or is named in notes/assumptions/2.md. -/
def State.reset : State :=
  { tclk := 0, activity := .held, lands := {}, fuses := {}, nor := Nor.made, boot := {}, procs := [], regs := [],
    fns := [(0, Function.afterReset 0)], ctxs := [], gens := [], sqs := [], cqs := [], eqs := [], ops := [], nextOp := 1, spent := [], armed := [],
    flags := [], peers := [], channels := [], mes := [], tiers := {}, host := {}, qps := [], nextHome := none, cache := [],
    sidings := [], arrived := [], slots := [], epoch := 0, answered := [], requests := [], nextReq := 0, passed := [],
    agent := {}, ports := [], local_ := [], sent := [], groups := [], plans := [], runs := [], nextRun := 0, clusters := [],
    gals := [], scrubs := [], links := {}, hps := [], recov := {}, sec := {}, power := {}, dbg := {}, counters := [],
    irqs := [], msixPend := [], mboxPend := [], pending := [], free := 0 }

end Sys2Proof.Machine
end

