-- ==== Sys2Proof/WellFormed.lean ====
section
/-! DEFINITION. Which commands name things that exist on a ZD24 (Tables 0.2, 1.2, 11.1, 12.1, 12.4). -/

namespace Sys2Proof

/-- A function number of Table 12.4. -/
def fnOk (f : Nat) : Bool := decide (f ≤ 255 ∨ (257 ≤ f ∧ f ≤ 259))

/-- An Ethernet port P0–P15. -/
def portOk (p : Nat) : Bool := decide (p ≤ 15)

/-- A sub-port that Table 11.1 can give. -/
def subOk (sub : Nat) : Bool := decide (sub ≤ 7)

/-- A gallery G0–G5. -/
def galOk (g : Nat) : Bool := decide (g ≤ 5)

/-- A logical cluster L0–L47. -/
def clusterOk (c : Nat) : Bool := decide (c ≤ 47)

/-- A fold unit slot of a cluster. -/
def fuOk (u : Nat) : Bool := decide (u ≤ 3)

/-- An ME of a cluster. -/
def meOk (m : Nat) : Bool := decide (m ≤ 1)

/-- A host port. -/
def hpOk (hp : Nat) : Bool := decide (hp ≤ 3)

/-- An input of the forwarding rules: a port, or 16 for what the node itself injects. -/
def inOk (p : Nat) : Bool := decide (p ≤ 16)

def MemUnit.ok : MemUnit → Bool
  | .slice c => clusterOk c
  | .stack h => decide (h ≤ 23)
  | .chan d => decide (d ≤ 19)

def Domain.ok : Domain → Bool
  | .function f => fnOk f
  | .port p => portOk p
  | .cluster c => clusterOk c
  | .gallery g => galOk g
  | .package => true

def Engine.ok : Engine → Bool
  | .tve c => clusterOk c
  | .fu c u => clusterOk c && fuOk u
  | .me c m => clusterOk c && meOk m
  | .te p => portOk p

def LongWaiter.ok : LongWaiter → Bool
  | .withdrawal _ seg => decide (seg ≤ 15)
  | .quiesce f => fnOk f
  | .collective _ => true

/-- Whether a command names only things that exist. Every other operand may have any value. -/
def Instr.wf : Instr → Bool
  | .registerWrite f _ _ _ => fnOk f
  | .packageStart => true
  | .ddrTrainingComplete _ => true
  | .porstNAssert => true
  | .i3cNodeWrite _ _ => true
  | .clockLoss => true
  | .tamper _ => true
  | .thermalTrip die _ => decide (die ≤ 2)
  | .entropyFailure => true
  | .dividerChange g => galOk g
  | .flitReplay link dir _ => decide (link ≤ 2) && decide (dir ≤ 1)
  | .sweepExpress _ => true
  | .sweepRegular _ => true
  | .sweepAdmin _ => true
  | .ownerReread f q _ => fnOk f && decide (q ≤ 65535)
  | .cqFullReread f q _ => fnOk f && decide (q ≤ 65535)
  | .stateRecordWrite f _ q => fnOk f && decide (q ≤ 65535)
  | .evcMirrorWrite c i => decide (c ≤ 4095) && decide (i ≤ 255)
  | .sqWake f q _ => fnOk f && decide (q ≤ 65535)
  | .cqArm f q _ => fnOk f && decide (q ≤ 65535)
  | .errorQueueArm f _ => fnOk f
  | .adminEnable f _ => fnOk f
  | .identify f => fnOk f
  | .negotiate f => fnOk f
  | .createContext f => fnOk f
  | .destroyContext f => fnOk f
  | .createCq f => fnOk f
  | .destroyCq f => fnOk f
  | .createSq f => fnOk f
  | .destroySq f => fnOk f
  | .createErrorQueue f => fnOk f
  | .createSegment f => fnOk f
  | .withdrawSegment f => fnOk f
  | .withdrawalComplete c seg => decide (c ≤ 4095) && decide (seg ≤ 15)
  | .querySegment f => fnOk f
  | .createQp f => fnOk f
  | .connect f => fnOk f
  | .addPeers f => fnOk f
  | .removePeer f => fnOk f
  | .setError f => fnOk f
  | .modifyQpReset f => fnOk f
  | .setTimers f => fnOk f
  | .queryQp f => fnOk f
  | .destroyQp f => fnOk f
  | .createGroup f => fnOk f
  | .destroyGroup f => fnOk f
  | .loadPlan f => fnOk f
  | .unloadPlan f => fnOk f
  | .setLatencyTolerance f => fnOk f
  | .getLog f => fnOk f
  | .readCounters f => fnOk f
  | .loadTimetable f => fnOk f
  | .timetableSwitch g => galOk g
  | .timetableDrainTimeout g => galOk g
  | .setTimetableLimits f => fnOk f
  | .setFunctionGrant f => fnOk f
  | .fabricLocal f => fnOk f
  | .catalogueUpdate f => fnOk f
  | .catalogueClear f => fnOk f
  | .nop f q => fnOk f && decide (q ≤ 65535)
  | .put f q => fnOk f && decide (q ≤ 65535)
  | .get f q => fnOk f && decide (q ≤ 65535)
  | .putFinal f q => fnOk f && decide (q ≤ 65535)
  | .atomic f q => fnOk f && decide (q ≤ 65535)
  | .foldPut f q => fnOk f && decide (q ≤ 65535)
  | .send f q => fnOk f && decide (q ≤ 65535)
  | .recv f q => fnOk f && decide (q ≤ 65535)
  | .planRun f q => fnOk f && decide (q ≤ 65535)
  | .allReduce f q => fnOk f && decide (q ≤ 65535)
  | .reduceScatter f q => fnOk f && decide (q ≤ 65535)
  | .allGather f q => fnOk f && decide (q ≤ 65535)
  | .broadcast f q => fnOk f && decide (q ≤ 65535)
  | .reduce f q => fnOk f && decide (q ≤ 65535)
  | .allToAll f q => fnOk f && decide (q ≤ 65535)
  | .barrier f q => fnOk f && decide (q ≤ 65535)
  | .triggerFire => true
  | .flushComplete _ => true
  | .meTimerRun cluster me channel => clusterOk cluster && meOk me && decide (channel ≤ 15)
  | .meRunStart cluster me => clusterOk cluster && meOk me
  | .meRunComplete cluster me => clusterOk cluster && meOk me
  | .peerRegister n _ => decide (n ≤ 31)
  | .peerUnregister n _ => decide (n ≤ 31)
  | .peerProbeRequest n _ => decide (n ≤ 31)
  | .peerProbeRead n => decide (n ≤ 31)
  | .peerProbeDone n _ => decide (n ≤ 31)
  | .frameReceive p sub _ => portOk p && subOk sub
  | .write => true
  | .readReq => true
  | .atomicReq => true
  | .fold => true
  | .ack => true
  | .readResp => true
  | .atomicResp => true
  | .contextFetchComplete qp node _ => decide (qp < 16777216) && decide (node ≤ 65535)
  | .packetInject qp node => decide (qp < 16777216) && decide (node ≤ 65535)
  | .packetForward inport vc => inOk inport && decide (vc.vc ≤ 11)
  | .escapeWaitExpire inport vc => inOk inport && decide (vc ≤ 11)
  | .residenceExpire inport vc => inOk inport && decide (vc ≤ 11)
  | .retransmitTimeout qp node => decide (qp < 16777216) && decide (node ≤ 65535)
  | .ackDelayExpire qp node => decide (qp < 16777216) && decide (node ≤ 65535)
  | .portLinkDown p sub => portOk p && subOk sub
  | .portLinkUp p sub _ => portOk p && subOk sub
  | .creditFrameTimer p => portOk p
  | .credit p => portOk p
  | .routeBegin => true
  | .routeWrite => true
  | .routeSeal => true
  | .inject => true
  | .retire => true
  | .intermediates => true
  | .address => true
  | .reply => true
  | .routeMessageRetry _ => true
  | .groupJoin => true
  | .formationTimeout _ => true
  | .collData => true
  | .chunkFoldComplete _ _ chunk => chunk.bad.all fuOk
  | .enter => true
  | .first => true
  | .done => true
  | .report => true
  | .decision => true
  | .free => true
  | .formed => true
  | .ready => true
  | .allEntered => true
  | .entered => true
  | .groupTimeout _ => true
  | .decisionWaitTimeout _ => true
  | .fuScrubPass cluster unit _ _ => clusterOk cluster && fuOk unit
  | .planStart _ => true
  | .bundleIssue _ member => member.bad.all fun k => decide (k ≤ 4)
  | .stageComplete _ _ _ => true
  | .waitRelease _ => true
  | .planEnd _ => true
  | .planResume _ => true
  | .scrub unit _ => unit.ok
  | .refresh unit => unit.unit.ok && unit.decays.all fun d => decide (d.code < 64)
  | .rowRepairComplete unit _ => unit.ok
  | .pcSpareComplete h pc => decide (h ≤ 23) && decide (pc ≤ 63)
  | .fwCopyRebuild g => galOk g
  | .laneFail p lane => portOk p && decide (lane ≤ 8)
  | .laneSwap p => portOk p
  | .laneSwapDone p => portOk p
  | .retrainComplete p => portOk p
  | .frameStart p sub => portOk p && subOk sub
  | .pauseFrame p sub => portOk p && subOk sub
  | .pauseExpire p sub cls => portOk p && subOk sub && decide (cls ≤ 7)
  | .gateIntervalEnd p sub => portOk p && subOk sub
  | .gateBankSwitch p sub => portOk p && subOk sub
  | .gateCommit p sub _ => portOk p && subOk sub
  | .gateEnable p sub _ => portOk p && subOk sub
  | .statHalfClear p sub word _ => portOk p && subOk sub && decide (word ≤ 1)
  | .hpModeWrite _ => true
  | .hostLinkUp hp _ => hpOk hp
  | .perstAssert hp => hpOk hp
  | .hotReset hp => hpOk hp
  | .hostLinkDown hp => hpOk hp
  | .pcieFlr f => fnOk f
  | .ltrMessage hp _ _ => hpOk hp
  | .vfEnableSet _ => true
  | .vfEnableClear => true
  | .mboxSendToMgr f => fnOk f
  | .tenAck f => fnOk f
  | .mboxSendToTen f => fnOk f
  | .mgrAck f => fnOk f
  | .functionEnable => true
  | .functionDisable => true
  | .quiesce => true
  | .quiesced f => fnOk f
  | .functionResume => true
  | .functionReset _ => true
  | .fenceDrainEnd domain => domain.ok
  | .functionResetComplete f => fnOk f
  | .dirtyEnable => true
  | .dirtyDisable => true
  | .swap => true
  | .swapComplete f => fnOk f
  | .getVersion _ => true
  | .getCapabilities _ => true
  | .negotiateAlgorithms _ => true
  | .getDigests _ => true
  | .getCertificate _ => true
  | .challenge _ => true
  | .getMeasurements _ => true
  | .sign => true
  | .agree => true
  | .slotLoad _ => true
  | .slotErase _ => true
  | .commitSvn => true
  | .revoke k => decide (k ≤ 3)
  | .cipherParityFault p _ => portOk p
  | .lldpTransmit p sub => portOk p && subOk sub
  | .lldpReceive p => portOk p
  | .tree => true
  | .treeTimer => true
  | .treeStable => true
  | .subtree => true
  | .agentRouteRetire => true
  | .hello p => portOk p
  | .helloAck p => portOk p
  | .helloRetry p => portOk p
  | .park p => portOk p
  | .portWake p => portOk p
  | .block _ => true
  | .start _ => true
  | .processorReady proc _ => decide (proc ≤ 7)
  | .startTimeout => true
  | .bootReport => true
  | .clearFailures => true
  | .clearService => true
  | .packageReset => true
  | .poweredTimeUpdate => true
  | .watchdogFire proc _ => decide (proc ≤ 7)
  | .ipcMessage sender _ => decide (sender ≤ 7)
  | .portReset p => decide (p ≤ 63)
  | .clusterReset cluster => decide (cluster ≤ 63)
  | .galleryReset g => decide (g ≤ 63)
  | .engineHang engine => engine.ok
  | .longWait waiter => waiter.ok
  | .replayTimeout cluster => clusterOk cluster
  | .replayComplete cluster => clusterOk cluster
  | .fuRetire cluster unit => clusterOk cluster && fuOk unit
  | .catalogueWrite => true
  | .conservationCycle g _ => galOk g
  | .conservationRun g => galOk g
  | .temperatureCheck g _ => galOk g
  | .voltageSettled g _ => galOk g
  | .powerStateEntry g => galOk g
  | .galleryWake g => galOk g
  | .powerMeasure _ _ => true
  | .ladderStep _ => true
  | .snapshotTake => true
  | .snapshotRelease => true
  | .snapshotTimer => true
  | .snapshotEdge => true
  | .stop => true
  | .stopIn => true
  | .stopHalt => true
  | .boundaryWaitExpire => true
  | .scan => true
  | .scanComplete => true
  | .stopResume => true
  | .stopRelease => true
  | .gapClear g _ => galOk g
  | .event => true
  | .gateCycleStart p sub => portOk p && subOk sub
  | .powerRemoval => true
  | .aerUncorrectableError f => fnOk f
  | .memoryPortFailure g => galOk g
  | .domainResetComplete domain => domain.ok
  | .suspectReplayComplete cluster => clusterOk cluster

end Sys2Proof
end

