-- ==== Sys2Proof/Machine/Memory.lean ====
section
/-! DEFINITION. Memory as a canonical list of address and byte pairs: reading, writing, clearing and undefining ranges
(notes/assumptions/10.md). -/

namespace Sys2Proof.Machine

/-- The byte of the newest undefined range that holds an address, if one does (R254, R300). -/
def undefByte : List (Nat × Nat × Nat) → Nat → Option Byte
  | [], _ => none
  | (b, n, e) :: r, a => if b ≤ a ∧ a < b + n then some (Config.freeByte e a) else undefByte r a

/-- Whether an address lies in a range whose contents are undefined. -/
def isUndef (u : List (Nat × Nat × Nat)) (a : Nat) : Bool := u.any fun r => decide (r.1 ≤ a ∧ a < r.1 + r.2.1)

/-- What an unlisted address reads as: the free byte of its undefined range, else zero. -/
def Mem.blank (m : Mem) (a : Nat) : Byte := (undefByte m.undef a).getD 0

def cellGet : List Host.Cell → Nat → Option Byte
  | [], _ => none
  | (k, v) :: r, a => if a = k then some v else if a < k then none else cellGet r a

/-- One byte of memory. -/
def Mem.get (m : Mem) (a : Nat) : Byte := (cellGet m.cells a).getD (m.blank a)

/-- n bytes of memory from address a. -/
def Mem.read (m : Mem) (a n : Nat) : List Byte := (List.range n).map fun i => m.get (a + i)

/-- The list with one byte put in, in rising order; a byte that the list need not hold is left out. -/
def cellPut (keep : Bool) : List Host.Cell → Nat → Byte → List Host.Cell
  | [], a, b => if keep then [(a, b)] else []
  | (k, v) :: r, a, b =>
    if a = k then (if keep then (a, b) :: r else r)
    else if a < k then (if keep then (a, b) :: (k, v) :: r else (k, v) :: r)
    else (k, v) :: cellPut keep r a b

/-- One byte written. A zero is listed only where the range is undefined, so that equal memories are equal data. -/
def Mem.put (m : Mem) (a : Nat) (b : Byte) : Mem :=
  { m with cells := cellPut (b != 0 || isUndef m.undef a) m.cells a b }

/-- Bytes written at address a and on. -/
def Mem.write (m : Mem) (a : Nat) : List Byte → Mem
  | [] => m
  | b :: r => (m.put a b).write (a + 1) r

/-- An undefined range without the part that [b, b + n) covers. -/
def cutRange (b n : Nat) (r : Nat × Nat × Nat) : List (Nat × Nat × Nat) :=
  let e := r.1 + r.2.1
  (if r.1 < b then [(r.1, Nat.min e b - r.1, r.2.2)] else []) ++
  (if b + n < e then [(Nat.max r.1 (b + n), e - Nat.max r.1 (b + n), r.2.2)] else [])

/-- A range set to zero. -/
def Mem.clear (m : Mem) (b n : Nat) : Mem :=
  { cells := m.cells.filter fun c => !decide (b ≤ c.1 ∧ c.1 < b + n)
    undef := m.undef.flatMap (cutRange b n) }

/-- A range whose contents become undefined, by event e. -/
def Mem.undefine (m : Mem) (b n e : Nat) : Mem :=
  { cells := m.cells.filter fun c => !decide (b ≤ c.1 ∧ c.1 < b + n)
    undef := (b, n, e) :: m.undef }

def cellsRising : List Host.Cell → Bool
  | [] => true
  | [_] => true
  | x :: y :: r => decide (x.1 < y.1) && cellsRising (y :: r)

/-- The canonical form: addresses strictly rising, and a zero listed only inside an undefined range. -/
def Mem.wf (m : Mem) : Bool := cellsRising m.cells && m.cells.all fun c => c.2 != 0 || isUndef m.undef c.1

/-- The key of a byte of commander memory (R61): host port and bus address. -/
def hostKey (hp bus : Nat) : Nat := hp * 2 ^ 64 + bus % 2 ^ 64

/-- TCLK time, with that of inventory stops (R32, R490, R494). -/
def State.time (s : State) : Nat := s.tclk + s.dbg.stopTime

/-- What commanders stored before a command, in order, put into their memories. -/
def State.withStores (s : State) (l : List HostStore) : State :=
  { s with host := l.foldl (fun m x => m.write (hostKey x.port x.addr) x.bytes) s.host }

end Sys2Proof.Machine
end

