-- ==== Sys2Proof/Machine/Registers.lean ====
section
/-! DEFINITION. The set-up registers of chapter 17: offsets, reset values, the fields that a plain write reaches, and the values
that the other chapters read from them. Registers are held as 32-bit words. -/

namespace Sys2Proof.Machine

/-- The key of a register word: function and BAR0 offset. -/
def regKey (f off : Nat) : Nat := f * 2 ^ 23 + off

/-- The start of port p's block (R505). -/
def portBase (p : Nat) : Nat := 0x040000 + p * 0x4000

/-- The start of a sub-port's page (R506). -/
def subBase (p sub : Nat) : Nat := portBase p + 0x0800 + 0x700 * sub

/-- The start of gallery g's block (R507). -/
def galBase (g : Nat) : Nat := 0x100000 + g * 0x2000

/-- Reset of GAL_TRACE_BASE (Table 17.8). -/
def galTraceReset (g : Nat) : Nat := if g = 5 then 0x117FDC000000 else 0x103FFC000000 + g * 0x4000000000

/-- The word at offset w of a 64-bit value. -/
def wordOf (v w : Nat) : Nat := if w = 0 then v % 2 ^ 32 else v / 2 ^ 32 % 2 ^ 32

/-- Reset words of a port's registers (Tables 17.5, 17.6). -/
def portReset (p o : Nat) : Nat :=
  if o = 0x0000 then 0xB8A60008
  else if o = 0x0008 then 0x240014E4
  else if o = 0x000C then 0x0000FFFF
  else if o = 0x0010 ∨ o = 0x0014 then wordOf (Config.macBase.toNat + 8 * p) (o - 0x0010)
  else if o = 0x0018 then 0x10000000
  else if o = 0x0020 then 0x00010805
  else if o = 0x0028 then 0x3DCADD92
  else if o = 0x0030 then 0x20610200
  else if o = 0x0034 then 0x0000E30A
  else if 0x0040 ≤ o ∧ o < 0x0070 then
    (if o < 0x0058 then 0x0800 else if o < 0x0068 then 0x0400 else 0)
  else if 0x0800 ≤ o ∧ o < 0x4000 then
    let q := (o - 0x0800) % 0x700
    if 0x400 ≤ q ∧ q < 0x440 then (if q % 8 = 4 then 0x00004001 else if q = 0x438 then 0x64 else 0)
    else if q = 0x468 then 1000000
    else 0
  else 0

/-- Reset words of a gallery's registers (Table 17.7). -/
def galReset (g o : Nat) : Nat :=
  if o = 0x008 then 0x0118180A
  else if o = 0x010 then 0x0000FF02
  else if o = 0x018 ∨ o = 0x01C then wordOf (galTraceReset g) (o - 0x018)
  else 0

/-- MSI-X vectors of a function (Table 12.10), and where its table lies (Table 12.5). -/
def vectorsOf (f : Nat) : Nat := if f = 0 then 2048 else if f < 256 then 64 else 256
def msixBase (f : Nat) : Nat := if f = 0 then 0x180000 else 0x2000

/-- A word of the MSI-X table of a function. -/
def inMsix (f off : Nat) : Bool := decide (msixBase f ≤ off ∧ off < msixBase f + 16 * vectorsOf f)

/-- The fields of a word of an MSI-X table entry: message address, message data, vector control (PCIe). -/
def msixFields (off : Nat) : List (Nat × Nat) := if off % 16 = 0 then [(31, 2)] else if off % 16 = 12 then [(0, 0)] else [(31, 0)]

/-- Its reset value: every vector is masked (PCIe). -/
def msixReset (f off : Nat) : Nat := if inMsix f off && off % 16 == 12 then 1 else 0

/-- The reset value of a register word (Tables 17.3 to 17.10). -/
def regReset (f off : Nat) : Nat :=
  if f ≠ 0 then msixReset f off
  else if off = 0x010008 then 0xF0000000
  else if off = 0x01000C then 0x0000117F
  else if off = 0x010010 then 0x00100000
  else if off = 0x010020 then 0x00100800
  else if 0x010040 ≤ off ∧ off < 0x010080 then (if off % 8 = 0 then 0x001010CD else 0x10040040)
  else if off = 0x010408 then 0x00010A64
  else if off = 0x010440 then 0x00000048
  else if off = 0x010448 then 0x00000FFF
  else if 0x040000 ≤ off ∧ off < 0x080000 then portReset ((off - 0x040000) / 0x4000) ((off - 0x040000) % 0x4000)
  else if 0x100000 ≤ off ∧ off < 0x10C000 then galReset ((off - 0x100000) / 0x2000) ((off - 0x100000) % 0x2000)
  else if off = 0x120000 then 0x00000100
  else if off = 0x120020 then 0x00000A00
  else msixReset 0 off

/-- The stored word of a register. -/
def State.word (s : State) (f off : Nat) : Nat :=
  match tget s.regs (regKey f off) with
  | some w => w.toNat
  | none => regReset f off

def State.setWord (s : State) (f off v : Nat) : State :=
  { s with regs := tset s.regs (regKey f off) (BitVec.ofNat 32 v) }

/-- A stored 64-bit register. -/
def State.dword (s : State) (f off : Nat) : Nat := s.word f off + 2 ^ 32 * s.word f (off + 4)

def State.setDword (s : State) (f off v : Nat) : State := (s.setWord f off (v % 2 ^ 32)).setWord f (off + 4) (v / 2 ^ 32)

/-- A run of register words as bytes. -/
def State.regBytes (s : State) (f off n : Nat) : List Byte :=
  ((List.range (n / 4)).map fun i => leBytes 4 (s.word f (off + 4 * i))).flatten

def State.setRegBytes (s : State) (f off : Nat) (l : List Byte) : State :=
  (List.range (l.length / 4)).foldl (fun s i => s.setWord f (off + 4 * i) (fld l (4 * i) 4)) s

/-- The registers without those of a function between two offsets: they hold their reset values (R500). -/
def State.resetRegs (s : State) (f lo hi : Nat) : State :=
  { s with regs := s.regs.filter fun e => !decide (regKey f lo ≤ e.1 ∧ e.1 < regKey f hi) }

/-! Fields that other chapters read. -/

def State.hwinBase (s : State) (f : Nat) : Nat := s.dword f 0x1028
def State.mirrorBase (s : State) (f : Nat) : Nat := s.dword f 0x1030
def State.portSwitched (s : State) (p : Nat) : Bool := bit (s.word 0 (portBase p)) 0
/-- PORT_ZFT_CFG.max_payload; direct mode uses 4,096 (Table 5.1). The reserved value 3 is taken as 4,096. -/
def State.portPayload (s : State) (p : Nat) : Nat :=
  if s.portSwitched p then
    match bits (s.word 0 (portBase p)) 3 2 with
    | 0 => 1024
    | 1 => 2048
    | _ => 4096
  else 4096
def State.udpPort (s : State) (p : Nat) : Nat := bits (s.word 0 (portBase p)) 31 16
def State.breakout (s : State) (p : Nat) : Nat := bits (s.word 0 (portBase p + 8)) 1 0
/-- Sub-ports under the breakout (Table 11.1). -/
def State.subCount (s : State) (p : Nat) : Nat := 2 ^ s.breakout p
def State.portEnabled (s : State) (p : Nat) : Bool := bit (s.word 0 (portBase p + 8)) 2
def State.macCfgBit (s : State) (p n : Nat) : Bool := bit (s.word 0 (portBase p + 8)) n
def State.overhead (s : State) (p : Nat) : Nat := bits (s.word 0 (portBase p + 8)) 15 8
def State.maxFrame (s : State) (p : Nat) : Nat := bits (s.word 0 (portBase p + 8)) 29 16
def State.pfcQuanta (s : State) (p : Nat) : Nat := bits (s.word 0 (portBase p + 12)) 15 0
def State.rawTc (s : State) (p : Nat) : Nat := bits (s.word 0 (portBase p + 12)) 18 16
/-- The MAC address of a sub-port (R348). -/
def State.macAddr (s : State) (p sub : Nat) : Nat := (s.dword 0 (portBase p + 0x10) % 2 ^ 48 + sub) % 2 ^ 48
def State.vcClass (s : State) (p vc : Nat) : Nat := bits (s.word 0 (portBase p + 0x28)) (3 * vc + 2) (3 * vc)
def State.dscp (s : State) (p tc : Nat) : Nat := bits (s.dword 0 (portBase p + 0x30)) (6 * tc + 5) (6 * tc)
def State.vcBuf (s : State) (p vc : Nat) : Nat := bits (s.word 0 (portBase p + 0x40 + 4 * vc)) 14 0
def State.respTc (s : State) (p : Nat) : Nat := bits (s.word 0 (portBase p + 0x20)) 2 0
def State.xoffCredits (s : State) (p : Nat) : Nat := bits (s.word 0 (portBase p + 0x20)) 21 8
/-- HUB_ROUTE_CFG (Table 6.9): residence in ns and escape wait in ns. -/
def State.hopResidence (s : State) : Nat := bits (s.word 0 0x010020) 15 8 * 1000
def State.escapeWait (s : State) : Nat := bits (s.word 0 0x010020) 23 16 * 125
def State.valiant (s : State) (tc : Nat) : Bool := bits (s.word 0 0x010024) (2 * tc + 1) (2 * tc) == 1
def State.fmNode (s : State) : Option Nat :=
  if bit (s.word 0 0x010028) 24 then some (bits (s.word 0 0x010028) 15 0) else none
/-- HUB_CC_CLASSn (Table 6.15). -/
def State.ccClass (s : State) (tc hi lo : Nat) : Nat := bits (s.dword 0 (0x010040 + 8 * tc)) hi lo
/-- HUB_GATE_OFFSET, signed (R359). -/
def State.gateTime (s : State) : Int := (s.time : Int) + toSigned 64 (s.dword 0 0x010080)
def State.fnSel (s : State) : Nat := bits (s.word 0 0x010100) 15 0
def State.peerBase (s : State) (n : Nat) : Nat := s.dword 0 (0x010200 + 16 * n)
def State.peerSize (s : State) (n : Nat) : Nat := s.word 0 (0x010200 + 16 * n + 8) * 4096
def State.hangTimeout (s : State) : Nat := bits (s.word 0 0x010408) 7 0 * 1000000
def State.replayTimeout (s : State) : Nat := bits (s.word 0 0x010408) 15 8 * 1000000
def State.replayOn (s : State) : Bool := bit (s.word 0 0x010408) 16
def State.powerCap (s : State) : Nat := bits (s.word 0 0x010440) 6 0 * 25
def State.qpcBase (s : State) : Nat := s.dword 0 0x010008
def State.qpcCount (s : State) : Nat := bits (s.word 0 0x010010) 20 0
def State.qpcHost (s : State) : Bool := bit (s.word 0 0x010010) 24
def State.traceBase (s : State) (g : Nat) : Nat := s.dword 0 (galBase g + 0x18)
def State.traceSize (s : State) (g : Nat) : Nat := bits (s.word 0 (galBase g + 0x10)) 22 16 * 1048576
def State.snapHold (s : State) : Bool := bit (s.word 0 0x120000) 2
def State.snapEvent (s : State) (n : Nat) : Bool := bit (s.word 0 0x120000) (8 + n)
def State.snapPeriod (s : State) : Nat := bits (s.word 0 0x120000) 31 16
def State.stopEvent (s : State) (n : Nat) : Bool := bit (s.word 0 0x120020) (16 + n)

/-! The fields that a plain write reaches. -/

/-- A field that software can write: its bits, the least and greatest value that a write may give it, and whether writes reach it
at this moment. A value outside the range, or not a multiple of the unit, leaves the field as it is, also where its table does not say that such
a write is ignored (notes/assumptions/13.md). -/
structure Field where
  hi : Nat
  lo : Nat
  least : Nat := 0
  greatest : Nat := 0xFFFFFFFF
  unit : Nat := 1
  free : Bool := true

/-- Whether a route leads to a port: by its minimal set, or by its escape. -/
def RouteEntry.uses (r : RouteEntry) (p : Nat) : Bool := r.mask.getLsbD p || (r.valid && r.escape == p)

/-- Whether the port appears in a route of a slot that is not INVALID: what a port carries as an installed route (R342). -/
def State.carriesRoute (s : State) (p : Nat) : Bool :=
  s.slots.any fun e => decide (e.2.state ≠ .invalid) && (e.2.rest.uses p || e.2.table.any fun r => r.2.uses p)

/-- Credits of a port that its buffers of other VCs take (R215). -/
def State.otherCredits (s : State) (p v : Nat) : Nat := sum (((List.range 12).filter (· != v)).map (s.vcBuf p))

/-- Whether any QP other than QP 0 exists (R175). -/
def State.anyQp (s : State) : Bool := s.qps.any fun e => e.1 != 0

def portFields (s : State) (p o : Nat) : List Field :=
  let c := !s.carriesRoute p
  if o = 0x0000 then
    [{ hi := 0, lo := 0, least := if s.breakout p = 0 then 0 else 1, free := c }, { hi := 3, lo := 2 }, { hi := 31, lo := 16 }]
  else if o = 0x0008 then
    [{ hi := 1, lo := 0, greatest := if s.portSwitched p then 3 else 0, free := c }, { hi := 2, lo := 2 }, { hi := 15, lo := 4 },
     { hi := 29, lo := 16, least := 1518, greatest := 9216 }]
  else if o = 0x000C then [{ hi := 18, lo := 0 }]
  else if o = 0x0010 then [{ hi := 31, lo := 0 }]
  else if o = 0x0014 then [{ hi := 15, lo := 0 }]
  else if o = 0x0018 then [{ hi := 31, lo := 24 }]
  else if o = 0x0020 then [{ hi := 2, lo := 0 }, { hi := 21, lo := 8 }]
  else if o = 0x0028 then [{ hi := 29, lo := 0 }]
  else if o = 0x0030 then [{ hi := 31, lo := 0 }]
  else if o = 0x0034 then [{ hi := 15, lo := 0 }]
  else if 0x0040 ≤ o ∧ o < 0x0070 then
    let v := (o - 0x0040) / 4
    [{ hi := 14, lo := 0, least := if v < 10 then 132 else 0, greatest := 16384 - s.otherCredits p v, free := c }]
  else if 0x0200 ≤ o ∧ o < 0x0600 then
    (match (o - 0x0200) % 16 with
     | 0 => [{ hi := 31, lo := 0 }]
     | 4 => [{ hi := 27, lo := 0 }]
     | 8 => [{ hi := 25, lo := 0 }]
     | _ => [{ hi := 31, lo := 0 }])
  else if 0x0600 ≤ o ∧ o < 0x0700 then
    (if (o - 0x0600) % 16 = 12 then [{ hi := 3, lo := 0 }] else [{ hi := 31, lo := 0 }])
  else if 0x0800 ≤ o ∧ o < 0x4000 then
    let sub := (o - 0x0800) / 0x700
    let q := (o - 0x0800) % 0x700
    if s.subCount p ≤ sub then []
    else if 0x400 ≤ q ∧ q < 0x440 then
      (if q % 8 = 0 then [{ hi := 13, lo := 0, greatest := 16000 }, { hi := 31, lo := 16 }]
       else [{ hi := 7, lo := 0 }, { hi := 15, lo := 8, least := if q < 0x430 then 1 else 0 }])
    else if q = 0x460 ∨ q = 0x464 then [{ hi := 31, lo := 0 }]
    else if q = 0x468 then [{ hi := 31, lo := 0, least := 256 }]
    else if q = 0x46C then [{ hi := 0, lo := 0 }]
    else if 0x500 ≤ q ∧ q < 0x700 then
      let bank := (q - 0x500) / 0x100
      let oper := ((tget s.ports p).bind fun x => tget x.subs sub).elim 0 (·.bank)
      [{ hi := 31, lo := 0, free := bank != oper }]
    else []
  else []

def galFields (s : State) (g o : Nat) : List Field :=
  if o = 0x008 then
    [{ hi := 7, lo := 0, least := 1 }, { hi := 15, lo := 8, least := 1 }, { hi := 23, lo := 16, least := 1 }, { hi := 24, lo := 24 }]
  else if o = 0x010 then
    [{ hi := 1, lo := 0 }, { hi := 15, lo := 8 },
     { hi := 22, lo := 16, greatest := 64, free := !bit (s.word 0 (galBase g + 0x010)) 0 }]
  else if o = 0x014 then [{ hi := 16, lo := 0 }]
  else if o = 0x018 then [{ hi := 31, lo := 20 }]
  else if o = 0x01C then [{ hi := 31, lo := 0 }]
  else []

/-- The fields of PF0's own registers (Tables 17.4 to 17.10). -/
def pfFields (s : State) (off : Nat) : List Field :=
  let noQp := !s.anyQp
  if off = 0x010008 then [{ hi := 31, lo := 12, free := noQp }]
  else if off = 0x01000C then [{ hi := 31, lo := 0, free := noQp }]
  else if off = 0x010010 then
    [{ hi := 20, lo := 0, least := 32768, greatest := 1048576, unit := 4096, free := noQp }, { hi := 24, lo := 24, free := noQp }]
  else if off = 0x010020 then [{ hi := 15, lo := 8, least := 1, greatest := 64 }, { hi := 23, lo := 16, least := 2 }]
  else if off = 0x010024 then [{ hi := 15, lo := 0 }]
  else if off = 0x010028 then [{ hi := 15, lo := 0 }, { hi := 24, lo := 24 }]
  else if 0x010040 ≤ off ∧ off < 0x010080 then
    (if off % 8 = 0 then
       [{ hi := 7, lo := 0, least := 1 }, { hi := 15, lo := 8, least := 2 }, { hi := 31, lo := 16, least := 1 }]
     else [{ hi := 15, lo := 0, least := 1 }, { hi := 23, lo := 16, least := 1 }, { hi := 31, lo := 24, least := 1 }])
  else if off = 0x010080 ∨ off = 0x010084 then [{ hi := 31, lo := 0 }]
  else if off = 0x010100 then [{ hi := 15, lo := 0 }]
  else if 0x010200 ≤ off ∧ off < 0x010400 then
    let shut := ((tget s.peers ((off - 0x010200) / 16)).elim false (·.valid))
    (match (off - 0x010200) % 16 with
     | 0 => [{ hi := 31, lo := 12, free := !shut }]
     | 12 => []
     | _ => [{ hi := 31, lo := 0, free := !shut }])
  else if off = 0x010408 then [{ hi := 7, lo := 0, least := 1 }, { hi := 15, lo := 8, least := 1 }, { hi := 16, lo := 16 }]
  else if off = 0x010440 then [{ hi := 6, lo := 0, least := 36, greatest := 72 }]
  else if off = 0x010448 then [{ hi := 12, lo := 0 }]
  else if 0x040000 ≤ off ∧ off < 0x080000 then portFields s ((off - 0x040000) / 0x4000) ((off - 0x040000) % 0x4000)
  else if 0x100000 ≤ off ∧ off < 0x10C000 then galFields s ((off - 0x100000) / 0x2000) ((off - 0x100000) % 0x2000)
  else if 0x110040 ≤ off ∧ off < 0x110070 then [{ hi := 31, lo := 0 }]
  else if 0x110180 ≤ off ∧ off < 0x1101E0 then [{ hi := 31, lo := 0 }]
  else if off = 0x110200 then [{ hi := 15, lo := 0 }]
  else if 0x110240 ≤ off ∧ off < 0x110268 then [{ hi := 31, lo := 0 }]
  else if off = 0x120000 then [{ hi := 2, lo := 2 }, { hi := 13, lo := 8 }, { hi := 31, lo := 16 }]
  else if 0x120010 ≤ off ∧ off < 0x120018 then [{ hi := 31, lo := 0 }]
  else if off = 0x120018 then [{ hi := 0, lo := 0 }]
  else if off = 0x120020 then [{ hi := 5, lo := 0 }, { hi := 15, lo := 8, least := 1 }, { hi := 21, lo := 16 }]
  else if 0x120030 ≤ off ∧ off < 0x120040 then [{ hi := 31, lo := 0 }]
  else if inMsix 0 off then (msixFields off).map fun x => { hi := x.1, lo := x.2 }
  else []

/-- Whether a segment of a context of the function lies in a host window and is not FREE (R503). -/
def State.hwinInUse (s : State) (f : Nat) : Bool :=
  s.ctxs.any fun c => c.2.owner == f && c.2.segs.any fun g =>
    decide (g.2.state ≠ .free) && !g.2.imported && bit g.2.base 47 && !bit g.2.base 46

/-- Whether the function has negotiated EVC_MIRROR, feature bit 3 (R139, R430). -/
def mirrorNegotiated (fn : Function) : Bool :=
  match fn.neg with
  | .agreed _ _ feats => feats.getLsbD 3
  | _ => false

/-- The fields of the registers that every function has (Table 17.3). -/
def fnFields (s : State) (f : Nat) (fn : Function) (off : Nat) : List Field :=
  if off = 0x1000 then [{ hi := 4, lo := 0 }, { hi := 12, lo := 8 }]
  else if 0x1008 ≤ off ∧ off < 0x1028 then [{ hi := 31, lo := 0, free := !fn.admin.enable }]
  else if off = 0x102C then [{ hi := 31, lo := 12, free := !s.hwinInUse f }]
  else if off = 0x1030 ∨ off = 0x1034 then [{ hi := 31, lo := 0, free := mirrorNegotiated fn }]
  else if 0x1100 ≤ off ∧ off < 0x1200 ∧ f ≠ 0 then [{ hi := 31, lo := 0, free := !fn.mgrFull }]
  else if inMsix f off then (msixFields off).map fun x => { hi := x.1, lo := x.2 }
  else []

/-- A word with a field given a value. -/
def setBits (w hi lo v : Nat) : Nat :=
  w - bits w hi lo * 2 ^ lo + v % 2 ^ (hi + 1 - lo) * 2 ^ lo

/-- A word after a write under a list of fields (R5). A value that a field's table does not allow leaves the field as it was, where no rule says what
such a write does (notes/assumptions/13.md). -/
def mergeFields (old new : Nat) (l : List Field) : Nat :=
  l.foldl (fun w x =>
    let v := bits new x.hi x.lo
    if x.free && decide (x.least ≤ v ∧ v ≤ x.greatest ∧ v % x.unit = 0) then setBits w x.hi x.lo v else w) old

/-- A plain write of one word to a register. -/
def State.writeWord (s : State) (f : Nat) (fn : Function) (off v : Nat) : State :=
  let l := if off < 0x10000 then fnFields s f fn off else if f = 0 then pfFields s off else []
  if l.isEmpty then s else s.setWord f off (mergeFields (s.word f off) v l)

end Sys2Proof.Machine
end

