-- ==== Sys2Proof/Machine/Access.lean ====
section
/-! DEFINITION. Access to the parts of the state, event and byte counters, address translation, and reads and writes of the local
address space with poison, refusal by hosts and dirty logging (chapters 2, 10 and 12). -/

namespace Sys2Proof.Machine

/-! ### Parts of the state -/

def State.fn (s : State) (f : Nat) : Function := tgetD s.fns f {}
def State.modFn (s : State) (f : Nat) (g : Function → Function) : State := { s with fns := tmodD s.fns f {} g }
def State.port (s : State) (p : Nat) : Port := tgetD s.ports p {}
def State.modPort (s : State) (p : Nat) (g : Port → Port) : State := { s with ports := tmodD s.ports p {} g }
def State.sub (s : State) (p i : Nat) : SubPort := tgetD (s.port p).subs i {}
def State.modSub (s : State) (p i : Nat) (g : SubPort → SubPort) : State :=
  s.modPort p fun x => { x with subs := tmodD x.subs i {} g }
def State.gal (s : State) (g : Nat) : Gallery := tgetD s.gals g {}
def State.modGal (s : State) (g : Nat) (h : Gallery → Gallery) : State := { s with gals := tmodD s.gals g {} h }
def State.cluster (s : State) (c : Nat) : Cluster := tgetD s.clusters c {}
def State.modCluster (s : State) (c : Nat) (g : Cluster → Cluster) : State :=
  { s with clusters := tmodD s.clusters c {} g }
def State.hp (s : State) (n : Nat) : HostPort := tgetD s.hps n {}
def State.modHp (s : State) (n : Nat) (g : HostPort → HostPort) : State := { s with hps := tmodD s.hps n {} g }
def qKey (f q : Nat) : Nat := f * 65536 + q
def State.sq (s : State) (f q : Nat) : Option Sq := tget s.sqs (qKey f q)
def State.modSq (s : State) (f q : Nat) (g : Sq → Sq) : State := { s with sqs := tmod s.sqs (qKey f q) g }
def State.cq (s : State) (f q : Nat) : Option Cq := tget s.cqs (qKey f q)
def State.modCq (s : State) (f q : Nat) (g : Cq → Cq) : State := { s with cqs := tmod s.cqs (qKey f q) g }
def State.modEq (s : State) (f : Nat) (g : Cq → Cq) : State := { s with eqs := tmod s.eqs f g }
def State.modCtx (s : State) (c : Nat) (g : Context → Context) : State := { s with ctxs := tmod s.ctxs c g }
def State.modQp (s : State) (q : Nat) (g : Qp → Qp) : State := { s with qps := tmod s.qps q g }
def State.modGroup (s : State) (i : Nat) (g : Group → Group) : State := { s with groups := tmod s.groups i g }
def State.modOp (s : State) (id : Nat) (g : Op → Op) : State := { s with ops := updAll (fun o => o.id == id) g s.ops }
def State.op (s : State) (id : Nat) : Option Op := s.ops.find? fun o => o.id == id
def State.modSec (s : State) (g : Sec → Sec) : State := { s with sec := g s.sec }
def State.modDbg (s : State) (g : Debug → Debug) : State := { s with dbg := g s.dbg }
def State.modBoot (s : State) (g : Boot → Boot) : State := { s with boot := g s.boot }
def State.modNor (s : State) (g : Nor → Nor) : State := { s with nor := g s.nor }
def State.modRecov (s : State) (g : Recovery → Recovery) : State := { s with recov := g s.recov }

/-- The node ID in force. -/
def State.node (s : State) : Nat := s.boot.node.toNat

/-- The host port through which a function is attached (R363). -/
def fnPort (f : Nat) : Nat := if f < 256 then 0 else f - 256

/-- All ACLK and FCLK activity runs: powered, out of reset, and not in an inventory stop (R490). -/
def State.live (s : State) : Bool :=
  decide (s.activity = .running) &&
    match s.dbg.stop with
    | .stopped | .scanning | .scanned => false
    | _ => true

/-- The emulated registers are served: MP firmware runs (R371, R373, R424, R433). -/
def State.served (s : State) : Bool := s.live && s.boot.stage == 3

/-- Whether the ZD24 fetches for a function and reads its doorbell records (R113, R385). -/
def State.serving (s : State) (f : Nat) : Bool := decide ((s.fn f).state = .active) && !(s.fn f).halted

/-- A cluster whose reset, or whose gallery's, is under way takes no new work (R445). -/
def State.clusterFenced (s : State) (c : Nat) : Bool :=
  s.recov.fences.any fun x => x.domain == .cluster c || x.domain == .gallery (c / 8) || x.domain == .package

/-- ACLK cycles of a gallery so far: 10 GHz by the divider in force since its last change (R34, R36). -/
def State.aclkNow (s : State) (g : Nat) : Nat :=
  let x := s.gal g
  x.aclk + (s.tclk - x.aclkAt) * 10 / ([4, 5, 6, 8].getD x.divider 4)

/-- A cluster on which suspects are replayed (R453). -/
def State.replaying (s : State) (c : Nat) : Bool := s.recov.replays.any fun r => r.cluster == c

/-- A cluster that new work may be dispatched to: not fenced, nor held for a timetable change (R51) or a replay. -/
def State.clusterOpen (s : State) (c : Nat) : Bool := (s.gal (c / 8)).hold.isNone && !s.clusterFenced c && !s.replaying c

/-- A free value drawn: its number, and the state with the next one. -/
def State.draw (s : State) : Nat × State := (s.free, { s with free := s.free + 1 })

/-! ### Counters (R478) -/

def counterId (block inst idx : Nat) : Nat := block * 2 ^ 24 + inst * 2 ^ 12 + idx

def State.counter (s : State) (id : Nat) : W64 := tgetD s.counters id 0

/-- A counter increased by n, modulo 2^64 (R480). -/
def State.count (s : State) (block inst idx n : Nat) : State :=
  if n = 0 then s
  else { s with counters := tmodD s.counters (counterId block inst idx) 0 fun v => v + BitVec.ofNat 64 n }

def State.countFn (s : State) (f idx n : Nat) : State := s.count 0x07 f idx n

/-- A discard, counted at the port on which the packet arrived (R479); one carried within the node counts at port 0. -/
def State.discard (s : State) (port idx : Nat) : State := s.count 0x05 (if port < 16 then port else 0) idx 1

/-! ### The local address map (R59, R60, R323, R327) -/

inductive Region where
  | tierA (cluster : Nat)
  | tierB (stack pc : Nat)
  | tierC (chan : Nat)
  | host (hp : Nat)
  | device
  | none
  deriving DecidableEq, Repr

/-- The top of backed tier C: FN_MEM_TOP (R373). -/
def State.memTop (s : State) : Nat :=
  0x200000000000 + s.tiers.ddr.chans.length * (s.tiers.ddr.gib * 2 ^ 30)

/-- The stack of a tier-B address (R323). -/
def stackOf (a : Nat) : Nat :=
  let o := a - 0x100000000000
  4 * (o / 2 ^ 38) + o % 2 ^ 38 / 4096 % 4

/-- The pseudo-channel of a tier-B address (R323). -/
def pcOf (a : Nat) : Nat :=
  let o := (a - 0x100000000000) % 2 ^ 38
  (o / 2 ^ 14 * 4096 + o % 4096) / 256 % 64

/-- Whether logical cluster c is present (R31). -/
def State.present (s : State) (c : Nat) : Bool :=
  decide (c < 48) && ((s.gal (c / 8)).phys.getD (c % 8) none).isSome

/-- The memory or window that a local address names, `none` where nothing backs it (R60). -/
def State.region (s : State) (a : Nat) : Region :=
  if a < 0x48000000 then (if s.present (a / 0x1800000) then .tierA (a / 0x1800000) else .none)
  else if 0x100000000000 ≤ a ∧ a < 0x118000000000 then .tierB (stackOf a) (pcOf a)
  else if 0x200000000000 ≤ a ∧ a < s.memTop then
    .tierC (s.tiers.ddr.chans.getD ((a - 0x200000000000) / 4096 % s.tiers.ddr.chans.length) 0)
  else if 0x800000000000 ≤ a ∧ a < 0xC00000000000 then .host ((a - 0x800000000000) / 2 ^ 44)
  else if 0xF00000000000 ≤ a ∧ a < 2 ^ 48 then .device
  else .none

/-- The range of Table 2.1 that contains a local address: first and last address. -/
def mapRange (a : Nat) : Nat × Nat :=
  if a < 0x100000000 then (0, 0xFFFFFFFF)
  else if a < 0x100000000000 then (0x100000000, 0x0FFFFFFFFFFF)
  else if a < 0x118000000000 then (0x100000000000, 0x117FFFFFFFFF)
  else if a < 0x200000000000 then (0x118000000000, 0x1FFFFFFFFFFF)
  else if a < 0x228000000000 then (0x200000000000, 0x227FFFFFFFFF)
  else if a < 0x800000000000 then (0x228000000000, 0x7FFFFFFFFFFF)
  else if a < 0xC00000000000 then
    (0x800000000000 + (a - 0x800000000000) / 2 ^ 44 * 2 ^ 44, 0x800000000000 + (a - 0x800000000000) / 2 ^ 44 * 2 ^ 44 + 2 ^ 44 - 1)
  else if a < 0xF00000000000 then (0xC00000000000, 0xEFFFFFFFFFFF)
  else (0xF00000000000, 0xFFFFFFFFFFFF)

/-- Whether every address from lo to hi, which lie in one range of Table 2.1, is backed (R60). -/
def State.backed (s : State) (lo hi : Nat) : Bool :=
  if hi < 0x100000000 then
    decide (hi < 0x48000000) &&
      (List.range (hi / 0x1800000 + 1 - lo / 0x1800000)).all fun i => s.present (lo / 0x1800000 + i)
  else decide (s.region lo ≠ .none) && decide (s.region hi ≠ .none)

/-- The regions that Table 10.2 reserves, as base and length (R325, R320, R175, R288, R489). -/
def State.reserved (s : State) : List (Nat × Nat) :=
  ((List.range 6).filterMap fun g => (s.gal g).fwHome.map fun c => (c * 0x1800000 + 0x800000, 0x1000000)) ++
  (if s.qpcHost then [] else [(s.qpcBase, s.qpcCount * 256)]) ++
  [(0x117FE0000000, 0x10000000)] ++
  ((List.range 6).filterMap fun g => if s.traceSize g = 0 then none else some (s.traceBase g, s.traceSize g))

/-- The gallery of a DDR channel (Table 1.3). -/
def chanGallery (d : Nat) : Nat :=
  if d < 4 then 0 else if d < 7 then 1 else if d < 10 then 2 else if d < 14 then 3 else if d < 17 then 4 else 5

/-- The galleries whose cluster ports, HBM4 ports and, where asked, DDR channel ports serve a range of local addresses (R22, R327, Table 1.3). -/
def State.memGals (s : State) (a n : Nat) (ddr : Bool) : List Nat :=
  let span := fun (base size : Nat) => (List.range ((a + n - 1 - base) / size + 1 - (a - base) / size)).map ((a - base) / size + ·)
  if n = 0 then []
  else if a < 0x48000000 then (span 0 0xC000000).filter (· < 6)
  else if 0x100000000000 ≤ a ∧ a < 0x118000000000 then (span 0x100000000000 0x4000000000).filter (· < 6)
  else if ddr && decide (0x200000000000 ≤ a ∧ a < s.memTop) then
    let k := s.tiers.ddr.chans.length
    let first := (a - 0x200000000000) / 4096
    (List.range (Nat.min k ((a + n - 1 - 0x200000000000) / 4096 + 1 - first))).map fun i => chanGallery (s.tiers.ddr.chans.getD ((first + i) % k) 0)
  else []

/-- Two ranges, each a base and a length, share a byte. -/
def overlaps (a n b m : Nat) : Bool := decide (a < b + m ∧ b < a + n ∧ 0 < n ∧ 0 < m)

/-! ### Interrupts and records -/

/-- Whether the MSI-X table of a function masks a vector. -/
def State.masked (s : State) (f v : Nat) : Bool := bit (s.word f (msixBase f + 16 * v + 12)) 0

/-- The message of a vector sent. In root-port mode it is a memory write on HPn (R369). -/
def State.sendMsix (s : State) (f v : Nat) : State :=
  let s := { s with irqs := (f, v) :: s.irqs }
  if f > 256 ∧ (s.hp (fnPort f)).mode = 2 then
    { s with host := s.host.write (hostKey (fnPort f) (s.dword f (0x2000 + 16 * v))) (leBytes 4 (s.word f (0x2008 + 16 * v))) }
  else s

/-- A vector of a function raised (R376): its message is sent, or, while the vector is masked, its pending bit is set (R502, PCIe). -/
def State.interrupt (s : State) (f v : Nat) : State :=
  if !s.masked f v then s.sendMsix f v
  else if s.msixPend.contains (f, v) then s else { s with msixPend := s.msixPend ++ [(f, v)] }

/-- A word of the MSI-X table has been written: a pending vector that is no longer masked sends its message (PCIe). -/
def State.unmask (s : State) (f off : Nat) : State :=
  let v := (off - msixBase f) / 16
  if inMsix f off && s.msixPend.contains (f, v) && !s.masked f v then
    State.sendMsix { s with msixPend := s.msixPend.filter fun x => x != (f, v) } f v
  else s

/-- A word of the pending-bit array of a function. -/
def State.pendingBits (s : State) (f i : Nat) : Nat :=
  (s.msixPend.filter fun x => x.1 == f && x.2 / 32 == i).foldl (fun w x => w ||| 2 ^ (x.2 % 32)) 0

/-! ### Dirty logging (R390) -/

/-- The bit of the device bitmap for a local address. -/
def dirtyIndex (a : Nat) : Nat :=
  if a < 0x100000000 then a / 2 ^ 21
  else if a < 0x200000000000 then 2048 + (a - 0x100000000000) / 2 ^ 21
  else 788480 + (a - 0x200000000000) / 2 ^ 21

/-- One bit of a bitmap on HP0 set. -/
def State.setBitmap (s : State) (base i : Nat) : State :=
  let k := hostKey 0 (base + i / 8)
  { s with host := s.host.put k (s.host.get k ||| BitVec.ofNat 8 (2 ^ (i % 8))) }

/-- A write of the function's to a local address, logged where the function is a VF that logs. -/
def State.logDevice (s : State) (f a : Nat) : State :=
  let d := (s.fn f).dirty
  if d.enable ∧ 1 ≤ f ∧ f ≤ 255 then s.setBitmap (if d.active then d.devMap1 else d.devMap0).toNat (dirtyIndex a) else s

/-- A write issued on HP0 under the VF's requester ID, logged. -/
def State.logHost (s : State) (f hp bus : Nat) : State :=
  let d := (s.fn f).dirty
  if d.enable ∧ 1 ≤ f ∧ f ≤ 255 ∧ hp = 0 then
    if d.hostBase.toNat ≤ bus ∧ bus < d.hostBase.toNat + d.hostLen.toNat then
      s.setBitmap (if d.active then d.hostMap1 else d.hostMap0).toNat ((bus - d.hostBase.toNat) / 4096)
    else s.modFn f fun x => { x with dirty := { x.dirty with overflow := true } }
  else s

/-! ### Reads and writes of memory -/

/-- Why an access ends its work (R331, R157, R69), as Table 10.4 describes it. -/
structure MemErr where
  source   : Nat := 0
  tier     : Nat := 0
  unit     : Nat := 0
  position : Nat := 0
  addr     : Nat := 0
  row      : Nat := 0
  deriving DecidableEq, Repr

/-- The data bytes of a codeword of a tier (Table 10.3). -/
def codeSize (r : Region) : Nat :=
  match r with
  | .tierA _ => 16
  | .tierB _ _ => 32
  | _ => 8

/-- The block, instance of the tier counters (Table 16.1). -/
def tierCounter (r : Region) : Nat × Nat :=
  match r with
  | .tierA c => (0x01, c)
  | .tierB h _ => (0x02, h)
  | .tierC d => (0x03, d)
  | _ => (0, 0)

/-- The error record of a line of a tier. -/
def tierErr (r : Region) (a source : Nat) : MemErr :=
  let line := a / 64 * 64
  match r with
  | .tierA c => { source, tier := 0, unit := c, addr := line }
  | .tierB h pc => { source, tier := 1, unit := h, position := pc, addr := line, row := Config.rowOf line }
  | .tierC d => { source, tier := 2, unit := d, position := 0xFF, addr := line, row := Config.rowOf line }
  | .host n => { source, tier := 4, unit := n, addr := a }
  | .device => { source, tier := 5, addr := a }
  | .none =>
    if a < 0x100000000 then { source, tier := 0, unit := a / 0x1800000, addr := line }
    else if a < 0x200000000000 then { source, tier := 1, addr := line } else { source, tier := 2, addr := line }

/-- Whether a codeword that [a, a + n) touches is uncorrectable (R328). -/
def State.badCode (s : State) (size a n : Nat) : Bool :=
  s.tiers.bad.any fun b => overlaps (b.1 + b.2 / size * size) size a n

/-- Faults of the lines that a test picks out of the tiers taken away: their data are written whole. -/
def Tiers.clean (t : Tiers) (p : Nat → Bool) : Tiers :=
  { t with bad := t.bad.filter fun b => !p b.1, soft := t.soft.filter fun b => !p b.line, poison := t.poison.filter fun l => !p l }

/-- A line poisoned and counted (R330); already poisoned, it is not counted again. -/
def State.poisonLine (s : State) (r : Region) (line : Nat) : State :=
  if s.tiers.poison.contains line then s
  else
    let t := s.tiers.clean fun l => l == line
    let s := { s with tiers := { t with poison := line :: t.poison } }
    s.count (tierCounter r).1 (tierCounter r).2 (match r with | .tierA _ => 3 | _ => 4) 1

/-- The key of a memory port's scrub. -/
def unitKey : MemUnit → Nat
  | .slice c => c
  | .stack h => 64 + h
  | .chan d => 128 + d

def State.scrubOf (s : State) (u : MemUnit) : Scrub := tgetD s.scrubs (unitKey u) {}
def State.modScrub (s : State) (u : MemUnit) (h : Scrub → Scrub) : State := { s with scrubs := tmodD s.scrubs (unitKey u) {} h }

/-- A row of a DRAM port is to be repaired: the copy to its spare begins (R337, R338). -/
def State.mendRow (s : State) (u : MemUnit) (pc row cause : Nat) : State :=
  s.modScrub u fun x => if x.rows.any (fun m => m.pc == pc && m.to_ == row) then x else { x with rows := x.rows ++ [{ pc, to_ := row, cause }] }

/-- A line that work finds uncorrectable: poisoned, and its DRAM row repaired at once (R330, R337). -/
def State.lineFails (s : State) (r : Region) (line : Nat) : State :=
  let s := s.poisonLine r line
  match r with
  | .tierB h pc => s.mendRow (.stack h) pc (Config.rowOf line) 2
  | .tierC d => s.mendRow (.chan d) 0 (Config.rowOf line) 2
  | _ => s

/-- A corrected symbol counted, at the slice, the stack and pseudo-channel, or the channel and device position (R329). -/
def State.countSymbol (s : State) (r : Region) (pos : Nat) : State :=
  match r with
  | .tierA c => s.count 0x01 c 2 1
  | .tierB h pc => (s.count 0x02 h 2 1).count 0x02 h (0x40 + pc) 1
  | .tierC d => (s.count 0x03 d 2 1).count 0x03 d (0x40 + pos) 1
  | _ => s

/-- The codewords with one symbol in error that [a, a + n) touches. -/
def State.softAt (s : State) (size a n : Nat) : List Soft :=
  s.tiers.soft.filter fun b => overlaps (b.line + b.code / size * size) size a n

/-- The wake time of a power state in ns (Table 15.8). -/
def wakeTime (state : Nat) : Nat :=
  match state with
  | 0 => 0
  | 1 => 40
  | 2 => 3000
  | _ => 30000

/-- Work reaches a gallery: its idle time starts again, and below U0 it wakes (R469). -/
def State.rouse (s : State) (g : Nat) : State :=
  s.modGal g fun x =>
    if x.power = 0 then { x with idleAt := s.tclk } else { x with idleAt := s.tclk, power := 0, waking := some (s.tclk + wakeTime x.power) }

/-- A gallery stands in U0, its wake over. -/
def State.awake (s : State) (g : Nat) : Bool := (s.gal g).power == 0 && (s.gal g).waking.all fun t => decide (t ≤ s.tclk)

/-- An access reaches the gallery whose slice or stack it is. -/
def State.touchTier (s : State) (r : Region) : State :=
  match r with
  | .tierA c => s.rouse (c / 8)
  | .tierB h _ => s.rouse (h / 4)
  | _ => s

/-- The bytes of one piece of a line of tiers A to C. -/
def State.readTier (s : State) (r : Region) (a n : Nat) : State × Except MemErr (List Byte) :=
  let s := s.touchTier r
  let line := a / 64 * 64
  if s.tiers.poison.contains line then (s, .error (tierErr r a 0))
  else if s.badCode (codeSize r) a n then (s.lineFails r line, .error (tierErr r a 0))
  else
    let s := (s.softAt (codeSize r) a n).foldl (fun s b => s.countSymbol r b.pos) s
    (s.count (tierCounter r).1 (tierCounter r).2 0 n, .ok (s.tiers.mem.read a n))

/-- One piece of a line of tiers A to C written (R330). -/
def State.writeTier (s : State) (r : Region) (a : Nat) (l : List Byte) : State × Option MemErr :=
  let s := s.touchTier r
  let n := l.length
  let line := a / 64 * 64
  let size := codeSize r
  let lo := a / size * size
  let hi := (a + n - 1) / size * size
  let partLo := decide (lo < a ∨ (lo = hi ∧ a + n < lo + size))
  let partHi := decide (a + n < hi + size)
  if n = 64 then
    let t := s.tiers.clean fun x => x == line
    let s := { s with tiers := { t with mem := t.mem.write a l } }
    (s.count (tierCounter r).1 (tierCounter r).2 1 n, none)
  else if s.tiers.poison.contains line then (s, some (tierErr r a 2))
  else if (partLo && s.badCode size lo 1) || (partHi && s.badCode size hi 1) then (s.lineFails r line, some (tierErr r a 2))
  else
    let merged := (if partLo then s.softAt size lo 1 else []) ++ (if partHi && decide (lo ≠ hi) then s.softAt size hi 1 else [])
    let s := merged.foldl (fun s b => s.countSymbol r b.pos) s
    let soft := s.tiers.soft.filter fun b => !overlaps (b.line + b.code / size * size) size a n
    let keep := fun (b : Nat × Nat) =>
      !decide (a ≤ b.1 + b.2 / size * size ∧ b.1 + b.2 / size * size + size ≤ a + n)
    let s := { s with tiers := { s.tiers with bad := s.tiers.bad.filter keep, soft, mem := s.tiers.mem.write a l } }
    (s.count (tierCounter r).1 (tierCounter r).2 1 n, none)

/-- Whether a host port answers an access with UR or CA (R157). -/
def State.hostRefuses (s : State) (hp bus n : Nat) : Bool :=
  (s.hp hp).refuses.any fun r => overlaps r.1 r.2 bus n

/-- A read of commander memory (R61). -/
def State.readHost (s : State) (hp bus n : Nat) : State × Option (List Byte) :=
  if s.hostRefuses hp bus n then (s.count 0x06 hp 4 1, none)
  else (s.count 0x06 hp 1 n, some (s.host.read (hostKey hp bus) n))

/-- A write to commander memory under a function's requester ID. -/
def State.writeHost (s : State) (f hp bus : Nat) (l : List Byte) : State × Bool :=
  if s.hostRefuses hp bus l.length then (s.count 0x06 hp 4 1, false)
  else
    let s := { s with host := s.host.write (hostKey hp bus) l }
    let s := if l.isEmpty then s else (s.logHost f hp bus).logHost f hp (bus + l.length - 1)
    (s.count 0x06 hp 0 l.length, true)

/-- The bus address of a local address in a host window, for the function that owns the segment (R61). -/
def State.busOf (s : State) (f a : Nat) : Nat := (s.hwinBase f + a % 2 ^ 44) % 2 ^ 64

/-- The segment through which an access goes: owner of the context, context, segment index. -/
structure Via where
  f   : Nat
  ctx : Nat
  seg : Nat
  deriving DecidableEq, Repr

def State.segment (s : State) (c i : Nat) : Segment := ((tget s.ctxs c).bind fun x => tget x.segs i).getD {}

/-- The generation of a segment index (R78). -/
def State.segGen (s : State) (c i : Nat) : Nat := tgetD s.gens (c * 16 + i) 0

/-- Whether an access through a segment meets a range of it that was lost (R321). -/
def State.lostRange (s : State) (v : Via) (a n : Nat) : Bool :=
  (s.segment v.ctx v.seg).lost.any fun r => overlaps r.1 r.2 a n

/-- One piece, within a 64-byte line, read through a segment. -/
def State.readPiece (s : State) (v : Via) (a n : Nat) : State × Except MemErr (List Byte) :=
  if s.lostRange v a n then (s, .error (tierErr (.tierA (a / 0x1800000)) a 0))
  else
    match s.region a with
    | .host hp =>
      match s.readHost hp (s.busOf v.f a) n with
      | (s, some l) => (s, .ok l)
      | (s, none) => (s, .error (tierErr (.host hp) a 0))
    | .device =>
      let g := (a - 0xF01000000000) / 0x4000000
      let o := (a - 0xF01000000000) % 0x4000000
      if 0xF01000000000 ≤ a ∧ g < 6 ∧ o < s.traceSize g then
        let b := s.traceBase g + o
        s.readTier (s.region b) b n
      else (s, .ok (List.replicate n 0))
    | .none => (s, .error (tierErr .none a 0))
    | r => s.readTier r a n

/-- One piece, within a 64-byte line, written through a segment. -/
def State.writePiece (s : State) (v : Via) (a : Nat) (l : List Byte) : State × Option MemErr :=
  if s.lostRange v a l.length then (s, some (tierErr (.tierA (a / 0x1800000)) a 0))
  else
    match s.region a with
    | .host hp =>
      match s.writeHost v.f hp (s.busOf v.f a) l with
      | (s, true) => (s, none)
      | (s, false) => (s, some (tierErr (.host hp) a 0))
    | .device => (s, none)
    | .none => (s, some (tierErr .none a 0))
    | r => (s.logDevice v.f a).writeTier r a l

/-- Reading piece by piece: what was read before the first failure, and the failure. -/
def State.readGo : Nat → State → Via → Nat → Nat → List Byte → State × List Byte × Option MemErr
  | 0, s, _, _, _, acc => (s, acc, none)
  | fuel + 1, s, v, a, n, acc =>
    if n = 0 then (s, acc, none)
    else
      let k := Nat.min n (64 - a % 64)
      match s.readPiece v a k with
      | (s, .ok l) => State.readGo fuel s v (a + k) (n - k) (acc ++ l)
      | (s, .error e) => (s, acc, some e)

/-- n bytes read at a local address through a segment (R331). -/
def State.readVia (s : State) (v : Via) (a n : Nat) : State × List Byte × Option MemErr :=
  State.readGo (n / 64 + 2) s v a n []

def State.writeGo : Nat → State → Via → Nat → List Byte → State × Option MemErr
  | 0, s, _, _, _ => (s, none)
  | fuel + 1, s, v, a, l =>
    if l.isEmpty then (s, none)
    else
      let k := 64 - a % 64
      match s.writePiece v a (l.take k) with
      | (s, none) => State.writeGo fuel s v (a + k) (l.drop k)
      | (s, some e) => (s, some e)

/-- Bytes written at a local address through a segment; the pieces before a failure stay written. -/
def State.writeVia (s : State) (v : Via) (a : Nat) (l : List Byte) : State × Option MemErr :=
  State.writeGo (l.length / 64 + 2) s v a l

/-- The path by which a write to a local address reaches memory (Table 4.10). -/
def State.pathOf (s : State) (f a : Nat) : Path :=
  match s.region a with
  | .host 0 =>
    match (s.peers.find? fun e => e.2.valid && decide (s.peerBase e.1 ≤ s.busOf f a ∧ s.busOf f a < s.peerBase e.1 + s.peerSize e.1)) with
    | some e => .peer e.1
    | none => .host 0
  | .host n => .host n
  | .tierA _ => .tierA
  | .tierC _ => .tierC
  | _ => .tierB

def addPath (p : Path) (l : List Path) : List Path := if l.contains p then l else l ++ [p]

/-- Whether an access lies in a registered range that is reported unreachable (R157). Of an empty range the address alone is looked at
(R518 step 2). -/
def State.unreachable (s : State) (f a n : Nat) : Bool :=
  match s.region a with
  | .host 0 => s.peers.any fun e => e.2.valid && e.2.state == 2 && overlaps (s.peerBase e.1) (s.peerSize e.1) (s.busOf f a) (Nat.max n 1)
  | _ => false

/-! ### Translation (R63, R67, R68) -/

inductive Right where
  | read | write | atomic | fold | planExec
  deriving DecidableEq, Repr

def Segment.has (g : Segment) (r : Right) : Bool :=
  match r with
  | .read => g.read
  | .write => g.write
  | .atomic => g.atomic
  | .fold => g.fold
  | .planExec => g.planExec

/-- A translated device address: its segment, the fabric address, and the reference it takes. -/
structure Trans where
  via    : Via
  addr   : Nat
  ref    : Ref
  seg    : Segment
  deriving DecidableEq, Repr

/-- Local translation of len bytes at a device address (R67); with `empty` step 3 is left out (R127). -/
def State.translate (s : State) (f c dev len : Nat) (r : Right) (empty : Bool := false) : Except Status Trans :=
  let i := dev / 2 ^ 60 % 16
  let o := dev % 2 ^ 60
  let g := s.segment c i
  if g.state ≠ .active then .error .locSeg
  else if !g.has r then .error .locSeg
  else if !empty && decide (g.limit + 1 < o + len) then .error .locLen
  else .ok { via := { f, ctx := c, seg := i }, addr := (g.base + o) % 2 ^ 64, ref := { ctx := c, seg := i, gen := s.segGen c i }, seg := g }

/-- The local address of a fabric address. -/
def localOf (a : Nat) : Nat := a % 2 ^ 48
def nodeOf (a : Nat) : Nat := a / 2 ^ 48

/-- Translation of a local buffer: an import segment is no segment of this node's memory. -/
def State.translateLocal (s : State) (f c dev len : Nat) (r : Right) : Except Status Trans :=
  match s.translate f c dev len r with
  | .ok t => if t.seg.imported then .error .locSeg else .ok t
  | e => e

end Sys2Proof.Machine
end

