-- ==== Sys2Proof/Machine/Ops.lean ====
section
/-! DEFINITION. The named operations over queues, completions, event counters, traces and error records that every family of
commands shares (chapters 3, 4, 10 and 16). -/

namespace Sys2Proof.Machine

/-! ### Status codes (Table 17.13) -/

def Status.code : Status → Nat
  | .ok => 0x00 | .locLen => 0x11 | .locSeg => 0x12 | .locMalformed => 0x13 | .locAdmRefused => 0x14
  | .locAdmNoResource => 0x15 | .locPeerUnreachable => 0x16 | .locTriggerAborted => 0x17 | .locDest => 0x18
  | .locPlanSignature => 0x19 | .locPlanArgs => 0x1A | .locRawRefused => 0x1B | .remAccess => 0x21 | .remSegWithdrawn => 0x22
  | .xportRetryExceeded => 0x31 | .xportQpError => 0x32 | .xportQpIdle => 0x33 | .xportNoPeer => 0x34
  | .collAbortTimeout => 0x41 | .collMismatch => 0x42 | .collMemberLost => 0x43 | .collGroupDown => 0x44
  | .collFormFailed => 0x45 | .collMemberFault => 0x46 | .secKeyExhausted => 0x51 | .secLen => 0x52
  | .memUncorrectable => 0x61 | .devFenced => 0x71 | .devFnHalted => 0x72 | .devDrainTimeout => 0x73 | .devGuilty => 0x74
  | .devNegFailed => 0x75

/-! ### The TVEs of plans, as the inventory stop sees them (R493, R494) -/

/-- Every TVE of the run is idle, or waits before bundle 0 or at another boundary (R493). -/
def PlanRun.waits (r : PlanRun) : Bool := !r.started || r.members.all fun m => m.ended || m.atBound || (m.issued == 0 && !m.passed)

/-- Every TVE of the run is idle or stands at a boundary, be it one that it may go on from (R494, R307). -/
def PlanRun.atRest (r : PlanRun) : Bool := !r.started || r.members.all fun m => m.ended || m.atBound || m.passed || m.issued == 0

def State.tvesWait (s : State) : Bool := s.runs.all PlanRun.waits
def State.tvesAtRest (s : State) : Bool := s.runs.all PlanRun.atRest

/-! ### Snapshots and stops: triggers (R484, R485, R491, R493) -/

/-- A snapshot trigger latched; while the shadow is held it is ignored and counted. -/
def State.snapTrigger (s : State) (mask : Nat) : State :=
  if s.dbg.held then s.modDbg fun d => { d with missed := Nat.min 255 (d.missed + 1) }
  else s.modDbg fun d => { d with snapDue := some (d.snapDue.getD (s.time + 8)), snapTrig := Nat.lor d.snapTrig mask }

/-- The stop is taken: its halt edge is the 10th FCLK edge, 5 ns on. -/
def State.stopTaken (s : State) : State :=
  let s := s.modDbg fun d => { d with haltDue := some (s.time + 5), boundBy := none }
  if bit (s.word 0 0x120020) 2 then { s with lands := { s.lands with stopOut := true } } else s

/-- A stop trigger; one that arrives while a stop is pending or in force is ignored. -/
def State.stopTrigger (s : State) (cause : Nat) : State :=
  if s.dbg.stop ≠ .running then s
  else
    let s := s.modDbg fun d => { d with stop := .pending, cause }
    if bit (s.word 0 0x120020) 4 && !s.tvesWait then
      s.modDbg fun d => { d with boundBy := some (s.tclk + bits (s.word 0 0x120020) 15 8 * 100000) }
    else s.stopTaken

/-- A pending stop taken once every TVE is idle or waits (R493). -/
def State.checkStop (s : State) : State :=
  if s.dbg.stop = .pending ∧ s.dbg.boundBy.isSome ∧ s.tvesWait then s.stopTaken else s

/-- An event of Table 16.4: it triggers what DBG_SNAP_CTRL and DBG_STOP_CFG enable. -/
def State.event (s : State) (n : Nat) : State :=
  let s := if s.snapEvent n then s.snapTrigger 8 else s
  if s.stopEvent n then s.stopTrigger 3 else s

/-! ### Trace records (R486–R488) -/

def maskMatch (id value mask : Nat) : Bool := Nat.land id mask == Nat.land value mask

/-- Whether the IDs match DBG_TRACE_MARK (Table 16.9). -/
def State.markMatch (s : State) (layer oper : Nat) : Bool :=
  maskMatch layer (bits (s.word 0 0x120010) 15 0) (bits (s.word 0 0x120010) 31 16) &&
  maskMatch oper (bits (s.word 0 0x120014) 15 0) (bits (s.word 0 0x120014) 31 16)

/-- Whether packets of matching jobs carry TRACE. -/
def State.marksPackets (s : State) (layer oper : Nat) : Bool := bit (s.word 0 0x120018) 0 && s.markMatch layer oper

/-- A trace record lost. -/
def State.traceLose (s : State) (g : Nat) : State :=
  (s.modGal g fun x => { x with trace := { x.trace with lost := x.trace.lost + 1 } }).count 0x0B g 0x14 1

def State.traceWraps (s : State) (g : Nat) : Bool := bit (s.word 0 (galBase g + 0x10)) 1

/-- A buffer with no room for a record at its write pointer has ended. With wrap = 1 the pointer returns to the base; with wrap = 0 the buffer is
full (R488). -/
def TraceBuf.turn (t : TraceBuf) (size : Nat) (wrap : Bool) : TraceBuf :=
  if size = 0 ∨ t.ptr + 32 ≤ size then t else if wrap then { t with ptr := 0, wraps := t.wraps + 1 } else { t with full := true }

def State.traceTurn (s : State) (g : Nat) : State :=
  s.modGal g fun x => { x with trace := x.trace.turn (s.traceSize g) (s.traceWraps g) }

/-- One 32-byte record written to a gallery's buffer. A full buffer that does not wrap loses it. -/
def State.traceWrite (s : State) (g : Nat) (l : List Byte) : State :=
  let s := s.traceTurn g
  let t := (s.gal g).trace
  if t.full ∨ s.traceSize g = 0 then s.traceLose g
  else
    let a := s.traceBase g + t.ptr
    let s := (s.writeTier (s.region a) a l).1
    let s := s.modGal g fun x => { x with trace := { x.trace with ptr := t.ptr + 32 } }
    (s.traceTurn g).count 0x0B g 0x13 1

/-- Whether a record fits: in the staging buffer, 64 KiB, and not behind a buffer that is full or, without wrap, has ended. -/
def State.traceFits (s : State) (g : Nat) : Bool :=
  let t := (s.gal g).trace
  !t.full && s.traceSize g != 0 && decide (t.staged.length < 2048) && (s.traceWraps g || decide (t.ptr + 32 ≤ s.traceSize g))

/-- One record put into a gallery's staging buffer, and on into its buffer but while a conservation cycle holds the MAINT slots (R488) or a stop
keeps the memory in self-refresh (R490). -/
def State.tracePut (s : State) (g : Nat) (l : List Byte) : State :=
  if !s.traceFits g then (s.traceTurn g).traceLose g
  else if (s.gal g).cons.busy || !s.live then s.modGal g fun x => { x with trace := { x.trace with staged := x.trace.staged ++ [l] } }
  else s.traceWrite g l

/-- The staging buffer of a gallery written out. -/
def State.traceDrain (s : State) (g : Nat) : State :=
  ((s.gal g).trace.staged).foldl (fun (s : State) l => s.traceWrite g l)
    (s.modGal g fun x => { x with trace := { x.trace with staged := [] } })

/-- Bytes 0–15 of a trace record (Table 16.6). -/
def State.traceHead (s : State) (ty unit layer oper f : Nat) : List Byte :=
  leBytes 1 ty ++ leBytes 1 1 ++ leBytes 2 unit ++ leBytes 6 s.time ++ leBytes 2 layer ++ leBytes 2 oper ++ leBytes 2 f

/-- A trace record to a gallery, where its class, the function filter and the IDs let it pass (R486). -/
def State.trace (s : State) (g ty unit layer oper f : Nat) (tail : List Byte) (marked : Bool := false) : State :=
  let cfg := s.dword 0 (galBase g + 0x10)
  let general := decide (ty = 0x0E ∨ ty = 0x0F ∨ ty = 0x10)
  let cls := if ty = 0x0E ∨ ty = 0x10 then 6 else if ty = 0x0F then 7 else ty - 1
  let pass := bit cfg 0 && bit cfg (8 + cls) && (general || !bit cfg 48 || f == bits cfg 47 32) &&
    (general || marked || s.markMatch layer oper)
  if !pass then s
  else
    let t := (s.gal g).trace
    let s := if t.lost > 0 ∧ s.traceFits g ∧ bit cfg 15 then
        let s := s.modGal g fun x => { x with trace := { t with lost := 0 } }
        s.tracePut g (s.traceHead 0x0F 0xFFFF 0 0 0xFFFF ++ leBytes 4 t.lost ++ List.replicate 12 0)
      else s
    s.tracePut g (s.traceHead ty unit layer oper f ++ slice tail 0 16)

/-! ### Queue memory -/

/-- The segment-less access by which the ZD24 reaches a queue's own memory: addresses were translated at creation (R84). -/
def qVia (f c : Nat) : Via := { f, ctx := c, seg := 16 }

/-- Queue memory read; the admin pair lies at bus addresses (R85). None where the read fails. -/
def State.qRead (s : State) (f c q a n : Nat) : State × Option (List Byte) :=
  if q = 0 then s.readHost (fnPort f) a n
  else match s.readVia (qVia f c) a n with
    | (s, l, none) => (s, some l)
    | (s, _, some _) => (s, none)

def State.qWrite (s : State) (f c q a : Nat) (l : List Byte) : State :=
  if q = 0 then (s.writeHost f (fnPort f) a l).1 else (s.writeVia (qVia f c) a l).1

/-! ### References (R76, R77) -/

/-- The reference of a request that a target still owes an answer. -/
def Reply.ref? (r : Reply) : Option Ref :=
  match r with
  | .ack .. => none
  | .read _ _ _ _ _ _ _ _ _ _ _ c g n => some { ctx := c, seg := g, gen := n }
  | .atomic _ _ _ _ _ _ c g n => some { ctx := c, seg := g, gen := n }

/-- Every reference that work holds: operations, and those whose CQE is still to be written; plan runs; queues; ME runs, those held for a replay among
them; requests at the target with answers owed, and FINAL writes held or waiting for flushing reads. -/
def State.allRefs (s : State) : List Ref :=
  s.ops.flatMap (·.refs) ++ s.spent.flatMap (·.refs) ++ s.runs.flatMap (·.refs) ++
  s.sqs.flatMap (fun e => e.2.refs) ++ s.cqs.flatMap (fun e => e.2.refs) ++ s.eqs.flatMap (fun e => e.2.refs) ++
  s.mes.flatMap (fun e => (e.2.running.elim [] (·.refs))) ++ s.recov.replays.flatMap (fun r => r.runs.flatMap (·.refs)) ++
  s.groups.flatMap (fun e => e.2.refs) ++
  s.qps.flatMap (fun e => e.2.ends.flatMap fun x => x.2.replies.filterMap Reply.ref?) ++
  s.qps.flatMap (fun e => e.2.ends.flatMap fun x => x.2.rx.filterMap fun r => r.final.map fun h => { ctx := h.ctx, seg := h.seg, gen := h.gen }) ++
  s.flags.filterMap (fun p =>
    match p.flag with
    | .final _ _ _ _ _ c g n _ _ _ => some { ctx := c, seg := g, gen := n }
    | _ => none)

/-- Whether work holds a reference on a generation of a segment; each generation is counted by itself (R77). -/
def State.referred (s : State) (c i gen : Nat) : Bool := s.allRefs.contains { ctx := c, seg := i, gen }

/-! ### Completion queues (R89, R91, R92, R94, R101) -/

/-- The CQE of a job (Table 3.7), its ownership bit not yet set. -/
def cqe (j : Job) (r : Report) (jobs failed : Nat) : List Byte :=
  slice j.head 4 4 ++ leBytes 4 j.seq.toNat ++ leBytes 2 j.q ++ leBytes 1 r.status.code ++ slice j.head 0 1 ++ leBytes 2 jobs ++
  leBytes 2 failed ++ leBytes 8 r.result ++ leBytes 4 r.nonce ++ leBytes 3 r.detail ++ leBytes 1 0x10

/-- An entry with the ownership bit of its pass (R92). -/
def withOwner (l : List Byte) (w : W32) (log2 : Nat) : List Byte :=
  splice l 31 (leBytes 1 (0x10 + if w.toNat / 2 ^ log2 % 2 = 0 then 0x80 else 0))

/-- K moved past every job, oldest first, whose CQEs are written (R104). -/
def kGo (bs : List Batch) : List Track → W32 → List Track × W32
  | [], k => ([], k)
  | t :: r, k =>
    let waits := match bs.find? fun b => b.no == t.batch with
      | some b => b.closer.isSome
      | none => false
    if t.done && !t.owes && !waits then kGo bs r t.stop else (t :: r, k)

def Sq.advanceK (q : Sq) : Sq :=
  let x := kGo q.batches q.undone q.k
  { q with undone := x.1, k := x.2, stale := q.stale || x.2 != q.k }

/-- The completed operation of a job, whose CQE is written or is not due, releases its place and its references (R76, R135). -/
def State.releaseJob (s : State) (f q : Nat) (n : W32) : State :=
  { s with spent := s.spent.filter fun o => !(o.job.f == f && o.job.q == q && o.job.seq == n) }

/-- What follows from a CQE having been written. -/
def State.cqeWritten (s : State) (h : HeldFor) : State :=
  match h with
  | .job f q n =>
    (s.releaseJob f q n).modSq f q fun x => ({ x with undone := updAll (fun t => t.head == n) (fun t => { t with owes := false }) x.undone }).advanceK
  | .batch f q no =>
    let closer := ((s.sq f q).bind fun x => x.batches.find? fun b => b.no == no).bind (·.closer)
    (closer.elim s fun j => s.releaseJob f q j.seq).modSq f q fun x => ({ x with batches := x.batches.filter fun b => b.no != no }).advanceK
  | .other => s

/-- One entry written at W of a CQ that has room. -/
def State.writeCqe (s : State) (f q : Nat) (c : Cq) (l : List Byte) (h : HeldFor) : State :=
  let s := s.qWrite f c.ctx q (c.ring + c.w.toNat % 2 ^ c.log2 * 32) (withOwner l c.w c.log2)
  let s := s.modCq f q fun x => { x with w := x.w + 1, armed := false, stale := true }
  let s := match c.armed, c.vector with
    | true, some v => s.interrupt f v
    | _, _ => s
  s.cqeWritten h

/-- An entry due to a CQ: written, or held while the CQ is full (R91); during a reset under R367 none is written (R445). -/
def State.postCqe (s : State) (f q : Nat) (l : List Byte) (h : HeldFor) : State :=
  match s.cq f q with
  | none => s.cqeWritten h
  | some c =>
    if (s.fn f).mute then s.cqeWritten h
    else if c.held.isEmpty && decide (gap32 c.w c.h < 2 ^ c.log2) then s.writeCqe f q c l h
    else (s.modCq f q fun x => { x with held := x.held ++ [(l, h)] }).countFn f 7 1

/-! ### Event counters (R136–R139) and what waits on them (R140, R144) -/

def State.evc (s : State) (c i : Nat) : W64 := ((tget s.ctxs c).elim 0 fun x => tgetD x.evc i 0)

/-- Bits [62:0] of a counter. -/
def evcCount (v : W64) : Nat := v.toNat % 2 ^ 63

/-- The error mark. -/
def evcMarked (v : W64) : Bool := v.getLsbD 63

/-- n added to bits [62:0], which wrap; the error mark stays (R137). -/
def evcPlus (v : W64) (n : Nat) : W64 :=
  BitVec.ofNat 64 ((evcCount v + n) % 2 ^ 63 + if evcMarked v then 2 ^ 63 else 0)

/-- The trigger counter and threshold of a job (Table 4.2). -/
def Job.trigCounter (j : Job) : Nat := fld j.head 38 2 % 256
def Job.threshold (j : Job) : Nat := fld j.head 42 6

/-- Whether the condition of an armed job holds (R140). -/
def State.condition (s : State) (j : Job) : Bool :=
  let v := s.evc j.ctx j.trigCounter
  evcMarked v || decide (j.threshold ≤ evcCount v)

/-- Armed jobs whose condition now holds take their turn, in the order in which they were armed; the mark that the comparison saw stays
with the job (R138). -/
def dueGo (s : State) : List Armed → Nat → List Armed
  | [], _ => []
  | a :: r, n =>
    if a.due.isNone && s.condition a.job then
      { a with due := some n, marked := evcMarked (s.evc a.job.ctx a.job.trigCounter) } :: dueGo s r (n + 1)
    else a :: dueGo s r n

def State.markDue (s : State) : State :=
  let next := 1 + maxOf (s.armed.map fun a => a.due.getD 0)
  { s with armed := dueGo s s.armed next }

/-- Runs that a program channel may have in all, 0 for no limit (Table 4.7). -/
def Channel.limit (c : Channel) : Nat := fld c.desc 48 4
def Channel.start (c : Channel) : Nat := bits (fld c.desc 1 1) 1 0

/-- The ME of a channel's key. -/
def meOf (key : Nat) : Nat := key / 16

/-- n further runs of a channel become ready, behind those that were ready before (R145). -/
def State.ready (s : State) (key n : Nat) (marked : Bool := false) (chainAt : Option Nat := none) : State :=
  match tget s.channels key with
  | none => s
  | some c =>
    let n := if c.limit = 0 then n else Nat.min n (c.limit - c.started)
    if n = 0 then s
    else
      let s := { s with channels := tset s.channels key { c with started := c.started + n } }
      let s := s.rouse (meOf key / 16)
      { s with mes := tmodD s.mes (meOf key) {} fun m => { m with ready := m.ready ++ [{ chan := key, k := c.started + 1, n, marked, chainAt }] } }

/-- Whether a run of the channel is ready or running. -/
def State.chanBusy (s : State) (key : Nat) : Bool :=
  let m := tgetD s.mes (meOf key) {}
  m.ready.any (·.chan == key) || m.running.any (·.chan == key)

/-- Whether a run of the channel that a counter's error mark made ready is ready or running. -/
def State.chanMarked (s : State) (key : Nat) : Bool :=
  let m := tgetD s.mes (meOf key) {}
  (m.ready ++ m.running.toList).any fun r => r.chan == key && r.marked

/-- Runs of COUNTER channels that their counter has made ready (R144): as many as its count has reached the threshold for, and where it is
marked one more, which will fail. Once its plan has failed no run becomes ready (R311). -/
def State.channelDue (s : State) (key : Nat) (c : Channel) : State :=
  if c.armed && c.start == 2 && !(s.runs.any fun r => r.id == c.run && r.failed.isSome) then
    let v := s.evc c.ctx (fld c.desc 6 2 % 256)
    let s := s.ready key (evcCount v / Nat.max 1 (fld c.desc 40 8) - c.started)
    if evcMarked v && !s.chanMarked key then s.ready key 1 true else s
  else s

/-- What follows when counters have changed. -/
def State.countersChanged (s : State) : State :=
  let s := s.markDue
  s.channels.foldl (fun s e => s.channelDue e.1 e.2) s

/-- Whether the function's counters are mirrored (R139). -/
def State.mirrored (s : State) (f : Nat) : Bool := mirrorNegotiated (s.fn f) && decide (s.mirrorBase f ≠ 0)

/-- A counter given a value; the mirror, if there is one, falls behind. -/
def State.setEvc (s : State) (c i : Nat) (v : W64) : State :=
  match tget s.ctxs c with
  | none => s
  | some x =>
    let d := if s.mirrored x.owner then addNew i x.dirty else x.dirty
    { s with ctxs := tset s.ctxs c { x with evc := if v = 0 then tdel x.evc i else tset x.evc i v, dirty := d } }

/-- n added to a counter, and what follows. -/
def State.addEvc (s : State) (c i n : Nat) : State := (s.setEvc c i (evcPlus (s.evc c i) n)).countersChanged

/-- The error mark of a counter set, and what follows. -/
def State.markEvc (s : State) (c i : Nat) : State := (s.setEvc c i (s.evc c i ||| (1#64 <<< 63))).countersChanged

/-- A job or channel signals a counter reference (R125, R137). -/
def State.signal (s : State) (c ref : Nat) (ok : Bool) : State :=
  if bit ref 15 then (if ok then s.addEvc c (ref % 256) 1 else s.markEvc c (ref % 256)) else s

/-- The RESET_SIGNAL of a job, when it is dispatched (Table 4.2). -/
def State.resetSignal (s : State) (j : Job) : State :=
  if bit (fld j.head 41 1) 0 && bit (fld j.head 36 2) 15 then s.setEvc j.ctx (fld j.head 36 2 % 256) 0 else s

/-! ### Jobs and their completion (R99, R137, R153) -/

def Job.opcode (j : Job) : Nat := fld j.head 0 1
def Job.layer (j : Job) : Nat := fld j.head 8 2
def Job.oper (j : Job) : Nat := fld j.head 10 2
def Job.qpn (j : Job) : Nat := fld j.head 12 3
def Job.near (j : Job) : Nat := fld j.head 16 8
def Job.far (j : Job) : Nat := fld j.head 24 8
def Job.len (j : Job) : Nat := fld j.head 32 4
def Job.inline (j : Job) : Bool := !j.conts.isEmpty
/-- Inline payload: the continuation entries in order (R98). -/
def Job.payload (j : Job) : List Byte := (j.conts.flatMap fun c => slice c 0 60).take j.len

/-- The gallery that receives OP_DONE (Table 16.5): that of the plan run, of the group's serving clusters or of the QP's home cluster;
G0 for other jobs. -/
def State.opGallery (s : State) (j : Job) : Nat :=
  if j.opcode = 8 then fld j.head 50 1
  else if 0x10 ≤ j.opcode then (tget s.groups (fld j.head 56 2)).elim 0 fun g => g.serving.headD 0 / 8
  else if 1 ≤ j.opcode ∧ j.opcode ≤ 5 then (tget s.qps j.qpn).elim 0 fun q => q.home / 8
  else 0

/-- The clusters that a job needs: its gang, its group's serving clusters, its QP's home cluster. -/
def State.jobClusters (s : State) (j : Job) : List Nat :=
  if j.opcode = 8 then (bitsSet 8 (fld j.head 51 1)).map fun k => 8 * fld j.head 50 1 + k
  else if 0x10 ≤ j.opcode then (tget s.groups (fld j.head 56 2)).elim [] (·.serving)
  else if 1 ≤ j.opcode ∧ j.opcode ≤ 5 then (tget s.qps j.qpn).elim [] fun q => [q.home]
  else []

/-- The galleries of the clusters that a job needs have work from now on (R469). -/
def State.rouseJob (s : State) (j : Job) : State := (s.jobClusters j).foldl (fun s c => s.rouse (c / 8)) s

/-- Whether a job is work of a reset domain (R444, R445). -/
def State.jobIn (s : State) (d : Domain) (j : Job) : Bool :=
  match d with
  | .function f => j.f == f
  | .port p => j.q != 0 && j.opcode == 6 && fld j.head 40 1 % 16 == p
  | .cluster c => j.q != 0 && (s.jobClusters j).contains c
  | .gallery g => j.q != 0 && (s.jobClusters j).any fun c => c / 8 == g
  | .package => true

/-- The galleries whose memory ports serve a buffer of a job. -/
def State.bufMem (s : State) (j : Job) (dev n : Nat) (r : Right) : List Nat :=
  match s.translateLocal j.f j.ctx dev n r with
  | .ok t => s.memGals (localOf t.addr) n true
  | .error _ => []

/-- The galleries whose memory ports serve the local address of a job of Table 4.1, or the input and the result of a collective. -/
def State.jobMem (s : State) (j : Job) : List Nat :=
  if 1 ≤ j.opcode ∧ j.opcode ≤ 7 ∧ !j.inline then s.bufMem j j.near j.len (if [2, 4, 7].contains j.opcode then .write else .read)
  else if 0x10 ≤ j.opcode ∧ j.opcode ≤ 0x15 then
    let k := if j.opcode = 0x12 then (tget s.groups (fld j.head 56 2)).elim 1 (·.members.length) else 1
    s.bufMem j j.near j.len .read ++ s.bufMem j (fld j.head 48 8) (j.len * k) .write
  else []

/-- A job is refused by a fence (R445), or else held for a gallery's timetable change (R51) or for a replay (R453). -/
def State.jobFenced (s : State) (j : Job) : Bool := s.recov.fences.any fun x => s.jobIn x.domain j
def State.jobHeld (s : State) (j : Job) : Bool :=
  !s.jobFenced j && ((s.jobClusters j).any (fun c => (s.gal (c / 8)).hold.isSome || s.replaying c) ||
    (s.jobMem j).any fun g => (s.gal g).hold.isSome)

/-- The CQE of a closed batch whose jobs have all completed (R99). -/
def State.closeBatch (s : State) (f q no : Nat) : State :=
  match s.sq f q with
  | none => s
  | some x =>
    match x.batches.find? fun b => b.no == no with
    | some b =>
      match b.closer with
      | some j =>
        if b.left = 0 ∧ !b.issued then
          let s := s.modSq f q fun y => { y with batches := updAll (fun b => b.no == no) (fun b => { b with issued := true }) y.batches }
          s.postCqe f x.cq (cqe j b.report b.jobs b.failed) (.batch f q no)
        else s
      | none => s
    | none => s

/-- A completed job reported: its own CQE if it failed or is an admin command, its batch's when that is done (R99). -/
def State.report (s : State) (j : Job) (r : Report) : State :=
  match s.sq j.f j.q with
  | none => s
  | some x =>
    match x.undone.find? fun t => t.head == j.seq with
    | none => s
    | some t =>
      let bad := r.status != .ok
      let own := bad || j.q == 0
      let upd := fun (b : Batch) => { b with
        left := b.left - 1
        failed := b.failed + ofBool bad
        report := if b.closer.any (·.seq == j.seq) then r else b.report }
      let s := s.modSq j.f j.q fun y => { y with
        undone := updAll (fun t => t.head == j.seq) (fun t => { t with done := true, owes := own }) y.undone
        batches := updAll (fun b => b.no == t.batch) upd y.batches }
      let mine := x.batches.find? fun b => b.no == t.batch
      let failed := mine.elim 0 (·.failed) + ofBool bad
      let due := own || (mine.bind (·.closer)).any (·.seq == j.seq)
      let s := if due then s else s.releaseJob j.f j.q j.seq
      let s := if own then
          s.postCqe j.f (if j.q = 0 then 0 else x.cq)
            (cqe j r (ofBool (j.q == 0)) (if j.q = 0 then ofBool bad else failed)) (.job j.f j.q j.seq)
        else s
      (s.closeBatch j.f j.q t.batch).modSq j.f j.q fun y => { y.advanceK with moved := s.tclk }

/-- The signal, counters, trace and CQE of a job that completes (R137, R478, R486). -/
def State.completeJob (s : State) (j : Job) (r : Report) (bytes : Nat) : State :=
  let ok := r.status == .ok
  let s := if j.q = 0 then s else s.signal j.ctx (fld j.head 36 2) ok
  let s := s.countFn j.f (if ok then 5 else 6) 1
  let s := if j.q = 0 then s else
    s.trace (s.opGallery j) 0x01 0xFFFF j.layer j.oper j.f
      (leBytes 4 j.seq.toNat ++ leBytes 2 j.q ++ leBytes 1 j.opcode ++ leBytes 1 r.status.code ++ leBytes 8 bytes)
  s.report j r

/-- The local addresses of the flags that a job's completion writes: its CQ, its state record, its mirror (R153). -/
def State.flagPaths (s : State) (j : Job) : List Path :=
  match s.sq j.f j.q with
  | none => []
  | some x =>
    let c := match s.cq j.f x.cq with
      | some c => [s.pathOf j.f c.ring]
      | none => []
    let m := if bit (fld j.head 36 2) 15 && s.mirrored j.f then [Path.host (fnPort j.f)] else []
    m.foldl (fun l p => addPath p l) (addPath (s.pathOf j.f x.srec) c)

/-- The paths to be flushed before flags on some paths: each flag waits for every other path (R153). -/
def toFlush (written flags : List Path) : List Path :=
  written.filter fun p => flags.any fun q => q != p

/-- Flushing reads on host paths are counted (Table 16.1). -/
def State.countFlush (s : State) (l : List Path) : State :=
  l.foldl (fun s p => match p with
    | .host n => s.count 0x06 n 3 1
    | .peer _ => s.count 0x06 0 3 1
    | _ => s) s

/-- A flag that waits for flushing reads (R153). -/
def State.addFlag (s : State) (f : Nat) (paths : List Path) (x : Flag) : State :=
  let id := 1 + maxOf (s.flags.map (·.id))
  { (s.countFlush paths) with flags := s.flags ++ [{ id, f, paths, flag := x }] }

/-- An operation is gone; the galleries it used have been busy until now. -/
def State.dropOp (s : State) (id : Nat) : State :=
  let s := match s.op id with
    | some o => s.rouseJob o.job
    | none => s
  { s with ops := s.ops.filter fun o => o.id != id }

/-- An operation has done its work: until its CQE is written it keeps its place in flight and its references (R76, R135). -/
def State.retireOp (s : State) (id : Nat) : State :=
  let o := s.op id
  let s := s.dropOp id
  { s with spent := s.spent ++ o.toList }

/-- A job of which an operation may be left completes. One that ends with DEV_FENCED, or whose SQ is gone, leaves nothing behind. -/
def State.finishJob (s : State) (op : Option Nat) (j : Job) (r : Report) (bytes : Nat) : State :=
  let s := (op.elim s s.retireOp).completeJob j r bytes
  if r.status = .devFenced ∨ (s.sq j.f j.q).isNone then s.releaseJob j.f j.q j.seq else s

/-- A job ends: at once, or once the flushing reads that its flags need have returned. -/
def State.endJob (s : State) (op : Option Nat) (j : Job) (r : Report) (written : List Path) (bytes : Nat) : State :=
  let off := (s.sq j.f j.q).elim true (·.flushOff)
  let need := if off then [] else toFlush written (s.flagPaths j)
  if need.isEmpty then s.finishJob op j r bytes
  else s.addFlag j.f need (.job op j r)

/-- An operation in flight ends with a report. One that already waits for its flags is left alone. -/
def State.endOp (s : State) (id : Nat) (r : Report) : State :=
  match s.op id with
  | none => s
  | some o =>
    if o.ended then s
    else
      let r := match o.nonce with
        | some n => { r with result := n.1.toNat, nonce := n.2.toNat }
        | none => r
      (s.modOp id fun x => { x with ended := true }).endJob (some id) o.job r o.paths o.bytes

/-- A job that fails without an operation. -/
def State.failJob (s : State) (j : Job) (st : Status) (detail : Nat := 0) : State :=
  s.endJob none j { status := st, detail } [] 0

/-- A path added to those an operation has written. -/
def State.opWrote (s : State) (id : Nat) (p : Path) (n : Nat) : State :=
  s.modOp id fun o => { o with paths := addPath p o.paths, bytes := o.bytes + n }

/-! ### State records, doorbell echoes (R102–R104) -/

/-- The 32 bytes of a state record (Table 3.9). -/
def stateRecord (seq done : W32) (cause haltSeq : Nat) (time : Nat) : List Byte :=
  leBytes 4 seq.toNat ++ leBytes 4 done.toNat ++ leBytes 1 cause ++ leBytes 1 (if cause = 0 then 0 else 1) ++ leBytes 2 0 ++
  leBytes 4 haltSeq ++ leBytes 8 time ++ List.replicate 8 0

def State.writeSqRecord (s : State) (f q : Nat) : State :=
  match s.sq f q with
  | none => s
  | some x =>
    let s := s.qWrite f x.ctx q x.srec (stateRecord x.c x.k x.cause x.haltSeq.toNat s.time)
    s.modSq f q fun y => { y with stale := false }

def State.writeCqRecord (s : State) (f q : Nat) : State :=
  match s.cq f q with
  | none => s
  | some x =>
    let s := s.qWrite f x.ctx q x.srec (stateRecord x.w 0 x.cause x.haltSeq.toNat s.time)
    s.modCq f q fun y => { y with stale := false }

def State.writeEqRecord (s : State) (f : Nat) : State :=
  match tget s.eqs f with
  | none => s
  | some x =>
    let s := s.qWrite f x.ctx 1 x.srec (stateRecord x.w 0 x.cause x.haltSeq.toNat s.time)
    s.modEq f fun y => { y with stale := false }

/-- The ZD24's half of a doorbell record: echo and park, as one write (R102). -/
def State.writeEcho (s : State) (f c q door : Nat) (echo : W32) (park : Bool) : State :=
  s.qWrite f c q (door + 8) (leBytes 4 echo.toNat ++ leBytes 1 (ofBool park) ++ leBytes 3 0)

def State.echoSq (s : State) (f q : Nat) : State :=
  match s.sq f q with
  | none => s
  | some x => s.writeEcho f x.ctx q x.door x.c (decide (x.place = .parked))

/-- W echoed by a CQ into its doorbell record. -/
def State.echoCq (s : State) (f q : Nat) : State :=
  match s.cq f q with
  | none => s
  | some x => s.writeEcho f x.ctx q x.door x.w false

def State.echoEq (s : State) (f : Nat) : State :=
  match tget s.eqs f with
  | none => s
  | some x => s.writeEcho f x.ctx 1 x.door x.w false

/-! ### Halting a function (R113, R114) and error records (R517) -/

/-- The halt record of Table 3.12. -/
def State.haltRecord (s : State) (f q cause : Nat) (seq : W32) (head entry : List Byte) : List Byte :=
  leBytes 1 0x13 ++ leBytes 1 1 ++ leBytes 1 cause ++ leBytes 1 0 ++ leBytes 2 f ++ leBytes 2 q ++ leBytes 4 seq.toNat ++
  slice head 4 4 ++ slice entry 0 1 ++ slice entry 62 1 ++ List.replicate 10 0 ++ leBytes 4 s.time

/-- A CQ's state record written, and its echo with it where W has moved since (R88, R104). -/
def State.settleCq (s : State) (f q : Nat) : State :=
  let moved := (s.cq f q).any (·.stale)
  let s := s.writeCqRecord f q
  if moved then s.echoCq f q else s

def State.settleEq (s : State) (f : Nat) : State :=
  let moved := (tget s.eqs f).any (·.stale)
  let s := s.writeEqRecord f
  if moved then s.echoEq f else s

/-- Every state record of the function written (R113). -/
def State.writeAllRecords (s : State) (f : Nat) : State :=
  let s := s.sqs.foldl (fun s e => if e.1 / 65536 = f then s.writeSqRecord f (e.1 % 65536) else s) s
  let s := s.cqs.foldl (fun s e => if e.1 / 65536 = f then s.settleCq f (e.1 % 65536) else s) s
  s.settleEq f

/-- Each job fetched but not dispatched completes with DEV_FN_HALTED. Admin commands run on. -/
def State.flushFetched (s : State) (f : Nat) : State :=
  s.sqs.foldl (fun s e =>
    if e.1 / 65536 = f ∧ e.1 % 65536 ≠ 0 then
      let s := s.modSq f (e.1 % 65536) fun x => { x with fetched := [], reread := none }
      e.2.fetched.foldl (fun s j => s.failJob j .devFnHalted) s
    else s) s

def causeSibling : Nat := 0x0A

/-- Causes and halt_seq for the state records: the queue at fault shows its own, every other SIBLING. A CQ or an error queue, which has
no C, shows W with SIBLING (notes/assumptions/76.md). -/
def State.markHalt (s : State) (f : Nat) (k : QueueKind) (q cause : Nat) (seq : W32) : State :=
  { s with
    sqs := s.sqs.map fun e => if e.1 / 65536 = f then
        (e.1, if k = .sq ∧ e.1 % 65536 = q then { e.2 with cause, haltSeq := seq } else { e.2 with cause := causeSibling, haltSeq := e.2.c })
      else e
    cqs := s.cqs.map fun e => if e.1 / 65536 = f then
        (e.1, if k = .cq ∧ e.1 % 65536 = q then { e.2 with cause, haltSeq := seq } else { e.2 with cause := causeSibling, haltSeq := e.2.w })
      else e
    eqs := s.eqs.map fun e => if e.1 = f then
        (e.1, if k = .eq then { e.2 with cause, haltSeq := seq } else { e.2 with cause := causeSibling, haltSeq := e.2.w })
      else e }

/-- The batch in which a malformed job was entered. -/
def Sq.batchOf (x : Sq) (n : W32) : Option Batch :=
  (x.undone.find? fun t => t.head == n).bind fun t => x.batches.find? fun b => b.no == t.batch

/-- Jobs of the open batch that have failed (R101). -/
def Sq.openFailed (x : Sq) : Nat := (x.batches.find? fun b => b.no == x.batchNo + 1).elim 0 (·.failed)

/-- The malformed job's own CQE, with the jobs of its batch that have failed, and the batch's where the job closes it (R99, R101, R113). -/
def State.malformed (s : State) (f q cause : Nat) (j : Job) : State :=
  match s.sq f q with
  | none => s
  | some x =>
    let b := x.batchOf j.seq
    let c := cqe j { status := .locMalformed, detail := cause } (ofBool (q == 0)) (b.elim (x.openFailed + 1) (·.failed))
    let s := (s.countFn f 6 1).postCqe f (if q = 0 then 0 else x.cq) c (.job f q j.seq)
    b.elim s fun b => (s.closeBatch f q b.no).modSq f q Sq.advanceK

/-- The whole function halts (R113): `bad` is the job at fault with its CQE still due, where an entry is at fault; `put` writes the halt
records (R114). -/
def State.haltWith (put : State → Nat → List Byte → State) (s : State) (f : Nat) (k : QueueKind) (q cause : Nat) (seq : W32) (bad : Option Job)
    (entry : List Byte) : State :=
  if (s.fn f).halted then s
  else
    let s := s.modFn f fun x => { x with halted := true, haltCause := cause, haltQueue := q }
    let s := bad.elim s fun j => s.malformed f q cause j
    let s := s.flushFetched f
    let s := s.markHalt f k q cause seq
    let s := s.writeAllRecords f
    let l := s.haltRecord f q cause seq (bad.elim [] (·.head)) entry
    let s := put s f l
    (if f = 0 then s else put s 0 l).event 2

def State.dropRecord (s : State) (f : Nat) (l : List Byte) : State :=
  s.countFn f (if l.head? = some 0x21 then 8 else 9) 1

/-- A 32-byte record written to a function's error queue while it has room, by the H last read, or dropped and counted (R517). -/
def State.putRecord (s : State) (f : Nat) (l : List Byte) : State :=
  match tget s.eqs f with
  | none => s.dropRecord f l
  | some e =>
    if gap32 e.w e.h ≥ 2 ^ e.log2 then s.dropRecord f l
    else
      let s := s.qWrite f e.ctx 1 (e.ring + e.w.toNat % 2 ^ e.log2 * 32) (slice l 0 32)
      let s := s.modEq f fun _ => { e with w := e.w + 1, armed := false, stale := true }
      match e.armed, e.vector with
      | true, some v => s.interrupt f v
      | _, _ => s

def causeRsvd : Nat := 0x01
def causeAccess : Nat := 0x09

/-- What a read of the doorbell record of a CQ or of an error queue finds: H, or the cause with which the function halts (Table 3.10). -/
def headOf (r : Option (List Byte)) : Except Nat W32 :=
  match r with
  | none => .error causeAccess
  | some l => if zeroAt l 4 4 then .ok (BitVec.ofNat 32 (fld l 0 4)) else .error causeRsvd

/-- The H of a full error queue read anew where the ZD24 still reads the function's doorbell records: whenever a record meets the full queue
(notes/assumptions/76.md). -/
def State.freshHead (put : State → Nat → List Byte → State) (s : State) (f : Nat) : State :=
  match tget s.eqs f with
  | none => s
  | some e =>
    if gap32 e.w e.h < 2 ^ e.log2 ∨ !s.serving f then s
    else
      let r := s.qRead f e.ctx 1 e.door 16
      match headOf r.2 with
      | .ok h => r.1.modEq f fun x => { x with h }
      | .error c => State.haltWith put r.1 f .eq 0 c e.w none []

/-- A record while PF0 halts for its own error queue: nothing is read any more. -/
def State.recordPf0 (s : State) (f : Nat) (l : List Byte) : State := (State.freshHead State.putRecord s f).putRecord f l

/-- A 32-byte record to a function's error queue (R517). -/
def State.record (s : State) (f : Nat) (l : List Byte) : State := (State.freshHead State.recordPf0 s f).putRecord f l

/-- A malformed entry or record of an SQ halts its function. -/
def State.halt (s : State) (f q cause : Nat) (seq : W32) (bad : Option Job) (entry : List Byte) : State :=
  State.haltWith State.record s f .sq q cause seq bad entry

/-- A doorbell record of a CQ at fault halts its function: no entry is, and W stands for halt_seq (notes/assumptions/76.md). -/
def State.haltCq (s : State) (f q cause : Nat) (w : W32) : State := State.haltWith State.record s f .cq q cause w none []

/-- A doorbell record of an error queue at fault halts its function. -/
def State.haltEq (s : State) (f cause : Nat) (w : W32) : State := State.haltWith State.record s f .eq 0 cause w none []

/-- A record to a function and to PF0; one in all where the function is PF0 (R333). -/
def State.recordBoth (s : State) (f : Nat) (l : List Byte) : State :=
  let s := s.record f l
  if f = 0 then s else s.record 0 l

/-- A device event for the manager: a record to PF0 and vector 3 (R376, R384). -/
def State.deviceEvent (s : State) (l : List Byte) : State := (s.record 0 l).interrupt 0 3

/-- The memory error record of Table 10.4. -/
def State.memRecord (s : State) (e : MemErr) (f layer oper : Nat) : List Byte :=
  leBytes 1 0x61 ++ leBytes 1 1 ++ leBytes 1 0x61 ++ leBytes 1 e.source ++ leBytes 1 e.tier ++ leBytes 1 e.unit ++
  leBytes 1 e.position ++ leBytes 1 0 ++ leBytes 8 (s.node * 2 ^ 48 + e.addr) ++ leBytes 4 e.row ++ leBytes 2 f ++ leBytes 2 0 ++
  leBytes 2 layer ++ leBytes 2 oper ++ leBytes 4 s.time

/-- The records of R333 for a piece of work ended by an error, with the event of R331. -/
def State.endedBy (s : State) (e : MemErr) (f layer oper : Nat) : State :=
  (s.recordBoth f (s.memRecord e f layer oper)).event 3

/-! ### What is in flight (R135, R385) -/

/-- Operations of a function in flight, those whose CQE is still to be written among them. -/
def State.opsOf (s : State) (f : Nat) : Nat := ((s.ops ++ s.spent).filter fun o => o.job.f == f).length

/-- Operations the function may have in flight (R135, R378). -/
def State.opCap (s : State) (f : Nat) : Nat := if f = 0 then 32768 else (s.fn f).grant.ops

/-- Whether a place in flight is free for the function. -/
def State.placeFree (s : State) (f : Nat) : Bool := decide (s.ops.length + s.spent.length < 32768) && decide (s.opsOf f < s.opCap f)

/-- Whether a place in the trigger table is free for the function (R140). -/
def State.trigFree (s : State) (f : Nat) : Bool :=
  decide (s.armed.length < 16384) &&
  decide ((s.armed.filter fun a => a.job.f == f).length < if f = 0 then 16384 else (s.fn f).grant.triggers)

/-- What HUB_FN_STATUS.in_flight counts (Table 12.17): operations, program channels running, admin commands in flight, CQEs held. -/
def State.inFlight (s : State) (f : Nat) : Nat :=
  s.opsOf f +
  sum (s.mes.map fun e => (e.2.ready ++ e.2.running.toList).countP fun r =>
    (tget s.channels r.chan).any fun c => (tget s.ctxs c.ctx).any fun x => x.owner == f) +
  (match s.sq f 0 with
   | some x => (x.undone.filter fun t => !t.done).length
   | none => 0) +
  sum (s.cqs.map fun e => if e.1 / 65536 = f then e.2.held.length else 0)

end Sys2Proof.Machine
end

