-- ==== Sys2Proof/Machine/Power.lean ====
section
/-! DEFINITION. What keeps a gallery from a power state: latency tolerances, what uses a gallery, and the deepest state it may take
(R470, R471). -/

namespace Sys2Proof.Machine

/-- The latency tolerance of a function in ns; none where it states no limit (R471). -/
def State.toleranceOf (s : State) (f : Nat) : Option Nat :=
  let x := s.fn f
  let ltr := if f > 256 ∧ (s.hp (fnPort f)).mode = 2 then x.ltr else none
  match x.tolerance, ltr with
  | none, none => some 3000
  | some a, none => a
  | none, some b => b
  | some none, some b => b
  | some a, some none => a
  | some (some a), some (some b) => some (Nat.min a b)

/-- Tier A and tier B of a gallery, as base and length. -/
def galTierA (g : Nat) : Nat × Nat := (g * 0xC000000, 0xC000000)
def galTierB (g : Nat) : Nat × Nat := (0x100000000000 + g * 2 ^ 38, 2 ^ 38)

/-- Whether a range of local addresses meets another. -/
def meets (x : Nat × Nat) (a n : Nat) : Bool := overlaps x.1 x.2 a n

/-- A segment of this node's memory that is ACTIVE or WITHDRAWING covers a part of a range. -/
def Segment.covers (x : Segment) (r : Nat × Nat) : Bool :=
  decide (x.state ≠ .free) && !x.imported && meets r (localOf x.base) (x.limit + 1)

/-- Whether a function uses a gallery (R470). -/
def State.usesGal (s : State) (f g : Nat) : Bool :=
  s.ctxs.any (fun c => c.2.owner == f && c.2.segs.any fun x => x.2.covers (galTierA g) || x.2.covers (galTierB g)) ||
  s.qps.any (fun e => e.1 != 0 && e.2.f == f && e.2.home / 8 == g) ||
  s.groups.any (fun e => e.2.f == f && e.2.serving.any fun c => c / 8 == g) ||
  s.runs.any fun r => r.f == f && r.gang.any fun c => c / 8 == g

/-- Functions whose tolerance bears on a gallery: those that own a context. -/
def State.gallerySpeed (s : State) (g : Nat) : List (Option Nat) :=
  ((s.fns.map (·.1)).filter fun f => s.usesGal f g).map s.toleranceOf

/-- A gallery that stays at U2 at the deepest (R471). -/
def State.keepsTierA (s : State) (g : Nat) : Bool :=
  s.ctxs.any (fun c => c.2.segs.any fun x => x.2.covers (galTierA g)) ||
  s.groups.any (fun e => meets (galTierA g) e.2.region e.2.regionLen) ||
  (s.gal g).fwHome.isSome || (!s.qpcHost && meets (galTierB g) s.qpcBase (s.qpcCount * 256)) ||
  meets (galTierB g) 0x117FE0000000 0x10000000

/-- The deepest power state that a gallery may take (R471). -/
def State.deepest (s : State) (g : Nat) : Nat :=
  let cap := Nat.min (bits (s.word 0 0x010448) (2 * g + 1) (2 * g)) (if s.keepsTierA g then 2 else 3)
  let ok := fun (d : Nat) => (s.gallerySpeed g).all fun t => t.all fun n => decide (wakeTime d ≤ n)
  ([3, 2, 1].find? fun d => decide (d ≤ cap) && ok d).getD 0

/-- The idle time before entry of a power state in ns (Table 15.8). -/
def idleTime (d : Nat) : Nat := if d = 1 then 1000 else if d = 2 then 100000 else 10000000

/-- A gallery below the deepest state it may take wakes at once (R471). -/
def State.wakeDeep (s : State) : State :=
  (List.range 6).foldl (fun s g => if s.deepest g < (s.gal g).power then s.rouse g else s) s

end Sys2Proof.Machine
end

