-- ==== Sys2Proof/Machine/Arith.lean ====
section
/-! DEFINITION. The arithmetic of chapters 8 and 9: element formats, exact sums with one rounding, the long accumulator, EPF records,
folds of single elements, and the correctly rounded special functions of the TVE. -/

namespace Sys2Proof.Machine

/-! ### Formats (Tables 8.2, 8.7, 9.12) -/

/-- Where a format keeps its special values: as IEEE 754, as OCP E4M3 (one NaN, no infinity), or nowhere (MX elements). -/
inductive Specials where
  | ieee | e4m3 | none
  deriving DecidableEq, Repr

/-- A binary floating-point format: exponent width, fraction width, bias, special values. -/
structure Fmt where
  ew : Nat
  fw : Nat
  bias : Nat
  sp : Specials := .ieee
  deriving DecidableEq, Repr

def fp32 : Fmt := { ew := 8, fw := 23, bias := 127 }
def fp64 : Fmt := { ew := 11, fw := 52, bias := 1023 }
def bf16 : Fmt := { ew := 8, fw := 7, bias := 127 }
def fp16 : Fmt := { ew := 5, fw := 10, bias := 15 }
def e5m2 : Fmt := { ew := 5, fw := 2, bias := 15 }
def e4m3 : Fmt := { ew := 4, fw := 3, bias := 7, sp := .e4m3 }
def e3m2 : Fmt := { ew := 3, fw := 2, bias := 3, sp := .none }
def e2m3 : Fmt := { ew := 2, fw := 3, bias := 1, sp := .none }
def e2m1 : Fmt := { ew := 2, fw := 1, bias := 1, sp := .none }

/-- A value: a NaN, an infinity, or ± m × 2^e. -/
inductive Fp where
  | nan
  | inf (neg : Bool)
  | fin (neg : Bool) (m : Nat) (e : Int)
  deriving DecidableEq, Repr

def Fmt.width (t : Fmt) : Nat := 1 + t.ew + t.fw

def Fmt.decode (t : Fmt) (v : Nat) : Fp :=
  let neg := bit v (t.ew + t.fw)
  let ef := bits v (t.ew + t.fw - 1) t.fw
  let fr := v % 2 ^ t.fw
  let low : Int := 1 - (t.bias : Int) - t.fw
  let top := 2 ^ t.ew - 1
  if t.sp = .ieee ∧ ef = top then (if fr = 0 then .inf neg else .nan)
  else if t.sp = .e4m3 ∧ ef = top ∧ fr = 2 ^ t.fw - 1 then .nan
  else if ef = 0 then .fin neg fr low
  else .fin neg (2 ^ t.fw + fr) (low + ef - 1)

/-- The canonical NaN of a type (Table 8.8). -/
def Fmt.nan (t : Fmt) : Nat :=
  if t.sp = .e4m3 then 2 ^ (t.ew + t.fw) - 1 else (2 ^ t.ew - 1) * 2 ^ t.fw + 2 ^ (t.fw - 1)

def Fmt.signBit (t : Fmt) (neg : Bool) : Nat := if neg then 2 ^ (t.ew + t.fw) else 0

/-- Infinity, or ±448 in E4M3 (Table 8.6 rules 2 and 3). -/
def Fmt.infinity (t : Fmt) (neg : Bool) : Nat :=
  t.signBit neg + if t.sp = .e4m3 then 2 ^ (t.ew + t.fw) - 2 else (2 ^ t.ew - 1) * 2 ^ t.fw

/-- m × 2^e, m not zero, rounded to nearest with ties to even (R270 rule 6): magnitude bits of the result, or none above the largest
finite value. -/
def Fmt.roundMag (t : Fmt) (m : Nat) (e : Int) : Option Nat :=
  let p := t.fw + 1
  let emin : Int := 1 - t.bias
  let lead : Int := (Nat.log2 m : Int) + e
  let q : Int := (if lead < emin then emin else lead) - (p - 1)
  let k := (q - e).toNat
  let d := m / 2 ^ k
  let r := m % 2 ^ k
  let kept :=
    if q ≤ e then m * 2 ^ (e - q).toNat
    else if r * 2 > 2 ^ k ∨ (r * 2 = 2 ^ k ∧ d % 2 = 1) then d + 1 else d
  let up := kept = 2 ^ p
  let sig := if up then 2 ^ (p - 1) else kept
  let q := if up then q + 1 else q
  if sig < 2 ^ (p - 1) then some sig
  else
    let ef := (q + (p - 1) + t.bias).toNat
    let v := ef * 2 ^ t.fw + (sig - 2 ^ (p - 1))
    let limit := if t.sp = .ieee then (2 ^ t.ew - 1) * 2 ^ t.fw
      else if t.sp = .e4m3 then 2 ^ (t.ew + t.fw) - 1 else 2 ^ (t.ew + t.fw)
    if v < limit then some v else none

/-- A value rounded once into a format. -/
def Fmt.encode (t : Fmt) (v : Fp) : Nat :=
  match v with
  | .nan => t.nan
  | .inf neg => t.infinity neg
  | .fin neg m e =>
    if m = 0 then t.signBit neg
    else match t.roundMag m e with
      | some b => t.signBit neg + b
      | none => t.infinity neg

/-! ### Exact sums and products (R302, R304) -/

def Fp.neg : Fp → Fp
  | .nan => .nan
  | .inf n => .inf (!n)
  | .fin n m e => .fin (!n) m e

/-- The exact product; ∞ × 0 is a NaN. -/
def Fp.mul : Fp → Fp → Fp
  | .nan, _ => .nan
  | _, .nan => .nan
  | .inf a, .inf b => .inf (a != b)
  | .inf a, .fin b m _ => if m = 0 then .nan else .inf (a != b)
  | .fin b m _, .inf a => if m = 0 then .nan else .inf (a != b)
  | .fin a m e, .fin b n f => .fin (a != b) (m * n) (e + f)

/-- The least exponent of the finite terms that are not zero. -/
def leastExp : List Fp → Option Int
  | [] => none
  | .fin _ m e :: r =>
    if m = 0 then leastExp r
    else match leastExp r with
      | some x => some (if e < x then e else x)
      | none => some e
  | _ :: r => leastExp r

def scaled (low : Int) : Fp → Int
  | .fin neg m e => if m = 0 then 0 else (if neg then -1 else 1) * ((m : Int) * 2 ^ (e - low).toNat)
  | _ => 0

def Fp.isNan : Fp → Bool
  | .nan => true
  | _ => false

def Fp.isInf (neg : Bool) : Fp → Bool
  | .inf n => n == neg
  | _ => false

def Fp.isNegZero : Fp → Bool
  | .fin neg m _ => neg && m == 0
  | _ => false

/-- The exact sum of terms (R302): NaN, then infinities, then the sum; zero is −0 only where every term is −0. -/
def sumExact (l : List Fp) : Fp :=
  let p := l.any (Fp.isInf false)
  let n := l.any (Fp.isInf true)
  if l.any Fp.isNan || (p && n) then .nan
  else if p then .inf false
  else if n then .inf true
  else
    let low := (leastExp l).getD 0
    let v := l.foldl (fun acc x => acc + scaled low x) 0
    if v = 0 then .fin (l.all Fp.isNegZero) 0 0 else .fin (decide (v < 0)) v.natAbs low

/-- IEEE addition in a format, with the canonical NaN (R271, R274). -/
def Fmt.add (t : Fmt) (a b : Nat) : Nat := t.encode (sumExact [t.decode a, t.decode b])
def Fmt.sub (t : Fmt) (a b : Nat) : Nat := t.encode (sumExact [t.decode a, (t.decode b).neg])
def Fmt.mulBits (t : Fmt) (a b : Nat) : Nat := t.encode ((t.decode a).mul (t.decode b))
/-- x × y + z rounded once. -/
def Fmt.fma (t : Fmt) (x y z : Nat) : Nat := t.encode (sumExact [(t.decode x).mul (t.decode y), t.decode z])

/-- The order of R272 on numbers that are not NaNs: −0 below +0. -/
def Fmt.orderKey (t : Fmt) (v : Nat) : Int :=
  let mag := v % 2 ^ (t.ew + t.fw)
  if bit v (t.ew + t.fw) then -(mag : Int) - 1 else mag

/-- MAX and MIN of R272. -/
def Fmt.pick (t : Fmt) (least : Bool) (a b : Nat) : Nat :=
  if (t.decode a).isNan || (t.decode b).isNan then t.nan
  else if least then (if t.orderKey b < t.orderKey a then b else a)
  else if t.orderKey a < t.orderKey b then b else a

/-! ### Special functions (R304), correctly rounded -/

/-- Newton's integer square root from a start above the root. -/
def sqrtGo : Nat → Nat → Nat → Nat
  | 0, _, x => x
  | fuel + 1, n, x => let y := (x + n / x) / 2; if y < x then sqrtGo fuel n y else x

def isqrt (n : Nat) : Nat := if n = 0 then 0 else sqrtGo 64 n (2 ^ (Nat.log2 n / 2 + 1))

def rcp32 (v : Nat) : Nat :=
  match fp32.decode v with
  | .nan => fp32.nan
  | .inf neg => fp32.signBit neg
  | .fin neg m e =>
    if m = 0 then fp32.infinity neg
    else
      let k := Nat.log2 m + 64
      fp32.encode (.fin neg (2 * (2 ^ k / m) + if 2 ^ k % m = 0 then 0 else 1) (-(k : Int) - e - 1))

def rsqrt32 (v : Nat) : Nat :=
  match fp32.decode v with
  | .nan => fp32.nan
  | .inf neg => if neg then fp32.nan else 0
  | .fin neg m e =>
    if m = 0 then fp32.infinity neg
    else if neg then fp32.nan
    else
      let odd := e % 2 != 0
      let m := if odd then 2 * m else m
      let e := if odd then e - 1 else e
      let k := Nat.log2 m + 64
      let q := isqrt (2 ^ (2 * k) / m)
      fp32.encode (.fin false (2 * q + if q * q * m = 2 ^ (2 * k) then 0 else 1) (-(k : Int) - e / 2 - 1))

/-- Scale of the fixed-point numbers of exp2. -/
def expScale : Nat := 256

/-- 2 to the power f / 2^n, f below 2^n, in fixed point: bits of f from the top, each with the root of 2 that it stands for. -/
def expGo : Nat → Nat → Nat → Nat → Nat
  | 0, _, _, acc => acc
  | n + 1, f, root, acc =>
    let root := isqrt (root * 2 ^ expScale)
    expGo n (f % 2 ^ n) root (if f / 2 ^ n % 2 = 1 then acc * root / 2 ^ expScale else acc)

def exp2Bits (v : Nat) : Nat :=
  match fp32.decode v with
  | .nan => fp32.nan
  | .inf neg => if neg then 0 else fp32.infinity false
  | .fin neg m e =>
    if m = 0 then 0x3F800000
    else if e ≥ 0 then
      (if neg then (if m * 2 ^ e.toNat > 200 then 0 else fp32.encode (.fin false 1 (-((m * 2 ^ e.toNat : Nat) : Int))))
       else if m * 2 ^ e.toNat > 200 then fp32.infinity false else fp32.encode (.fin false 1 ((m * 2 ^ e.toNat : Nat) : Int)))
    else
      let n := (-e).toNat
      let x : Int := if neg then -(m : Int) else m
      let whole := x / 2 ^ n
      let frac := (x % 2 ^ n).toNat
      if whole > 200 then fp32.infinity false
      else if whole < -200 then 0
      else if frac = 0 then fp32.encode (.fin false 1 whole)
      else
        let r := expGo n frac (2 * 2 ^ expScale) (2 ^ expScale)
        fp32.encode (.fin false (2 * r + 1) (whole - expScale - 1))

/-! ### Element types and reductions (R264–R266) -/

/-- Size in bytes of an element type; 0 for a reserved one. -/
def elemSize (ty : Nat) : Nat :=
  match ty with
  | 0 | 2 => 4
  | 1 | 3 => 8
  | 4 | 5 => 2
  | 6 | 7 | 8 => 1
  | _ => 0

/-- The format of a floating-point element type. -/
def elemFmt (ty : Nat) : Option Fmt :=
  match ty with
  | 2 => some fp32
  | 3 => some fp64
  | 4 => some bf16
  | 5 => some fp16
  | 6 => some e4m3
  | 7 => some e5m2
  | _ => none

/-- A type whose SUM is exact, carried in long accumulators (Table 8.4). -/
def exactType (ty : Nat) : Bool := decide (ty = 2 ∨ (4 ≤ ty ∧ ty ≤ 7))

/-- The combinations of Table 8.4. -/
def redDefined (ty red : Nat) : Bool :=
  match red with
  | 0 => decide (ty ≤ 7)
  | 1 | 2 => decide (ty ≤ 8)
  | 3 | 4 | 5 => decide (ty ≤ 1 ∨ ty = 8)
  | 6 => exactType ty
  | _ => false

/-! ### The long accumulator (R267–R270) -/

structure Acc where
  v     : Int := 0
  pinf  : Bool := false
  ninf  : Bool := false
  nan   : Bool := false
  allnz : Bool := false
  used  : Bool := false
  ovf   : Bool := false
  deriving DecidableEq, Repr

/-- The low 298 bits of a sum, in two's complement. -/
def wrap298 (x : Int) : Int := toSigned 298 (ofSigned 298 x)

def Acc.toNat (a : Acc) : Nat :=
  ofSigned 298 a.v + 2 ^ 298 * (ofBool a.pinf + 2 * ofBool a.ninf + 4 * ofBool a.nan + 8 * ofBool a.allnz + 16 * ofBool a.used +
    32 * ofBool a.ovf)

/-- The accumulator that a 320-bit value holds; reserved bits are taken as clear (R279). -/
def Acc.ofNat (n : Nat) : Acc :=
  { v := toSigned 298 (n % 2 ^ 298), pinf := bit n 298, ninf := bit n 299, nan := bit n 300, allnz := bit n 301, used := bit n 302,
    ovf := bit n 303 }

/-- A finite amount added to V (R268 step 3). -/
def Acc.addV (a : Acc) (x : Int) : Acc :=
  let t := a.v + x
  { a with v := wrap298 t, ovf := a.ovf || decide (t < -(2 ^ 297) ∨ 2 ^ 297 ≤ t) }

/-- Steps 4 and 5 of R268. -/
def Acc.touch (a : Acc) (negZero : Bool) : Acc :=
  { a with allnz := negZero && (!a.used || a.allnz), used := true }

/-- An addend folded in (R268). -/
def Acc.fold (a : Acc) (x : Fp) : Acc :=
  match x with
  | .nan => ({ a with nan := true }).touch false
  | .inf neg => ({ a with pinf := a.pinf || !neg, ninf := a.ninf || neg }).touch false
  | .fin neg m e =>
    let d : Int := (m : Int) * 2 ^ (e + 149).toNat
    (a.addV (if neg then -d else d)).touch (neg && m == 0)

/-- The single rounding (R270). -/
def Acc.round (a : Acc) (t : Fmt) : Nat :=
  if a.nan || (a.pinf && a.ninf) then t.nan
  else if a.pinf then t.infinity false
  else if a.ninf then t.infinity true
  else if a.ovf then t.nan
  else if a.v = 0 then t.signBit a.allnz
  else t.encode (.fin (decide (a.v < 0)) a.v.natAbs (-149))

/-! ### EPF records (R276, R277) -/

def limb (a i : Nat) : Nat := a / 2 ^ (64 * i) % 2 ^ 64

def epfHeader (neg : Bool) (count top cls : Nat) : List Byte := leBytes 2 (ofBool neg + 2 * count + 16 * top + 256 * cls)

/-- The record of an accumulator, in the one form that a sender emits (R277). -/
def Acc.epf (a : Acc) : List Byte :=
  if a.nan || (a.pinf && a.ninf) || a.ovf then epfHeader false 1 0 2 ++ leBytes 8 0
  else if a.pinf || a.ninf then epfHeader a.ninf 1 0 1 ++ leBytes 8 0
  else if a.v = 0 then epfHeader a.allnz 1 0 0 ++ leBytes 8 0
  else
    let m := a.v.natAbs
    let full := (List.range 5).filter fun i => limb m i != 0
    let top := maxOf full
    let low := full.headD 0
    epfHeader (decide (a.v < 0)) (top - low + 1) top 0 ++ (List.range (top - low + 1)).flatMap fun i => leBytes 8 (limb m (low + i))

/-- One record read from a piece: what it folds in and the bytes that follow; none where it is malformed. -/
def epfRead (l : List Byte) : Option ((Acc → Acc) × List Byte) :=
  if l.length < 2 then none
  else
    let h := fld l 0 2
    let neg := bit h 0
    let count := bits h 3 1
    let top := bits h 6 4
    let cls := bits h 9 8
    if count = 0 ∨ count > 5 ∨ top > 4 ∨ count > top + 1 ∨ cls = 3 ∨ bit h 7 ∨ bits h 15 10 ≠ 0 ∨ l.length < 2 + 8 * count then none
    else
      let m := leNat (slice l 2 (8 * count)) * 2 ^ (64 * (top + 1 - count))
      let rest := l.drop (2 + 8 * count)
      some (match cls with
        | 0 => (fun a => (a.addV (if neg then -(m : Int) else m)).touch (neg && m == 0), rest)
        | 1 => (fun a => a.fold (.inf neg), rest)
        | _ => (fun a => a.fold .nan, rest))

/-! ### Folds of single elements (R272, R273, R278) -/

/-- Two's complement or unsigned order of an integer type. -/
def intKey (ty v : Nat) : Int :=
  match ty with
  | 0 => toSigned 32 v
  | 1 => toSigned 64 v
  | _ => v

/-- An element s folded into t under a reduction other than SUM_LONG (Table 8.11). -/
def foldElem (ty red t s : Nat) : Nat :=
  let w := 8 * elemSize ty
  match red with
  | 0 =>
    match elemFmt ty with
    | some m => if ty = 3 then m.add t s else ((({} : Acc).fold (m.decode t)).fold (m.decode s)).round m
    | none => (t + s) % 2 ^ w
  | 1 =>
    match elemFmt ty with
    | some m => m.pick false t s
    | none => if intKey ty t < intKey ty s then s else t
  | 2 =>
    match elemFmt ty with
    | some m => m.pick true t s
    | none => if intKey ty s < intKey ty t then s else t
  | 3 => Nat.land t s
  | 4 => Nat.lor t s
  | _ => Nat.xor t s

/-- The elements of a run of bytes. -/
def elemsOf (size : Nat) (l : List Byte) : List Nat :=
  if size = 0 then [] else (List.range (l.length / size)).map fun i => fld l (i * size) size

def elemBytes (size : Nat) (l : List Nat) : List Byte := l.flatMap (leBytes size)

end Sys2Proof.Machine
end

