-- ==== Sys2Proof/Machine/Operands.lean ====
section
/-! DEFINITION. Submission entries: the fields of the head entry and its continuations, and the rules whose breach halts a function
(R95–R100, R112, R124–R126, R240, R290). -/

namespace Sys2Proof.Machine

/-! ### Halt causes (Table 3.10) -/

def causeFormat : Nat := 0x02
def causeOpcode : Nat := 0x03
def causeCoupling : Nat := 0x04
def causeInline : Nat := 0x05
def causeOwner : Nat := 0x06
def causeSeqRange : Nat := 0x07
def causeObject : Nat := 0x08

/-! ### Fields of entries -/

def entFlags (l : List Byte) : Nat := fld l 62 1
def entFmt (l : List Byte) : Nat := bits (fld l 63 1) 6 4
def entOwner (l : List Byte) : Bool := bit (fld l 63 1) 7
def entNcont (l : List Byte) : Nat := fld l 1 1 % 8
def entTrig (l : List Byte) : Bool := bit (entFlags l) 4
def entCmpl (l : List Byte) : Bool := bit (entFlags l) 2

/-- The ownership sense of a sequence number in a ring (R92): 1 in an even pass. -/
def ownerSense (n : W32) (log2 : Nat) : Bool := n.toNat / 2 ^ log2 % 2 == 0

/-- The collective opcodes (Table 3.6). -/
def isColl (op : Nat) : Bool := decide (0x10 ≤ op ∧ op ≤ 0x16)
def isReducing (op : Nat) : Bool := decide (op = 0x10 ∨ op = 0x11 ∨ op = 0x14)

/-- Opcodes that a queue accepts (R100, R117). -/
def accepts (q : Nat) (raw : Bool) (op : Nat) : Bool :=
  if q = 0 then
    [0x01, 0x02, 0x04, 0x05, 0x08, 0x09, 0x0A, 0x0B, 0x0C, 0x10, 0x11, 0x12, 0x18, 0x19, 0x1A, 0x1B, 0x20, 0x21, 0x24, 0x25, 0x28,
     0x2C, 0x2D, 0x30, 0x31, 0x38, 0x3C, 0x3D, 0x3E].contains op
  else if raw then [0x00, 0x06, 0x07].contains op
  else decide (op ≤ 5) || op == 8 || isColl op

/-- SUM_LONG is used only while FOLD_LONG_ACC, feature bit 0, is negotiated (R279, R430). -/
def Function.feature (fn : Function) (n : Nat) : Bool :=
  match fn.neg with
  | .agreed _ _ w => w.getLsbD n
  | _ => false

/-- Encodings of the modifier byte that are malformed with cause OPCODE (R126, R240, R279). -/
def badEncoding (fn : Function) (l : List Byte) : Bool :=
  let op := fld l 0 1
  let m := fld l 40 1
  let ty := m % 16
  let red := bits m 6 4
  if op = 4 then decide (m > 3)
  else if op = 5 then !redDefined ty red || (red == 6 && !fn.feature 0)
  else if isReducing op then !redDefined ty red || red == 6
  else if isColl op && op != 0x16 then elemSize ty == 0
  else false

/-- Continuation entries that an opcode takes (R98, Table 4.3, Table 7.2). -/
def ncontOk (q : Nat) (l : List Byte) : Bool :=
  let op := fld l 0 1
  let n := entNcont l
  if q = 0 then (if op = 0x20 then n == 1 else n == 0)
  else if op = 1 ∨ op = 3 ∨ op = 6 then decide (n ≤ 4)
  else if op = 4 then (if fld l 40 1 = 3 then n == 1 else n == 0)
  else n == 0

/-- The flags or ncont of a head entry break R96 or R97. CMPL where LAST is 0 is taken to break R96; on the admin SQ it is ignored (R99)
(notes/assumptions/76.md). -/
def badHeadCoupling (q : Nat) (l : List Byte) : Bool :=
  let fl := entFlags l
  let last := bit fl 1
  !bit fl 0 || bit fl 3 || decide (entNcont l > 4) || last != (entNcont l == 0) || (bit fl 2 && !last && q != 0) || !ncontOk q l ||
    (bit fl 4 && (q == 0 || !bit (fld l 38 2) 15))

/-- The inline length or address breaks R98. -/
def badInline (q : Nat) (l : List Byte) : Bool :=
  let op := fld l 0 1
  let n := entNcont l
  let len := fld l 32 4
  q != 0 && decide (op = 1 ∨ op = 3 ∨ op = 6) && decide (n > 0) &&
    (decide (len ≤ 60 * (n - 1) ∨ 60 * n < len) || fld l 16 8 != 0)

/-- A counter reference whose reserved bits are not zero (R125). -/
def badRef (r : Nat) : Bool := bits r 14 8 != 0 || (!bit r 15 && r % 256 != 0)

/-- Reserved bytes of the common fields and of each opcode's own (R95, R124–R126, R240, R290). -/
def headReserved (s : State) (q : Nat) (l : List Byte) : Bool :=
  let op := fld l 0 1
  let z := fun a n => !zeroAt l a n
  let trig := entTrig l
  let common := bits (fld l 1 1) 7 3 != 0 || z 2 2 || z 60 2 || bits (entFlags l) 7 5 != 0 || fld l 63 1 % 16 != 0
  let data := badRef (fld l 36 2) || (if trig then badRef (fld l 38 2) else z 38 2 || z 42 6) || fld l 41 1 / 2 != 0
  let rsvd15 := z 15 1
  let own :=
    match op with
    | 0 => z 12 24 || z 40 1 || z 48 12
    | 1 => z 40 1 || z 48 12
    | 2 => z 40 1 || z 48 12
    | 3 => z 40 1
    | 4 => z 56 4
    | 5 => bit (fld l 40 1) 7 || z 48 12
    | 6 => z 12 3 || z 24 8 || bits (fld l 40 1) 7 4 != 0 || z 48 12
    | 7 => z 12 3 || z 24 8 || z 40 1 || z 48 12
    | 8 => z 12 3 || z 40 1 || z 52 8
    | _ =>
      let root := fld l 58 2
      let me := (tget s.groups (fld l 56 2)).elim 0 (·.me)
      let m := fld l 40 1
      z 12 4 || z 24 8 || bit m 7 ||
        (!isReducing op && bits m 6 4 != 0) ||
        (decide (op = 0x10 ∨ op = 0x11 ∨ op = 0x12 ∨ op = 0x15) && root != 0) ||
        (op == 0x13 && me != root && z 16 8) ||
        (op == 0x14 && me != root && z 48 8) ||
        (op == 0x16 && (m != 0 || z 32 4 || z 16 8 || z 48 8 || root != 0))
  if q = 0 then common else common || data || rsvd15 || own

/-- The entry names an object that does not exist for its SQ's context (R112, R290). -/
def badObject (s : State) (f q c : Nat) (l : List Byte) : Bool :=
  let op := fld l 0 1
  if q = 0 then false
  else if 1 ≤ op ∧ op ≤ 5 then
    match tget s.qps (fld l 12 3) with
    | some x => fld l 12 3 == 0 || x.f != f || x.ctx != c || x.group.isSome
    | none => true
  else if op = 8 then
    match tget s.plans (fld l 48 2) with
    | some x =>
      let g := fld l 50 1
      let gang := bitsSet 8 (fld l 51 1)
      let lo := if x.family = 0 then fld x.bytes 15 1 else 1
      let hi := if x.family = 0 then fld x.bytes 16 1 else 8
      x.ctx != c || fld l 24 8 != x.addr || decide (5 < g) || gang.any (fun k => !s.present (8 * g + k)) ||
        decide (gang.length < lo ∨ hi < gang.length)
    | none => true
  else if isColl op then
    match tget s.groups (fld l 56 2) with
    | some x => x.ctx != c
    | none => true
  else false

/-- The first cause of Table 3.10's order that a head entry meets, its ownership bit apart. -/
def headCause (s : State) (f q c : Nat) (raw : Bool) (l : List Byte) : Option Nat :=
  if entFmt l ≠ 1 then some causeFormat
  else if !accepts q raw (fld l 0 1) || (q != 0 && badEncoding (s.fn f) l) then some causeOpcode
  else if badHeadCoupling q l then some causeCoupling
  else if badInline q l then some causeInline
  else if headReserved s q l then some causeRsvd
  else if badObject s f q c l then some causeObject
  else none

/-- The first cause that the i-th of m continuation entries meets, counting from 1. Bytes 8–59 of the one of a compare-swap ATOMIC are neither
reserved nor given a meaning, and are ignored (notes/assumptions/80.md). -/
def contCause (q i m : Nat) (l : List Byte) : Option Nat :=
  let fl := entFlags l
  let last := bit fl 1
  if entFmt l ≠ 1 then some causeFormat
  else if bit fl 0 || !bit fl 3 || last != (i == m) || (bit fl 2 && !last && q != 0) || bit fl 4 then some causeCoupling
  else if bits fl 7 5 != 0 || !zeroAt l 60 2 || fld l 63 1 % 16 != 0 then some causeRsvd
  else none

/-- CMPL of a job, on its last entry (R99). -/
def Job.cmpl (j : Job) : Bool := entCmpl (j.conts.getLastD j.head)
def Job.trig (j : Job) : Bool := entTrig j.head
/-- Entries of a job. -/
def Job.entries (j : Job) : Nat := 1 + j.conts.length

end Sys2Proof.Machine
end

