-- ==== Sys2Proof/Machine/Queues.lean ====
section
/-! DEFINITION. Sweeps, fetching, halting, parking, wakes and arms, state records and mirrors (R83–R122, R139). -/

namespace Sys2Proof.Machine

/-! ### Fetching (R93, R106) -/

/-- What reading the next job of an SQ finds. -/
inductive JobRead where
  | wait
  | access (at_ : W32)
  | owner (at_ : W32)
  | bad (cause : Nat) (at_ : W32) (head entry : List Byte) (entries : Nat) (cmpl : Bool)
  | job (j : Job)

/-- Entry n of an SQ's ring. -/
def State.readEntry (s : State) (f q : Nat) (x : Sq) (n : W32) : State × Option (List Byte) :=
  s.qRead f x.ctx q (x.ring + n.toNat % 2 ^ x.log2 * 64) 64

/-- Whether the job at C carries CMPL: its last of 1 + m entries, where that lies before P, shows LAST and CMPL (R96, R99). -/
def State.jobCmpl (s : State) (f q : Nat) (x : Sq) (m : Nat) : State × Bool :=
  if 4 < m ∨ gap32 x.p x.c < 1 + m then (s, false)
  else
    let r := s.readEntry f q x (x.c + BitVec.ofNat 32 m)
    (r.1, r.2.any fun l => entCmpl l && bit (entFlags l) 1)

/-- The continuation entries of a job, i of m read so far. The first entry that breaks a rule is the one at fault (R112). -/
def State.readConts (s : State) (f q : Nat) (x : Sq) (head : List Byte) (m : Nat) : List Nat → List (List Byte) → State × JobRead
  | [], acc => (s, .job { f, q, ctx := x.ctx, seq := x.c, head, conts := acc })
  | i :: r, acc =>
    let n := x.c + BitVec.ofNat 32 i
    match s.readEntry f q x n with
    | (s, none) => (s, .access n)
    | (s, some l) =>
      if entOwner l != ownerSense n x.log2 then (s, .owner n)
      else match contCause q i m l with
        | some c =>
          let d := s.jobCmpl f q x m
          (d.1, .bad c n head l (1 + m) d.2)
        | none => State.readConts s f q x head m r (acc ++ [l])

/-- The job at C, if all its entries lie before P (R93). A head that breaks a rule is found so as soon as it lies before P
(notes/assumptions/76.md). -/
def State.readJob (s : State) (f q : Nat) (x : Sq) : State × JobRead :=
  if x.c = x.p then (s, .wait)
  else match s.readEntry f q x x.c with
    | (s, none) => (s, .access x.c)
    | (s, some l) =>
      if entOwner l != ownerSense x.c x.log2 then (s, .owner x.c)
      else
        let m := entNcont l
        match headCause s f q x.ctx x.raw l with
        | some c =>
          let d := s.jobCmpl f q x m
          (d.1, .bad c x.c l l (if m ≤ 4 ∧ 1 + m ≤ gap32 x.p x.c then 1 + m else 1) d.2)
        | none => if gap32 x.p x.c < 1 + m then (s, .wait) else s.readConts f q x l m ((List.range m).map (· + 1)) []

/-- A job entered in its SQ's lists and its batch (R99): one that is to be carried out, or a malformed one, which has failed, with the
report that the batch's CQE carries if it closes the batch. -/
def Sq.enter (x : Sq) (j : Job) (stop : W32) (cmpl : Bool) (failed : Option Report) : Sq :=
  let bad := failed.isSome
  if j.q = 0 then
    { x with c := stop, stale := true, undone := x.undone ++ [({ head := j.seq, stop := stop, batch := 0, done := bad, owes := bad } : Track)] }
  else
    let no := x.batchNo + 1
    let b : Batch := (x.batches.find? fun b => b.no == no).getD { no := no }
    let closes := cmpl || decide (b.jobs + 1 = 65535)
    let b : Batch := { b with
      jobs := b.jobs + 1
      left := b.left + ofBool (!bad)
      failed := b.failed + ofBool bad
      closer := if closes then some j else none
      report := failed.getD b.report }
    { x with
      c := stop
      stale := true
      undone := x.undone ++ [({ head := j.seq, stop := stop, batch := no, done := bad, owes := bad } : Track)]
      batches := (x.batches.filter fun b => b.no != no) ++ [b]
      batchNo := if closes then no else x.batchNo }

/-- A fetched job entered in its SQ's lists and its batch. -/
def Sq.take (x : Sq) (j : Job) : Sq := x.enter j (x.c + BitVec.ofNat 32 j.entries) j.cmpl none

/-- A triggered job armed (R140). -/
def State.arm (s : State) (j : Job) : State :=
  let a : Armed := { job := j }
  State.markDue { s with armed := s.armed ++ [a] }

/-- Triggered jobs that waited for a place in the trigger table armed, in each SQ's order (R140). -/
def State.armHeldGo : Nat → State → Nat → Nat → State
  | 0, s, _, _ => s
  | fuel + 1, s, f, q =>
    match s.sq f q with
    | none => s
    | some x =>
      if !s.serving f || !s.trigFree f then s
      else match takeFirst Job.trig x.fetched with
        | none => s
        | some (j, r) => State.armHeldGo fuel ((s.modSq f q fun y => { y with fetched := r }).arm j) f q

def State.armHeld (s : State) : State :=
  s.sqs.foldl (fun s e => State.armHeldGo (e.2.fetched.length + 1) s (e.1 / 65536) (e.1 % 65536)) s

/-- The job that a malformed entry belongs to, its head where that can be identified (R113). -/
def badJob (f q : Nat) (x : Sq) (at_ : W32) (head : List Byte) : Job :=
  let known := bit (entFlags head) 0 && !bit (entFlags head) 3
  { f, q, ctx := x.ctx, seq := if known then x.c else at_, head := if known then head else [] }

/-- A malformed job's place in its SQ and its batch: C and K pass it once its CQE is written. -/
def State.passBad (s : State) (f q cause : Nat) (j : Job) (entries : Nat) (cmpl : Bool) : State :=
  s.modSq f q fun x => x.enter j (x.c + BitVec.ofNat 32 entries) cmpl (some { status := .locMalformed, detail := cause })

/-- Fetching from C towards P, at most `fuel` entries; whole jobs only. -/
def State.fetchGo : Nat → Nat → State → Nat → Nat → State
  | 0, _, s, _, _ => s
  | fuel + 1, budget, s, f, q =>
    match s.sq f q with
    | none => s
    | some x =>
      if !s.serving f || x.reread.isSome || budget == 0 || (q == 0 && decide (64 ≤ (x.undone.filter fun t => !t.done).length)) then s
      else match s.readJob f q x with
        | (s, .wait) => s
        | (s, .access n) => s.halt f q causeAccess n none []
        | (s, .owner n) => s.modSq f q fun y => { y with reread := some (n, 0, s.tclk + 250) }
        | (s, .bad c n head l k cmpl) =>
          let j := badJob f q x n head
          (s.passBad f q c j k cmpl).halt f q c n (some j) l
        | (s, .job j) =>
          if budget < j.entries then s
          else
            let s := s.modSq f q fun y => y.take j
            let blocked := x.fetched.any Job.trig
            let s := if j.trig && s.trigFree f && !blocked then s.arm j
              else s.modSq f q fun y => { y with fetched := y.fetched ++ [j] }
            State.fetchGo fuel (budget - j.entries) s f q

/-- Up to n entries fetched, and C echoed where it moved. -/
def State.fetchUpTo (s : State) (f q n : Nat) : State :=
  let before := (s.sq f q).elim 0 (·.c)
  let s := State.fetchGo n n s f q
  if (s.sq f q).elim 0 (·.c) ≠ before then s.echoSq f q else s

/-- Up to 64 entries fetched (R106). What is left between C and P, a later sweep fetches, also where P has not moved since
(notes/assumptions/76.md). -/
def State.fetch (s : State) (f q : Nat) : State := s.fetchUpTo f q 64

/-! ### Doorbell records and sweeps (R105–R110) -/

/-- What was read of an SQ's doorbell record: P taken over, or the function halted; answers whether P moved. -/
def State.takeDoor (f q : Nat) (x : Sq) (r : State × Option (List Byte)) : State × Bool :=
  match r with
  | (s, none) => (s.halt f q causeAccess x.c none [], false)
  | (s, some l) =>
    let p := BitVec.ofNat 32 (fld l 0 4)
    if gap32 p x.c > 2 ^ x.log2 then (s.halt f q causeSeqRange p none [], false)
    else if !zeroAt l 4 4 then (s.halt f q causeRsvd x.c none [], false)
    else (s.modSq f q fun y => { y with p }, p != x.p)

/-- An SQ's doorbell record read. -/
def State.readDoor (s : State) (f q : Nat) (x : Sq) : State × Bool := State.takeDoor f q x (s.qRead f x.ctx q x.door 16)

/-- Places of a list that SQs hold: of one function, or of all. -/
def State.placesOf (s : State) (pl : Place) (f : Option Nat) : Nat :=
  (s.sqs.filter fun e => e.1 % 65536 != 0 && e.2.place == pl && f.all (· == e.1 / 65536)).length

/-- Places granted to tenants on a list. -/
def State.placesGranted (s : State) (pl : Place) : Nat :=
  sum (s.fns.map fun e => if e.1 = 0 then 0 else if pl = .express then e.2.grant.express else e.2.grant.regular)

/-- Whether the function holds a free place on a list (R105, R377, R378). -/
def State.listFree (s : State) (f : Nat) (pl : Place) : Bool :=
  let cap := if pl = .express then 256 else 2048
  let mine := if f = 0 then cap - s.placesGranted pl
    else if pl = .express then (s.fn f).grant.express else (s.fn f).grant.regular
  decide (s.placesOf pl none < cap) && decide (s.placesOf pl (some f) < mine)

/-- The park threshold in sweeps (R107); none for never. -/
def Sq.threshold (x : Sq) : Option Nat :=
  if x.park = 65535 then none
  else if x.park = 0 then some (if x.home = .express then 4000 else 500)
  else some x.park

/-- An SQ that has been idle for its threshold is parked (R107): the park flag written, the doorbell record read once more, and the queue
taken off its list unless P has moved, in which case the flag is taken back and the sweeping goes on. -/
def State.parkSq (s : State) (f q : Nat) : State :=
  match s.sq f q with
  | none => s
  | some x =>
    match (s.writeEcho f x.ctx q x.door x.c true).readDoor f q x with
    | (s, moved) =>
      if !s.serving f then s
      else if moved then (s.modSq f q fun y => { y with idle := 0 }).echoSq f q
      else s.modSq f q fun y => { y with place := .parked, idle := 0 }

/-- One SQ swept, its doorbell record as read: new entries fetched, and the queue parked where it has been idle long enough (R106, R107). -/
def State.sweepSq (f q : Nat) (x : Sq) (r : State × Option (List Byte)) : State :=
  match State.takeDoor f q x r with
  | (s, true) => (s.modSq f q fun y => { y with idle := 0 }).fetch f q
  | (s, false) =>
    let s := (s.modSq f q fun y => { y with idle := y.idle + 1 }).fetch f q
    match s.sq f q, x.threshold with
    | some y, some t => if q ≠ 0 ∧ t ≤ y.idle ∧ s.serving f then s.parkSq f q else s
    | _, _ => s

/-- The records in one aligned 64-byte line that belong to SQs of one function on one list are read with one read (R106): what a sweep has
read of a line, by function and line. -/
abbrev Lines := List ((Nat × Nat) × Option (List Byte))

/-- Whether another SQ of the function on the list has its doorbell record in the same line. -/
def State.sharesLine (s : State) (pl : Place) (f q : Nat) (x : Sq) : Bool :=
  s.sqs.any fun e => e.1 / 65536 == f && e.1 % 65536 != q && e.1 % 65536 != 0 && e.2.place == pl && e.2.door / 64 == x.door / 64

/-- The doorbell record of an SQ on a list: taken from a line that the sweep has read, read with its whole line, or read alone. -/
def State.sweepRead (s : State) (pl : Place) (c : Lines) (f q : Nat) (x : Sq) : State × Lines × Option (List Byte) :=
  let cut := fun (l : List Byte) => slice l (x.door % 64) 16
  match c.find? fun e => e.1 == (f, x.door / 64) with
  | some e => (s, c, e.2.map cut)
  | none =>
    if s.sharesLine pl f q x then
      let r := s.qRead f x.ctx q (x.door / 64 * 64) 64
      (r.1, ((f, x.door / 64), r.2) :: c, r.2.map cut)
    else
      let r := s.qRead f x.ctx q x.door 16
      (r.1, c, r.2)

/-- One SQ's turn in the sweep of a list: passed over where it is not on the list, or not served. -/
def State.sweepOne (pl : Place) (a : State × Lines) (e : Nat × Sq) : State × Lines :=
  let f := e.1 / 65536
  let q := e.1 % 65536
  match a.1.sq f q with
  | none => a
  | some x =>
    if q = 0 ∨ e.2.place ≠ pl ∨ !a.1.serving f then a
    else
      let r := a.1.sweepRead pl a.2 f q x
      (State.sweepSq f q x (r.1, r.2.2), r.2.1)

/-- Every SQ on a list swept, in ascending function and queue number. -/
def State.sweepList (s : State) (pl : Place) : State := (s.sqs.foldl (State.sweepOne pl) (s, [])).1

/-- One admin SQ's turn. -/
def State.sweepAdmin (s : State) (e : Nat × Sq) : State :=
  let f := e.1 / 65536
  match s.sq f 0 with
  | none => s
  | some x => if e.1 % 65536 ≠ 0 ∨ !s.serving f then s else State.sweepSq f 0 x (s.qRead f x.ctx 0 x.door 16)

def State.sweepAdmins (s : State) : State := s.sqs.foldl State.sweepAdmin s

/-- SWEEP_EXPRESS (R106). -/
def execSweepExpress (stores : List HostStore) (s : State) : Host.Outcome State Fault Refusal :=
  let s := s.withStores stores
  .next (if s.live then s.sweepList .express else s)

/-- SWEEP_REGULAR (R106). -/
def execSweepRegular (stores : List HostStore) (s : State) : Host.Outcome State Fault Refusal :=
  let s := s.withStores stores
  .next (if s.live then s.sweepList .regular else s)

/-- SWEEP_ADMIN (R105). -/
def execSweepAdmin (stores : List HostStore) (s : State) : Host.Outcome State Fault Refusal :=
  let s := s.withStores stores
  .next (if s.live then s.sweepAdmins else s)

/-! ### Re-reads (R91, R93) -/

/-- An entry of the job at C, whose ownership bit stays wrong: the job takes its place in the SQ and in its batch, and the function halts. Its
length, and whether it carries CMPL, are taken from what its head shows (notes/assumptions/76.md). -/
def State.ownerBad (s : State) (f q : Nat) (x : Sq) (n : W32) (l : List Byte) : State :=
  let head := if n = x.c then (s, some l) else s.readEntry f q x x.c
  let j := badJob f q x n (head.2.getD [])
  let m := entNcont (head.2.getD [])
  let d := head.1.jobCmpl f q x m
  ((d.1.passBad f q causeOwner j (if m ≤ 4 ∧ 1 + m ≤ gap32 x.p x.c then 1 + m else 1) d.2).halt f q causeOwner n (some j) l).echoSq f q

/-- The entry whose ownership bit was wrong read again, when its 250 ns are over. -/
def State.reread (s : State) (f q : Nat) : State :=
  match s.sq f q with
  | none => s
  | some x =>
    match x.reread with
    | none => s
    | some (n, k, t) =>
      if s.tclk < t ∨ !s.serving f then s
      else match s.readEntry f q x n with
        | (s, none) => s.halt f q causeAccess n none []
        | (s, some l) =>
          if entOwner l = ownerSense n x.log2 then (s.modSq f q fun y => { y with reread := none }).fetch f q
          else if k < 3 then s.modSq f q fun y => { y with reread := some (n, k + 1, s.tclk + 250) }
          else s.ownerBad f q x n l

/-- OWNER_REREAD (R93). -/
def execOwnerReread (f q : Nat) (stores : List HostStore) (s : State) : Host.Outcome State Fault Refusal :=
  if fnOk f && decide (q ≤ 65535) then
    let s := s.withStores stores
    .next (if s.live then s.reread f q else s)
  else .next s

/-- Held CQEs written, oldest first, as far as there is room (R91). -/
def State.drainGo : Nat → State → Nat → Nat → State
  | 0, s, _, _ => s
  | fuel + 1, s, f, q =>
    match s.cq f q with
    | none => s
    | some c =>
      match c.held with
      | [] => s
      | (l, h) :: r =>
        if gap32 c.w c.h < 2 ^ c.log2 then
          State.drainGo fuel ((s.modCq f q fun x => { x with held := r }).writeCqe f q { c with held := r } l h) f q
        else s

/-- The doorbell record of a CQ read: H taken over, or the function halted (R7, R112). -/
def State.readHead (s : State) (f q : Nat) : State :=
  match s.cq f q with
  | none => s
  | some c =>
    let r := s.qRead f c.ctx q c.door 16
    match headOf r.2 with
    | .ok h => r.1.modCq f q fun x => { x with h }
    | .error e => r.1.haltCq f q e c.w

/-- A full CQ's doorbell record read again, and the held CQEs written as H allows. -/
def State.rereadCq (s : State) (f q : Nat) : State :=
  match s.cq f q with
  | none => s
  | some c =>
    if c.held.isEmpty || !s.serving f then s
    else
      let s := s.readHead f q
      State.drainGo c.held.length s f q

/-- CQ_FULL_REREAD (R91). -/
def execCqFullReread (f q : Nat) (stores : List HostStore) (s : State) : Host.Outcome State Fault Refusal :=
  if fnOk f && decide (q ≤ 65535) then
    let s := s.withStores stores
    .next (if s.live then s.rereadCq f q else s)
  else .next s

/-! ### State records and mirrors (R104, R139) -/

/-- A state record that is behind, written with the echo. -/
def State.recordWrite (s : State) (f : Nat) (k : QueueKind) (q : Nat) : State :=
  match k with
  | .sq => if (s.sq f q).any (·.stale) then s.writeSqRecord f q else s
  | .cq => if (s.cq f q).any (·.stale) then (s.writeCqRecord f q).echoCq f q else s
  | .eq => if (tget s.eqs f).any (·.stale) then (s.writeEqRecord f).echoEq f else s

/-- STATE_RECORD_WRITE (R104). -/
def execStateRecordWrite (f : Nat) (kind : QueueKind) (q : Nat) (s : State) : Host.Outcome State Fault Refusal :=
  if fnOk f && decide (q ≤ 65535) then .next (if s.live then s.recordWrite f kind q else s)
  else .next s

/-- A changed counter written to its function's mirror. -/
def State.mirrorWrite (s : State) (c i : Nat) : State :=
  match tget s.ctxs c with
  | none => s
  | some x =>
    if x.dirty.contains i && s.mirrored x.owner then
      let s := s.modCtx c fun y => { y with dirty := y.dirty.filter (· != i) }
      (s.writeHost x.owner (fnPort x.owner) (s.mirrorBase x.owner + c * 2048 + i * 8) (leBytes 8 (s.evc c i).toNat)).1
    else s

/-- EVC_MIRROR_WRITE (R139). -/
def execEvcMirrorWrite (c i : Nat) (s : State) : Host.Outcome State Fault Refusal :=
  if decide (c ≤ 4095) && decide (i ≤ 255) then .next (if s.live then s.mirrorWrite c i else s)
  else .next s

/-! ### FN_WAKE (R109–R111) -/

/-- An SQ wake: the doorbell record read, the entries from C up to P fetched, and the queue back on its home list where a place is free. -/
def State.wakeSq (s : State) (f q : Nat) : State :=
  match s.sq f q with
  | none => s
  | some x =>
    let s := (s.readDoor f q x).1
    let s := s.fetchUpTo f q ((s.sq f q).elim 0 fun y => gap32 y.p y.c)
    if !s.serving f then s
    else if x.place = .parked ∧ s.listFree f x.home then
      (s.modSq f q fun y => { y with place := y.home, idle := 0 }).echoSq f q
    else s.echoSq f q

/-- A CQ arm: the held CQEs are written as H allows, and the vector is raised at once where H differs from W then, else with the next
entry. -/
def State.armCq (s : State) (f q : Nat) : State :=
  match s.cq f q with
  | none => s
  | some c =>
    match c.vector with
    | none => s
    | some v =>
      let s := s.readHead f q
      if !s.serving f then s
      else
        let s := State.drainGo c.held.length s f q
        match s.cq f q with
        | none => s
        | some d => if d.h ≠ d.w then s.interrupt f v else s.modCq f q fun x => { x with armed := true }

/-- The doorbell record of a function's error queue read: H taken over, or the function halted. -/
def State.readEqHead (s : State) (f : Nat) : State :=
  match tget s.eqs f with
  | none => s
  | some e =>
    let r := s.qRead f e.ctx 1 e.door 16
    match headOf r.2 with
    | .ok h => r.1.modEq f fun x => { x with h }
    | .error c => r.1.haltEq f c e.w

/-- An error-queue arm: the vector is raised at once where H differs from W, else with the next record. -/
def State.armEq (s : State) (f : Nat) : State :=
  match tget s.eqs f with
  | none => s
  | some e =>
    match e.vector with
    | none => s
    | some v =>
      let s := s.readEqHead f
      if !s.serving f then s
      else match tget s.eqs f with
        | none => s
        | some x => if x.h ≠ x.w then s.interrupt f v else s.modEq f fun x => { x with armed := true }

/-- A write of FN_WAKE (R109, R385, R490): carried out, recorded while the function quiesces or an inventory stop holds, or ignored for
a halted function. The kind stands in bits [17:16] and the queue in bits [15:0] of the value. -/
def State.wake (s : State) (f kind q : Nat) (act : State → State) : State :=
  let fn := s.fn f
  if s.activity ≠ .running ∨ fn.halted then s
  else if !s.live || fn.state == .quiescing || fn.state == .quiesced then
    s.modFn f fun x => { x with wakes := x.wakes ++ [BitVec.ofNat 32 (q + kind * 65536)] }
  else if fn.state == .active then act s
  else s

/-- SQ_WAKE (R110). -/
def execSqWake (f q : Nat) (stores : List HostStore) (s : State) : Host.Outcome State Fault Refusal :=
  if fnOk f && decide (q ≤ 65535) then .next ((s.withStores stores).wake f 0 q fun s => s.wakeSq f q)
  else .next s

/-- CQ_ARM (R111). -/
def execCqArm (f q : Nat) (stores : List HostStore) (s : State) : Host.Outcome State Fault Refusal :=
  if fnOk f && decide (q ≤ 65535) then .next ((s.withStores stores).wake f 1 q fun s => s.armCq f q)
  else .next s

/-- ERROR_QUEUE_ARM (R111). -/
def execErrorQueueArm (f : Nat) (stores : List HostStore) (s : State) : Host.Outcome State Fault Refusal :=
  if fnOk f then .next ((s.withStores stores).wake f 2 0 fun s => s.armEq f)
  else .next s

/-- The FN_WAKE writes that a function recorded, acted on in order (R385, R490). -/
def State.actWakes (s : State) (f : Nat) : State :=
  let l := (s.fn f).wakes
  let s := s.modFn f fun x => { x with wakes := [] }
  l.foldl (fun s w =>
    let q := w.toNat % 65536
    match w.toNat / 65536 % 4 with
    | 0 => s.wake f 0 q fun s => s.wakeSq f q
    | 1 => s.wake f 1 q fun s => s.armCq f q
    | 2 => s.wake f 2 0 fun s => s.armEq f
    | _ => s) s

/-! ### Starting the admin pair (R85) -/

/-- FN_ADMIN_CFG written with enable: the pair starts, or cfg_error is set, and the field locks. A pair beyond the device's limits of Table
3.1 does not start either (notes/assumptions/76.md). -/
def State.adminStart (s : State) (f : Nat) (value : Nat) : State :=
  let fn := s.fn f
  if fn.state = .disabled then s
  else
    let s := s.writeWord f fn 0x1000 value
    if fn.admin.enable || !bit value 16 then s
    else
      let cfg := s.word f 0x1000
      let sqLog := bits cfg 4 0
      let cqLog := bits cfg 12 8
      let sqb := s.dword f 0x1008
      let cqb := s.dword f 0x1010
      let dbb := s.dword f 0x1018
      let stb := s.dword f 0x1020
      let ok := decide (s.sqs.length < 65536 ∧ s.cqs.length < 65536 ∧ 6 ≤ sqLog ∧ sqLog ≤ 12 ∧ 6 ≤ cqLog ∧ cqLog ≤ 12 ∧ sqb % 4096 = 0 ∧ cqb % 4096 = 0 ∧ dbb % 16 = 0 ∧ stb % 32 = 0)
      if !ok then s.modFn f fun x => { x with admin := { enable := true, cfgError := true } }
      else
        let s := s.modFn f fun x => { x with admin := { enable := true, ready := true } }
        let s := { s with
          sqs := tset s.sqs (qKey f 0) { log2 := sqLog, ring := sqb, door := dbb, srec := stb, park := 65535 }
          cqs := tset s.cqs (qKey f 0) { log2 := cqLog, ring := cqb, door := dbb + 16, srec := stb + 32, vector := some 0 } }
        (s.writeSqRecord f 0).writeCqRecord f 0

/-- ADMIN_ENABLE (R85). -/
def execAdminEnable (f : Nat) (value : W32) (s : State) : Host.Outcome State Fault Refusal :=
  if fnOk f then .next (if s.served then s.adminStart f value.toNat else s)
  else .next s

end Sys2Proof.Machine
end

