-- ==== Sys2Proof/Machine/Admin.lean ====
section
/-! DEFINITION. Admin commands (R116–R120, R428): how one is carried out, and those that create and destroy contexts, queues and
segments, negotiate, and grant (chapters 2, 3, 12 and 14). -/

namespace Sys2Proof.Machine

/-! ### Carrying out an admin command -/

/-- The reason codes of Table 3.16. -/
inductive Reason where
  | argument | state | permission | inUse | unknown
  deriving DecidableEq, Repr

def Reason.code : Reason → Nat
  | .argument => 1 | .state => 2 | .permission => 3 | .inUse => 4 | .unknown => 5

/-- How an admin command ends: OK with a result, refused, for want of a device limit (1) or grant (2), with another status, or later. -/
inductive Answer where
  | ok (result : Nat)
  | refuse (r : Reason)
  /-- LOAD_PLAN refused with reason ARGUMENT for a bundle (R287) -/
  | refuseAt (bundle : Nat)
  | resource (detail : Nat)
  | fail (st : Status) (detail : Nat)
  | later
  deriving DecidableEq, Repr

/-- The completion of an admin command. -/
def State.answer (s : State) (j : Job) (a : Answer) : State :=
  match a with
  | .ok r => s.endJob none j { result := r } [] 0
  | .refuse r => s.endJob none j { status := .locAdmRefused, result := if j.opcode = 0x24 then 0xFFFF else 0, detail := r.code } [] 0
  | .refuseAt n => s.endJob none j { status := .locAdmRefused, result := n, detail := Reason.argument.code } [] 0
  | .resource d => s.failJob j .locAdmNoResource d
  | .fail st d => s.failJob j st d
  | .later => s

/-- Commands reserved to PF0 (Table 3.13). -/
def pf0Only (op : Nat) : Bool := decide (0x30 ≤ op)

/-- Whether the command is refused before its arguments are looked at (R117, R428, R429). -/
def State.adminGate (s : State) (f op : Nat) : Option Reason :=
  if pf0Only op && f != 0 then some .permission
  else match (s.fn f).neg with
    | .agreed .. => none
    | .none => if op = 1 ∨ op = 2 ∨ op = 0x2C then none else some .state
    | .failed => if op = 1 ∨ op = 0x2C then none else some .state

def Job.arg (j : Job) (off n : Nat) : Nat := fld j.head off n

/-- A byte of 12–59 that no field of the command takes up is not zero (R120). -/
def Job.excess (j : Job) (used : List (Nat × Nat)) : Bool :=
  (List.range 48).any fun i => !(used.any fun u => decide (u.1 ≤ 12 + i ∧ 12 + i < u.1 + u.2)) && fld j.head (12 + i) 1 != 0

/-- A LOAD_TIMETABLE of the gallery fetched before the command, and not yet carried out. -/
def State.loadBefore (s : State) (j : Job) : Bool :=
  (s.sq 0 0).any fun x => x.fetched.any fun k => k.opcode == 0x30 && k.arg 16 1 == j.arg 16 1 && decide (0 < gap32 j.seq k.seq ∧ gap32 j.seq k.seq < 2 ^ 31)

/-- Whether a command names an object on which an earlier command is still at work, or for which one waits: a gallery whose tables are being
loaded, a group that is being formed (R116), or, for LOAD_TIMETABLE, a gallery in which a conservation cycle runs (R53). A segment that is being
withdrawn holds up no command, nor does a group that is being formed DESTROY_GROUP: Tables 2.7 and 7.5 say what each gets
(notes/assumptions/78.md). -/
def State.adminWaits (s : State) (j : Job) : Bool :=
  match j.opcode with
  | 0x20 => (tget s.groups (j.arg 18 2)).any fun g => g.f == j.f && g.ticket.isSome
  | 0x30 => j.f == 0 && ((s.gal (j.arg 16 1)).hold.isSome || (s.gal (j.arg 16 1)).cons.busy)
  | 0x31 => j.f == 0 && ((s.gal (j.arg 16 1)).hold.isSome || s.loadBefore j)
  | _ => false

/-- The oldest admin command fetched for a function that need not wait, where it has the opcode (for MODIFY_QP, and the operation), carried
out (R116). An operation that MODIFY_QP does not have is taken with operation 1, which refuses it. `used` are the bytes that its fields take
up. -/
def State.admin (s : State) (f op : Nat) (sub : Option Nat) (used : List (Nat × Nat)) (act : State → Job → State × Answer) : State :=
  if !s.live then s
  else match s.sq f 0 with
    | none => s
    | some x =>
      match takeFirst (fun j => !s.adminWaits j) x.fetched with
      | none => s
      | some (j, r) =>
        if j.opcode ≠ op ∨ (sub.any fun n => j.arg 16 1 != n && !(n == 1 && decide (j.arg 16 1 = 0 ∨ 6 < j.arg 16 1))) then s
        else
          let t := s.modSq f 0 fun y => { y with fetched := r }
          match s.adminGate f op with
          | some g => t.answer j (.refuse g)
          | none =>
            if j.excess used then t.answer j (.refuse .argument)
            else
              let p := act t j
              p.1.answer j p.2

/-! ### Buffers of admin commands -/

/-- The lowest-numbered context of a function, in which a device address given with no context lies. -/
def State.firstCtx (s : State) (f : Nat) : Nat := (s.ctxs.find? fun c => c.2.owner == f).elim 4096 (·.1)

/-- A buffer of the command translated; one named through an import segment is no memory of this node. -/
def State.adminBuf (s : State) (f c dev n : Nat) (r : Right) : Except Answer Trans :=
  match s.translate f c dev n r with
  | .error st => .error (.fail st 0)
  | .ok t => if t.seg.imported then .error (.refuse .argument) else .ok t

/-- Bytes read from a buffer of the command; a memory error is recorded with the IDs of its head (R134). -/
def State.adminRead (s : State) (j : Job) (c dev n : Nat) : State × Except Answer (List Byte) :=
  match s.adminBuf j.f c dev n .read with
  | .error a => (s, .error a)
  | .ok t =>
    match s.readVia t.via (localOf t.addr) n with
    | (s, l, none) => (s, .ok l)
    | (s, _, some e) => (s.endedBy e j.f j.layer j.oper, .error (.fail .memUncorrectable 0))

/-- Bytes written to a buffer of the command, and the answer, `a` where the write succeeds. -/
def State.adminWrite (s : State) (j : Job) (c dev : Nat) (l : List Byte) (a : Answer) : State × Answer :=
  match s.adminBuf j.f c dev l.length .write with
  | .error e => (s, e)
  | .ok t =>
    match s.writeVia t.via (localOf t.addr) l with
    | (s, none) => (s, a)
    | (s, some e) => (s.endedBy e j.f j.layer j.oper, .fail .memUncorrectable 0)

/-! ### IDENTIFY and NEGOTIATE -/

/-- The 16-byte entry of a registered peer (Table 4.11). -/
def State.peerEntry (s : State) (n : Nat) : List Byte :=
  let x := tgetD s.peers n {}
  if x.valid then leBytes 8 (s.peerBase n) ++ leBytes 4 (s.peerSize n / 4096) ++ leBytes 1 x.state ++ leBytes 1 0 ++ leBytes 2 x.rtt
  else List.replicate 16 0

/-- What the manual says that the identity page reports: the agreed feature word (R428), the OUI (R422), where the copies of the firmware
images are (R320), the peer entries (R156), and on an AF the BARs as assigned (R369). -/
def State.pageParts (s : State) (f : Nat) : List (List Byte) :=
  let word := match (s.fn f).neg with
    | .agreed _ _ feats => feats.toNat
    | _ => 0
  let bars := if f < 256 then [] else (tgetD s.hps (fnPort f) {}).bars.flatMap fun b => leBytes 8 b.1
  [leBytes 16 word, leBytes 3 Config.oui.toNat,
   (List.range 6).flatMap fun g => (s.gal g).fwHome.elim [] fun c => leBytes 8 (c * 0x1800000 + 0x800000),
   (List.range 32).flatMap s.peerEntry, bars]

/-- The parts with free bytes before each, as many as the part's place asks for. -/
def layPage (free : Nat → Byte) : List (List Byte) → Nat → List Byte → List Byte
  | [], _, acc => acc
  | l :: r, k, acc => layPage free r (k + 1) (acc ++ (List.range (Config.pageGap k % 512)).map (fun i => free (acc.length + i)) ++ l)

/-- The identity page. The manual says what it reports and not where: each part stands at a place that is free, and all other bytes are
free, drawn anew each time (notes/assumptions/4.md). -/
def State.identityPage (s : State) (f e : Nat) : List Byte :=
  let l := layPage (Config.freeByte e) (s.pageParts f) 0 []
  slice (l ++ (List.range (4096 - l.length)).map fun i => Config.freeByte e (l.length + i)) 0 4096

/-- The identity page written to a bus address. -/
def State.doIdentify (s : State) (j : Job) : State × Answer :=
  let a := j.arg 16 8
  if a % 4096 ≠ 0 then (s, .refuse .argument)
  else
    let (e, s) := s.draw
    ((s.writeHost j.f (fnPort j.f) a (s.identityPage j.f e)).1, .ok 0)

/-- IDENTIFY (R117, R118). -/
def execIdentify (f : Nat) (s : State) : Host.Outcome State Fault Refusal :=
  if fnOk f then .next (s.admin f 0x01 none [(16, 8)] fun s j => s.doIdentify j)
  else .next s

/-- The record of a failed negotiation (R429). -/
def negRecord (detail f lo hi mlo mhi time : Nat) : List Byte :=
  leBytes 1 0x75 ++ leBytes 1 1 ++ leBytes 1 detail ++ leBytes 1 0 ++ leBytes 2 f ++ leBytes 1 lo ++ leBytes 1 hi ++
  leBytes 1 mlo ++ leBytes 1 mhi ++ List.replicate 18 0 ++ leBytes 4 time

/-- NEGOTIATE against the manifest of the bundle that runs (R428, R429). -/
def State.doNegotiate (s : State) (j : Job) (b : Bundle) : State × Answer :=
  let lo := j.arg 16 1
  let hi := j.arg 17 1
  let req := BitVec.ofNat 128 (j.arg 24 16)
  let need := BitVec.ofNat 128 (j.arg 40 16)
  let failed := fun (d : Nat) =>
    ((s.modFn j.f fun x => { x with neg := .failed }).record 0 (negRecord d j.f lo hi b.lowMajor b.highMajor s.time),
      Answer.fail .devNegFailed d)
  match (s.fn j.f).neg with
  | .agreed .. => (s, .refuse .state)
  | _ =>
    if lo = 0 ∨ hi < lo ∨ need &&& req ≠ need then (s, .refuse .argument)
    else
      let major := Nat.min hi b.highMajor
      if major < lo ∨ major < b.lowMajor then failed 1
      else if need &&& b.features ≠ need then failed 2
      else
        let minor := if major = b.highMajor then b.minor else 0
        (s.modFn j.f fun x => { x with neg := .agreed major minor (req &&& b.features) }, .ok (major + 256 * minor))

/-- NEGOTIATE (R428). Until firmware runs there is no manifest, and the command waits. -/
def execNegotiate (f : Nat) (s : State) : Host.Outcome State Fault Refusal :=
  if fnOk f then
    match s.boot.running with
    | none => .next s
    | some b => .next (s.admin f 0x02 none [(16, 4), (24, 32)] fun s j => s.doNegotiate j b)
  else .next s

/-! ### Contexts -/

def State.ctxsOf (s : State) (f : Nat) : Nat := (s.ctxs.filter fun c => c.2.owner == f).length

/-- A context of the function's. -/
def State.ownsCtx (s : State) (f c : Nat) : Bool := (tget s.ctxs c).any fun x => x.owner == f

def State.doCreateContext (s : State) (f : Nat) : State × Answer :=
  let n := tfree s.ctxs 0
  if 4095 < n then (s, .resource 1)
  else if f ≠ 0 ∧ (s.fn f).grant.contexts ≤ s.ctxsOf f then (s, .resource 2)
  else ({ s with ctxs := tset s.ctxs n { owner := f } }, .ok n)

/-- CREATE_CONTEXT (R117). -/
def execCreateContext (f : Nat) (s : State) : Host.Outcome State Fault Refusal :=
  if fnOk f then .next (s.admin f 0x04 none [] fun s j => s.doCreateContext j.f)
  else .next s

/-- Whether anything is bound to a context (Table 3.13). -/
def State.ctxInUse (s : State) (c : Nat) : Bool :=
  ((tget s.ctxs c).any fun x => x.segs.any fun g => decide (g.2.state ≠ .free)) ||
  s.sqs.any (fun e => e.1 % 65536 != 0 && e.2.ctx == c) || s.cqs.any (fun e => e.1 % 65536 != 0 && e.2.ctx == c) ||
  s.eqs.any (fun e => e.2.ctx == c) || s.qps.any (fun e => e.2.ctx == c)

/-- The record of a key slot event, to PF0 and to the function that owns the slot (Table 13.10). -/
def State.keyEvent (s : State) (i : Nat) (k : KeySlot) (event port : Nat) : State :=
  let f := (tget s.ctxs k.ctx).elim 0 (·.owner)
  s.recordBoth f (leBytes 1 0x51 ++ leBytes 1 1 ++ leBytes 1 event ++ leBytes 1 port ++ leBytes 2 i ++ leBytes 2 k.epoch ++
    leBytes 2 k.ctx ++ leBytes 2 f ++ leBytes 5 k.n ++ List.replicate 11 0 ++ leBytes 4 s.time)

/-- A context gone: its key slots erased, with a record for each, and its plans unloaded (R288, R402, R414). -/
def State.dropCtx (s : State) (c : Nat) : State :=
  let mine := s.sec.slots.filter fun e => decide (e.2.state ≠ .empty) && e.2.ctx == c
  let s := mine.foldl (fun s e => s.keyEvent e.1 e.2 5 0xFF) s
  { s with
    ctxs := tdel s.ctxs c
    plans := s.plans.filter fun e => e.2.ctx != c
    sec := { s.sec with slots := s.sec.slots.filter fun e => !(decide (e.2.state ≠ .empty) && e.2.ctx == c) } }

def State.doDestroyContext (s : State) (j : Job) : State × Answer :=
  let c := j.arg 16 2
  if !s.ownsCtx j.f c then (s, .refuse .unknown)
  else if s.ctxInUse c then (s, .refuse .inUse)
  else (s.dropCtx c, .ok 0)

/-- DESTROY_CONTEXT (R117). -/
def execDestroyContext (f : Nat) (s : State) : Host.Outcome State Fault Refusal :=
  if fnOk f then .next (s.admin f 0x05 none [(16, 2)] fun s j => s.doDestroyContext j)
  else .next s

/-! ### Queues (R84, R118) -/

/-- Vectors of a function, and those that are fixed (Table 12.10). -/
def vectorOk (f v : Nat) : Bool := v == 0xFFFF || (decide (v < vectorsOf f) && (v == 0 || decide ((if f = 0 then 4 else 2) ≤ v)))

/-- An address of a queue translated with the rights that the ZD24's own use of it needs (notes/assumptions/76.md). -/
def State.queuePart (s : State) (f c dev n align : Nat) (rights : List Right) : Except Answer Trans :=
  if dev % align ≠ 0 then .error (.refuse .argument)
  else rights.foldl (fun acc r =>
    match acc with
    | .error e => .error e
    | .ok _ => s.adminBuf f c dev n r) (s.adminBuf f c dev n (rights.headD .read))

/-- Ring, doorbell record and state record of a queue: their local addresses and references. -/
def State.queueParts (s : State) (j : Job) (entry : Nat) (rights : List Right) : Except Answer (Nat × Nat × Nat × List Ref) :=
  let c := j.arg 40 2
  match s.queuePart j.f c (j.arg 16 8) (2 ^ j.arg 42 1 * entry) 4096 rights, s.queuePart j.f c (j.arg 24 8) 16 16 [.read, .write],
      s.queuePart j.f c (j.arg 32 8) 32 32 [.write] with
  | .ok a, .ok b, .ok d => .ok (localOf a.addr, localOf b.addr, localOf d.addr, [a.ref, b.ref, d.ref])
  | .error e, _, _ => .error e
  | _, .error e, _ => .error e
  | _, _, .error e => .error e

/-- The lowest queue number from 1 that a function does not use. -/
def freeQueue {α : Type} (t : Tab α) (f : Nat) : Nat := tfree (t.filter fun e => decide (e.1 / 65536 = f)) (qKey f 1) - qKey f 0

/-- What is common to the arguments of CREATE_CQ, CREATE_SQ and CREATE_ERROR_QUEUE. -/
def State.queueArgs (s : State) (j : Job) : Option Answer :=
  if 4095 < j.arg 40 2 then some (.refuse .argument)
  else if !s.ownsCtx j.f (j.arg 40 2) then some (.refuse .unknown)
  else if !decide (6 ≤ j.arg 42 1 ∧ j.arg 42 1 ≤ 16) then some (.refuse .argument)
  else none

/-- Queues of a function, the admin queue left out. -/
def queuesOf {α : Type} (t : Tab α) (f : Nat) : Nat := (t.filter fun e => decide (e.1 / 65536 = f) && e.1 % 65536 != 0).length

def State.doCreateCq (s : State) (j : Job) : State × Answer :=
  let f := j.f
  match s.queueArgs j with
  | some a => (s, a)
  | none =>
    if !vectorOk f (j.arg 44 2) then (s, .refuse .argument)
    else match s.queueParts j 32 [.write] with
      | .error a => (s, a)
      | .ok (ring, door, srec, refs) =>
        let n := freeQueue s.cqs f
        if 65536 ≤ s.cqs.length ∨ 65535 < n then (s, .resource 1)
        else if f ≠ 0 ∧ (s.fn f).grant.cqs ≤ queuesOf s.cqs f then (s, .resource 2)
        else
          let v := j.arg 44 2
          let q : Cq := { ctx := j.arg 40 2, log2 := j.arg 42 1, ring, door, srec, refs, vector := if v = 0xFFFF then none else some v }
          (({ s with cqs := tset s.cqs (qKey f n) q }).writeCqRecord f n, .ok n)

/-- CREATE_CQ (R118). -/
def execCreateCq (f : Nat) (s : State) : Host.Outcome State Fault Refusal :=
  if fnOk f then .next (s.admin f 0x08 none [(16, 27), (44, 2)] fun s j => s.doCreateCq j)
  else .next s

/-- A CQ is destroyed once the host has taken every entry, by its doorbell record where that is still read, else by the H last read. One
that still holds CQEs under R91 is not empty either (notes/assumptions/76.md). -/
def State.doDestroyCq (s : State) (j : Job) : State × Answer :=
  let q := j.arg 16 2
  match s.cq j.f q with
  | none => (s, .refuse .unknown)
  | some c =>
    if q = 0 then (s, .refuse .unknown)
    else if s.sqs.any fun e => decide (e.1 / 65536 = j.f ∧ e.1 % 65536 ≠ 0) && e.2.cq == q then (s, .refuse .inUse)
    else
      let s := if s.serving j.f then s.readHead j.f q else s
      if (s.cq j.f q).any fun x => x.h != x.w || !c.held.isEmpty then (s, .refuse .state)
      else ({ s with cqs := tdel s.cqs (qKey j.f q) }, .ok 0)

/-- DESTROY_CQ (R117). -/
def execDestroyCq (f : Nat) (s : State) : Host.Outcome State Fault Refusal :=
  if fnOk f then .next (s.admin f 0x09 none [(16, 2)] fun s j => s.doDestroyCq j)
  else .next s

def State.doCreateSq (s : State) (j : Job) : State × Answer :=
  let f := j.f
  let kind := j.arg 43 1
  let pos := j.arg 46 1
  match s.queueArgs j with
  | some a => (s, a)
  | none =>
    if kind % 4 > 1 ∨ kind / 8 ≠ 0 ∨ pos > 2 then (s, .refuse .argument)
    else if j.arg 44 2 = 0 ∨ (s.cq f (j.arg 44 2)).isNone then (s, .refuse .unknown)
    else match s.queueParts j 64 [.read] with
      | .error a => (s, a)
      | .ok (ring, door, srec, refs) =>
        let n := freeQueue s.sqs f
        if 65536 ≤ s.sqs.length ∨ 65535 < n then (s, .resource 1)
        else if f ≠ 0 ∧ (s.fn f).grant.sqs ≤ queuesOf s.sqs f then (s, .resource 2)
        else
          let home : Place := if pos = 0 then .express else .regular
          let place : Place := if pos ≠ 2 ∧ s.listFree f home then home else .parked
          let q : Sq := { ctx := j.arg 40 2, cq := j.arg 44 2, log2 := j.arg 42 1, ring, door, srec, refs, raw := bit kind 0,
                          flushOff := bit kind 2, home, place, park := j.arg 48 2 }
          let code := match place with
            | .express => 0
            | .regular => 1
            | .parked => 2
          ((({ s with sqs := tset s.sqs (qKey f n) q }).writeSqRecord f n).echoSq f n, .ok (n + 65536 * code))

/-- CREATE_SQ (R118). -/
def execCreateSq (f : Nat) (s : State) : Host.Outcome State Fault Refusal :=
  if fnOk f then .next (s.admin f 0x0A none [(16, 31), (48, 2)] fun s j => s.doCreateSq j)
  else .next s

/-- An SQ is destroyed once K = C = P, by its doorbell record where that is still read, else by the P last read. -/
def State.doDestroySq (s : State) (j : Job) : State × Answer :=
  let q := j.arg 16 2
  match s.sq j.f q with
  | none => (s, .refuse .unknown)
  | some x =>
    if q = 0 then (s, .refuse .unknown)
    else
      let s := if s.serving j.f then (s.readDoor j.f q x).1 else s
      if (s.sq j.f q).any fun x => x.k != x.c || x.c != x.p then (s, .refuse .state)
      else ({ s with sqs := tdel s.sqs (qKey j.f q) }, .ok 0)

/-- DESTROY_SQ (R117). -/
def execDestroySq (f : Nat) (s : State) : Host.Outcome State Fault Refusal :=
  if fnOk f then .next (s.admin f 0x0B none [(16, 2)] fun s j => s.doDestroySq j)
  else .next s

def State.doCreateEq (s : State) (j : Job) : State × Answer :=
  let f := j.f
  match s.queueArgs j with
  | some a => (s, a)
  | none =>
    if (tget s.eqs f).isSome then (s, .refuse .state)
    else if !vectorOk f (j.arg 44 2) then (s, .refuse .argument)
    else match s.queueParts j 32 [.write] with
      | .error a => (s, a)
      | .ok (ring, door, srec, refs) =>
        let v := j.arg 44 2
        let q : Cq := { ctx := j.arg 40 2, log2 := j.arg 42 1, ring, door, srec, refs, vector := if v = 0xFFFF then none else some v }
        (({ s with eqs := tset s.eqs f q }).writeEqRecord f, .ok 0)

/-- CREATE_ERROR_QUEUE (R118). -/
def execCreateErrorQueue (f : Nat) (s : State) : Host.Outcome State Fault Refusal :=
  if fnOk f then .next (s.admin f 0x0C none [(16, 27), (44, 2)] fun s j => s.doCreateEq j)
  else .next s

/-! ### Segments (R64–R66, R78) -/

/-- The segment entry of Table 2.2 that a command carries; none where a reserved field is not zero. Its state and gen are ignored, and
the fields that Table 2.2 keeps zero in an entry of its kind are not taken over. -/
def Segment.read? (l : List Byte) : Option Segment :=
  let w := fld l 8 8
  let x := fld l 16 8
  if w / 2 ^ 60 ≠ 0 ∨ bits x 31 21 ≠ 0 ∨ !zeroAt l 24 8 then none
  else
    let imp := bit x 20
    let exported := bit x 7
    some { base := fld l 0 8, limit := w, state := .active, read := bit x 2, write := bit x 3, atomic := bit x 4, fold := bit x 5,
           planExec := bit x 6, exported, imported := imp, rgen := if imp then bits x 15 12 else 0,
           rindex := if imp then bits x 19 16 else 0, key := if imp || exported then BitVec.ofNat 32 (x / 2 ^ 32) else 0 }

def SegState.code : SegState → Nat
  | .free => 0 | .active => 1 | .withdrawing => 2

/-- The 32-byte entry of Table 2.2. -/
def Segment.bytes (g : Segment) (gen : Nat) : List Byte :=
  leBytes 8 g.base ++ leBytes 8 g.limit ++
  leBytes 8 (g.state.code + 4 * ofBool g.read + 8 * ofBool g.write + 16 * ofBool g.atomic + 32 * ofBool g.fold +
    64 * ofBool g.planExec + 128 * ofBool g.exported + 256 * gen + 2 ^ 12 * g.rgen + 2 ^ 16 * g.rindex + 2 ^ 20 * ofBool g.imported +
    2 ^ 32 * g.key.toNat) ++ leBytes 8 0

/-- Whether the ranges (base, size) together cover the addresses from lo to hi. -/
def coverGo : Nat → List (Nat × Nat) → Nat → Nat → Bool
  | 0, _, _, _ => false
  | fuel + 1, l, lo, hi =>
    match l.find? fun r => decide (r.1 ≤ lo ∧ lo < r.1 + r.2) with
    | none => false
    | some r => if hi < r.1 + r.2 then true else coverGo fuel l (r.1 + r.2) hi

def covers (l : List (Nat × Nat)) (lo hi : Nat) : Bool := coverGo (l.length + 1) l lo hi

/-- Whether a range of a host window meets the QP context store where HP0 holds it (R175, R325). -/
def State.overStore (s : State) (lo n : Nat) : Bool := s.qpcHost && overlaps s.qpcBase (s.qpcCount * 256) (s.busOf 0 lo) n

/-- The checks of R65. -/
def State.segmentOk (s : State) (f : Nat) (g : Segment) : Bool :=
  let lo := localOf g.base
  let hi := lo + g.limit
  let tier := decide (hi < 0x228000000000)
  decide (g.base % 4096 = 0) && decide (hi < 2 ^ 48) && decide (hi ≤ (mapRange lo).2) && !(g.imported && g.exported) &&
  (g.imported ||
    (decide (nodeOf g.base = s.node) && s.backed lo hi &&
     (!tier || (if f = 0 then s.reserved.all fun r => !overlaps r.1 r.2 lo (g.limit + 1) else covers (s.fn f).grant.ranges lo hi)) &&
     (match s.region lo with
      | .host n => (f == 0 || n == fnPort f) && !(f == 0 && n == 0 && s.overStore lo (g.limit + 1))
      | .device => f == 0
      | _ => true)))

def State.modSeg (s : State) (c i : Nat) (h : Segment → Segment) : State :=
  s.modCtx c fun x => { x with segs := tmodD x.segs i {} h }

def State.doCreateSegment (s : State) (j : Job) : State × Answer :=
  let c := j.arg 16 2
  let i := j.arg 18 1
  if 15 < i then (s, .refuse .argument)
  else if !s.ownsCtx j.f c then (s, .refuse .unknown)
  else if (s.segment c i).state ≠ .free then (s, .refuse .state)
  else match Segment.read? (slice j.head 24 32) with
    | none => (s, .refuse .argument)
    | some g => if s.segmentOk j.f g then ((s.modSeg c i fun _ => g).wakeDeep, .ok (s.segGen c i)) else (s, .refuse .argument)

/-- CREATE_SEGMENT (R65). -/
def execCreateSegment (f : Nat) (s : State) : Host.Outcome State Fault Refusal :=
  if fnOk f then .next (s.admin f 0x10 none [(16, 3), (24, 32)] fun s j => s.doCreateSegment j)
  else .next s

def State.bumpGen (s : State) (c i : Nat) : State := { s with gens := tset s.gens (c * 16 + i) ((s.segGen c i + 1) % 16) }

/-- A segment entry FREE again: all of it zero but gen (notes/assumptions/80.md). -/
def State.freeSeg (s : State) (c i : Nat) : State := s.modCtx c fun x => { x with segs := tdel x.segs i }

def State.doWithdraw (s : State) (j : Job) : State × Answer :=
  let c := j.arg 16 2
  let i := j.arg 18 1
  if 15 < i then (s, .refuse .argument)
  else if !s.ownsCtx j.f c then (s, .refuse .unknown)
  else if (s.segment c i).state ≠ .active then (s, .refuse .state)
  else
    let old := s.segGen c i
    let s := s.bumpGen c i
    if s.referred c i old then (s.modSeg c i fun g => { g with state := .withdrawing, ticket := some j, askedAt := s.tclk }, .later)
    else (s.freeSeg c i, .ok (s.segGen c i))

/-- WITHDRAW_SEGMENT (R78, R79). -/
def execWithdrawSegment (f : Nat) (s : State) : Host.Outcome State Fault Refusal :=
  if fnOk f then .next (s.admin f 0x11 none [(16, 3)] fun s j => s.doWithdraw j)
  else .next s

/-- A segment being withdrawn, to whose old generation nothing refers any more, becomes FREE, and its withdrawal completes. -/
def State.withdrawn (s : State) (c i : Nat) : State :=
  let g := s.segment c i
  if g.state ≠ .withdrawing ∨ s.referred c i ((s.segGen c i + 15) % 16) then s
  else
    let s := s.freeSeg c i
    match g.ticket with
    | some j => s.answer j (.ok (s.segGen c i))
    | none => s

/-- WITHDRAWAL_COMPLETE (R78). -/
def execWithdrawalComplete (c seg : Nat) (s : State) : Host.Outcome State Fault Refusal :=
  if decide (c ≤ 4095) && decide (seg ≤ 15) then .next (if s.live then s.withdrawn c seg else s)
  else .next s

def State.doQuerySegment (s : State) (j : Job) : State × Answer :=
  let c := j.arg 16 2
  let i := j.arg 18 1
  if 15 < i then (s, .refuse .argument)
  else if !s.ownsCtx j.f c then (s, .refuse .unknown)
  else s.adminWrite j (s.firstCtx j.f) (j.arg 24 8) ((s.segment c i).bytes (s.segGen c i)) (.ok 0)

/-- QUERY_SEGMENT (R117). -/
def execQuerySegment (f : Nat) (s : State) : Host.Outcome State Fault Refusal :=
  if fnOk f then .next (s.admin f 0x12 none [(16, 3), (24, 8)] fun s j => s.doQuerySegment j)
  else .next s

/-! ### Grants (R377–R379) -/

/-- Contexts of the QP context store that a QP takes (R175). -/
def Qp.contexts (q : Qp) : Nat := if q.omnibus then 1 + ceilDiv q.capacity 4 else 1

/-- … that a function's QPs take, and that all take with QP 0. -/
def State.qpcOf (s : State) (f : Nat) : Nat := sum (s.qps.map fun e => if e.1 ≠ 0 ∧ e.2.f = f then e.2.contexts else 0)
def State.qpcUsed (s : State) : Nat := 1 + sum (s.qps.map fun e => if e.1 = 0 then 0 else e.2.contexts)
/-- Contexts that are pinned, of one function or of all (R176). -/
def State.pinnedOf (s : State) (f : Option Nat) : Nat := sum (s.qps.map fun e => if e.2.pinned && f.all (· == e.2.f) then e.2.contexts else 0)
def State.groupsOf (s : State) (f : Nat) : Nat := (s.groups.filter fun e => e.2.f == f).length
def State.plansOf (s : State) (f : Nat) : Nat := (s.plans.filter fun e => s.ownsCtx f e.2.ctx).length

/-- The grant record of Table 12.11; none where a field is out of range. -/
def Grant.read? (l : List Byte) : Option Grant :=
  let g : Grant := {
    express := fld l 4 2, regular := fld l 6 2, ops := fld l 8 4, triggers := fld l 12 2, contexts := fld l 14 2, sqs := fld l 16 2,
    cqs := fld l 18 2, qpc := fld l 20 4, pinned := fld l 24 2, groups := fld l 26 2, plans := fld l 28 2
    ranges := (List.range 6).filterMap fun i =>
      if fld l (40 + 16 * i) 8 = 0 then none else some (fld l (32 + 16 * i) 8, fld l (40 + 16 * i) 8) }
  let ok := decide (fld l 0 1 = 1) && zeroAt l 1 3 && zeroAt l 30 2 && decide (g.express ≤ 240) && decide (g.regular ≤ 1920) &&
    decide (g.ops ≤ 32768) && decide (g.triggers ≤ 16384) && decide (g.contexts ≤ 4096) && decide (g.qpc ≤ 1048576) &&
    decide (g.pinned ≤ 4096) && decide (g.groups ≤ 4096) && decide (g.plans ≤ 1024) &&
    (List.range 12).all fun i => fld l (32 + 8 * i) 8 % 2 ^ 21 == 0
  if ok then some g else none

/-- A granted range lies in one tier, and apart from what is reserved and from what other tenants hold. -/
def State.rangeOk (s : State) (f : Nat) (r : Nat × Nat) : Bool :=
  let tier := fun (a : Nat) => a < 0x100000000 ∨ (0x100000000000 ≤ a ∧ a < 0x118000000000) ∨ (0x200000000000 ≤ a ∧ a < 0x228000000000)
  decide (tier r.1) && decide (r.1 + r.2 - 1 ≤ (mapRange r.1).2) && s.reserved.all (fun x => !overlaps x.1 x.2 r.1 r.2) &&
  s.fns.all fun e => e.1 == f || e.2.grant.ranges.all fun x => !overlaps x.1 x.2 r.1 r.2

/-- Whether a function holds no more than a grant (R378). -/
def State.within (s : State) (f : Nat) (g : Grant) : Bool :=
  decide (s.placesOf .express (some f) ≤ g.express) && decide (s.placesOf .regular (some f) ≤ g.regular) &&
  decide (s.opsOf f ≤ g.ops) && decide ((s.armed.filter fun a => a.job.f == f).length ≤ g.triggers) &&
  decide (s.ctxsOf f ≤ g.contexts) && decide (queuesOf s.sqs f ≤ g.sqs) && decide (queuesOf s.cqs f ≤ g.cqs) &&
  decide (s.qpcOf f ≤ g.qpc) && decide (s.pinnedOf (some f) ≤ g.pinned) && decide (s.groupsOf f ≤ g.groups) &&
  decide (s.plansOf f ≤ g.plans) &&
  s.ctxs.all fun c => c.2.owner != f || c.2.segs.all fun e =>
    decide (e.2.state = .free) || e.2.imported || decide (0x228000000000 ≤ localOf e.2.base) ||
      covers g.ranges (localOf e.2.base) (localOf e.2.base + e.2.limit)

def State.doGrant (s : State) (j : Job) : State × Answer :=
  let f := j.arg 16 2
  match s.adminRead j (s.firstCtx 0) (j.arg 24 8) 128 with
  | (s, .error a) => (s, a)
  | (s, .ok l) =>
    if f = 0 then (s, .refuse .argument)
    else if !fnOk f ∨ (s.fn f).state = .disabled then (s, .refuse .unknown)
    else match Grant.read? l with
      | none => (s, .refuse .argument)
      | some g =>
        if !(g.ranges.all (s.rangeOk f)) ∨ 240 < s.placesGranted .express - (s.fn f).grant.express + g.express ∨
            1920 < s.placesGranted .regular - (s.fn f).grant.regular + g.regular then (s, .refuse .argument)
        else if !s.within f g then (s, .refuse .inUse)
        else (State.armHeld (s.modFn f fun x => { x with grant := g }), .ok 0)

/-- SET_FUNCTION_GRANT (R377, R378). -/
def execSetFunctionGrant (f : Nat) (s : State) : Host.Outcome State Fault Refusal :=
  if fnOk f then .next (s.admin f 0x38 none [(16, 2), (24, 8)] fun s j => s.doGrant j)
  else .next s

end Sys2Proof.Machine
end

