-- ==== Sys2Proof/Machine/Cipher.lean ====
section
/-! DEFINITION. AES-256 (FIPS 197), AES Key Wrap (RFC 3394) and GCM (SP 800-38D), which R402 and R406 name
(notes/assumptions/85.md). -/

namespace Sys2Proof.Machine

/-! ### AES-256 -/

/-- Multiplication by x in the field of 256 elements. -/
def xtime (b : Nat) : Nat := if b < 128 then 2 * b else Nat.xor (2 * b) 0x11B

/-- The product in that field, over the n low bits of the second factor. -/
def gmul : Nat → Nat → Nat → Nat
  | 0, _, _ => 0
  | n + 1, a, b => Nat.xor (if b % 2 = 1 then a else 0) (gmul n (xtime a) (b / 2))

def gpow : Nat → Nat → Nat
  | 0, _ => 1
  | n + 1, a => gmul 8 (gpow n a) a

def rotByte (n b : Nat) : Nat := (b * 2 ^ n + b / 2 ^ (8 - n)) % 256

/-- SubBytes of one byte: the inverse, then the affine map. -/
def subByte (b : Nat) : Nat :=
  let i := gpow 254 b
  [rotByte 1 i, rotByte 2 i, rotByte 3 i, rotByte 4 i, 0x63].foldl Nat.xor i

def subTable : List Nat := (List.range 256).map subByte
def invTable : List Nat := (List.range 256).map fun b => subTable.findIdx (· == b)

def xorList (a b : List Nat) : List Nat := List.zipWith Nat.xor a b

/-- The key schedule, from the last eight words on: i is the number of the next word. -/
def expandGo : Nat → Nat → Nat → List (List Nat) → List (List Nat)
  | 0, _, _, _ => []
  | n + 1, i, rcon, last =>
    let t := last.getD 7 []
    let s := t.map fun b => subTable.getD b 0
    let t := if i % 8 = 0 then xorList (s.tail ++ s.take 1) [rcon, 0, 0, 0] else if i % 8 = 4 then s else t
    let w := xorList (last.headD []) t
    w :: expandGo n (i + 1) (if i % 8 = 0 then xtime rcon else rcon) (last.tail ++ [w])

def runsOf {α : Type} (k : Nat) : Nat → List α → List (List α)
  | 0, _ => []
  | n + 1, l => l.take k :: runsOf k n (l.drop k)

/-- The fifteen round keys of 16 bytes. -/
def roundKeys (key : BitVec 256) : List (List Nat) :=
  let w := runsOf 4 8 ((leBytes 32 key.toNat).map BitVec.toNat)
  runsOf 16 15 (w ++ expandGo 52 8 1 w).flatten

/-- The state with each column multiplied by a circulant matrix of the given first row. -/
def mixColumns (row st : List Nat) : List Nat :=
  (List.range 16).map fun i =>
    (List.range 4).foldl (fun acc k => Nat.xor acc (gmul 4 (st.getD (i / 4 * 4 + k) 0) (row.getD ((k + 4 - i % 4) % 4) 0))) 0

/-- ShiftRows: row r moves by r columns, in the direction of AES or its inverse. -/
def shiftRows (k : Nat) (st : List Nat) : List Nat :=
  (List.range 16).map fun i => st.getD ((i / 4 + k * (i % 4)) % 4 * 4 + i % 4) 0

def aesRounds : List (List Nat) → List Nat → List Nat
  | [], st => st
  | k :: r, st =>
    let t := shiftRows 1 (st.map fun b => subTable.getD b 0)
    aesRounds r (xorList (if r.isEmpty then t else mixColumns [2, 3, 1, 1] t) k)

/-- AES-256 of one block under expanded keys. -/
def aesBlock (keys : List (List Nat)) (b : List Nat) : List Nat := aesRounds keys.tail (xorList b (keys.headD []))

def aesBackRounds : List (List Nat) → List Nat → List Nat
  | [], st => st
  | k :: r, st =>
    let t := xorList ((shiftRows 3 st).map fun b => invTable.getD b 0) k
    aesBackRounds r (if r.isEmpty then t else mixColumns [14, 11, 13, 9] t)

/-- The inverse cipher on one block. -/
def aesInverse (keys : List (List Nat)) (b : List Nat) : List Nat :=
  let k := keys.reverse
  aesBackRounds k.tail (xorList b (k.headD []))

/-! ### AES Key Wrap -/

/-- One step of unwrapping: step t on the register i − 1 of the four. -/
def unwrapStep (keys : List (List Nat)) (x : List Nat × List (List Nat)) (t : Nat) : List Nat × List (List Nat) :=
  let i := (t - 1) % 4
  let b := aesInverse keys (xorList x.1 ((beBytes 8 t).map BitVec.toNat) ++ x.2.getD i [])
  (b.take 8, x.2.set i (b.drop 8))

/-- The unwrapping of 40 bytes under a KEK; none where the integrity check fails (R402). -/
def unwrapKey (kek : BitVec 256) (w : List Byte) : Option (BitVec 256) :=
  let l := (slice w 0 40).map BitVec.toNat
  let x := (((List.range 24).map (· + 1)).reverse).foldl (unwrapStep (roundKeys kek)) (l.take 8, runsOf 8 4 (l.drop 8))
  if x.1 = List.replicate 8 0xA6 then some (BitVec.ofNat 256 (leNat (x.2.flatten.map (BitVec.ofNat 8)))) else none

/-! ### GCM -/

/-- The product in the field of 2^128 elements, by the n bits of x from bit n − 1 down; v is the other factor shifted so far. -/
def ghashMul : Nat → Nat → Nat → Nat
  | 0, _, _ => 0
  | n + 1, x, v =>
    Nat.xor (if bit x n then v else 0) (ghashMul n x (if v % 2 = 1 then Nat.xor (v / 2) (0xE1 * 2 ^ 120) else v / 2))

def ghashGo (h : Nat) : Nat → List Byte → Nat → Nat
  | 0, _, y => y
  | n + 1, l, y => ghashGo h n (l.drop 16) (ghashMul 128 (Nat.xor y (beNat (slice l 0 16))) h)

def ghash (h : Nat) (l : List Byte) : Nat := ghashGo h (l.length / 16) l 0

def pad16 (l : List Byte) : List Byte := slice l 0 (roundUp l.length 16)

def aesBytes (keys : List (List Nat)) (b : List Byte) : List Byte := (aesBlock keys (b.map BitVec.toNat)).map (BitVec.ofNat 8)

/-- A run of bytes encrypted or decrypted in counter mode from counter block c on; n is the number of blocks. -/
def counterGo (keys : List (List Nat)) (nonce : List Byte) : Nat → Nat → List Byte → List Byte
  | 0, _, _ => []
  | n + 1, c, l =>
    List.zipWith (· ^^^ ·) (l.take 16) (aesBytes keys (nonce ++ beBytes 4 c)) ++ counterGo keys nonce n (c + 1) (l.drop 16)

/-- AES-256-GCM under a 12-byte nonce: the ciphertext of a plaintext, and the plaintext of a ciphertext (R406). -/
def gcmCrypt (key : BitVec 256) (nonce l : List Byte) : List Byte :=
  counterGo (roundKeys key) nonce (ceilDiv l.length 16) 2 l

/-- The leftmost 96 bits of the tag over the additional data and the ciphertext (R407). -/
def gcmTag (key : BitVec 256) (nonce aad cipher : List Byte) : List Byte :=
  let keys := roundKeys key
  let h := beNat (aesBytes keys (List.replicate 16 0))
  let y := ghash h (pad16 aad ++ pad16 cipher ++ beBytes 8 (8 * aad.length) ++ beBytes 8 (8 * cipher.length))
  beBytes 12 (Nat.xor y (beNat (aesBytes keys (nonce ++ beBytes 4 1))) / 2 ^ 32)

end Sys2Proof.Machine
end

