-- ==== Sys2Proof/Machine/Endpoints.lean ====
section
/-! DEFINITION. Ends of QPs: their state, windows, timers and round-trip estimates, the context cache, messages queued on them, and the
key slots they encrypt with (chapters 5, 6 and 13). -/

namespace Sys2Proof.Machine

/-! ### Ends -/

/-- The end of an RC QP, or the peer entry of an omnibus QP, for a remote node. -/
def State.endpoint (s : State) (q n : Nat) : Option Endpoint := (tget s.qps q).bind fun x => tget x.ends n

def State.modEnd (s : State) (q n : Nat) (g : Endpoint → Endpoint) : State := s.modQp q fun x => { x with ends := tmod x.ends n g }

/-- cwnd_init of the QP's traffic class, in 1/256 byte, within 512 payloads (R223, R224). -/
def State.cwndInit (s : State) (x : Qp) : Nat := Nat.min (s.ccClass x.tc 47 32 * 4096) (512 * x.payload) * 256

/-- An end that enters READY (R189, R224). -/
def State.freshEnd (s : State) (x : Qp) (remoteQp : Nat) (send recv : W32) : Endpoint :=
  { state := .ready, remoteQp, psn := send, peerEpsn := send, epsn := recv, cwnd := s.cwndInit x, moved := s.tclk }

/-- Operations in flight on an end, those whose CQE is still to be written among them (R135). -/
def State.opsOn (s : State) (q n : Nat) : List Op :=
  (s.ops ++ s.spent).filter fun o => o.qp == q && o.node == n && q != 0

/-- … that have not yet ended. -/
def State.busyOn (s : State) (q n : Nat) : List Op := s.ops.filter fun o => o.qp == q && o.node == n && q != 0 && !o.ended

/-- The gallery of a QP's home cluster (Table 16.5). -/
def Qp.gallery (x : Qp) : Nat := x.home / 8

/-! ### The context cache (R176) -/

/-- The cache entry under which a packet of a QP waits for its context: an RC QP's own, or a peer entry. -/
def Qp.entry (x : Qp) (n : Nat) : Nat := if x.omnibus then n else 65536

/-- The cache entries that hold the context of a packet: the QP's own, and for an omnibus QP its peer entry (R175). -/
def Qp.entries (x : Qp) (n : Nat) : List Nat := if x.omnibus then [n, 65536] else [65536]

/-- Quarter slots that a cache entry takes: a context four, a peer entry one. -/
def entryCost (e : Nat × Nat) : Nat := if e.2 = 65536 then 4 else 1

/-- Whether the context of a packet is resident. -/
def State.resident (s : State) (q : Nat) (x : Qp) (n : Nat) : Bool := x.pinned || (x.entries n).all fun e => s.cache.contains (q, e)

/-- The entries that fit, most recently used first: the least recently used beyond 32,768 slots are evicted. -/
def fitGo : Nat → List (Nat × Nat) → List (Nat × Nat)
  | _, [] => []
  | left, e :: r => if entryCost e ≤ left then e :: fitGo (left - entryCost e) r else []

/-- An evicted context written back to its place in the QP context store. Where its place is, and what its bytes are, the manual does not say;
they are written back whether or not they have changed, which no rule lets anything tell (notes/assumptions/79.md). -/
def State.writeBack (s : State) (e : Nat × Nat) : State :=
  let (d, s) := s.draw
  let a := s.qpcBase + Config.freeNat d % Nat.max 1 s.qpcCount * 256
  let n := 64 * entryCost e
  if s.qpcHost then { s with host := s.host.undefine (hostKey 0 a) n d } else { s with tiers := { s.tiers with mem := s.tiers.mem.undefine a n d } }

/-- A context used: it becomes the most recently used, and what no longer fits beside the pinned contexts is evicted. -/
def State.touch (s : State) (q : Nat) (x : Qp) (n : Nat) : State :=
  if x.pinned then s
  else
    let used := (x.entries n).map fun e => (q, e)
    let l := used ++ s.cache.filter fun e => !used.contains e
    let kept := fitGo (4 * (32768 - s.pinnedOf none)) l
    (l.drop kept.length).foldl State.writeBack { s with cache := kept }

/-! ### Window and pacer (R181, R223–R225) -/

/-- The response packets of a READ_REQ that are still to come. -/
def Outstanding.missing (o : Outstanding) : List Nat :=
  ((List.range o.n).map (o.first + ·)).filter fun i => !o.placed.contains i

/-- Packets that an entry stands for (R178). -/
def Outstanding.packets (o : Outstanding) : Nat := ofBool (!o.acked || o.answer) + o.missing.length

/-- Nothing of it is outstanding any more. -/
def Outstanding.spent (o : Outstanding) : Bool := o.acked && !o.answer && o.missing.isEmpty

def Endpoint.packets (e : Endpoint) : Nat := sum (e.out.map Outstanding.packets)
def Endpoint.bytes (e : Endpoint) : Nat := sum (e.out.map (·.bytes))

/-- Whether the pacer releases a packet of a given count now (R225). Times of the estimator are in 0.125 ns. -/
def Endpoint.paced (e : Endpoint) (count now : Nat) : Bool :=
  !e.sampled || decide (e.tLast * 8 * e.cwnd + count * 256 * e.srtt ≤ now * 8 * e.cwnd)

/-- Whether the window and the pacer let a packet of a given count go (R223, R225). -/
def Endpoint.admits (e : Endpoint) (count now : Nat) : Bool :=
  (e.out.isEmpty || decide ((e.bytes + count) * 256 ≤ e.cwnd)) &&
  e.paced count now

/-- rto_base in units of 0.125 ns (R181). -/
def rtoUnits (x : Qp) (e : Endpoint) : Nat :=
  if e.sampled then Nat.max (x.rtoMin * 8000) (e.srtt + 4 * e.rttvar) else 8 * Nat.max (x.rtoMin * 1000) 32000

/-- A timeout of rto_base, in whole ns. -/
def rtoBase (x : Qp) (e : Endpoint) : Nat := ceilDiv (rtoUnits x e) 8

/-- The timeout in force after the expiries counted, in whole ns: each timeout is rounded up (R181, R182). -/
def rtoNow (x : Qp) (e : Endpoint) : Nat :=
  if e.retries = 0 then rtoBase x e else Nat.min (ceilDiv (rtoUnits x e * 2 ^ e.retries) 8) (x.rtoMax * 1000)

/-- The smallest sample of this interval of base_interval and the one before it, once the interval's end is passed (R224). Intervals begin at
multiples of base_interval of TCLK (notes/assumptions/15.md). -/
def Endpoint.turn (e : Endpoint) (now interval : Nat) : Endpoint :=
  if now < e.baseAt + interval then e
  else if now < e.baseAt + 2 * interval then { e with rttPrev := e.rttCur, rttCur := none, baseAt := e.baseAt + interval }
  else { e with rttPrev := none, rttCur := none, baseAt := now / interval * interval }

/-- The least of two optional samples. -/
def least? (a b : Option Nat) : Option Nat :=
  match a, b with
  | some x, some y => some (Nat.min x y)
  | some x, none => some x
  | none, b => b

/-- A sample r, in 0.125 ns, with n bytes newly acknowledged: the estimator of R181 and the window of R224. -/
def State.sample (s : State) (x : Qp) (e : Endpoint) (r n : Nat) : Endpoint :=
  let now := s.tclk
  let e := e.turn now (s.ccClass x.tc 63 56 * 1000000)
  let e := { e with rttCur := least? e.rttCur (some r) }
  let e :=
    if e.sampled then
      { e with rttvar := (3 * e.rttvar + (if e.srtt < r then r - e.srtt else e.srtt - r)) / 4, srtt := (7 * e.srtt + r) / 8 }
    else { e with srtt := r, rttvar := r / 2, sampled := true }
  let target := (least? e.rttCur e.rttPrev).getD r + s.ccClass x.tc 15 8 * 1000
  let top := 512 * x.payload * 256
  if r ≤ target then
    { e with cwnd := Nat.min top (e.cwnd + s.ccClass x.tc 31 16 * 1024 * n * 65536 / Nat.max 1 e.cwnd) }
  else if e.srtt ≤ (now - e.tDec) * 8 then
    let cut := e.cwnd * s.ccClass x.tc 7 0 * (r - target) / (256 * r)
    { e with cwnd := Nat.max (s.ccClass x.tc 55 48 * 65536) (e.cwnd - cut), tDec := now }
  else e

/-- The halving of the window at an expiry of the retransmission timer (R224). -/
def State.shrink (s : State) (x : Qp) (e : Endpoint) : Endpoint :=
  { e with cwnd := Nat.max (s.ccClass x.tc 55 48 * 65536) (e.cwnd / 2), tDec := s.tclk }

/-- The timer runs while any packet is outstanding (R182). -/
def Endpoint.settle (e : Endpoint) : Endpoint :=
  let out := e.out.filter fun o => !o.spent
  { e with out, timer := if out.isEmpty then none else e.timer }

/-! ### Messages (R169) -/

/-- Messages of an operation of n packets, the ids counting on from the end's; a message has at most 65,536 packets. -/
def messagesGo (op : Nat) (kind : MsgKind) : Nat → Nat → Nat → Nat → List Msg
  | 0, _, _, _ => []
  | fuel + 1, id, base, n =>
    if n ≤ 65536 then [{ op, kind, msg := id % 65536, base, count := n, last := true }]
    else { op, kind, msg := id % 65536, base, count := 65536, last := false } :: messagesGo op kind fuel (id + 1) (base + 65536) (n - 65536)

/-- The messages of an operation queued on an end; answers the first ID and how many. -/
def State.enqueue (s : State) (q n op : Nat) (kind : MsgKind) (packets : Nat) : State × Nat × Nat :=
  match s.endpoint q n with
  | none => (s, 0, 0)
  | some e =>
    let l := messagesGo op kind (packets / 65536 + 1) e.msgId 0 packets
    (s.modEnd q n fun y => { y with queue := y.queue ++ l, msgId := (y.msgId + l.length) % 65536 }, e.msgId, l.length)

/-- An ended operation sends none of its packets that it has not sent, and awaits no response (R74, R189). -/
def Endpoint.forget (e : Endpoint) (op : Nat) : Endpoint :=
  Endpoint.settle { e with
    queue := e.queue.filter fun m => m.op != op
    out := updAll (fun o => o.op == op) (fun o => { o with placed := (List.range o.n).map (o.first + ·), answer := false, again := [] }) e.out }

/-- An operation on a QP ends: what it has not sent is dropped. -/
def State.endQpOp (s : State) (id : Nat) (r : Report) : State :=
  match s.op id with
  | none => s
  | some o => (s.modEnd o.qp o.node fun e => e.forget id).endOp id r

/-! ### Key slots (R401, R407, R412, R414) -/

def State.keySlot (s : State) (i : Nat) : KeySlot := tgetD s.sec.slots i {}
def State.modKey (s : State) (i : Nat) (g : KeySlot → KeySlot) : State := s.modSec fun x => { x with slots := tmodD x.slots i {} g }

/-- The bound of R411. -/
def keyLimit : Nat := 2 ^ 32 - 2 ^ 24

/-- One copy's value of n taken (R407), and n increased: the value, and, once 2^31 packets or those of R411 have been sent, the event recorded with
n as it then is (Table 13.10). -/
def State.takeNonce (s : State) (i : Nat) : State × Nat :=
  let k := s.keySlot i
  let s := s.modKey i fun k => { k with n := k.n + 1 }
  let after := s.keySlot i
  let s := if after.n = 2 ^ 31 then s.keyEvent i after 1 0xFF else if after.n = keyLimit then s.keyEvent i after 2 0xFF else s
  (s, k.n)

/-- The 12-byte nonce (Table 13.9). -/
def nonceOf (slot epoch n src : Nat) : List Byte := leBytes 2 slot ++ leBytes 2 epoch ++ leBytes 4 n ++ leBytes 2 src ++ [0, 0]

/-! ### The record of a QP error (Table 5.17) -/

def qpRecord (st : Status) (q node retries : Nat) (psn layer oper time : Nat) : List Byte :=
  leBytes 1 0x31 ++ leBytes 1 1 ++ leBytes 1 st.code ++ leBytes 1 0 ++ leBytes 3 q ++ leBytes 1 0 ++ leBytes 2 node ++ leBytes 1 0 ++
  leBytes 1 retries ++ leBytes 4 psn ++ List.replicate 8 0 ++ leBytes 2 layer ++ leBytes 2 oper ++ leBytes 4 time

/-- The oldest outstanding PSN of an end. -/
def Endpoint.oldest (e : Endpoint) : W32 := (e.out.head?).elim e.psn (·.psn)

/-- READY to ERROR for an end (Table 5.16): its operations end, and the record is written. -/
def State.endError (s : State) (q n : Nat) (st : Status) : State :=
  match tget s.qps q with
  | none => s
  | some x =>
    match tget x.ends n with
    | none => s
    | some e =>
      if e.state ≠ .ready then s
      else
        let ops : List Op := s.busyOn q n
        let named : Option Op := match e.out.head? with
          | some o => ops.find? fun p => p.id == o.op
          | none => ops.head?
        let s := s.modEnd q n fun y => { y with
          state := .error, errStat := some st, queue := [], out := [], replies := [], rx := [], timer := none, ackDue := none, wide := [] }
        let s := ops.foldl (fun s o =>
          s.endOp o.id { status := if st = .xportRetryExceeded ∧ named.all (·.id != o.id) then .xportQpError else st }) s
        let l := named.elim 0 fun o => o.job.layer
        let m := named.elim 0 fun o => o.job.oper
        (s.record x.f (qpRecord st q n e.retries e.oldest.toNat l m s.time)).event 1

end Sys2Proof.Machine
end

