-- ==== Sys2Proof/Machine/Packets.lean ====
section
/-! DEFINITION. The ZFT packet: its bytes, its CRC, its types and extensions (R162–R168), and its encryption (R406, R407). -/

namespace Sys2Proof.Machine

/-! ### Types, classes and VCs (Tables 5.5, 6.1) -/

/-- The classes Q, C, P and M. -/
inductive Class where
  | req | coll | resp | mgmt
  deriving DecidableEq, Repr

/-- The class of a packet type; none for a reserved type (R166). -/
def classOf (ty : Nat) : Option Class :=
  if 1 ≤ ty ∧ ty ≤ 4 then some .req
  else if ty = 8 then some .coll
  else if 0x10 ≤ ty ∧ ty ≤ 0x12 then some .resp
  else if ty = 0x20 ∨ ty = 0x21 then some .mgmt
  else none

/-- The VC of a class in a phase: 1, 2, or 3 for the escape channel and M (Table 6.1). -/
def vcOf (c : Class) (phase : Nat) : Nat :=
  match c with
  | .req => if phase = 1 then 0 else if phase = 2 then 1 else 6
  | .coll => if phase = 1 then 2 else if phase = 2 then 3 else 7
  | .resp => if phase = 1 then 4 else if phase = 2 then 5 else 8
  | .mgmt => 9

/-- The phase that belongs to a VC (R195). -/
def phaseOf (vc : Nat) : Nat := if vc = 0 ∨ vc = 2 ∨ vc = 4 then 1 else if vc = 1 ∨ vc = 3 ∨ vc = 5 then 2 else 3

/-- VC, type and phase agree (R193, R195). -/
def Packet.vcOk (p : Packet) : Bool :=
  match classOf p.ty with
  | some c => decide (p.phase ≠ 0) && p.vc == vcOf c p.phase
  | none => false

/-- Bytes of the extension of a type (Table 5.6). -/
def extSize (ty : Nat) (final : Bool) : Nat :=
  if ty = 1 then (if final then 24 else 0)
  else if ty = 4 then 8
  else if ty = 8 then 16
  else if ty = 0x10 then 80
  else 0

def Packet.ext (p : Packet) : List Byte := p.body.take (extSize p.ty p.final)
def Packet.payload (p : Packet) : List Byte := p.body.drop (extSize p.ty p.final)

/-! ### Bytes (Tables 5.3, 5.4) -/

def Packet.control (p : Packet) : Nat :=
  p.version % 16 + p.ty % 64 * 2 ^ 4 + p.vc % 16 * 2 ^ 10 + p.epoch % 2 * 2 ^ 14 + ofBool p.encrypted * 2 ^ 15 + p.hop % 64 * 2 ^ 16 +
  p.phase % 4 * 2 ^ 22 + ofBool p.first * 2 ^ 24 + ofBool p.last * 2 ^ 25 + ofBool p.final * 2 ^ 26 + ofBool p.ackreq * 2 ^ 27 +
  ofBool p.trace * 2 ^ 28 + p.rsvd % 8 * 2 ^ 29

/-- The base header with a CRC field given. -/
def Packet.header (p : Packet) (crc : Nat) : List Byte :=
  leBytes 4 p.control ++ leBytes 2 p.dst ++ leBytes 1 (p.rsvd / 8) ++ leBytes 2 p.src ++ leBytes 1 (p.rsvd / 2 ^ 11) ++ leBytes 2 p.inter ++
  leBytes 1 (p.rsvd / 2 ^ 19) ++
  leBytes 3 p.qp ++ leBytes 4 p.psn.toNat ++ leBytes 2 p.msg ++ leBytes 2 p.idx ++ leBytes 8 p.raddr ++ leBytes 2 p.handle ++
  leBytes 2 p.plen ++ leBytes 2 p.layer ++ leBytes 2 p.oper ++ leBytes 4 p.ts.toNat ++ leBytes 4 crc

/-- The header as the CRC and the cipher take it: CRC, VC, hop count and phase zero (R164, R406). -/
def Packet.covered (p : Packet) : List Byte := Packet.header { p with vc := 0, hop := 0, phase := 0 } 0

def Packet.crc (p : Packet) : Nat := crc32c (p.covered ++ p.body ++ p.icv)

/-- A packet as sent. -/
def Packet.bytes (p : Packet) : List Byte := p.header p.crc ++ p.body ++ p.icv

/-- A packet's length in bytes, and in credits of 64 bytes (R215, R216). -/
def Packet.size (p : Packet) : Nat := 48 + p.body.length + p.icv.length
def Packet.credits (p : Packet) : Nat := ceilDiv p.size 64

/-- A LINK packet that holds no VC buffer and consumes no credit: CREDIT, LANE_SWAP and DONE (R217, R355). -/
def Packet.creditless (p : Packet) : Bool := p.ty == 0x20 && decide (0x80 ≤ fld p.body 0 1 ∧ fld p.body 0 1 ≤ 0x82)

/-- The packet that bytes spell, with whether its CRC is good. -/
def parsePacket (l : List Byte) : Option (Packet × Bool) :=
  if l.length < 48 then none
  else
    let c := fld l 0 4
    let enc := bit c 15
    let rest := l.drop 48
    let cut := if enc then rest.length - 16 else rest.length
    let p : Packet := {
      version := bits c 3 0, ty := bits c 9 4, vc := bits c 13 10, epoch := bits c 14 14, encrypted := enc, hop := bits c 21 16,
      phase := bits c 23 22, first := bit c 24, last := bit c 25, final := bit c 26, ackreq := bit c 27, trace := bit c 28,
      dst := fld l 4 2, src := fld l 7 2, inter := fld l 10 2, qp := fld l 13 3, psn := BitVec.ofNat 32 (fld l 16 4), msg := fld l 20 2,
      idx := fld l 22 2, raddr := fld l 24 8, handle := fld l 32 2, plen := fld l 34 2, layer := fld l 36 2, oper := fld l 38 2,
      ts := BitVec.ofNat 32 (fld l 40 4),
      rsvd := bits c 31 29 + fld l 6 1 * 2 ^ 3 + fld l 9 1 * 2 ^ 11 + fld l 12 1 * 2 ^ 19, body := rest.take cut, icv := rest.drop cut }
    some (p, p.crc == fld l 44 4)

/-! ### Extensions (Table 5.7) -/

/-- The FINAL extension. -/
def finalExt (flag : Nat) (value : Nat) (handle : Nat) : List Byte := leBytes 8 flag ++ leBytes 8 value ++ leBytes 2 handle ++ List.replicate 6 0
def foldExt (ty : Nat) : List Byte := leBytes 1 ty ++ List.replicate 7 0
def collExt (group level : Nat) (seq sig chunk : W32) : List Byte :=
  leBytes 2 group ++ leBytes 1 level ++ leBytes 1 0 ++ leBytes 4 seq.toNat ++ leBytes 4 sig.toNat ++ leBytes 4 chunk.toNat
def readPayload (init len first count : Nat) : List Byte := leBytes 8 init ++ leBytes 4 len ++ leBytes 2 first ++ leBytes 2 count
def atomicPayload (modifier operand compare fetch : Nat) : List Byte :=
  leBytes 1 modifier ++ List.replicate 7 0 ++ leBytes 8 operand ++ leBytes 8 compare ++ leBytes 8 fetch
def ackExt (echo : W32) (kind status check : Nat) (sack : BitVec 512) : List Byte :=
  leBytes 4 echo.toNat ++ leBytes 1 kind ++ leBytes 1 status ++ leBytes 1 check ++ List.replicate 9 0 ++ leBytes 64 sack.toNat

/-- The width of an ATOMIC (Table 4.4). -/
def atomicWidth (m : Nat) : Nat := if m = 1 ∨ m = 3 then 8 else 4

/-- Payload and reserved fields of a packet as decrypted agree with its type (R167). A packet other than a WRITE with FINAL set does not
(notes/assumptions/80.md). -/
def Packet.typeOk (p : Packet) (payloadSize : Nat) : Bool :=
  let n := p.payload.length
  let z := fun a k => zeroAt p.body a k
  p.rsvd == 0 && decide (p.qp < 2 ^ 20) && n == p.plen && decide (extSize p.ty p.final ≤ p.body.length) && (!p.final || p.ty == 1) &&
  (match p.ty with
   | 1 => decide (n ≤ payloadSize) && (!p.final || z 18 6)
   | 2 => n == 16
   | 3 => n == 32 && z 1 7 && decide (fld p.body 0 1 ≤ 3)
   | 4 =>
     let t := fld p.body 0 1
     z 1 7 && !bit t 7 && redDefined (t % 16) (bits t 6 4) && n % Nat.max 1 (elemSize (t % 16)) == 0 && decide (n ≤ payloadSize)
   | 8 => bits (fld p.body 2 1) 7 3 == 0 && z 3 1 && decide (n ≤ payloadSize)
   | 0x10 => n == 0 && bits (fld p.body 4 1) 7 3 == 0 && z 7 9
   | 0x11 => decide (n ≤ payloadSize)
   | 0x12 => n == 0 || n == 4 || n == 8
   | _ => true)

/-! ### Encryption (R406, R407) -/

/-- A packet encrypted under a slot with n: the body replaced and the ICV added. -/
def Packet.seal (p : Packet) (slot : Nat) (k : KeySlot) (n : Nat) : Packet :=
  let p := { p with encrypted := true }
  let nonce := nonceOf slot k.epoch n p.src
  let cipher := gcmCrypt k.key nonce p.body
  { p with
    body := cipher
    icv := leBytes 4 n ++ gcmTag k.key nonce p.covered cipher }

/-- A packet decrypted, if its ICV verifies (R409). -/
def Packet.unseal (p : Packet) (slot : Nat) (k : KeySlot) : Option Packet :=
  let nonce := nonceOf slot k.epoch (fld p.icv 0 4) p.src
  if gcmTag k.key nonce p.covered p.body = slice p.icv 4 12 then some { p with body := gcmCrypt k.key nonce p.body, icv := [] } else none

end Sys2Proof.Machine
end

