-- ==== Sys2Proof/Machine/Routes.lean ====
section
/-! DEFINITION. Route lookup, the stamping of packets that enter the fabric, buffers and credits, forwarding, and the frames that carry
packets (chapters 5 and 6). -/

namespace Sys2Proof.Machine

/-! ### Slots and entries (R196–R198, R205) -/

def State.slot (s : State) (e : Nat) : RouteSlot := tgetD s.slots e {}
def State.sealedSlot (s : State) (e : Nat) : Bool := decide ((s.slot e).state = .sealed_)
def RouteSlot.entry (r : RouteSlot) (n : Nat) : RouteEntry := tgetD r.table n r.rest
def RouteSlot.addr (r : RouteSlot) (n : Nat) : AddrEntry := tgetD r.addrs n {}

/-- A port that is up and in no way held out of the candidate sets. -/
def State.portLive (s : State) (p : Nat) : Bool := (s.port p).up && (s.port p).blocked == 0 && !(s.port p).parked

/-- Whether ports are held down: no catalogue section verified, or out of service (R419, R433, R434). -/
def State.portsHeld (s : State) : Bool := !s.boot.romOk || s.boot.stage == 5

/-- A live port that a packet may be sent to: one under a fence takes no new work (R445 phase 1). -/
def State.portTakes (s : State) (p : Nat) : Bool := s.portLive p && s.recov.fences.all fun f => f.domain != .port p

/-- The live ports of a minimal mask. -/
def State.livePorts (s : State) (e : RouteEntry) : List Nat := (List.range 16).filter fun p => e.mask.getLsbD p && s.portTakes p

def State.hasLive (s : State) (epoch n : Nat) : Bool := !(s.livePorts ((s.slot epoch).entry n)).isEmpty

/-! ### Parked ports (R472) -/

/-- A route entry of a sealed slot names the port. -/
def State.routeNames (s : State) (p : Nat) : Bool :=
  s.slots.any fun e => decide (e.2.state = .sealed_) &&
    ((e.2.table.map (·.2)) ++ [e.2.rest]).any fun r => r.mask.getLsbD p || (r.valid && r.escape == p)

/-- A receive filter of the port is enabled. -/
def State.filterOn (s : State) (p : Nat) : Bool := (List.range 64).any fun i => bit (s.dword 0 (portBase p + 0x200 + 16 * i + 8)) 25

/-- A parked port begins to wake. -/
def State.wakePort (s : State) (p : Nat) : State :=
  if (s.port p).parked ∧ (s.port p).waking = none then s.modPort p fun x => { x with waking := some (s.tclk + 12000) } else s

/-- A slot has been sealed: the parked ports that it names begin to wake. -/
def State.wakeNamed (s : State) : State := (List.range 16).foldl (fun s p => if s.routeNames p then s.wakePort p else s) s

/-! ### Entering the fabric (R200, R201) -/

/-- Up to four draws of an intermediate node; none routes minimally. -/
def State.drawGo : Nat → State → Nat → Nat → State × Option Nat
  | 0, s, _, _ => (s, none)
  | fuel + 1, s, epoch, dst =>
    let set := (s.slot epoch).inter
    if set.isEmpty then (s, none)
    else
      let (k, s) := s.draw
      let x := set.getD (Config.draw k set.length % set.length) 0
      if x = s.node ∨ x = dst then (if s.hasLive epoch dst then (s, none) else State.drawGo fuel s epoch dst)
      else if s.hasLive epoch x then (s, some x)
      else State.drawGo fuel s epoch dst

/-- Whether R201 calls for a draw for a packet of a traffic class. -/
def State.callsDraw (s : State) (epoch dst tc : Nat) : Bool := s.valiant tc || !s.hasLive epoch dst

/-- The draw in force for packet i of a message: drawn for the first packet for which R201 calls for one, and after every 64 packets. 0 for
none drawn, 1 for a draw that yielded no node, else the node plus two. -/
def State.drawFor (s : State) (dst tc i before : Nat) : State × Nat :=
  if !s.callsDraw s.epoch dst tc then (s, 0)
  else if before ≠ 0 ∧ i % 64 ≠ 0 then (s, before)
  else match State.drawGo 4 s s.epoch dst with
    | (s, some x) => (s, x + 2)
    | (s, none) => (s, 1)

/-- The route fields that the source sets (R200); management packets take VC M and phase 3 (R204). -/
def State.stamp (s : State) (p : Packet) (inter : Nat) : Packet :=
  let p := { p with epoch := s.epoch, hop := 0, src := s.node, ts := BitVec.ofNat 32 s.time }
  match classOf p.ty with
  | some .mgmt => { p with inter := p.dst, phase := 3, vc := 9 }
  | some c => if inter ≤ 1 then { p with inter := p.dst, phase := 2, vc := vcOf c 2 } else { p with inter := inter - 2, phase := 1, vc := vcOf c 1 }
  | none => p

/-! ### Buffers and credits (R194, R215–R217) -/

/-- The pool of a VC and epoch in the order of Table 6.7. -/
def poolOf (vc epoch : Nat) : Nat := if vc ≤ 5 then vc else if vc ≤ 8 then 6 + 2 * (vc - 6) + epoch else if vc = 9 then 12 else 13

/-- The credits of a pool at a port. -/
def State.poolSize (s : State) (p pool : Nat) : Nat :=
  if pool ≤ 5 then s.vcBuf p pool else if pool ≤ 11 then s.vcBuf p (6 + (pool - 6) / 2) / 2 else if pool = 12 then s.vcBuf p 9 else 0

/-- Whether a packet that arrived here still holds its input buffer: an M packet has gone to the queue of the fabric processors (R220). -/
def Arrival.buffered (a : Arrival) : Bool := !a.pkt.creditless && classOf a.pkt.ty != some .mgmt

/-- Credits that packets hold in a pool of an input port: those that wait there, and those that arrived here and are not yet consumed. -/
def State.poolUsed (s : State) (p pool : Nat) : Nat :=
  sum ((s.port p).input.map fun w => if poolOf w.pkt.vc w.pkt.epoch = pool then w.pkt.credits else 0) +
  sum (s.arrived.map fun a => if a.port = p ∧ a.buffered ∧ poolOf a.pkt.vc a.pkt.epoch = pool then a.pkt.credits else 0)

/-- Credits free downstream of a direct-mode port in a pool. -/
def State.creditLeft (s : State) (p pool : Nat) : Nat :=
  let x := s.port p
  s.poolSize p pool - gap32 (BitVec.ofNat 32 (tgetD x.spent pool 0)) (BitVec.ofNat 32 (tgetD x.freedBy pool 0))

/-- Credits freed by a packet that leaves its input buffer (R217). -/
def State.freeCredit (s : State) (p : Nat) (k : Packet) : State :=
  if p < 16 ∧ !s.portSwitched p ∧ !k.creditless ∧ k.vc < 10 then
    s.modPort p fun x => { x with freed := tmodD x.freed (poolOf k.vc k.epoch) 0 fun v => (v + k.credits) % 2 ^ 32, creditNew := true }
  else s

def State.inputOf (s : State) (p : Nat) : List Waiting := if p = 16 then s.local_ else (s.port p).input
def State.setInput (s : State) (p : Nat) (l : List Waiting) : State :=
  if p = 16 then { s with local_ := l } else s.modPort p fun x => { x with input := l }

/-- A packet put behind those of its pool; at the head at once where there are none. -/
def State.buffer (s : State) (p : Nat) (k : Packet) (tc : Nat) : State :=
  let l := s.inputOf p
  let alone := !(l.any fun w => poolOf w.pkt.vc w.pkt.epoch == poolOf k.vc k.epoch)
  s.setInput p (l ++ [{ pkt := k, tc, entered := s.tclk, headAt := if alone then some s.tclk else none }])

/-- The first packet of a pool taken out; the next of the pool comes to the head. -/
def State.unbuffer (s : State) (p pool : Nat) : State :=
  match takeFirst (fun w => poolOf w.pkt.vc w.pkt.epoch == pool) (s.inputOf p) with
  | none => s
  | some (w, l) =>
    let rec promote : List Waiting → List Waiting
      | [] => []
      | x :: r => if poolOf x.pkt.vc x.pkt.epoch == pool then { x with headAt := some s.tclk } :: r else x :: promote r
    (s.setInput p (promote l)).freeCredit p w.pkt

/-- A packet of this node's own enters the fabric, or, addressed to the node itself, is carried within it (R128). -/
def State.launch (s : State) (p : Packet) (tc : Nat) : State :=
  if p.dst = s.node then { s with arrived := s.arrived ++ [{ port := 16, pkt := p, at_ := s.tclk }] } else s.buffer 16 p tc

/-! ### Frames (R159, R160, R343) -/

/-- Bits [19:0] of a CRC-32C over the source and destination nodes, the QP and the intermediate node, and its low 14 bits (R160). -/
def flowCrc (p : Packet) : Nat := crc32c (leBytes 2 p.src ++ leBytes 2 p.dst ++ leBytes 3 p.qp ++ leBytes 2 p.inter)

/-- The one's-complement sum of 16-bit words in network order. -/
def onesGo : List Byte → Nat → Nat
  | [], acc => acc
  | [b], acc => acc + b.toNat * 256
  | a :: b :: r, acc => onesGo r (acc + a.toNat * 256 + b.toNat)

def fold16 : Nat → Nat → Nat
  | 0, v => v
  | n + 1, v => if v < 65536 then v else fold16 n (v % 65536 + v / 65536)

/-- The UDP checksum over the IPv6 pseudo-header; a sum of zero is sent as 0xFFFF. -/
def udpChecksum (src dst udp : List Byte) : Nat :=
  let v := 65535 - fold16 8 (onesGo (src ++ dst ++ beBytes 4 udp.length ++ beBytes 4 17 ++ udp) 0)
  if v = 0 then 65535 else v

/-- The datagram that carries a packet on a switched port, from the destination MAC address on. -/
def State.datagram (s : State) (p sub : Nat) (k : Packet) (via cls : Nat) : List Byte :=
  let t := (s.slot k.epoch)
  let a := t.addr via
  let own := slice (t.addr s.node).ip 0 16
  let dst := slice a.ip 0 16
  let c := flowCrc k
  let load := k.bytes
  let udp0 := fun (sum : Nat) => beBytes 2 (0xC000 + c % 2 ^ 14) ++ beBytes 2 (s.udpPort p) ++ beBytes 2 (8 + load.length) ++ beBytes 2 sum ++ load
  let udp := udp0 (udpChecksum own dst (udp0 0))
  slice a.mac 0 6 ++ beBytes 6 (s.macAddr p sub) ++
  (if a.tagged then beBytes 2 0x8100 ++ beBytes 2 (cls * 8192 + a.vlan % 4096) else []) ++ beBytes 2 0x86DD ++
  beBytes 4 (6 * 2 ^ 28 + s.dscp p cls * 2 ^ 22 + c % 2 ^ 20) ++ beBytes 2 udp.length ++ [17, 64] ++ own ++ dst ++ udp

/-- The frame that carries a packet on a direct port. -/
def State.directFrame (s : State) (p : Nat) (k : Packet) : List Byte :=
  slice (s.port p).peerMac 0 6 ++ beBytes 6 (s.macAddr p 0) ++ beBytes 2 0x88B5 ++ k.bytes

/-- The sub-ports of a port that are up, in ascending order. -/
def State.upSubs (s : State) (p : Nat) : List Nat := (List.range (s.subCount p)).filter fun i => (s.sub p i).up

/-- The class that a packet joins on a port (R218, R355). -/
def State.egressClass (s : State) (p : Nat) (inport tc : Nat) (k : Packet) : Nat :=
  if s.portSwitched p ∧ inport = 16 then
    match classOf k.ty with
    | some .resp => s.respTc p
    | some .mgmt => 7
    | _ => tc
  else s.vcClass p k.vc

/-- A packet queued for transmission on a port; on a direct port it spends credit. -/
def State.queueOut (s : State) (p inport tc : Nat) (k : Packet) (via : Nat) : State :=
  let cls := s.egressClass p inport tc k
  if s.portSwitched p then
    let up := s.upSubs p
    let sub := up.getD (flowCrc k % 2 ^ 20 % Nat.max 1 up.length) 0
    let fr : TxFrame := { cls, vc := k.vc, kind := .zft k via, bytes := s.datagram p sub k via cls, at_ := s.tclk }
    s.modSub p sub fun x => { x with queue := x.queue ++ [fr] }
  else
    let fr : TxFrame := { cls, vc := k.vc, kind := .zft k via, bytes := s.directFrame p k, at_ := s.tclk }
    let s := s.modPort p fun x => { x with spent := tmodD x.spent (poolOf k.vc k.epoch) 0 fun v => (v + k.credits) % 2 ^ 32 }
    s.modSub p 0 fun x => { x with queue := x.queue ++ [fr] }

/-! ### Forwarding (R202, R203) -/

/-- Bytes of a VC that wait for transmission at a port, over all its sub-ports. -/
def State.queuedBytes (s : State) (p vc : Nat) : Nat :=
  sum ((s.port p).subs.map fun e => sum (e.2.queue.map fun f =>
    match f.kind with
    | .zft k _ => if f.vc = vc then k.size else 0
    | _ => 0))

/-- Whether the downstream pool of a port holds credit for a packet. Switched ports exchange no credits (R218). -/
def State.hasCredit (s : State) (p : Nat) (k : Packet) : Bool :=
  s.portSwitched p || decide (k.credits ≤ s.creditLeft p (poolOf k.vc k.epoch))

/-- What becomes of the packet at the head of a pool. -/
inductive Grant? where
  /-- no candidate is eligible yet -/
  | wait
  /-- discarded, with the index of Table 16.2 -/
  | discard (idx : Nat)
  /-- granted a port, as the packet to send, towards a via node -/
  | go (port : Nat) (pkt : Packet) (via : Nat)

/-- The packet with phase 2 where it stands at its intermediate node (R202). -/
def State.atInter (s : State) (k : Packet) : Packet :=
  match classOf k.ty with
  | some c => if k.phase = 1 ∧ k.inter = s.node then { k with phase := 2, vc := vcOf c 2 } else k
  | none => k

/-- The candidate with the fewest bytes queued, ties going to the next after the one last chosen. Candidates are numbered by port, the escape
VC of a port after its other VC (notes/assumptions/20.md). -/
def pickPort (load : Nat → Nat) (last : Nat) (l : List Nat) : Option Nat :=
  let order := (l.filter fun p => decide (last < p)) ++ l.filter fun p => decide (p ≤ last)
  order.foldl (fun best p =>
    match best with
    | none => some p
    | some q => if load p < load q then some p else some q) none

/-- The routing of the head of a pool (R197, R202–R206). -/
def State.grant (s : State) (inport : Nat) (w : Waiting) : Grant? :=
  let k := s.atInter w.pkt
  match classOf k.ty with
  | none => .discard 0x42
  | some c =>
    let key := if k.phase = 1 then k.inter else k.dst
    let e := (s.slot k.epoch).entry key
    let esc : Packet := { k with phase := 3, vc := vcOf c 3 }
    let onEsc := decide (k.phase = 3)
    let mins := if onEsc then [] else (s.livePorts e).filter (· != inport)
    let escAllowed := e.valid && (onEsc || w.escape || mins.isEmpty)
    let escUp := escAllowed && s.portTakes e.escape
    if !s.sealedSlot k.epoch then .discard 0x4B
    else if e.mask = 0 ∧ !e.valid then .discard 0x47
    else if mins.isEmpty ∧ !escUp then .discard 0x47
    else if inport ≠ 16 ∧ k.hop = 63 then .discard 0x48
    else
      let k := if inport = 16 then k else { k with hop := k.hop + 1 }
      let esc := if inport = 16 then esc else { esc with hop := esc.hop + 1 }
      let els := mins.filter fun p => s.hasCredit p k
      let cands := els.map (2 * ·) ++ (if escUp && s.hasCredit e.escape esc then [2 * e.escape + 1] else [])
      let load := fun x => s.queuedBytes (x / 2) (if x % 2 = 0 then k.vc else esc.vc)
      match pickPort load (s.port inport).lastPick cands with
      | none => .wait
      | some x => if x % 2 = 0 then .go (x / 2) k e.minVia else .go (x / 2) esc e.escVia

/-- The HOP record of a forwarded packet (Table 16.7), to the gallery of Table 16.5. -/
def State.traceHop (s : State) (inport out : Nat) (k : Packet) (residence : Nat) : State :=
  if inport = 16 then s
  else
    s.trace (3 * (out / 8) + out % 8 % 3) 0x03 out k.layer k.oper 0xFFFF
      (leBytes 2 k.src ++ leBytes 1 0 ++ leBytes 1 k.vc ++ leBytes 2 k.dst ++ leBytes 1 0 ++ leBytes 1 k.hop ++ leBytes 1 inport ++
        leBytes 1 out ++ leBytes 2 0 ++ leBytes 4 residence) k.trace

/-- The head of one pool forwarded, discarded, or left waiting; answers whether anything was done. -/
def State.forwardPool (s : State) (inport pool : Nat) : State × Bool :=
  match (s.inputOf inport).find? fun w => poolOf w.pkt.vc w.pkt.epoch == pool with
  | none => (s, false)
  | some w =>
    match s.grant inport w with
    | .wait => (s, false)
    | .discard i => ((s.unbuffer inport pool).discard inport i, true)
    | .go p k via =>
      let s := s.unbuffer inport pool
      if s.portPayload p < k.plen then (s.discard inport 0x43, true)
      else
        let pick := 2 * p + ofBool (k.phase == 3)
        let s := (s.modPort inport fun x => { x with lastPick := pick }).queueOut p inport w.tc k via
        let s := if inport = 16 then s else s.count 0x05 p (0x20 + k.vc) 1
        (s.traceHop inport p k (s.tclk - w.entered), true)

/-- The pools of a VC. -/
def poolsOf (vc : Nat) : List Nat := if 6 ≤ vc ∧ vc ≤ 8 then [poolOf vc 0, poolOf vc 1] else [poolOf vc 0]

/-- A packet with an uncorrectable flit on a network-on-chip hop: a transit packet is discarded and counted (R331). For a packet of the
node's own the manual gives no effect beyond that of the flit's loss, which the model takes to be the same. -/
def State.flitBad (s : State) (inport pool : Nat) : State × Bool :=
  if (s.inputOf inport).any fun w => poolOf w.pkt.vc w.pkt.epoch == pool then ((s.unbuffer inport pool).discard inport 0x4D, true) else (s, false)

/-- PACKET_FORWARD (R203), or, where a flit was uncorrectable, the discard of R331. An input port of 16 is the injection of the node's own TEs. -/
def execPacketForward (inport : Nat) (vc : Hop) (s : State) : Host.Outcome State Fault Refusal :=
  if inOk inport && decide (vc.vc ≤ 11) then
    .next (if s.live then
      ((poolsOf vc.vc).foldl (fun (x : State × Bool) pool =>
        if x.2 then x else if vc.bad then x.1.flitBad inport pool else x.1.forwardPool inport pool) (s, false)).1
    else s)
  else .next s

/-- The heads of a VC's pools that have waited escape_wait become escape-eligible. -/
def State.escapeExpire (s : State) (inport vc : Nat) : State :=
  s.setInput inport (updAll
    (fun w => w.pkt.vc == vc && w.headAt.any fun t => decide (t + s.escapeWait ≤ s.tclk))
    (fun w => { w with escape := true }) (s.inputOf inport))

/-- ESCAPE_WAIT_EXPIRE (R203). -/
def execEscapeWaitExpire (inport vc : Nat) (s : State) : Host.Outcome State Fault Refusal :=
  if inOk inport && decide (vc ≤ 11) then .next (if s.live then s.escapeExpire inport vc else s)
  else .next s

/-- A packet of this node's sent on a direct port itself, without a route lookup: what neighbours say to one another. It waits until the pool
at the neighbour holds credit for it (R216). -/
def State.sendOn (s : State) (p : Nat) (k : Packet) : State :=
  if s.portSwitched p ∨ !(s.port p).up ∨ (s.port p).parked then s
  else if (s.port p).near.isEmpty && s.hasCredit p k then s.queueOut p 16 7 k 0
  else s.modPort p fun x => { x with near := x.near ++ [{ pkt := k, tc := 7, entered := s.tclk, headAt := some s.tclk }] }

/-- Packets that waited for credit of a neighbour sent, as far as there is credit. -/
def State.sendWaiting : Nat → State → Nat → State
  | 0, s, _ => s
  | n + 1, s, p =>
    match (s.port p).near with
    | [] => s
    | w :: rest =>
      if s.hasCredit p w.pkt then State.sendWaiting n ((s.modPort p fun x => { x with near := rest }).queueOut p 16 7 w.pkt 0) p else s

/-- The packets of a VC that wait for credit of a neighbour discarded where their residence has reached hop_residence (R211); what stood behind
them is sent as far as there is credit. -/
def State.nearExpire (s : State) (p vc : Nat) : State :=
  let old := (s.port p).near
  let late := fun (w : Waiting) => w.pkt.vc == vc && decide (w.entered + s.hopResidence ≤ s.tclk)
  if !old.any late then s
  else
    let s := (s.modPort p fun x => { x with near := old.filter fun w => !late w }).count 0x05 0 0x49 (old.countP late)
    State.sendWaiting old.length s p

/-- The heads of a VC's pools whose residence has reached hop_residence discarded. -/
def State.residenceExpire (s : State) (inport vc : Nat) : State :=
  let s := if inport = 16 then (List.range 16).foldl (fun s p => s.nearExpire p vc) s else s
  (poolsOf vc).foldl (fun s pool =>
    match (s.inputOf inport).find? fun w => poolOf w.pkt.vc w.pkt.epoch == pool with
    | some w => if w.entered + s.hopResidence ≤ s.tclk then (s.unbuffer inport pool).discard inport 0x49 else s
    | none => s) s

/-- RESIDENCE_EXPIRE (R211). -/
def execResidenceExpire (inport vc : Nat) (s : State) : Host.Outcome State Fault Refusal :=
  if inOk inport && decide (vc ≤ 11) then .next (if s.live then s.residenceExpire inport vc else s)
  else .next s

/-! ### Messages of the fabric processors (R204, R213, R214) -/

/-- A FABRIC message sent on QP 0 (type 0x21). -/
def State.sendFabric (s : State) (dst : Nat) (data : List Byte) : State :=
  let p : Packet := { ty := 0x21, dst, plen := data.length, body := data, first := true, last := true }
  s.launch (s.stamp p 0) 7

/-- A FABRIC message that awaits a REPLY, its request ID put in bytes 2–3. -/
def State.request (s : State) (dst : Nat) (data : List Byte) (qpOf : Option (Nat × Nat) := none) : State :=
  let id := s.nextReq % 65536
  let data := splice data 2 (leBytes 2 id)
  let s := { s with nextReq := (id + 1) % 65536, requests := s.requests ++ [({ id, dst, data, at_ := s.tclk, qpOf := qpOf } : Request)] }
  s.sendFabric dst data

/-- The REPLY to a FABRIC message: its slot bit and its request ID given back. -/
def State.replyFabric (s : State) (dst : Nat) (l : List Byte) (status : Nat) : State :=
  s.sendFabric dst (leBytes 1 0x80 ++ leBytes 1 (fld l 1 1 % 2) ++ slice l 2 2 ++ leBytes 1 status)

/-- A message answered from what is kept of its source, or acted on and kept (R213): the last 256 of each source. -/
def State.once (s : State) (src id : Nat) (act : State → State × Nat) : State × Nat :=
  match s.answered.find? fun a => a.src == src && a.id == id with
  | some a => (s, a.status)
  | none =>
    match act s with
    | (s, st) =>
      let a : Answered := { src := src, id := id, status := st }
      let mine := (s.answered.filter fun a => a.src == src).take 255
      let others := s.answered.filter fun a => a.src != src
      ({ s with answered := a :: mine ++ others }, st)

/-- Whether route messages of a node are accepted (R212): of the fabric manager's, or, while none is named and none has acted, of the root node,
whose fabric processors act for it (notes/assumptions/20.md). -/
def State.managedBy (s : State) (src : Nat) : Bool :=
  match s.fmNode with
  | some n => n == src
  | none => !s.agent.acted && s.agent.root == src && src != s.node

/-- The same for a message that any source may send: what is answered is kept where R212 accepts the source. -/
def State.onceFrom (s : State) (src id : Nat) (act : State → State × Nat) : State × Nat :=
  if s.managedBy src then s.once src id act else act s

/-- A FABRIC message to the neighbour on a port. -/
def State.sendNear (s : State) (p : Nat) (data : List Byte) : State :=
  s.sendOn p (s.stamp { ty := 0x21, dst := (s.port p).peerNode, plen := data.length, body := data, first := true, last := true } 0)

/-- A LINK packet to the node at the far end of a port. -/
def State.linkPacket (s : State) (p : Nat) (data : List Byte) : Packet :=
  s.stamp { ty := 0x20, dst := (s.port p).peerNode, plen := data.length, body := data, first := true, last := true } 0

end Sys2Proof.Machine
end

