-- ==== Sys2Proof/Machine/Transport.lean ====
section
/-! DEFINITION. What every packet for a QP of this node meets on arrival: the QP, the context cache and the siding, the cipher, the checks of
R167, and the acceptance and acknowledgement of requests (R174, R177–R180, R409). -/

namespace Sys2Proof.Machine

/-! ### Arrived packets -/

/-- The first packet that arrived here and satisfies a test, taken out of its input buffer. -/
def State.takeArrived (s : State) (test : Packet → Bool) : Option (Arrival × State) :=
  match takeFirst (fun a => test a.pkt) s.arrived with
  | none => none
  | some (a, l) => some (a, if a.buffered then ({ s with arrived := l }).freeCredit a.port a.pkt else { s with arrived := l })

/-- The first FABRIC message that arrived here and satisfies a test, with its payload, given to the fabric processors (R166, R214). -/
def State.takeFabric (s : State) (test : List Byte → Bool) (act : State → Arrival → List Byte → State) : State :=
  if !s.live then s
  else match s.takeArrived fun p => p.ty == 0x21 && test p.body with
    | none => s
    | some (a, s) => act s a a.pkt.body

/-- The first LINK message from a port. -/
def State.takeLink (s : State) (p : Nat) (op : Nat) (act : State → Packet → List Byte → State) : State :=
  if !s.live then s
  else match takeFirst (fun a => a.port == p && a.pkt.ty == 0x20 && fld a.pkt.body 0 1 == op) s.arrived with
    | none => s
    | some (a, l) => act { s with arrived := l } a.pkt a.pkt.body

/-- The core die of a port (R3, R177); what is carried within the node counts at CD0. -/
def dieOf (port : Nat) : Nat := if 8 ≤ port ∧ port < 16 then 1 else 0

/-- The remote node under which a packet's end stands. -/
def Qp.peer (x : Qp) (p : Packet) : Nat := if x.omnibus then p.src else x.node

/-- Bytes of a siding (R177). -/
def Siding.bytes (d : Siding) : Nat := sum (d.pkts.map fun a => a.pkt.size)

/-- A packet put into the siding, or dropped where it is full (R177). -/
def State.aside (s : State) (a : Arrival) : State :=
  let die := dieOf a.port
  let d := tgetD s.sidings die {}
  let same := (d.pkts.filter fun b => b.pkt.qp == a.pkt.qp).length
  if 2097152 < d.bytes + a.pkt.size ∨ 4096 ≤ d.pkts.length ∨ 256 ≤ same then s.count 0x08 die 2 1
  else
    let s := s.count 0x08 die 0 1
    let s := if same = 0 then s.count 0x08 die 1 1 else s
    let d := { d with pkts := d.pkts ++ [a] }
    let top := (s.counter (counterId 0x08 die 4)).toNat
    let s := s.count 0x08 die 4 (d.pkts.length - top)
    { s with sidings := tset s.sidings die d }

/-- A packet addressed to a QP that it may act on: the QP, the node of its end, the end, and the packet as decrypted. -/
structure Inbound where
  q    : Nat
  x    : Qp
  n    : Nat
  e    : Endpoint
  port : Nat
  pkt  : Packet

/-- Whether the packets of an end for a node are encrypted: none that is carried within the node is (R405). -/
def State.seals (s : State) (x : Qp) (n : Nat) : Bool := x.encrypted && n != s.node

/-- The cipher's checks (R409); none where the packet is discarded. -/
def State.decrypt (s : State) (x : Qp) (p : Packet) : Option Packet :=
  if p.encrypted ≠ s.seals x (x.peer p) then none
  else if !p.encrypted then some p
  else
    let k := s.keySlot x.slot
    if k.state = .loaded then p.unseal x.slot k else none

/-- The checks of a packet whose context is resident. -/
def State.inspect (s : State) (x : Qp) (a : Arrival) : State × Option Inbound :=
  match s.decrypt x a.pkt with
  | none => (s.count 0x09 (if a.port < 16 then a.port else 0) 2 1, none)
  | some p =>
    let s := if a.pkt.encrypted then s.count 0x09 (if a.port < 16 then a.port else 0) 1 1 else s
    let n := x.peer p
    if !p.typeOk x.payload ∨ p.ty = 0x20 ∨ p.ty = 0x21 then (s.discard a.port 0x42, none)
    else match tget x.ends n with
      | none => (s.discard a.port 0x4E, none)
      | some e =>
        if e.state ≠ .ready then (s.discard a.port 0x4E, none)
        else if (x.group.isSome && p.ty != 8 && p.ty != 0x10) || (x.group.isNone && p.ty == 8) then (s.discard a.port 0x42, none)
        else ((s.touch p.qp x n), some { q := p.qp, x, n, e, port := a.port, pkt := p })

/-- The QP lookup and the siding, then the checks (R177). -/
def State.arrive (s : State) (a : Arrival) : State × Option Inbound :=
  match tget s.qps a.pkt.qp with
  | none => (s.count 0x08 (dieOf a.port) 3 1, none)
  | some x =>
    if a.pkt.qp = 0 then (s.discard a.port 0x42, none)
    else
      let d := tgetD s.sidings (dieOf a.port) {}
      let behind := d.pkts.any fun b => b.pkt.qp == a.pkt.qp && x.entry (x.peer b.pkt) == x.entry (x.peer a.pkt)
      if !s.resident a.pkt.qp x (x.peer a.pkt) || behind then (s.aside a, none) else s.inspect x a

/-! ### Acknowledgements (R180) -/

def ackComplete : Nat := 1
def ackRefused : Nat := 2
def ackDuplicate : Nat := 4

/-- An ACK owed. -/
def State.owe (s : State) (q n kind status check msg : Nat) (echo : W32) : State :=
  s.modEnd q n fun e => { e with replies := e.replies ++ [.ack kind status check msg echo], unacked := 0, ackDue := none }

/-- Whether a PSN has been accepted (R179). -/
def Endpoint.accepted (e : Endpoint) (n : W32) : Bool :=
  decide (2 ^ 31 ≤ gap32 n e.epsn) || (decide (gap32 n e.epsn < 512) && e.sack.getLsbD (gap32 n e.epsn))

/-- ePSN moved over every accepted PSN in a run from it. -/
def slideGo : Nat → W32 → BitVec 512 → W32 × BitVec 512
  | 0, n, b => (n, b)
  | fuel + 1, n, b => if b.getLsbD 0 then slideGo fuel (n + 1) (b >>> 1) else (n, b)

def Endpoint.accept (e : Endpoint) (n : W32) : Endpoint :=
  let r := slideGo 512 e.epsn (e.sack ||| (1#512 <<< gap32 n e.epsn))
  { e with epsn := r.1, sack := r.2, unacked := e.unacked + 1 }

/-- What R179 makes of a request's PSN. -/
inductive Fresh where
  | new | duplicate | beyond
  deriving DecidableEq, Repr

def Endpoint.judge (e : Endpoint) (n : W32) : Fresh :=
  if e.accepted n then .duplicate else if gap32 n e.epsn < 512 then .new else .beyond

/-- The acknowledgement that an accepted packet causes: at once, on the 16th, or when the delay has run (R180). -/
def State.afterAccept (s : State) (i : Inbound) : State :=
  match s.endpoint i.q i.n with
  | none => s
  | some e =>
    if e.state ≠ .ready then s
    else if i.pkt.ackreq then s.owe i.q i.n 0 0 0 0 i.pkt.ts
    else if e.unacked = 0 then s
    else if 16 ≤ e.unacked then s.owe i.q i.n 0 0 0 0 i.pkt.ts
    else if e.ackDue.isSome then s
    else s.modEnd i.q i.n fun y => { y with ackDue := some (s.tclk + i.x.ackDelay * 125), ackEcho := i.pkt.ts }

/-- A request accepted and acted on, a duplicate answered, or a packet beyond the window discarded (R179). -/
def State.takeRequest (s : State) (i : Inbound) (act : State → State) (again : State → State) : State :=
  match i.e.judge i.pkt.psn with
  | .beyond => s.discard i.port 0x4F
  | .duplicate => again (s.owe i.q i.n ackDuplicate 0 0 0 i.pkt.ts)
  | .new => (act (s.modEnd i.q i.n fun e => e.accept i.pkt.psn)).afterAccept i

/-- ACK_DELAY_EXPIRE (R180). -/
def execAckDelayExpire (qp node : Nat) (s : State) : Host.Outcome State Fault Refusal :=
  if decide (qp < 16777216) && decide (node ≤ 65535) then
    .next (if s.live then
      match s.endpoint qp node with
      | some e =>
        match e.ackDue with
        | some t => if t ≤ s.tclk ∧ e.state = .ready then s.owe qp node 0 0 0 0 e.ackEcho else s
        | none => s
      | none => s
    else s)
  else .next s

end Sys2Proof.Machine
end

