-- ==== Sys2Proof/Machine/Groups.lean ====
section
/-! DEFINITION. Collective groups: relay levels, control records, chunks and folds, decisions and failures (R227–R258). -/

namespace Sys2Proof.Machine

/-! ### Levels and the control tree (R228–R231) -/

def prod (l : List Nat) : Nat := l.foldl (· * ·) 1

/-- How far apart, in member indices, two neighbouring positions of a level lie. -/
def strideOf (sizes : List Nat) (k : Nat) : Nat := prod (sizes.take k)

/-- The position of member j at level k. -/
def posOf (sizes : List Nat) (j k : Nat) : Nat := j / strideOf sizes k % Nat.max 1 (sizes.getD k 1)

/-- The member whose position at level k is p and who otherwise stands where j does. -/
def withPos (sizes : List Nat) (j k p : Nat) : Nat := j - posOf sizes j k * strideOf sizes k + p * strideOf sizes k

/-- The peers of a member at a level. -/
def peersAt (sizes : List Nat) (j k : Nat) : List Nat :=
  ((List.range (sizes.getD k 1)).filter (· != posOf sizes j k)).map (withPos sizes j k)

/-- The control parent (R230); none for the leader. -/
def parentOf (sizes : List Nat) (j : Nat) : Option Nat :=
  ((List.range sizes.length).find? fun k => posOf sizes j k != 0).map fun k => withPos sizes j k 0

def Group.nbr (g : Group) (j : Nat) : Option Neighbour := g.nbrs.find? fun n => n.idx == j
def Group.nbrOfQp (g : Group) (q : Nat) : Option Neighbour := g.nbrs.find? fun n => n.qp == q
def Group.parent (g : Group) : Option Nat := parentOf g.sizes g.me
def Group.children (g : Group) : List Nat := (g.nbrs.filter fun n => parentOf g.sizes n.idx == some g.me).map (·.idx)
def Group.leader (g : Group) : Bool := g.me == 0

/-- The serving clusters of a level (R231). -/
def Group.clustersOf (g : Group) (k : Nat) : List Nat :=
  (List.range g.serving.length).filterMap fun t => if t % g.sizes.length = k then g.serving[t]? else none

def State.modNbr (s : State) (gid j : Nat) (h : Neighbour → Neighbour) : State :=
  s.modGroup gid fun g => { g with nbrs := updAll (fun n => n.idx == j) h g.nbrs }
def State.modCur (s : State) (gid : Nat) (h : Coll → Coll) : State := s.modGroup gid fun g => { g with cur := g.cur.map h }

/-! ### Vectors and chunks (R241, R245, R246) -/

def Coll.opc (c : Coll) : Nat := c.job.opcode
def Coll.es (c : Coll) : Nat := Nat.max 1 (elemSize c.elem)
def Coll.reducing (c : Coll) : Bool := isReducing c.opc

/-- Elements of a whole chunk: E. -/
def chunkLen (g : Group) (c : Coll) : Nat := Nat.max 1 (Nat.min (2 ^ g.chunkLog / c.es) 32768)

/-- Blocks of the vector, and elements of each. -/
def blocksOf (g : Group) (c : Coll) : Nat × Nat :=
  let m := g.members.length
  match c.opc with
  | 0x11 => (m, c.n / m)
  | 0x12 => (m, c.n)
  | 0x15 => (m * m, c.n / m)
  | 0x16 => (0, 0)
  | _ => (1, c.n)

def chunksPer (g : Group) (c : Coll) : Nat := ceilDiv (blocksOf g c).2 (chunkLen g c)
def chunksOf (g : Group) (c : Coll) : Nat := (blocksOf g c).1 * chunksPer g c

/-- Block, first element within the block, and element count of a chunk. -/
def chunkAt (g : Group) (c : Coll) (i : Nat) : Nat × Nat × Nat :=
  let per := Nat.max 1 (chunksPer g c)
  let e0 := i % per * chunkLen g c
  (i / per, e0, Nat.min (chunkLen g c) ((blocksOf g c).2 - e0))

def chunkBytes (g : Group) (c : Coll) (i : Nat) : Nat := (chunkAt g c i).2.2 * c.es

/-- The byte offset of a chunk in a member's result buffer, where it has a place there (Table 7.8). -/
def placeOf (g : Group) (c : Coll) (j i : Nat) : Option Nat :=
  let x := chunkAt g c i
  let m := g.members.length
  let bl := (blocksOf g c).2
  match c.opc with
  | 0x10 | 0x13 => some (x.2.1 * c.es)
  | 0x14 => if j = c.root then some (x.2.1 * c.es) else none
  | 0x11 => if j = x.1 then some (x.2.1 * c.es) else none
  | 0x12 => some ((x.1 * bl + x.2.1) * c.es)
  | 0x15 => if j = x.1 % m then some ((x.1 / m * bl + x.2.1) * c.es) else none
  | _ => none

/-- The byte offset of a chunk in this member's input buffer. -/
def inputAt (g : Group) (c : Coll) (i : Nat) : Nat :=
  let x := chunkAt g c i
  let bl := (blocksOf g c).2
  match c.opc with
  | 0x11 => (x.1 * bl + x.2.1) * c.es
  | 0x15 => (x.1 % g.members.length * bl + x.2.1) * c.es
  | _ => x.2.1 * c.es

/-- The owner's position for a chunk at a level (R246). -/
def ownerPos (sizes : List Nat) (i k : Nat) : Nat := i / strideOf sizes k % Nat.max 1 (sizes.getD k 1)

/-- Whether member j owns a chunk at level k within its set. -/
def owns (sizes : List Nat) (j i k : Nat) : Bool := (List.range (k + 1)).all fun t => posOf sizes j t == ownerPos sizes i t

/-- The owner at level k for one who owns the chunk at every lower level. -/
def ownerFrom (sizes : List Nat) (j i k : Nat) : Nat := withPos sizes j k (ownerPos sizes i k)

/-- The member towards whom the result of a chunk is sent; none where it is spread (Table 7.10). -/
def targetOf (g : Group) (c : Coll) (i : Nat) : Option Nat :=
  match c.opc with
  | 0x11 => some (chunkAt g c i).1
  | 0x14 => some c.root
  | 0x15 => some ((chunkAt g c i).1 % g.members.length)
  | _ => none

/-- The length of a member's result in bytes (Table 7.8). -/
def resultLen (g : Group) (c : Coll) : Nat :=
  let m := g.members.length
  match c.opc with
  | 0x11 => c.n / m * c.es
  | 0x12 => m * c.n * c.es
  | 0x14 => if g.me = c.root then c.n * c.es else 0
  | 0x16 => 0
  | _ => c.n * c.es

/-! ### Control records (R251, Table 7.12) -/

def ctlBody (kind flags status me named w8 addr len : Nat) : List Byte :=
  leBytes 1 kind ++ leBytes 1 1 ++ leBytes 1 flags ++ leBytes 1 status ++ leBytes 2 me ++ leBytes 2 named ++ leBytes 4 w8 ++ leBytes 4 0 ++
  leBytes 8 addr ++ leBytes 4 len ++ List.replicate 36 0

/-- A collective message queued on the QP of a neighbour. -/
def State.sendColl (s : State) (gid : Nat) (n : Neighbour) (raddr : Nat) (seq sig chunk : W32) (payload : Nat) (data : List Byte) : State :=
  (s.enqueue n.qp n.node 0 (.coll raddr gid n.level seq sig chunk data) (Nat.max 1 (ceilDiv data.length (Nat.max 1 payload)))).1

/-- The signature of this member for a sequence number, or zero. -/
def Group.sigFor (g : Group) (seq : W32) : W32 := (g.cur.filter fun c => c.seq == seq).elim 0 (·.sig)

/-- The bytes of a control record sent to a neighbour, into the next of the 16 places of its control area. -/
def State.sendRecord (s : State) (gid j kind : Nat) (seq : W32) (body : List Byte) : State :=
  match tget s.groups gid with
  | none => s
  | some g =>
    match g.nbr j with
    | none => s
    | some n =>
      let at_ := n.remote + g.slots * 2 ^ g.chunkLog + 64 * (n.ctrlOut % 16)
      let s := s.modNbr gid j fun n => { n with ctrlOut := n.ctrlOut + 1 }
      s.sendColl gid n at_ seq (g.sigFor seq) (BitVec.ofNat 32 (0xFFFFFF00 + kind)) g.payload body

/-- A control record of this member's sent to a neighbour. -/
def State.sendCtl (s : State) (gid j kind flags status : Nat) (seq : W32) (named w8 addr len : Nat) : State :=
  s.sendRecord gid j kind seq (ctlBody kind flags status ((tget s.groups gid).elim 0 (·.me)) named w8 addr len)

/-- A record sent to each of several members. -/
def State.sendAll (s : State) (gid : Nat) (to_ : List Nat) (kind status : Nat) (seq : W32) (named : Nat) : State :=
  to_.foldl (fun s j => s.sendCtl gid j kind 0 status seq named 0 0 0) s

/-! ### Rounds -/

def Group.round (g : Group) (seq : W32) : Round := (g.rounds.find? fun r => r.seq == seq).getD { seq := seq }

/-- A round changed; those of sequence numbers four or more behind the next are dropped. -/
def State.modRound (s : State) (gid : Nat) (seq : W32) (h : Round → Round) : State :=
  s.modGroup gid fun g =>
    { g with rounds := (g.rounds.filter fun r => r.seq != seq && decide (gap32 g.next r.seq < 8 ∨ gap32 r.seq g.next < 8)) ++ [h (g.round seq)] }

/-- FIRST sent up the tree once for each sequence number; at the leader it starts the group timer. -/
def State.sendFirst (s : State) (gid : Nat) (seq : W32) (named : Nat) : State :=
  match tget s.groups gid with
  | none => s
  | some g =>
    if (g.round seq).firstSent then s
    else
      let s := s.modRound gid seq fun r => { r with firstSent := true }
      match g.parent with
      | some p => s.sendCtl gid p 0x02 0 0 seq named 0 0 0
      | none => s

def State.startTimer (s : State) (gid : Nat) (seq : W32) : State :=
  s.modRound gid seq fun r => { r with timerAt := some (r.timerAt.getD s.tclk) }

/-! ### Landing slots (R233) -/

/-- The count moved over every freed slot in a run from it. -/
def freeGo (slots : Nat) : Nat → Nat → List Nat → Nat × List Nat
  | 0, n, l => (n, l)
  | fuel + 1, n, l => if l.contains (n % slots) then freeGo slots fuel (n + 1) (l.filter (· != n % slots)) else (n, l)

/-- A slot of a neighbour's freed, and the cumulative count returned to it. A sender uses the slots in turn and learns only how many are
free, so the count passes a slot once those used before it are free too (notes/assumptions/77.md). -/
def State.freeSlot (s : State) (gid j slot : Nat) : State :=
  match (tget s.groups gid).bind fun g => (g.nbr j).map fun n => (n, freeGo g.slots (g.slots + 1) n.freed (addNew slot n.ahead)) with
  | none => s
  | some (n, r) =>
    let s := s.modNbr gid j fun n => { n with freed := r.1, ahead := r.2 }
    if r.1 = n.freed then s else s.sendCtl gid j 0x06 0 0 0 0 (r.1 % 2 ^ 32) 0 0

/-- The landing slot of a neighbour in which a local address lies. -/
def Group.slotAt (g : Group) (n : Neighbour) (a : Nat) : Nat := (a - n.area) / 2 ^ g.chunkLog

/-- … with the neighbour given by its member index. -/
def Group.slotOf (g : Group) (j a : Nat) : Nat := (g.nbr j).elim 0 fun n => g.slotAt n a

/-- Slot credits held for a neighbour. -/
def Neighbour.credits (n : Neighbour) (slots : Nat) : Nat :=
  slots - gap32 (BitVec.ofNat 32 n.spent) (BitVec.ofNat 32 n.freedBy)

/-! ### The end of a collective at a member (R254–R256) -/

/-- A range of this node's memory whose contents become the free contents number e. -/
def State.undefineAs (s : State) (f a n e : Nat) : State :=
  match s.region a with
  | .host hp => { s with host := s.host.undefine (hostKey hp (s.busOf f a)) n e }
  | .none => s
  | .device => s
  | _ => { s with tiers := { s.tiers with mem := s.tiers.mem.undefine a n e } }

/-- A range of this node's memory whose contents become undefined. -/
def State.undefineRange (s : State) (f a n : Nat) : State :=
  if n = 0 then s else s.draw.2.undefineAs f a n s.draw.1

/-- The record of an abort (Table 7.14). -/
def abortRecord (st : Status) (gid : Nat) (seq : W32) (cause node : Nat) (sig : W32) (layer oper time : Nat) : List Byte :=
  leBytes 1 0x40 ++ leBytes 1 1 ++ leBytes 1 st.code ++ leBytes 1 0 ++ leBytes 2 gid ++ leBytes 2 0 ++ leBytes 4 seq.toNat ++
  leBytes 2 cause ++ leBytes 2 0 ++ leBytes 2 node ++ leBytes 2 0 ++ leBytes 4 sig.toNat ++ leBytes 2 layer ++ leBytes 2 oper ++ leBytes 4 time

/-- Sending for a collective stops: what is not yet sent to a neighbour is dropped, the rest of a message half sent too, and the credits that
messages not begun would have used are not spent. -/
def State.stopSending (s : State) (gid : Nat) (seq : W32) : State :=
  match tget s.groups gid with
  | none => s
  | some g =>
    let unsent := fun (m : Msg) => match m.kind with
      | .coll _ _ _ q _ ch _ => q == seq && decide (ch.toNat < 0xFFFFFF00)
      | _ => false
    g.nbrs.foldl (fun s n =>
      let landing := (s.endpoint n.qp n.node).elim 0 fun e => e.queue.countP fun m => unsent m && m.next == 0 && match m.kind with
        | .coll a _ _ _ _ _ _ => decide (n.remote ≤ a ∧ a < n.remote + g.slots * 2 ^ g.chunkLog)
        | _ => false
      let s := s.modEnd n.qp n.node fun e => { e with queue := e.queue.filter fun m => !unsent m }
      s.modNbr gid n.idx fun n => { n with out := [], spent := n.spent - landing }) s

/-- Every packet of a message has arrived. -/
def CollMsg.whole (m : CollMsg) : Bool := m.lastIdx.any fun k => m.parts.length == k + 1

/-- The landing slots that a collective holds here given back, those of messages that are still arriving among them. -/
def State.freeHeld (s : State) (gid : Nat) (seq : W32) : State :=
  match tget s.groups gid with
  | none => s
  | some g =>
    let waiting := (g.cur.filter fun c => c.seq == seq).elim [] fun c => c.contribs ++ c.folds.flatMap (·.wait)
    let s := waiting.foldl (fun s x => match x.src with
      | some j => s.freeSlot gid j.1 j.2
      | none => s) s
    let held := g.msgs.filter fun m => m.seq == seq && !m.dead
    let s := s.modGroup gid fun g => { g with
      msgs := updAll (fun m => m.seq == seq) (fun m => { m with dead := true }) (g.msgs.filter fun m => !(m.seq == seq && m.whole)) }
    held.foldl (fun s m => if m.landing then s.freeSlot gid m.src (g.slotOf m.src m.addr) else s) s

/-- What the chunks of a collective leave in the accumulators of their files (R260, R267). -/
def State.keepAccs (s : State) (f : Fold) : State :=
  let n := Nat.max 1 f.units.length
  ((List.range n).zip f.units).foldl (fun s (e : Nat × Nat) =>
    s.modCluster f.cluster fun x => { x with
      accs := tset x.accs e.2 (let l := (f.acc.drop (8192 * e.1)).take 8192; l ++ (tgetD x.accs e.2 []).drop l.length) }) s

/-- The cluster that the next chunk of a level is assigned to (R250). -/
def Group.nextCluster (g : Group) (k : Nat) : Nat :=
  let l := g.clustersOf k
  l.getD (tgetD g.rotation k 0 % Nat.max 1 l.length) 0

/-- Chunks of a level that this member owns and that have had no file, in ascending order. -/
def Group.unassigned (g : Group) (c : Coll) (k : Nat) : List Nat :=
  (List.range (chunksOf g c)).filter fun i => owns g.sizes g.me i k && !c.assigned.contains (k, i)

/-- The cluster on which a chunk without a file will have one: the rotation goes on from the chunks before it (R250). -/
def Group.clusterFor (g : Group) (c : Coll) (k i : Nat) : Nat :=
  let l := g.clustersOf k
  l.getD ((tgetD g.rotation k 0 + (g.unassigned c k).idxOf i) % Nat.max 1 l.length) 0

/-- Whether a file of a cluster holds a chunk, or a landing slot awaits one. -/
def State.servesChunks (s : State) (cl : Nat) : Bool :=
  s.groups.any fun e => e.2.cur.any fun c =>
    c.folds.any (fun f => f.cluster == cl) || c.contribs.any fun x => x.src.isSome && e.2.clusterFor c x.level x.chunk == cl

/-- Whether a cluster is in collective service: since one of its files was assigned, a file of it has held a chunk or a landing slot has
awaited one (R258). -/
def State.inService (s : State) (cl : Nat) : Bool := (s.cluster cl).service && s.servesChunks cl

/-- Service ended on every cluster where no file holds a chunk and no slot awaits one. -/
def State.endService (s : State) : State :=
  { s with clusters := s.clusters.map fun e => if e.2.service && !s.servesChunks e.1 then (e.1, { e.2 with service := false }) else e }

/-- A member's collective over: its job completes with a status, unless it ended before; `lost` for a group that has failed. -/
def State.collEnd (s : State) (gid : Nat) (st : Status) : State :=
  match tget s.groups gid with
  | none => s
  | some g =>
    match g.cur with
    | none => s
    | some c =>
      let s := if st = .ok then s
        else ((s.stopSending gid c.seq).freeHeld gid c.seq).undefineRange g.f c.result c.rlen
      let s := if c.fault.isSome then s else s.endOp c.op { status := st }
      ((c.folds.foldl State.keepAccs s).modGroup gid fun g => { g with cur := none }).endService

/-- What the record of an abort says of this member's part in a collective: its job ended at a time, or before it on a local fault (R256). -/
def Coll.over (c : Coll) (time : Nat) : Over :=
  { seq := c.seq, sig := c.sig, layer := c.job.layer, oper := c.job.oper, at_ := if c.fault.isSome then c.overAt else time }

/-- … before any decision: what the record of an abort that is still to come will hold is kept (R256). -/
def State.collEndEarly (s : State) (gid : Nat) : State :=
  match (tget s.groups gid).bind (·.cur) with
  | none => s
  | some c =>
    (s.collEnd gid .collMemberLost).modGroup gid fun g => { g with ended := (c.over s.time :: g.ended).take 4 }

/-- The record that an abort writes, and the event it is (R256). The cause of a timeout is no member (Table 7.14). -/
def State.abortAt (s : State) (gid : Nat) (g : Group) (o : Over) (st : Status) (cause : Nat) : State :=
  (s.record g.f (abortRecord st gid o.seq cause (if st = .collAbortTimeout then 0 else g.members.getD cause 0) o.sig o.layer o.oper o.at_)).event 0

/-- A decision acted on at this member (R254), or kept for a job that is not yet dispatched, whose record is written when it is (R256). -/
def State.act (s : State) (gid : Nat) (seq : W32) (st : Status) (cause : Nat) : State :=
  match tget s.groups gid with
  | none => s
  | some g =>
    let s := if st = .collMemberLost then s.modGroup gid fun g => { g with state := .failed } else s
    match g.cur.filter fun c => c.seq == seq with
    | some c =>
      let s := s.collEnd gid st
      if st = .ok then s else s.abortAt gid g (c.over s.time) st cause
    | none =>
      if gap32 seq g.next < 2 ^ 31 then
        if g.decisions.any fun d => d.1 == seq then s
        else
          let s := s.modGroup gid fun g => { g with decisions := (g.decisions ++ [(seq, st, cause)]).drop (g.decisions.length + 1 - 4) }
          if st = .ok then s else s.freeHeld gid seq
      else match g.ended.find? fun e => e.seq == seq with
        | none => s
        | some e =>
          let s := s.modGroup gid fun g => { g with ended := g.ended.filter fun x => x.seq != seq }
          if st = .ok then s else s.abortAt gid g e st cause

/-- The leader's decision, sent down the tree and acted on (R253). -/
def State.decideAs (s : State) (gid : Nat) (seq : W32) (st : Status) (cause : Nat) : State :=
  match tget s.groups gid with
  | none => s
  | some g =>
    if (g.round seq).decided.isSome then s
    else
      let s := s.modRound gid seq fun r => { r with decided := some (st, cause) }
      (s.sendAll gid g.children 0x05 st.code seq cause).act gid seq st cause

/-- Whether 64 bytes are a well-formed control record of a kind (Table 7.12). -/
def recordOk (kind : Nat) (l : List Byte) : Bool :=
  l.length == 64 && fld l 0 1 == kind && fld l 1 1 == 1 && zeroAt l 12 4 && zeroAt l 28 36

/-- A control record that has arrived and is still to be taken: the neighbour it came from, its kind and its bytes. -/
def State.arrivedRecord (s : State) (gid : Nat) (g : Group) (seq : W32) (a : Arrival) : Option (Neighbour × Nat × List Byte) :=
  match tget s.qps a.pkt.qp with
  | none => none
  | some x =>
    if x.group ≠ some gid ∨ a.pkt.ty ≠ 8 then none
    else match s.decrypt x a.pkt, s.endpoint a.pkt.qp x.node, g.nbrOfQp a.pkt.qp with
      | some p, some e, some n =>
        let kind := fld p.body 12 4 - 0xFFFFFF00
        if e.state = .ready ∧ e.judge p.psn = .new ∧ p.typeOk x.payload ∧ fld p.body 0 2 = gid ∧ fld p.body 4 4 = seq.toNat ∧
            0xFFFFFF00 ≤ fld p.body 12 4 ∧ recordOk kind p.payload then some (n, kind, p.payload) else none
      | _, _, _ => none

/-- A round with what one record adds to the leader's latches. -/
def Round.latch (g : Group) (sig : Option W32) (r : Round) (x : Neighbour × Nat × List Byte) : Round :=
  let named := fld x.2.2 6 2
  let flags := fld x.2.2 2 1
  match x.2.1 with
  | 0x01 => if g.children.contains x.1.idx && sig.any (· != BitVec.ofNat 32 (fld x.2.2 8 4)) then { r with mismatch := some (r.mismatch.getD x.1.idx) } else r
  | 0x03 => { r with done := addNew x.1.idx r.done, slowest := named }
  | 0x0A => { r with entered := addNew x.1.idx r.entered, lastIn := named }
  | 0x04 => { r with
      mismatch := if bit flags 0 then some (r.mismatch.getD named) else r.mismatch
      lost := if bit flags 1 then some (r.lost.getD named) else r.lost
      fault := if bit flags 2 then some (r.fault.getD named) else r.fault }
  | _ => r

/-- The leader's round with every control record latched that has arrived by now (R253). -/
def State.latched (s : State) (gid : Nat) (g : Group) (seq : W32) : Round :=
  (s.arrived.filterMap (s.arrivedRecord gid g seq)).foldl (Round.latch g ((g.cur.filter fun c => c.seq == seq).map (·.sig))) (g.round seq)

/-- The group with every ENTER of a collective that has arrived by now. -/
def State.entersIn (s : State) (gid : Nat) (g : Group) (seq : W32) : Group :=
  { g with enters := g.enters ++ (s.arrived.filterMap (s.arrivedRecord gid g seq)).filterMap fun x =>
      if x.2.1 = 0x01 then
        some { idx := x.1.idx, seq, sig := BitVec.ofNat 32 (fld x.2.2 8 4), addr := fld x.2.2 16 8, len := fld x.2.2 24 4, flags := fld x.2.2 2 1 }
      else none }

/-- Whether the ENTER of every control child has come with this member's signature (R252). -/
def Group.agreed (g : Group) (c : Coll) : Bool :=
  g.children.all fun j => g.enters.any fun e => e.idx == j && e.seq == c.seq && e.sig == c.sig

def Group.via (g : Group) (seg : Nat) : Via := { f := g.f, ctx := g.ctx, seg }

/-- A wait counter written (R257): the time from this member's dispatch to ALL_ENTERED is added. -/
def State.writeWait (s : State) (gid : Nat) : State × Option MemErr :=
  match (tget s.groups gid).bind fun g => (g.cur.filter fun c => c.fault.isNone).map fun c => (g, c) with
  | none => (s, none)
  | some (g, c) =>
    let w := (g.waited + (s.tclk - c.startAt)) % 2 ^ 64
    (s.modGroup gid fun g => { g with waited := w }).writeVia (g.via g.waitSeg) g.waitAddr (leBytes 8 w)

/-- The laggard report of a leader (Table 7.15). -/
def laggardRecord (gid : Nat) (seq : W32) (slowest node spread time : Nat) : List Byte :=
  leBytes 1 0x48 ++ leBytes 1 1 ++ leBytes 2 0 ++ leBytes 2 gid ++ leBytes 2 0 ++ leBytes 4 seq.toNat ++ leBytes 2 slowest ++ leBytes 2 0 ++
  leBytes 2 node ++ leBytes 2 0 ++ leBytes 4 (Nat.min spread 0xFFFFFFFF) ++ leBytes 4 0 ++ leBytes 4 time

/-- Every member has entered, at the leader: ALL_ENTERED down the tree, the leader's own wait counter and the report (R257). -/
def State.allEntered (s : State) (gid : Nat) (g : Group) (seq : W32) (r : Round) : State × Option MemErr :=
  let s := (s.modRound gid seq fun r => { r with enterSent := true }).sendAll gid g.children 0x09 0 seq 0
  let w := if g.cur.any fun c => c.seq == seq then s.writeWait gid else (s, none)
  let spread := s.tclk - r.timerAt.getD s.tclk
  (if g.report * 100000 ≤ spread then w.1.record g.f (laggardRecord gid seq r.lastIn (g.members.getD r.lastIn 0) spread s.time) else w.1, w.2)

/-- The leader's own fault, with nothing sent for it any more: its job completes (R251). -/
def State.faultHere (s : State) (gid : Nat) (c : Coll) (st : Status) : State :=
  ((s.endOp c.op { status := st }).modCur gid fun c => { c with fault := some st, overAt := s.time }).stopSending gid c.seq

/-- A commit (R253 rule 4). In laggard mode ALL_ENTERED, where it is still owed, goes first; an error in the leader's wait counter is then the
leader's own fault, under rule 3. -/
def State.commit (s : State) (gid : Nat) (g : Group) (seq : W32) (r : Round) : State :=
  if !g.laggard || r.enterSent || !g.children.all r.entered.contains then s.decideAs gid seq .ok 0
  else
    match s.allEntered gid g seq r, g.cur with
    | (s, some e), some c => ((s.endedBy e g.f c.job.layer c.job.oper).faultHere gid c .memUncorrectable).decideAs gid seq .collMemberFault g.me
    | (s, _), _ => s.decideAs gid seq .ok 0

/-- Rules 1 to 4 of R253, after what has arrived is latched. -/
def State.decideNow (s : State) (gid : Nat) (seq : W32) : State :=
  match tget s.groups gid with
  | none => s
  | some g =>
    let r := s.latched gid g seq
    if !g.leader || r.decided.isSome then s
    else match r.mismatch, r.lost, r.fault with
      | some c, _, _ => s.decideAs gid seq .collMismatch c
      | none, some c, _ => s.decideAs gid seq .collMemberLost c
      | none, none, some c => s.decideAs gid seq .collMemberFault c
      | none, none, none =>
        let placed := g.cur.any fun c => c.seq == seq && c.flushed && c.fault.isNone && (s.entersIn gid g seq).agreed c
        if placed && g.children.all r.done.contains then s.commit gid g seq r else s

/-- A report latched at the leader, or sent up the tree (R251). Flags: bit 0 MISMATCH, bit 1 LOST, bit 2 FAULT. -/
def State.reportUp (s : State) (gid : Nat) (seq : W32) (flags cause : Nat) : State :=
  match tget s.groups gid with
  | none => s
  | some g =>
    match g.parent with
    | some p => s.sendCtl gid p 0x04 flags 0 seq cause 0 0 0
    | none =>
      (s.modRound gid seq fun r => { r with
        mismatch := if bit flags 0 then some (r.mismatch.getD cause) else r.mismatch
        lost := if bit flags 1 then some (r.lost.getD cause) else r.lost
        fault := if bit flags 2 then some (r.fault.getD cause) else r.fault }).decideNow gid seq

/-- A group whose QP to neighbour j entered ERROR, or whose key is gone (R238, R255, R412). -/
def State.groupLost (s : State) (gid j : Nat) : State :=
  match tget s.groups gid with
  | none => s
  | some g =>
    if g.state ≠ .ready then s
    else
      let seq := g.cur.elim g.next (·.seq)
      let s := if g.leader then s else s.collEndEarly gid
      let s := s.modGroup gid fun g => { g with state := .failed }
      s.reportUp gid seq 2 j

/-- An end enters ERROR: its operations end, and a group it belongs to fails. -/
def State.qpError (s : State) (q n : Nat) (st : Status) : State :=
  let was := (s.endpoint q n).any fun e => e.state = .ready
  let s := s.endError q n st
  match (tget s.qps q).bind (·.group) with
  | some gid => if was then (match (tget s.groups gid).bind fun g => g.nbrOfQp q with
      | some b => s.groupLost gid b.idx
      | none => s) else s
  | none => s

/-- A key slot lost to EXHAUSTED or INVALID: bound QPs enter ERROR and bound groups fail (R412, R413). -/
def State.slotLost (s : State) (i : Nat) (st : KeyState) (event port : Nat) : State :=
  let k := s.keySlot i
  let s := (s.modKey i fun k => { k with state := st }).keyEvent i k event port
  s.qps.foldl (fun s e =>
    if e.2.encrypted ∧ e.2.slot = i then e.2.ends.foldl (fun s n => s.qpError e.1 n.1 .xportQpError) s else s) s

/-! ### Result buffers, the up path and the down path (R247) -/

/-- A local fault of this member's job: it completes at once, and the leader is told (R251). -/
def State.collFault (s : State) (gid : Nat) (st : Status) : State :=
  match tget s.groups gid with
  | none => s
  | some g =>
    match g.cur with
    | none => s
    | some c =>
      if c.fault.isSome then s
      else
        (s.faultHere gid c st).reportUp gid c.seq 4 g.me

/-- An error in the memory of the wait counter. -/
def State.waitFault (s : State) (gid : Nat) (e : MemErr) : State :=
  match (tget s.groups gid).bind fun g => g.cur.map fun c => (g, c) with
  | none => s
  | some (g, c) => (s.endedBy e g.f c.job.layer c.job.oper).collFault gid .memUncorrectable

/-- Bytes of this member's input. -/
def State.collInput (s : State) (gid : Nat) (g : Group) (c : Coll) (i : Nat) : State × Option (List Byte) :=
  match s.readVia (g.via c.inSeg) (c.input + inputAt g c i) (chunkBytes g c i) with
  | (s, l, none) => (s, some l)
  | (s, _, some e) => ((s.endedBy e g.f c.job.layer c.job.oper).collFault gid .memUncorrectable, none)

/-- Bytes that wait in a landing slot. -/
def State.collSlot (s : State) (gid : Nat) (g : Group) (c : Coll) (a n : Nat) : State × Option (List Byte) :=
  match s.readVia (g.via g.regionSeg) a n with
  | (s, l, none) => (s, some l)
  | (s, _, some e) => ((s.endedBy e g.f c.job.layer c.job.oper).collFault gid .memUncorrectable, none)

/-- The bytes of a chunk or of a contribution, from where they are. -/
def State.collBytes (s : State) (gid : Nat) (g : Group) (c : Coll) (chunk : Nat) (w : Content) : State × Option (List Byte) :=
  match w with
  | .input => s.collInput gid g c chunk
  | .bytes l => (s, some l)
  | .slot a n => s.collSlot gid g c a n

/-- Bytes written into this member's result buffer. -/
def State.collStore (s : State) (gid : Nat) (g : Group) (c : Coll) (off : Nat) (l : List Byte) : State × Bool :=
  match s.writeVia (g.via c.resSeg) (c.result + off) l with
  | (s, none) => (s.modCur gid fun c => { c with paths := addPath (s.pathOf g.f (c.result + off)) c.paths }, true)
  | (s, some e) => ((s.endedBy e g.f c.job.layer c.job.oper).collFault gid .memUncorrectable, false)

/-- DONE to the control parent, or the decision at the leader, once results are flushed and every child has entered with this member's
signature and is done (R251, R252). -/
def State.tryDone (s : State) (gid : Nat) (seq : W32) : State :=
  match tget s.groups gid with
  | none => s
  | some g =>
    let r := g.round seq
    let ready := g.cur.any fun c => c.seq == seq && c.flushed && c.fault.isNone && g.agreed c
    if !ready || !g.children.all r.done.contains || r.doneSent then s
    else
      let s := s.modRound gid seq fun r => { r with doneSent := true }
      match g.parent with
      | some p => s.sendCtl gid p 0x03 0 0 seq r.slowest 0 0 0
      | none => s.decideNow gid seq

/-- The results of this member are placed and flushed. -/
def State.collFlushed (s : State) (gid : Nat) (seq : W32) : State :=
  match (tget s.groups gid).bind fun g => g.cur.filter fun c => c.seq == seq && !c.flushed with
  | none => s
  | some _ =>
    let me := (tget s.groups gid).elim 0 (·.me)
    ((s.modCur gid fun c => { c with flushed := true }).modRound gid seq fun r => { r with slowest := me }).tryDone gid seq

/-- Where nothing is owed any more, what was written is flushed. -/
def State.checkPlaced (s : State) (gid : Nat) : State :=
  match tget s.groups gid with
  | none => s
  | some g =>
    match g.cur with
    | none => s
    | some c =>
      if c.owed ≠ 0 ∨ c.flushing ∨ c.fault.isSome then s
      else
        let s := s.modCur gid fun c => { c with flushing := true }
        if c.paths.isEmpty then s.collFlushed gid c.seq else s.addFlag g.f c.paths (.collDone gid c.seq)

/-- A chunk of the result placed in this member's buffer. -/
def State.collPlaced (s : State) (gid : Nat) : State := (s.modCur gid fun c => { c with owed := c.owed - 1 }).checkPlaced gid

/-- A data message put among those to be sent to a neighbour: those up, and those down, each in ascending chunk index (R250). A member whose part
in the collective is over sends none. -/
def State.outMsg (s : State) (gid j : Nat) (m : OutMsg) : State :=
  if !((tget s.groups gid).bind (·.cur)).any (·.fault.isNone) then s
  else s.modNbr gid j fun n =>
    { n with out := (n.out.filter fun x => x.up != m.up || decide (x.chunk ≤ m.chunk)) ++ [m] ++
                    (n.out.filter fun x => x.up == m.up && decide (m.chunk < x.chunk)) }

/-- A chunk's result handed on below a level: spread, or sent towards its member (R247). -/
def State.handOn (s : State) (gid : Nat) (g : Group) (c : Coll) (i level : Nat) (what : Content) : State :=
  let pass := fun (s : State) (k j : Nat) => s.outMsg gid j { level := k, chunk := i, what, toResult := (placeOf g c j i).isSome }
  match targetOf g c i with
  | none =>
    (List.range level).reverse.foldl (fun s k => (peersAt g.sizes g.me k).foldl (fun s j => pass s k j) s) s
  | some t =>
    match (List.range level).reverse.find? fun k => posOf g.sizes g.me k != posOf g.sizes t k with
    | some k => pass s k (withPos g.sizes g.me k (posOf g.sizes t k))
    | none => s

/-- Whether an up message may go: those of lower chunks to the same neighbour have gone (R247, R250). -/
def upTurn (g : Group) (c : Coll) (j : Nat) (m : OutMsg) : Bool :=
  m.level == 0 || (List.range m.chunk).all fun i =>
    !(owns g.sizes g.me i (m.level - 1) && ownerFrom g.sizes g.me i m.level == j) || c.sentUp.contains (m.level, i)

/-- The member from which a chunk goes down: its top owner, or the one that supplies it (R246, Table 7.10). -/
def sourceOf (g : Group) (c : Coll) (i : Nat) : Nat :=
  let m := Nat.max 1 g.members.length
  match c.opc with
  | 0x12 => (chunkAt g c i).1
  | 0x13 => c.root
  | 0x15 => (chunkAt g c i).1 / m
  | _ => i % m

/-- Whether a chunk's path leads from this member down to a neighbour (R247). -/
def handsDown (g : Group) (c : Coll) (n : Neighbour) (i : Nat) : Bool :=
  let x := sourceOf g c i
  let same := fun (a k : Nat) => posOf g.sizes g.me k == posOf g.sizes a k
  (List.range (n.level + 1)).all (same x) &&
    match targetOf g c i with
    | none => true
    | some t => posOf g.sizes t n.level == posOf g.sizes n.idx n.level && (List.range g.sizes.length).all fun k => decide (k ≤ n.level) || same t k

/-- Whether a message down may go: those of lower chunks to the same neighbour have gone (R250). -/
def downTurn (g : Group) (c : Coll) (n : Neighbour) (m : OutMsg) : Bool :=
  (List.range m.chunk).all fun i => !handsDown g c n i || c.sentDown.contains (n.idx, i)

/-- Whether a message can be sent to a neighbour now: in its turn, into its result buffer once its ENTER has come, into a slot with a
credit. -/
def Group.canSend (g : Group) (c : Coll) (n : Neighbour) (m : OutMsg) : Bool :=
  (if m.up then upTurn g c n.idx m else downTurn g c n m) &&
  if m.toResult then g.enters.any fun e => e.idx == n.idx && e.seq == c.seq && e.addr != 0 && !bit e.flags 2
  else decide (0 < n.credits g.slots)

/-- The next message for a neighbour that can go: the first up, or the first down. -/
def Group.nextOut (g : Group) (c : Coll) (n : Neighbour) : Option OutMsg :=
  match (n.out.find? fun m => m.up).filter (g.canSend c n) with
  | some m => some m
  | none => (n.out.find? fun m => !m.up).filter (g.canSend c n)

def dropFirst (m : OutMsg) : List OutMsg → List OutMsg
  | [] => []
  | x :: r => if x = m then r else x :: dropFirst m r

/-- Messages sent to one neighbour for as long as one can go. -/
def State.pumpGo : Nat → State → Nat → Nat → State
  | 0, s, _, _ => s
  | fuel + 1, s, gid, j =>
    match tget s.groups gid with
    | none => s
    | some g =>
      match g.cur, g.nbr j with
      | some c, some n =>
        if c.fault.isSome then s
        else match g.nextOut c n with
          | none => s
          | some m =>
            match s.collBytes gid g c m.chunk m.what with
            | (s, none) => s
            | (s, some data) =>
              let enter := (g.enters.find? fun e => e.idx == j && e.seq == c.seq).elim 0 (·.addr)
              let raddr := if m.toResult then enter + (placeOf g c j m.chunk).getD 0 else n.remote + n.spent % g.slots * 2 ^ g.chunkLog
              let last := match m.what with
                | .bytes l => m.level = 0 || !exactType c.elem || c.red != 0 || bit (fld l 6 1) 0
                | _ => true
              let s := s.modNbr gid j fun n => { n with out := dropFirst m n.out, spent := if m.toResult then n.spent else n.spent + 1 }
              let s := if m.up then (if last then s.modCur gid fun c => { c with sentUp := (m.level, m.chunk) :: c.sentUp } else s)
                else s.modCur gid fun c => { c with sentDown := (j, m.chunk) :: c.sentDown }
              let s := s.sendColl gid { n with level := m.level } raddr c.seq c.sig (BitVec.ofNat 32 m.chunk) g.payload data
              State.pumpGo fuel s gid j
      | _, _ => s

def State.pump (s : State) (gid : Nat) : State :=
  match tget s.groups gid with
  | none => s
  | some g => g.nbrs.foldl (fun s n => State.pumpGo n.out.length s gid n.idx) s

/-! ### Accumulator files and folds (R250, R258, R260, R274) -/

/-- Fold units of a cluster that chunks hold. -/
def State.unitsHeld (s : State) (cl : Nat) : List Nat :=
  s.groups.flatMap fun e => e.2.cur.elim [] fun c => c.folds.flatMap fun f => if f.cluster = cl then f.units else []

/-- Fold units of a cluster that can take a chunk. -/
def State.unitsFree (s : State) (cl : Nat) : List Nat :=
  (List.range 4).filter fun u => !(s.unitsHeld cl).contains u && !((s.cluster cl).badFu.any fun b => b.1 == u)

/-- Whether a plan keeps a cluster: it runs on it and has not paused. -/
def State.planHolds (s : State) (cl : Nat) : Bool :=
  s.runs.any fun r => r.started && !r.paused && r.gang.contains cl && r.members.any fun m => !m.ended

/-- Whether partials of this collective travel as EPF records. -/
def Coll.exact (c : Coll) : Bool := c.red == 0 && exactType c.elem

/-- Several EPF records read, each applied to its element's accumulator; none where one is malformed. -/
def epfGo : Nat → List Byte → Nat → List Nat → Option (List Nat × List Byte)
  | 0, l, _, acc => some (acc, l)
  | fuel + 1, l, i, acc =>
    match epfRead l with
    | none => none
    | some (h, r) => if i < acc.length then epfGo fuel r (i + 1) (acc.set i (h (Acc.ofNat (acc.getD i 0))).toNat) else none

/-- One contribution folded into a fold: the fold, and whether the contribution was well formed. FP64 waits for its turn. -/
def Fold.take (c : Coll) (f : Fold) (elems : Nat) (x : Contrib) (l : List Byte) : Fold × Bool :=
  if c.exact then
    if f.level = 0 then
      let vals := (elemsOf c.es l).map (fun v => ((elemFmt c.elem).elim .nan fun t => t.decode v))
      ({ f with acc := (f.acc.zip vals).map (fun p => ((Acc.ofNat p.1).fold p.2).toNat), got := f.got ++ [x.pos] }, l.length == elems * c.es)
    else
      let first := fld l 0 4
      let n := fld l 4 2
      match epfGo n (l.drop 8) first f.acc with
      | none => (f, false)
      | some (acc, rest) =>
        if !rest.isEmpty ∨ bits (fld l 6 1) 7 1 ≠ 0 ∨ !zeroAt l 7 1 ∨ elems < first + n then (f, false)
        else
          let seen := tgetD f.part x.pos 0 + n
          ({ f with acc, part := tset f.part x.pos seen, got := if elems ≤ seen then addNew x.pos f.got else f.got }, true)
  else
    let vals := elemsOf c.es l
    ({ f with
      acc := if f.got.isEmpty then vals else (f.acc.zip vals).map (fun p => foldElem c.elem c.red p.1 p.2)
      got := f.got ++ [x.pos] }, l.length == elems * c.es)

/-- Whether an FP64 contribution must wait for those ahead of it (R274). -/
def Coll.ordered (c : Coll) : Bool := c.red == 0 && c.elem == 3

def State.setFold (s : State) (gid : Nat) (f : Fold) : State :=
  s.modCur gid fun c => { c with folds := updAll (fun x => x.level == f.level && x.chunk == f.chunk) (fun _ => { f with moved := s.tclk }) c.folds }

/-- A contribution folded where its chunk holds files: its slot is freed; a malformed one is a mismatch (R248, R277). -/
def State.foldIn : Nat → State → Nat → Nat → Nat → Contrib → State
  | 0, s, _, _, _, _ => s
  | fuel + 1, s, gid, level, chunk, x =>
    match tget s.groups gid with
    | none => s
    | some g =>
      match g.cur with
      | none => s
      | some c =>
        match c.folds.find? fun f => f.level == level && f.chunk == chunk with
        | none => s
        | some f =>
          if c.ordered && x.pos != f.got.length then s.setFold gid { f with wait := f.wait ++ [x] }
          else
            match s.collBytes gid g c chunk x.what with
            | (s, none) => s
            | (s, some l) =>
              let r := f.take c (chunkAt g c chunk).2.2 x l
              let s := match x.src with
                | some j => s.freeSlot gid j.1 j.2
                | none => s
              if !r.2 then s.reportUp gid c.seq 1 (x.src.elim g.me (·.1))
              else
                let s := s.setFold gid r.1
                match takeFirst (fun (y : Contrib) => c.ordered && y.pos == r.1.got.length) r.1.wait with
                | some (y, rest) => State.foldIn fuel (s.setFold gid { r.1 with wait := rest }) gid level chunk y
                | none => s

/-- The contributions that wait for a chunk's files folded, once it has them. -/
def State.foldWaiting (s : State) (gid level chunk : Nat) : State :=
  let l := ((tget s.groups gid).bind (·.cur)).elim [] fun c => c.contribs.filter fun x => x.level == level && x.chunk == chunk
  let s := s.modCur gid fun c => { c with contribs := c.contribs.filter fun x => !(x.level == level && x.chunk == chunk) }
  l.foldl (fun s x => State.foldIn (l.length + 2) s gid level chunk x) s

/-- A contribution given to its chunk: folded where the chunk holds files, kept until it does where not (R250). -/
def State.giveFold (s : State) (gid : Nat) (x : Contrib) : State :=
  match tget s.groups gid with
  | none => s
  | some g =>
    if (g.cur.any fun c => c.folds.any fun f => f.level == x.level && f.chunk == x.chunk) then
      State.foldIn (g.members.length + 2) s gid x.level x.chunk x
    else s.modCur gid fun c => { c with contribs := c.contribs ++ [x] }

/-- Files assigned at one level, in ascending chunk index, for as long as they can be. -/
def State.assignGo : Nat → State → Nat → Nat → State
  | 0, s, _, _ => s
  | fuel + 1, s, gid, k =>
    match tget s.groups gid with
    | none => s
    | some g =>
      match g.cur with
      | none => s
      | some c =>
        match (g.unassigned c k).head? with
        | none => s
        | some i =>
          let cl := g.nextCluster k
          let elems := (chunkAt g c i).2.2
          let units := (s.unitsFree cl).take (Nat.max 1 (ceilDiv elems 8192))
          if c.fault.isSome || !(c.contribs.any fun x => x.level == k && x.chunk == i) || s.planHolds cl || !s.clusterOpen cl ||
              decide (units.length < Nat.max 1 (ceilDiv elems 8192)) then s
          else
            let f : Fold := { level := k, chunk := i, cluster := cl, units, moved := s.tclk, acc := List.replicate elems 0 }
            let s := (s.rouse (cl / 8)).modCluster cl fun x => { x with service := true }
            let s := s.modGroup gid fun g => { g with rotation := tmodD g.rotation k 0 (· + 1) }
            let s := s.modCur gid fun c => { c with folds := c.folds ++ [f], assigned := (k, i) :: c.assigned }
            State.assignGo fuel (s.foldWaiting gid k i) gid k

/-- Files assigned and messages sent for as long as either goes on. -/
def State.advance (s : State) (gid : Nat) : State :=
  match tget s.groups gid with
  | none => s
  | some g =>
    let n := g.cur.elim 0 fun c => chunksOf g c
    ((List.range g.sizes.length).foldl (fun s k => State.assignGo (n + 1) s gid k) s).pump gid

/-- Every group advanced: after files, clusters or slots came free. -/
def State.advanceAll (s : State) : State := (s.groups.foldl (fun s e => s.advance e.1) s).endService

/-- EPF records packed into pieces of at most `room` bytes each: the pieces of a partial (R248). -/
def piecesGo : List (List Byte) → Nat → Nat → Nat → Nat → List Byte → List (Nat × Nat × List Byte)
  | [], _, first, n, _, acc => if n = 0 then [] else [(first, n, acc)]
  | r :: rest, room, first, n, used, acc =>
    if n ≠ 0 ∧ room < used + r.length then (first, n, acc) :: piecesGo rest room (first + n) 1 r.length r
    else piecesGo rest room first (n + 1) (used + r.length) (acc ++ r)

def pieces (records : List (List Byte)) (room : Nat) : List (List Byte) :=
  let l := piecesGo records room 0 0 0 []
  (List.range l.length).map fun t =>
    let p := l.getD t (0, 0, [])
    leBytes 4 p.1 ++ leBytes 2 p.2.1 ++ leBytes 1 (ofBool (t + 1 = l.length)) ++ leBytes 1 0 ++ p.2.2

/-- A fold unit slot to be retired, for the first cause found. -/
def State.failFu (s : State) (c u cause : Nat) : State :=
  s.modCluster c fun x => if x.badFu.any fun b => b.1 == u then x else { x with badFu := tset x.badFu u cause }

/-- An uncorrectable error in an accumulator file: reported to PF0, and the fold unit to be retired (R262, R333, R464). -/
def State.badAccs (s : State) (c u addr : Nat) : State :=
  ((s.record 0 (s.memRecord { source := 3, tier := 0, unit := c, position := u, addr } 0xFFFF 0 0)).event 3).failFu c u 2

/-- A fold that reads an uncorrectable codeword in the file of slot u: the member reports FAULT (R262, R331). The address in the record
is free, as for a scrub pass. -/
def State.foldBad (s : State) (gid level chunk u : Nat) : State :=
  match (tget s.groups gid).bind fun g => g.cur.bind fun c => c.folds.find? fun f => f.level == level && f.chunk == chunk with
  | none => s
  | some f =>
    if f.units.contains u then
      let (d, s) := s.draw
      (s.badAccs f.cluster u (Config.freeNat d)).collFault gid .memUncorrectable
    else s

/-- A fold with all its contributions: its partial sent up, or its rounded result placed and sent down, and its files freed (R250). -/
def State.foldDone (s : State) (gid level chunk : Nat) : State :=
  match tget s.groups gid with
  | none => s
  | some g =>
    match g.cur with
    | none => s
    | some c =>
      match c.folds.find? fun f => f.level == level && f.chunk == chunk with
      | none => s
      | some f =>
        if c.fault.isSome ∨ f.got.length < g.sizes.getD level 1 then s
        else
          let s := s.trace (f.cluster / 8) 0x04 f.cluster c.job.layer c.job.oper g.f
            (leBytes 2 gid ++ leBytes 1 level ++ leBytes 1 0 ++ leBytes 4 c.seq.toNat ++ leBytes 4 chunk ++ leBytes 4 f.got.length)
          let s := (s.modCur gid fun c => { c with folds := c.folds.filter fun x => !(x.level == level && x.chunk == chunk) }).keepAccs f
          let s :=
            if level + 1 = g.sizes.length then
              let vals := if c.exact then f.acc.map fun a => ((elemFmt c.elem).elim 0 fun t => (Acc.ofNat a).round t) else f.acc
              let l := elemBytes c.es vals
              let s := match placeOf g c g.me chunk with
                | some off =>
                  match s.collStore gid g c off l with
                  | (s, true) => s.collPlaced gid
                  | (s, false) => s
                | none => s
              s.handOn gid g c chunk g.sizes.length (.bytes l)
            else
              let j := ownerFrom g.sizes g.me chunk (level + 1)
              let records := f.acc.map fun a => (Acc.ofNat a).epf
              if j = g.me then
                let l := if c.exact then (pieces records (sum (records.map (·.length)))).headD [] else elemBytes c.es f.acc
                s.giveFold gid { level := level + 1, chunk, pos := posOf g.sizes g.me (level + 1), what := .bytes l }
              else
                let parts := if c.exact then pieces records (2 ^ g.chunkLog - 8) else [elemBytes c.es f.acc]
                parts.foldl (fun s l => s.outMsg gid j { level := level + 1, chunk, what := .bytes l, up := true }) s
          s.advanceAll

end Sys2Proof.Machine
end

