-- ==== Sys2Proof/Machine/Initiator.lean ====
section
/-! DEFINITION. Dispatch of the operations of Table 4.1 (R123–R135, R148, R518), and what an initiator does with acknowledgements, responses
and its retransmission timer (R172, R178–R183). -/

namespace Sys2Proof.Machine

/-! ### Dispatch (R135) -/

/-- The next job of an SQ, where it has an opcode and a place in flight is free for it. A triggered job in the dispatch buffer waits
there for a place in the trigger table (R140). -/
def State.nextJob (s : State) (f q op : Nat) : Option Job :=
  if !s.live || !s.serving f || !s.placeFree f || q == 0 then none
  else match s.sq f q with
    | none => none
    | some x => x.fetched.head?.filter fun j => j.opcode == op && !j.trig && !s.jobHeld j

/-- The next job of an SQ dispatched: RESET_SIGNAL is applied, and it runs. -/
def State.dispatch (s : State) (f q op : Nat) (run : State → Job → State) : State :=
  match s.nextJob f q op with
  | none => s
  | some j =>
    let t := (s.modSq f q fun x => { x with fetched := x.fetched.drop 1, moved := s.tclk }).resetSignal j
    if s.jobFenced j then t.failJob j .devFenced else run (t.rouseJob j) j

/-- An operation put in flight; answers its number. -/
def State.addOp (s : State) (o : Op) : State × Nat :=
  ({ s with ops := s.ops ++ [{ o with id := s.nextOp }], nextOp := s.nextOp + 1 }, s.nextOp)

/-! ### The checks of R518 -/

/-- The handle of an import segment (R72). -/
def Segment.handle (g : Segment) : Nat :=
  let k := g.key.toNat
  g.rindex + 16 * g.rgen +
    256 * Nat.xor (Nat.xor (k % 256) (k / 256 % 256)) (Nat.xor (k / 65536 % 256) (k / 16777216 % 256))

/-- What the checks of R518 have translated. -/
structure Checked where
  near : Option Trans
  far  : Trans
  flag : Option Trans

/-- The device address that a flag locator names (R148). -/
def flagDevice (loc : Nat) : Nat := loc % 16 * 2 ^ 60 + loc / 16 * 8

/-- Step 1 of R518: the local address, the remote address, the flag. An empty range has no local address to translate. -/
def State.checkAddresses (s : State) (j : Job) (nearLen : Nat) (nearRight : Right) (farLen : Nat) (farRight : Right) (flag : Bool) :
    Except Status Checked :=
  let near : Except Status (Option Trans) := if nearLen = 0 then .ok none
    else match s.translateLocal j.f j.ctx j.near nearLen nearRight with
      | .ok t => .ok (some t)
      | .error e => .error e
  match near with
  | .error e => .error e
  | .ok near =>
    match s.translate j.f j.ctx j.far farLen farRight (farLen == 0) with
    | .error e => .error e
    | .ok far =>
      if flag then
        match s.translate j.f j.ctx (flagDevice (fld j.head 56 4)) 8 .write with
        | .ok t => .ok { near, far, flag := some t }
        | .error e => .error e
      else .ok { near, far, flag := none }

/-- Whether a translated address of this node lies in a range of an unreachable peer (R157). -/
def State.cutOff (s : State) (f : Nat) (t : Trans) (n : Nat) : Bool := nodeOf t.addr == s.node && s.unreachable f (localOf t.addr) n

/-- The function through whose host window a job's far end on this node reaches memory: that of the QP at the far end. -/
def State.farFn (s : State) (j : Job) : Nat :=
  let e := (tget s.qps j.qpn).bind fun x => tget x.ends s.node
  ((e.bind fun e => tget s.qps e.remoteQp).map (·.f)).getD j.f

/-- Step 4 of R518. A job left behind by a QP that is gone finds none (R189). -/
def State.checkQp (s : State) (j : Job) (node : Nat) : Except Status Qp :=
  match tget s.qps j.qpn with
  | none => .error .xportQpError
  | some x =>
    if j.orphan ∨ x.ctx ≠ j.ctx ∨ x.group.isSome then .error .xportQpError
    else match tget x.ends (if x.omnibus then node else x.node) with
      | none => .error (if x.omnibus then .xportNoPeer else .xportQpIdle)
      | some e => match e.state with
        | .idle => .error .xportQpIdle
        | .error => .error .xportQpError
        | .ready => .ok x

/-- Steps 4 to 6 of R518; `packets` are the request packets that the operation sends. -/
def State.checkEnd (s : State) (j : Job) (c : Checked) (packets : Nat → Nat) : Except Status Qp :=
  let node := nodeOf c.far.addr
  match s.checkQp j node with
  | .error e => .error e
  | .ok x =>
    if c.flag.any fun t => nodeOf t.addr != node || !t.seg.imported then .error .locDest
    else if !x.omnibus && node != x.node then .error .locDest
    else if x.encrypted && decide (2 ^ 30 < j.len) then .error .secLen
    else if s.seals x node && decide (keyLimit < (s.keySlot x.slot).n + packets x.payload) then .error .secKeyExhausted
    else .ok x

/-- The operation of a job that has passed the checks. -/
def Checked.op (c : Checked) (j : Job) (kind : OpKind) : Op :=
  { id := 0, job := j, kind, qp := j.qpn, node := nodeOf c.far.addr, near := c.near.elim 0 fun t => localOf t.addr,
    seg := c.near.elim 16 fun t => t.via.seg, far := c.far.addr, handle := c.far.seg.handle, flag := c.flag.elim 0 (·.addr),
    flagHandle := c.flag.elim 0 fun t => t.seg.handle,
    refs := c.near.toList.map (·.ref) ++ [c.far.ref] ++ c.flag.toList.map (·.ref) }

/-- The operation put in flight and its messages queued. -/
def State.startOp (s : State) (o : Op) (kind : MsgKind) (packets : Nat) : State × Nat :=
  let (s, id) := s.addOp o
  let r := s.enqueue o.qp o.node id kind packets
  (r.1.modOp id fun o => { o with msg0 := r.2.1, msgs := r.2.2 }, id)

/-- Packets that carry n bytes: one at least (R127, R161). -/
def packetsFor (n payload : Nat) : Nat := Nat.max 1 (ceilDiv n (Nat.max 1 payload))

/-! ### PUT, PUT_FINAL, GET, ATOMIC, FOLD_PUT (R126–R132, R148) -/

/-- A PUT or PUT_FINAL runs. -/
def State.runPut (s : State) (j : Job) (final : Bool) : State :=
  match s.checkAddresses j (if j.inline then 0 else j.len) .read j.len .write final with
  | .error e => s.failJob j e
  | .ok c =>
    let at_ := c.far.addr
    if c.near.any (fun t => s.cutOff j.f t j.len) || s.cutOff (s.farFn j) c.far j.len || c.flag.any (fun t => s.cutOff (s.farFn j) t 8) then
      s.failJob j .locPeerUnreachable
    else if c.flag.any (fun t => overlaps t.addr 8 at_ j.len) then s.failJob j .locLen
    else match s.checkEnd j c (packetsFor j.len) with
      | .error e => s.failJob j e
      | .ok x =>
        let n := packetsFor j.len x.payload
        (s.startOp (c.op j (.push n 0 (ofBool final))) .write n).1

/-- A GET runs. -/
def State.runGet (s : State) (j : Job) : State :=
  match s.checkAddresses j j.len .write j.len .read false with
  | .error e => s.failJob j e
  | .ok c =>
    if c.near.any (fun t => s.cutOff j.f t j.len) || s.cutOff (s.farFn j) c.far j.len then s.failJob j .locPeerUnreachable
    else match s.checkEnd j c (fun p => packetsFor (ceilDiv j.len (Nat.max 1 p)) 64) with
      | .error e => s.failJob j e
      | .ok x =>
        let n := ceilDiv j.len (Nat.max 1 x.payload)
        (s.startOp (c.op j (.get n 0)) .readReq n).1

/-- An ATOMIC runs. Where it fetches nothing there is no local address to translate. The right that the fetch destination needs is not in
Table 2.3; the model asks for the write right (notes/assumptions/80.md). -/
def State.runAtomic (s : State) (j : Job) : State :=
  let w := atomicWidth (fld j.head 40 1)
  match s.checkAddresses j (if j.near = 0 then 0 else w) .write j.len .atomic false with
  | .error e => s.failJob j e
  | .ok c =>
    if c.near.any (fun t => s.cutOff j.f t w) || s.cutOff (s.farFn j) c.far j.len then s.failJob j .locPeerUnreachable
    else if j.len ≠ w ∨ c.far.addr % w ≠ 0 ∨ (c.near.any fun t => t.addr % w != 0) then s.failJob j .locLen
    else match s.checkEnd j c (fun _ => 1) with
      | .error e => s.failJob j e
      | .ok _ => (s.startOp (c.op j .atomic) .atomic 1).1

/-- The bytes at the target of n source bytes: 40 for each element under SUM_LONG (R279). -/
def foldSpan (mod n : Nat) : Nat := if bits mod 6 4 = 6 then n / Nat.max 1 (elemSize (mod % 16)) * 40 else n

/-- A FOLD_PUT runs. -/
def State.runFold (s : State) (j : Job) : State :=
  let mod := fld j.head 40 1
  let span := foldSpan mod j.len
  match s.checkAddresses j j.len .read span .fold false with
  | .error e => s.failJob j e
  | .ok c =>
    if c.near.any (fun t => s.cutOff j.f t j.len) || s.cutOff (s.farFn j) c.far span then s.failJob j .locPeerUnreachable
    else if j.len % Nat.max 1 (elemSize (mod % 16)) ≠ 0 ∨ (bits mod 6 4 = 6 ∧ c.far.addr % 8 ≠ 0) then s.failJob j .locLen
    else match s.checkEnd j c (packetsFor j.len) with
      | .error e => s.failJob j e
      | .ok x =>
        let n := packetsFor j.len x.payload
        let r := s.startOp (c.op j (.push n 0 0)) .fold n
        r.1.modOp r.2 fun o => { o with kind := .push n 0 o.msgs }

/-! ### SEND and RECV (R133, R352, R353) -/

/-- EtherType after any tag, and where the payload begins. -/
def etherType (l : List Byte) : Nat × Nat := if beNat (slice l 12 2) = 0x8100 then (beNat (slice l 16 2), 18) else (beNat (slice l 12 2), 14)

/-- Whether a frame carries IPv6 UDP to a destination port. -/
def udp6To (l : List Byte) (port : Nat) : Bool :=
  let e := etherType l
  e.1 == 0x86DD && fld l (e.2 + 6) 1 == 17 && decide (e.2 + 44 ≤ l.length) && beNat (slice l (e.2 + 42) 2) == port

/-- The sub-port of a port whose address is the source address of a frame. -/
def State.subOf (s : State) (p : Nat) (l : List Byte) : Option Nat :=
  (List.range (s.subCount p)).find? fun i => s.macAddr p i == beNat (slice l 6 6)

/-- Whether a SEND is refused (R352). -/
def State.sendRefused (s : State) (f p : Nat) (l : List Byte) : Bool :=
  let t := (etherType l).1
  decide (t = 0x88B5 ∨ t = 0x8808 ∨ t = 0x88CC) || (s.portSwitched p && udp6To l (s.udpPort p)) ||
    (s.macCfgBit p 7 && f != 0 && (s.subOf p l).isNone)

/-- A SEND runs: its frame joins the class queue of raw frames of its sub-port. -/
def State.runSend (s : State) (j : Job) : State :=
  let p := fld j.head 40 1 % 16
  let near : Except Status (Option Trans) := if j.inline ∨ j.len = 0 then .ok none
    else match s.translateLocal j.f j.ctx j.near j.len .read with
      | .ok t => .ok (some t)
      | .error e => .error e
  match near with
  | .error e => s.failJob j e
  | .ok near =>
    if near.any fun t => s.cutOff j.f t j.len then s.failJob j .locPeerUnreachable
    else if j.len < 14 ∨ 9212 < j.len then s.failJob j .locLen
    else
      let got := match near with
        | none => (s, j.payload, none)
        | some t => s.readVia t.via (localOf t.addr) j.len
      match got with
      | (s, _, some e) => (s.endedBy e j.f j.layer j.oper).failJob j .memUncorrectable
      | (s, l, none) =>
        let sub := (s.subOf p l).getD 0
        if s.sendRefused j.f p l || !((s.port p).parked || (s.sub p sub).up) then s.failJob j .locRawRefused
        else
          let (s, id) := s.addOp { id := 0, job := j, kind := .send, near := near.elim 0 fun t => localOf t.addr,
                                   seg := near.elim 16 fun t => t.via.seg, refs := near.toList.map (·.ref), bytes := j.len }
          let fr : TxFrame := { cls := s.rawTc p, kind := .raw id, bytes := l ++ List.replicate (60 - l.length) 0 }
          (s.wakePort p).modSub p sub fun x => { x with queue := x.queue ++ [{ fr with at_ := s.tclk }] }

/-- A RECV runs: its buffer is posted. One of fewer than 64 bytes, for which no rule gives a status, ends with LOC_LEN, after its translation
(notes/assumptions/80.md). -/
def State.runRecv (s : State) (j : Job) : State :=
  match s.translateLocal j.f j.ctx j.near j.len .write with
  | .error e => s.failJob j e
  | .ok t =>
    if s.cutOff j.f t j.len then s.failJob j .locPeerUnreachable
    else if j.len < 64 then s.failJob j .locLen
    else
      let (s, id) := s.addOp { id := 0, job := j, kind := .recv (localOf t.addr) j.len, near := localOf t.addr, seg := t.via.seg, refs := [t.ref] }
      s.modSq j.f j.q fun x => { x with recvs := x.recvs ++ [id] }

/-- A NOP runs. -/
def State.runNop (s : State) (j : Job) : State := s.endJob none j {} [] 0

/-- NOP (R123). -/
def execNop (f q : Nat) (s : State) : Host.Outcome State Fault Refusal :=
  if fnOk f && decide (q ≤ 65535) then .next (s.dispatch f q 0 fun s j => s.runNop j) else .next s

/-- PUT (R123). -/
def execPut (f q : Nat) (s : State) : Host.Outcome State Fault Refusal :=
  if fnOk f && decide (q ≤ 65535) then .next (s.dispatch f q 1 fun s j => s.runPut j false) else .next s

/-- GET (R170). -/
def execGet (f q : Nat) (s : State) : Host.Outcome State Fault Refusal :=
  if fnOk f && decide (q ≤ 65535) then .next (s.dispatch f q 2 fun s j => s.runGet j) else .next s

/-- PUT_FINAL (R148). -/
def execPutFinal (f q : Nat) (s : State) : Host.Outcome State Fault Refusal :=
  if fnOk f && decide (q ≤ 65535) then .next (s.dispatch f q 3 fun s j => s.runPut j true) else .next s

/-- ATOMIC (R130). -/
def execAtomic (f q : Nat) (s : State) : Host.Outcome State Fault Refusal :=
  if fnOk f && decide (q ≤ 65535) then .next (s.dispatch f q 4 fun s j => s.runAtomic j) else .next s

/-- FOLD_PUT (R132). -/
def execFoldPut (f q : Nat) (s : State) : Host.Outcome State Fault Refusal :=
  if fnOk f && decide (q ≤ 65535) then .next (s.dispatch f q 5 fun s j => s.runFold j) else .next s

/-- SEND (R133). -/
def execSend (f q : Nat) (s : State) : Host.Outcome State Fault Refusal :=
  if fnOk f && decide (q ≤ 65535) then .next (s.dispatch f q 6 fun s j => s.runSend j) else .next s

/-- RECV (R133). -/
def execRecv (f q : Nat) (s : State) : Host.Outcome State Fault Refusal :=
  if fnOk f && decide (q ≤ 65535) then .next (s.dispatch f q 7 fun s j => s.runRecv j) else .next s

/-! ### Acknowledgements (R178, R180–R182) -/

/-- Whether an ACK with an ePSN and a bitmap covers a PSN. -/
def covers32 (epsn : W32) (bm : BitVec 512) (n : W32) : Bool :=
  decide (2 ^ 31 ≤ gap32 n epsn) || (decide (gap32 n epsn < 512) && bm.getLsbD (gap32 n epsn))

/-- Accepted PSNs that an ACK shows after a PSN. -/
def laterAccepted (epsn : W32) (bm : BitVec 512) (n : W32) : Nat := if gap32 n epsn < 512 then popCount 512 (bm.toNat / 2 ^ (gap32 n epsn + 1)) else 0

/-- The runs of missing responses that a READ_REQ is sent again for: at most eight (R182). -/
def runsGo : List Nat → List (Nat × Nat) → List (Nat × Nat)
  | [], acc => acc.reverse
  | i :: r, (a, n) :: acc => if a + n = i then runsGo r ((a, n + 1) :: acc) else runsGo r ((i, 1) :: (a, n) :: acc)
  | i :: r, [] => runsGo r [(i, 1)]

def Outstanding.runs (o : Outstanding) : List (Nat × Nat) :=
  let l := runsGo o.missing []
  if l.isEmpty then [(o.first, o.n)]
  else if l.length ≤ 8 then l
  else l.take 7 ++ [((l.getD 7 (0, 0)).1, o.first + o.n - (l.getD 7 (0, 0)).1)]

/-- An entry to be sent again, unless it already waits to be. -/
def Outstanding.redo (o : Outstanding) : Outstanding := if o.again.isEmpty then { o with again := o.runs } else o

/-- The operation of a message of an end (R169). -/
def State.opOfMsg (s : State) (q n msg : Nat) : Option Op :=
  (s.busyOn q n).find? fun o => decide ((msg + 65536 - o.msg0) % 65536 < o.msgs)

/-- A status of a packet's status byte. -/
def statusOf (code : Nat) : Status :=
  match code with
  | 0x21 => .remAccess
  | 0x22 => .remSegWithdrawn
  | 0x61 => .memUncorrectable
  | _ => .remAccess

/-- A packet of an operation newly covered: a PUT ends with its last, and a GET of length 0 with its request. -/
def State.packetAcked (s : State) (id : Nat) : State :=
  match s.op id with
  | none => s
  | some o =>
    match o.kind with
    | .push total acked awaits =>
      let s := s.modOp id fun o => { o with kind := .push total (acked + 1) awaits }
      if awaits = 0 ∧ o.job.opcode = 1 ∧ acked + 1 = total then s.endQpOp id {} else s
    | .get 0 _ => s.endQpOp id {}
    | _ => s

/-- A message of an operation reported COMPLETE (R151). -/
def State.messageDone (s : State) (id : Nat) : State :=
  match s.op id with
  | none => s
  | some o =>
    match o.kind with
    | .push total acked awaits =>
      let s := s.modOp id fun o => { o with kind := .push total acked (awaits - 1) }
      if awaits = 1 then s.endQpOp id {} else s
    | _ => s

/-- What an ACK covers for the first time. -/
def Inbound.fresh (i : Inbound) : List Outstanding :=
  i.e.out.filter fun o => !o.acked && covers32 i.pkt.psn (BitVec.ofNat 512 (fld i.pkt.body 16 64)) o.psn

/-- The end after an ACK: the round trip that a first cover gives, what the ePSN and the bitmap cover, the timer and the retries where the ePSN is
further on, and what is lost early. Of the bytes acknowledged a READ_REQ counts none: its READ_RESPs count theirs (notes/assumptions/15.md). -/
def State.ackEnd (s : State) (i : Inbound) : Endpoint :=
  let p := i.pkt
  let bm := BitVec.ofNat 512 (fld p.body 16 64)
  let ahead := gap32 p.psn i.e.peerEpsn < 2 ^ 31
  let n := sum ((i.fresh.filter fun o => o.pkt.ty != 2).map (·.bytes))
  let e1 := if i.fresh.isEmpty then i.e else s.sample i.x i.e (gap32 (BitVec.ofNat 32 s.time) (BitVec.ofNat 32 (fld p.body 0 4)) * 8) n
  let e2 : Endpoint := { e1 with out := updAll (fun o => covers32 p.psn bm o.psn) (fun o => { o with acked := true }) e1.out }
  let e3 : Endpoint := if ahead then { e2 with peerEpsn := p.psn, peerSack := bm } else e2
  let e4 : Endpoint := if ahead ∧ p.psn ≠ i.e.peerEpsn then { e3 with retries := 0, timer := some (s.tclk + rtoBase i.x e3) } else e3
  let early := fun (o : Outstanding) => !o.acked && decide (8 ≤ laterAccepted p.psn bm o.psn) && decide (e4.srtt ≤ (s.tclk - o.sentAt) * 8)
  ({ e4 with out := updAll early Outstanding.redo e4.out, moved := if i.fresh.isEmpty then e4.moved else s.tclk } : Endpoint).settle

/-- An ACK taken: the end it leaves, the operation that it names, those whose packets it covers. -/
def State.ackIn (s : State) (i : Inbound) : State :=
  let kind := fld i.pkt.body 4 1
  let s := s.modEnd i.q i.n fun _ => s.ackEnd i
  let named := if kind % 4 = 0 then none else s.opOfMsg i.q i.n i.pkt.msg
  let s := match named with
    | some o => if bit kind 1 then s.endQpOp o.id { status := statusOf (fld i.pkt.body 5 1), detail := fld i.pkt.body 6 1 } else s
    | none => s
  let s := i.fresh.foldl (fun s o => s.packetAcked o.op) s
  match named with
  | some o => if bit kind 1 then s else s.messageDone o.id
  | none => s

/-- The first arrived packet that satisfies a test, taken through the checks of arrival. -/
def State.takePacket (s : State) (test : Packet → Bool) (act : State → Inbound → State) : State :=
  if !s.live then s
  else match s.takeArrived test with
    | none => s
    | some (a, s) =>
      match s.arrive a with
      | (s, some i) => act s i
      | (s, none) => s

/-- ACK (R182). -/
def execAck (s : State) : Host.Outcome State Fault Refusal := .next (s.takePacket (fun p => p.ty == 0x10) fun s i => s.ackIn i)

/-! ### Responses (R172) -/

/-- Bytes of a response placed at the initiator; none, and the operation ended, where the write fails (R330). -/
def State.placeNear (s : State) (o : Op) (a : Nat) (l : List Byte) : State × Bool :=
  if l.isEmpty then (s, true)
  else match s.writeVia { f := o.job.f, ctx := o.job.ctx, seg := o.seg } (localOf a) l with
    | (s, none) => (s.opWrote o.id (s.pathOf o.job.f (localOf a)) l.length, true)
    | (s, some e) => ((s.endedBy e o.job.f o.job.layer o.job.oper).endQpOp o.id { status := .memUncorrectable }, false)

def State.modOut (s : State) (q n : Nat) (psn : W32) (g : Outstanding → Outstanding) : State :=
  s.modEnd q n fun e => { e with out := updAll (fun o => o.psn == psn) g e.out }

/-- A READ_RESP taken at the initiator. -/
def State.readRespIn (s : State) (i : Inbound) : State :=
  let p := i.pkt
  match i.e.out.find? fun o => o.psn == p.psn && o.pkt.ty == 2 with
  | none => s.discard i.port 0x50
  | some e =>
    let init := fld e.pkt.body 0 8
    let len := fld e.pkt.body 8 4
    let want := Nat.min i.x.payload (len - p.idx * i.x.payload)
    if p.idx < e.first ∨ e.first + e.n ≤ p.idx ∨ p.raddr ≠ (init + p.idx * i.x.payload) % 2 ^ 64 ∨ p.plen ≠ want then s.discard i.port 0x50
    else if e.placed.contains p.idx then s
    else match s.op e.op with
      | none => s
      | some o =>
        match s.placeNear o p.raddr p.payload with
        | (s, false) => s
        | (s, true) =>
          let s := s.countFn o.job.f 1 p.plen
          let s := s.modOut i.q i.n p.psn fun x => { x with placed := p.idx :: x.placed, sampled := true }
          let s := if e.sampled then s else s.modEnd i.q i.n fun y => s.sample i.x y ((s.tclk - e.sentAt) * 8) p.plen
          let s := s.modEnd i.q i.n Endpoint.settle
          match o.kind with
          | .get total placed =>
            let s := s.modOp o.id fun x => { x with kind := .get total (placed + 1) }
            if placed + 1 = total then s.endQpOp o.id {} else s
          | _ => s

/-! ### Dispatch channels (R142, R145; notes/assumptions/81.md) -/

/-- The MEs of a cluster. -/
def mesOf (cl : Nat) : List Nat := [cl * 2, cl * 2 + 1]

/-- Whether an ME of a cluster has nothing to run: a gather or a scatter is then carried out at once, within one command. -/
def State.meFree (s : State) (cl : Nat) : Bool :=
  (mesOf cl).any fun u => (tgetD s.mes u {}).running.isNone && (tgetD s.mes u {}).ready.isEmpty

/-- Whether a dispatch channel of a cluster's MEs gathers for an operation now. -/
def State.meServes (s : State) (cl id : Nat) : Bool :=
  (mesOf cl).any fun u => (tgetD s.mes u {}).running.any fun r => r.serves == some id && r.pkt.isNone

/-- A run of a dispatch channel ready behind the others, at the ME that has fewer. -/
def State.serveLater (s : State) (cl id : Nat) (pkt : Option (Nat × Nat × Arrival)) : State :=
  let load := fun (u : Nat) => let m := tgetD s.mes u {}; m.ready.length + ofBool m.running.isSome
  let u := if load (cl * 2 + 1) < load (cl * 2) then cl * 2 + 1 else cl * 2
  let s := s.rouse (cl / 8)
  { s with mes := tmodD s.mes u {} fun m => { m with ready := m.ready ++ [{ chan := u * 16 + id % 4, k := 1, serves := some id, pkt }] } }

/-- The gather of an operation's next packet, where it cannot go now: the state in which its run is ready. -/
def State.gatherWaits (s : State) (cl id : Nat) : Option State :=
  if s.meFree cl || s.meServes cl id then none
  else if (mesOf cl).any fun u => (tgetD s.mes u {}).ready.any fun r => r.serves == some id && r.pkt.isNone then some s
  else some (s.serveLater cl id none)

/-- A response taken: scattered at once, or by a run of a dispatch channel. Either way it is consumed without waiting (R220). -/
def State.scatter (s : State) (i : Inbound) (act : State → Inbound → State) : State :=
  if i.pkt.plen = 0 ∨ s.meFree i.x.home then act s i
  else match i.e.out.find? fun o => o.psn == i.pkt.psn with
    | none => act s i
    | some o => s.serveLater i.x.home o.op (some (i.q, i.n, { port := i.port, pkt := i.pkt }))

/-- READ_RESP (R172). -/
def execReadResp (s : State) : Host.Outcome State Fault Refusal :=
  .next (s.takePacket (fun p => p.ty == 0x11) fun s i => s.scatter i State.readRespIn)

/-- An ATOMIC_RESP taken at the initiator. -/
def State.atomicRespIn (s : State) (i : Inbound) : State :=
  let p := i.pkt
  match i.e.out.find? fun o => o.psn == p.psn && o.pkt.ty == 3 && o.answer with
  | none => s.discard i.port 0x50
  | some e =>
    let fetch := fld e.pkt.body 24 8
    let want := if fetch = 0 then 0 else atomicWidth (fld e.pkt.body 0 1)
    if p.idx ≠ 0 ∨ p.raddr ≠ fetch ∨ p.plen ≠ want then s.discard i.port 0x50
    else match s.op e.op with
      | none => s
      | some o =>
        match s.placeNear o p.raddr p.payload with
        | (s, false) => s
        | (s, true) =>
          let s := (s.modOut i.q i.n p.psn fun x => { x with answer := false }).modEnd i.q i.n Endpoint.settle
          s.endQpOp o.id {}

/-- ATOMIC_RESP (R172). -/
def execAtomicResp (s : State) : Host.Outcome State Fault Refusal :=
  .next (s.takePacket (fun p => p.ty == 0x12) fun s i => s.scatter i State.atomicRespIn)

/-! ### The retransmission timer (R182) -/

/-- What an expiry sends again: the oldest, what the latest bitmap shows missing below its highest bit, every READ_REQ whose responses are
incomplete, and every ATOMIC_REQ that an ACK has covered and no ATOMIC_RESP answered. -/
def Endpoint.redoAll (e : Endpoint) : Endpoint :=
  let oldest := (e.out.head?).map (·.psn)
  let top := maxOf (bitsSet 512 e.peerSack.toNat)
  let lost := fun (o : Outstanding) => !o.acked && decide (gap32 o.psn e.peerEpsn < top)
  let due := fun (o : Outstanding) => some o.psn == oldest || lost o || !o.missing.isEmpty || (o.acked && o.answer)
  { e with out := updAll due Outstanding.redo e.out }

/-- An acknowledgement or a response acted on at the initiator, by its type. -/
def State.responseIn (s : State) (i : Inbound) : State :=
  match i.pkt.ty with
  | 0x10 => s.ackIn i
  | 0x11 => s.scatter i State.readRespIn
  | _ => s.scatter i State.atomicRespIn

/-- A response that a run of a dispatch channel carries, placed. -/
def State.scatterNow (s : State) (q n : Nat) (a : Arrival) : State :=
  match tget s.qps q, s.endpoint q n with
  | some x, some e =>
    let i : Inbound := { q, x, n, e, port := a.port, pkt := a.pkt }
    if a.pkt.ty = 0x11 then s.readRespIn i else s.atomicRespIn i
  | _, _ => s

/-- The acknowledgements and responses of an end that have arrived act before its timer is compared (R183). -/
def State.latchResponses : Nat → State → Nat → Nat → State
  | 0, s, _, _ => s
  | fuel + 1, s, q, n =>
    let mine := fun (p : Packet) => p.qp == q && decide (0x10 ≤ p.ty ∧ p.ty ≤ 0x12) && (tget s.qps q).any fun x => x.peer p == n
    if s.arrived.any fun a => mine a.pkt then State.latchResponses fuel (s.takePacket mine fun s i => s.responseIn i) q n else s

/-- The retransmission timer of an end expires. -/
def State.expire (s : State) (q n : Nat) : State :=
  let s := State.latchResponses s.arrived.length s q n
  match tget s.qps q, s.endpoint q n with
  | some x, some e =>
    match e.timer with
    | none => s
    | some t =>
      if s.tclk < t ∨ e.state ≠ .ready ∨ e.out.isEmpty then s
      else if x.retry ≤ e.retries then s.qpError q n .xportRetryExceeded
      else
        let e := s.shrink x { e.redoAll with retries := e.retries + 1 }
        s.modEnd q n fun _ => { e with timer := some (s.tclk + rtoNow x e) }
  | _, _ => s

/-- RETRANSMIT_TIMEOUT (R182). -/
def execRetransmitTimeout (qp node : Nat) (s : State) : Host.Outcome State Fault Refusal :=
  if decide (qp < 16777216) && decide (node ≤ 65535) then .next (if s.live then s.expire qp node else s)
  else .next s

end Sys2Proof.Machine
end

