-- ==== Sys2Proof/Machine/Target.lean ====
section
/-! DEFINITION. What a target does with WRITE, READ_REQ, ATOMIC_REQ and FOLD packets (R73–R76, R131, R148–R150, R171, R278, R279), and the
building of packet copies by the TEs (R169–R171, R178–R182, R200, R407). -/

namespace Sys2Proof.Machine

/-! ### The remote check (R73) -/

/-- Checks 1 to 6 of R73 for n bytes at a fabric address: the reference taken, or the status and check code. -/
def State.remoteCheck (s : State) (c handle addr n : Nat) (r : Right) : Except (Status × Nat) Ref :=
  let i := handle % 16
  let g := s.segment c i
  let k := g.key.toNat
  let tag := Nat.xor (Nat.xor (k % 256) (k / 256 % 256)) (Nat.xor (k / 65536 % 256) (k / 16777216 % 256))
  let a := localOf addr
  let b := localOf g.base
  if 0xF00000000000 ≤ a + (n - 1) then .error (.remAccess, 6)
  else if g.state = .free ∨ !g.exported then .error (.remAccess, 1)
  else if handle / 16 % 16 ≠ s.segGen c i then .error (.remSegWithdrawn, 2)
  else if handle / 256 % 256 ≠ tag then .error (.remAccess, 3)
  else if !g.has r then .error (.remAccess, 4)
  else if n ≠ 0 ∧ (a < b ∨ b + g.limit < a + n - 1) then .error (.remAccess, 5)
  else .ok { ctx := c, seg := i, gen := s.segGen c i }

/-- The record of a refused access (Table 2.5). -/
def State.accessRecord (s : State) (i : Inbound) (st : Status) (check handle : Nat) : List Byte :=
  leBytes 1 0x21 ++ leBytes 1 1 ++ leBytes 1 st.code ++ leBytes 1 check ++ leBytes 2 i.pkt.src ++ leBytes 1 0 ++ leBytes 1 i.pkt.ty ++
  leBytes 3 i.q ++ leBytes 1 0 ++ leBytes 2 handle ++ leBytes 2 i.x.ctx ++ leBytes 8 i.pkt.raddr ++ leBytes 2 i.pkt.layer ++
  leBytes 2 i.pkt.oper ++ leBytes 4 s.time

/-- The record written, and the device event that check codes 1 and 6 also cause (R75). -/
def State.noteRefusal (s : State) (i : Inbound) (st : Status) (check handle : Nat) : State :=
  let l := s.accessRecord i st check handle
  let s := s.record i.x.f l
  if check = 1 ∨ check = 6 then (if i.x.f = 0 then s else s.record 0 l).interrupt 0 3 else s

/-! ### Messages being received (R150) -/

/-- The PSN of packet 0 of a packet's message: the packets of a message have consecutive PSNs (R169). -/
def Packet.base (p : Packet) : W32 := p.psn - BitVec.ofNat 32 p.idx

/-- What is known of a message. A record that another message with the same ID has left is passed over, and dropped with the first packet of the
new one (notes/assumptions/15.md). -/
def Endpoint.rxOf (e : Endpoint) (m : Nat) (base : W32) : RxMsg := (e.rx.find? fun r => r.msg == m && r.base == base).getD { msg := m, base }

def State.rxOf (s : State) (i : Inbound) : RxMsg :=
  (s.endpoint i.q i.n).elim { msg := i.pkt.msg, base := i.pkt.base } fun e => e.rxOf i.pkt.msg i.pkt.base

def State.setRx (s : State) (i : Inbound) (r : RxMsg) : State :=
  s.modEnd i.q i.n fun e => { e with rx := (e.rx.filter fun x => x.msg != r.msg) ++ [r] }

def State.dropRx (s : State) (i : Inbound) : State := s.modEnd i.q i.n fun e => { e with rx := e.rx.filter fun x => x.msg != i.pkt.msg }

/-- A packet of a message noted, with the index of LAST where it carries LAST. -/
def State.noteRx (s : State) (i : Inbound) : State :=
  let r := s.rxOf i
  s.setRx i { r with seen := addNew i.pkt.idx r.seen, lastIdx := if i.pkt.last then some i.pkt.idx else r.lastIdx }

/-- A READ_REQ refused, so that its duplicates are refused too. -/
def State.turnDown (s : State) (i : Inbound) (st : Status) (check : Nat) : State :=
  s.modEnd i.q i.n fun e => { e with turned := ((i.pkt.psn, i.pkt.msg, st.code, check) :: e.turned).take 512 }

/-- The first refusal in a message: acknowledged with kind REFUSED, and a FINAL held for the message is given up. -/
def State.refuse (s : State) (i : Inbound) (st : Status) (check : Nat) : State :=
  let r := s.rxOf i
  if r.refused.isSome then s
  else
    let s := s.setRx i { r with refused := some (st.code, check), final := none }
    let s := if i.pkt.ty = 2 ∧ st ≠ .memUncorrectable then
        s.turnDown i st check
      else s
    s.owe i.q i.n ackRefused st.code check i.pkt.msg i.pkt.ts

/-- Work of a packet ended by uncorrectable data (R180, R331, R333). -/
def State.refuseUnc (s : State) (i : Inbound) (e : MemErr) : State :=
  (s.endedBy e i.x.f i.pkt.layer i.pkt.oper).refuse i .memUncorrectable 0

/-- The segment of this node through which a packet's handle acts. -/
def Inbound.via (i : Inbound) (handle : Nat) : Via := { f := i.x.f, ctx := i.x.ctx, seg := handle % 16 }

/-- The TARGET record of a packet (Table 16.7). -/
def State.traceTarget (s : State) (i : Inbound) (n : Nat) : State :=
  s.trace i.x.gallery 0x02 (if i.port < 16 then i.port else 0xFFFF) i.pkt.layer i.pkt.oper i.x.f
    (leBytes 2 i.pkt.src ++ leBytes 1 0 ++ leBytes 1 i.pkt.ty ++ leBytes 3 i.q ++ leBytes 1 (ofBool i.pkt.final) ++ leBytes 8 n) i.pkt.trace

/-! ### What a complete message does (R149, R150) -/

/-- A FINAL write, or a FOLD_PUT done, once its paths are flushed: flag, arrival counter, acknowledgement. -/
def State.finalEffect (s : State) (q n : Nat) (x : Qp) (msg : Nat) (echo : W32) : State :=
  (s.signal x.ctx x.arrival true).owe q n ackComplete 0 0 msg echo

/-- Step 2 of R149: the flag written, or its failure. -/
def State.writeFinal (s : State) (q n msg addr : Nat) (value : W64) (ctx seg layer oper : Nat) (echo : W32) : State :=
  match tget s.qps q, s.endpoint q n with
  | some x, some e =>
    if e.state ≠ .ready then s
    else match s.writeVia { f := x.f, ctx, seg } (localOf addr) (leBytes 8 value.toNat) with
      | (s, none) =>
        -- the mirror of the arrival counter is a flag too: on another path it waits for a flushing read of the FINAL flag's own (R153)
        let own := s.pathOf x.f (localOf addr)
        if bit x.arrival 15 && s.mirrored x.f && own != Path.host (fnPort x.f) then s.addFlag x.f [own] (.folded q n msg echo)
        else s.finalEffect q n x msg echo
      | (s, some err) =>
        (s.endedBy err x.f layer oper).owe q n ackRefused Status.memUncorrectable.code 0 msg echo
  | _, _ => s

/-- Paths of an end whose flushing reads, issued for an earlier FINAL, have not returned. -/
def State.finalsOut (s : State) (q n : Nat) : List Path :=
  s.flags.flatMap fun p => match p.flag with
    | .final fq fn .. => if fq = q ∧ fn = n then p.paths else []
    | _ => []

/-- A complete message of a QP whose FINAL may take effect, or whose elements are all folded. Of the paths that stand to be flushed under
QP-wide scope the FINAL flag's own remains, which is not flushed; a path whose flushing read is still out is flushed for this FINAL too. A FOLD_PUT of several messages counts, and reports COMPLETE, message by
message, since no packet says which is its last (notes/assumptions/80.md). -/
def State.settleMsg (s : State) (i : Inbound) : State :=
  match s.endpoint i.q i.n with
  | none => s
  | some e =>
    match e.rx.find? fun r => r.msg == i.pkt.msg with
    | none => s
    | some r =>
      match r.lastIdx with
      | none => s
      | some last =>
        if r.seen.length ≤ last then s
        else if r.refused.isSome then s.dropRx i
        else match r.final with
          | some h =>
            if i.x.wide && !decide (2 ^ 31 ≤ gap32 h.psn e.epsn) then s
            else
              let own := s.pathOf i.x.f (localOf h.addr)
              let paths := (if i.x.wide then (s.finalsOut i.q i.n).foldl (fun l p => addPath p l) e.wide else r.paths).filter (· != own)
              let s := (s.dropRx i).modEnd i.q i.n fun e => { e with wide := e.wide.filter (· == own) }
              if paths.isEmpty then s.writeFinal i.q i.n r.msg h.addr h.value h.ctx h.seg h.layer h.oper i.pkt.ts
              else s.addFlag i.x.f paths (.final i.q i.n r.msg h.addr h.value h.ctx h.seg h.gen h.layer h.oper i.pkt.ts)
          | none =>
            let s := s.dropRx i
            if !r.fold then s
            else if r.paths.isEmpty then s.finalEffect i.q i.n i.x r.msg i.pkt.ts
            else s.addFlag i.x.f r.paths (.folded i.q i.n r.msg i.pkt.ts)

/-- Under QP-wide scope a packet can let the held FINAL of another message take effect. -/
def State.settleAll (s : State) (i : Inbound) : State :=
  let s := s.settleMsg i
  if i.x.wide then
    ((s.endpoint i.q i.n).elim [] (·.rx)).foldl
      (fun s r => if r.final.isSome then s.settleMsg { i with pkt := { i.pkt with msg := r.msg } } else s) s
  else s

/-- The paths a message has written. -/
def State.wrote (s : State) (i : Inbound) (p : Path) : State :=
  let r := s.rxOf i
  (s.setRx i { r with paths := addPath p r.paths }).modEnd i.q i.n fun e => if i.x.wide then { e with wide := addPath p e.wide } else e

/-! ### WRITE (R73, R148–R150) -/

/-- The check of the flag that a FINAL extension names. -/
def State.checkFinal (s : State) (i : Inbound) : Except (Status × Nat) (Option HeldFinal) :=
  if !i.pkt.final then .ok none
  else
    let flag := fld i.pkt.body 0 8
    match s.remoteCheck i.x.ctx (fld i.pkt.body 16 2) flag 8 .write with
    | .error e => .error e
    | .ok r => .ok (some { addr := flag, value := BitVec.ofNat 64 (fld i.pkt.body 8 8), psn := i.pkt.psn, ctx := r.ctx, seg := r.seg,
                           gen := r.gen, layer := i.pkt.layer, oper := i.pkt.oper })

/-- A WRITE packet placed. Where its payload and its FINAL flag both fail, the refusal of the payload is reported: all six checks of R73 are made
for the payload and then for the flag (notes/assumptions/80.md). -/
def State.placeWrite (s : State) (i : Inbound) : State :=
  let p := i.pkt
  let s := s.noteRx i
  let s :=
    if (s.rxOf i).refused.isSome then s
    else match s.remoteCheck i.x.ctx p.handle p.raddr p.plen .write with
      | .error (st, c) => (s.noteRefusal i st c p.handle).refuse i st c
      | .ok _ =>
        match s.checkFinal i with
        | .error (st, c) => (s.noteRefusal i st c (fld p.body 16 2)).refuse i st c
        | .ok h =>
          let s := match h with
            | some h => s.setRx i { s.rxOf i with final := some h }
            | none => s
          if p.plen = 0 then s
          else match s.writeVia (i.via p.handle) (localOf p.raddr) p.payload with
            | (s, some e) => s.refuseUnc i e
            | (s, none) => ((s.wrote i (s.pathOf i.x.f (localOf p.raddr))).countFn i.x.f 2 p.plen).traceTarget i p.plen
  s.settleAll i

/-- WRITE (R73). -/
def execWrite (s : State) : Host.Outcome State Fault Refusal :=
  .next (s.takePacket (fun p => p.ty == 1) fun s i => s.takeRequest i (fun s => s.placeWrite i) id)

/-! ### READ_REQ (R171) -/

/-- Bytes that a READ_REQ asks for. -/
def askedBytes (payload len first n : Nat) : Nat := sum ((List.range n).map fun k => Nat.min payload (len - (first + k) * payload))

/-- The responses that a READ_REQ is owed, or its refusal. One whose count of packets or first index does not fit its length is served as it asks
(notes/assumptions/80.md). Its TARGET record is written as it is accepted (notes/assumptions/70.md). -/
def State.serveRead (s : State) (i : Inbound) (refused : State → Status → Nat → State) : State :=
  let p := i.pkt
  let len := fld p.body 8 4
  let first := fld p.body 12 2
  let n := fld p.body 14 2
  match s.remoteCheck i.x.ctx p.handle p.raddr (askedBytes i.x.payload len first n) .read with
  | .error (st, c) => refused s st c
  | .ok r =>
    let s := s.traceTarget i (askedBytes i.x.payload len first n)
    if n = 0 then s
    else s.modEnd i.q i.n fun e => { e with
      replies := e.replies ++ [.read p.psn p.ts p.msg p.layer p.oper (localOf p.raddr) (fld p.body 0 8) first (first + n) len 0 r.ctx r.seg r.gen] }

/-- A READ_REQ taken. -/
def State.takeRead (s : State) (i : Inbound) : State :=
  let p := i.pkt
  let s := s.noteRx i
  let r := s.rxOf i
  let s := match r.refused with
    | some (st, c) => s.turnDown i (statusOf st) c
    | none => s.serveRead i fun s st c => (s.noteRefusal i st c p.handle).refuse i st c
  s.settleAll i

/-- A duplicate READ_REQ: served again, or refused again as it was. One that is refused only now is refused for good, with one record for its
message (R75). -/
def State.readAgain (s : State) (i : Inbound) : State :=
  match i.e.turned.find? fun t => t.1 == i.pkt.psn with
  | some t => s.owe i.q i.n ackRefused t.2.2.1 t.2.2.2 i.pkt.msg i.pkt.ts
  | none => s.serveRead i fun s st c =>
    let r := s.rxOf i
    let s := if r.refused.isSome || i.e.turned.any (fun t => t.2.1 == i.pkt.msg && decide (gap32 t.1 i.pkt.base < 65536)) then s
      else
        let s := s.noteRefusal i st c i.pkt.handle
        if (i.e.rx.any fun x => x.msg == r.msg && x.base == r.base) then s.setRx i { r with refused := some (st.code, c), final := none } else s
    (s.turnDown i st c).owe i.q i.n ackRefused st.code c i.pkt.msg i.pkt.ts

/-- READ_REQ (R171). -/
def execReadReq (s : State) : Host.Outcome State Fault Refusal :=
  .next (s.takePacket (fun p => p.ty == 2) fun s i => s.takeRequest i (fun s => s.takeRead i) fun s => s.readAgain i)

/-! ### ATOMIC_REQ (R130, R131) -/

/-- The word that an ATOMIC leaves; none where it writes nothing (Table 4.4). -/
def atomicResult (m old operand compare : Nat) : Option Nat :=
  match m with
  | 0 => some ((old + operand) % 2 ^ 32)
  | 1 => some ((old + operand) % 2 ^ 64)
  | 2 => some (fp32.add old (operand % 2 ^ 32))
  | _ => if old = compare then some operand else none

/-- The result of an ATOMIC_REQ kept among the 16 most recent (R182). -/
def State.keepAtomic (s : State) (i : Inbound) (r : AtomicResult) : State :=
  s.modEnd i.q i.n fun e => { e with atoms := ((i.pkt.psn, r) :: e.atoms).take 16 }

/-- The ATOMIC_RESP that a request is owed, and the reference held until it is sent; a duplicate holds none: there is no segment 16. -/
def State.answerAtomic (s : State) (i : Inbound) (l : List Byte) (r : Ref) : State :=
  s.modEnd i.q i.n fun e => { e with
    replies := e.replies ++ [.atomic i.pkt.psn i.pkt.msg i.pkt.layer i.pkt.oper (fld i.pkt.body 24 8) l r.ctx r.seg r.gen] }

/-- The target word read and updated. -/
def State.updateWord (s : State) (i : Inbound) (m w : Nat) : State × Except MemErr (List Byte) :=
  let a := localOf i.pkt.raddr
  match s.readVia (i.via i.pkt.handle) a w with
  | (s, _, some e) => (s, .error e)
  | (s, l, none) =>
    match atomicResult m (leNat l) (fld i.pkt.body 8 8) (fld i.pkt.body 16 8) with
    | none => (s, .ok l)
    | some v =>
      match s.writeVia (i.via i.pkt.handle) a (leBytes w v) with
      | (s, some e) => (s, .error e)
      | (s, none) => (s, .ok l)

/-- An ATOMIC_REQ taken. -/
def State.takeAtomic (s : State) (i : Inbound) : State :=
  let p := i.pkt
  let m := fld p.body 0 1
  let w := atomicWidth m
  let s := s.noteRx i
  let s :=
    if (s.rxOf i).refused.isSome then s
    else match s.remoteCheck i.x.ctx p.handle p.raddr w .atomic with
      | .error (st, c) => ((s.noteRefusal i st c p.handle).refuse i st c).keepAtomic i (.refused st.code c)
      | .ok r =>
        match s.updateWord i m w with
        | (s, .error e) => (s.refuseUnc i e).keepAtomic i (.refused Status.memUncorrectable.code 0)
        | (s, .ok old) =>
          let l := if fld p.body 24 8 = 0 then [] else old
          ((s.keepAtomic i (.word l)).answerAtomic i l r).traceTarget i w
  s.settleAll i

/-- A duplicate ATOMIC_REQ, answered from the response cache. -/
def State.atomicAgain (s : State) (i : Inbound) : State :=
  match i.e.atoms.find? fun t => t.1 == i.pkt.psn with
  | some (_, .word l) => s.answerAtomic i l { ctx := i.x.ctx, seg := 16, gen := 0 }
  | some (_, .refused st c) => s.owe i.q i.n ackRefused st c i.pkt.msg i.pkt.ts
  | none => s

/-- ATOMIC_REQ (R131). -/
def execAtomicReq (s : State) : Host.Outcome State Fault Refusal :=
  .next (s.takePacket (fun p => p.ty == 3) fun s i => s.takeRequest i (fun s => s.takeAtomic i) fun s => s.atomicAgain i)

/-! ### FOLD (R278, R279) -/

/-- Target bytes with the source elements folded in. -/
def foldBytes (mod : Nat) (old src : List Byte) : List Byte :=
  let ty := mod % 16
  let red := bits mod 6 4
  let es := elemSize ty
  let from_ := elemsOf es src
  if red = 6 then
    ((elemsOf 40 old).zip from_).flatMap fun p => leBytes 40 ((Acc.ofNat p.1).fold ((elemFmt ty).elim .nan fun t => t.decode p.2)).toNat
  else elemBytes es (((elemsOf es old).zip from_).map fun p => foldElem ty red p.1 p.2)

/-- A FOLD packet folded. -/
def State.takeFold (s : State) (i : Inbound) : State :=
  let p := i.pkt
  let mod := fld p.body 0 1
  let span := foldSpan mod p.plen
  let s := s.noteRx i
  let s := s.setRx i { s.rxOf i with fold := true }
  let s :=
    if (s.rxOf i).refused.isSome then s
    else match s.remoteCheck i.x.ctx p.handle p.raddr span .fold with
      | .error (st, c) => (s.noteRefusal i st c p.handle).refuse i st c
      | .ok _ =>
        if p.plen = 0 then s
        else
          let a := localOf p.raddr
          match s.readVia (i.via p.handle) a span with
          | (s, _, some e) => s.refuseUnc i e
          | (s, old, none) =>
            match s.writeVia (i.via p.handle) a (foldBytes mod old p.payload) with
            | (s, some e) => s.refuseUnc i e
            | (s, none) =>
              ((s.wrote i (s.pathOf i.x.f a)).countFn i.x.f 4 (p.plen / Nat.max 1 (elemSize (mod % 16)))).traceTarget i p.plen
  s.settleAll i

/-- Where a FOLD packet stands among those of its cycle: ascending receiving port, and behind them those that cross from the other die to that
of the target QP's home (R280; notes/assumptions/9.md). -/
def State.foldRank (s : State) (a : Arrival) : Nat :=
  let die := (tget s.qps a.pkt.qp).elim 0 fun x => if x.home < 24 then 0 else 1
  a.port + if a.port < 16 ∧ dieOf a.port ≠ die then 32 else 0

/-- The FOLD packet whose turn it is: of those that arrived when the oldest did, the first in rank. -/
def State.foldNext (s : State) (p : Packet) : Bool :=
  let folds := s.arrived.filter fun a => a.pkt.ty == 4
  folds.head?.any fun a =>
    p == ((folds.filter fun b => b.at_ == a.at_).foldl (fun b x => if s.foldRank x < s.foldRank b then x else b) a).pkt

/-- FOLD (R278). -/
def execFold (s : State) : Host.Outcome State Fault Refusal :=
  .next (s.takePacket s.foldNext fun s i => s.takeRequest i (fun s => s.takeFold i) id)

/-! ### Building packet copies (R169–R171, R200, R407) -/

/-- What a copy is encrypted with: nothing, or the slot. A copy whose slot is not LOADED is not sent. -/
def State.sealCopy (s : State) (x : Qp) (n : Nat) (p : Packet) : State × Option Packet :=
  if !s.seals x n then (s, some p)
  else
    let k := s.keySlot x.slot
    if k.state ≠ .loaded then (s, none)
    else
      let (s, v) := s.takeNonce x.slot
      let s := if v + 1 = 2 ^ 32 then s.slotLost x.slot .exhausted 3 0xFF else s
      (s, some (p.seal x.slot k v))

/-- A packet of an end given its destination, its route fields, its timestamp and its encryption, and launched. -/
def State.sendCopy (s : State) (x : Qp) (q n : Nat) (p : Packet) (inter : Nat) : State :=
  let far := (s.endpoint q n).elim 0 (·.remoteQp)
  let p := { p with dst := n, qp := far, trace := s.marksPackets p.layer p.oper }
  match s.sealCopy x n (s.stamp p inter) with
  | (s, some p) => (s.touch q x n).launch p x.tc
  | (s, none) => s

/-- A READ_REQ that cannot be served, its source being uncorrectable: refused, with the timestamp it carried. Each such request is answered so, and
its duplicates are served anew (R179, R180). -/
def State.readLost (s : State) (q n : Nat) (psn echo : W32) (msg : Nat) : State :=
  let mem := Status.memUncorrectable.code
  match s.endpoint q n with
  | none => s
  | some e =>
    let mine := fun (r : RxMsg) => r.msg == msg && decide (gap32 psn r.base < 65536) && r.refused.isNone
    let rx := updAll mine (fun r => { r with refused := some (mem, 0), final := none }) e.rx
    (s.modEnd q n fun e => { e with rx }).owe q n ackRefused mem 0 msg echo

/-- One reply that an end owes, sent: an acknowledgement, a response, or the next response of a READ_REQ. -/
def State.sendReply (s : State) (x : Qp) (q n : Nat) (e : Endpoint) (r : Reply) : State :=
  let pop := fun (s : State) => s.modEnd q n fun e => { e with replies := e.replies.drop 1 }
  match r with
  | .ack kind status check msg echo =>
    let p : Packet := { ty := 0x10, first := true, last := true, psn := e.epsn, msg, body := ackExt echo kind status check e.sack }
    let d := s.drawFor n x.tc 0 0
    (pop d.1).sendCopy x q n p d.2
  | .atomic psn msg layer oper init data .. =>
    let p : Packet := { ty := 0x12, first := true, last := true, psn, msg, raddr := init, layer, oper, plen := data.length, body := data }
    let d := s.drawFor n x.tc 0 0
    (pop d.1).sendCopy x q n p d.2
  | .read psn echo msg layer oper addr init next stop len inter ctx seg gen =>
    let size := Nat.min x.payload (len - next * x.payload)
    match s.readVia { f := x.f, ctx, seg } addr size with
    | (s, _, some err) => (pop (s.endedBy err x.f layer oper)).readLost q n psn echo msg
    | (s, data, none) =>
      let d := s.drawFor n x.tc next inter
      let p : Packet := { ty := 0x11, first := next == 0, last := decide (len ≤ (next + 1) * x.payload), psn, msg, idx := next, raddr := (init + next * x.payload) % 2 ^ 64, layer, oper, plen := size, body := data }
      let more : List Reply := if next + 1 < stop then
          [.read psn echo msg layer oper (addr + size) init (next + 1) stop len d.2 ctx seg gen] else []
      let s := d.1.modEnd q n fun e => { e with replies := more ++ e.replies.drop 1 }
      (s.countFn x.f 3 size).sendCopy x q n p d.2

/-- Response packets of one READ_REQ (R170). -/
def perRequest : Nat := 64

/-- The next copy of a message: the packet, its count of R223, for a READ_REQ the packets it asks for, and how far the message then is. -/
structure Built where
  pkt   : Packet
  bytes : Nat
  first : Nat := 0
  n     : Nat := 0
  step  : Nat := 1

/-- What R223 counts for a payload. -/
def countOf (n : Nat) : Nat := if n = 0 then 64 else n

/-- The chunk index of a COLL packet's body. -/
def Packet.chunk (p : Packet) : Nat := fld p.body 12 4

/-- The next packet of a message; none where its payload cannot be read. -/
def State.build (s : State) (x : Qp) (m : Msg) (o : Op) : State × Except MemErr Built :=
  let j := o.job
  let i := m.next
  let P := x.payload
  let off := (m.base + i) * P
  let size := Nat.min P (j.len - off)
  let head : Packet := { msg := m.msg, idx := i, first := i == 0, last := i + 1 == m.count, handle := o.handle, layer := j.layer, oper := j.oper }
  match m.kind with
  | .readReq =>
    let n := Nat.min perRequest (m.count - i)
    let len := Nat.min (j.len - m.base * P) (65536 * P)
    let init := (s.node * 2 ^ 48 + o.near + m.base * P) % 2 ^ 64
    (s, .ok { pkt := { head with ty := 2, idx := i / perRequest, last := decide (m.count ≤ i + n), raddr := (o.far + off) % 2 ^ 64, plen := 16,
                                 body := readPayload init len i n },
              bytes := countOf (askedBytes P len i n), first := i, n, step := Nat.max 1 n })
  | .atomic =>
    let compare := fld (j.conts.headD []) 0 8
    let fetch := if j.near = 0 then 0 else s.node * 2 ^ 48 + o.near
    (s, .ok { pkt := { head with ty := 3, raddr := o.far, plen := 32, body := atomicPayload (fld j.head 40 1) (fld j.head 48 8) compare fetch },
              bytes := 32 })
  | .coll raddr group level seq sig chunk data =>
    let part := (data.drop (i * P)).take P
    let mine := (tget s.groups group).bind fun g => g.cur.filter fun c => c.seq == seq
    (s, .ok { pkt := { head with ty := 8, handle := 0, layer := mine.elim 0 fun c => c.job.layer, oper := mine.elim 0 fun c => c.job.oper,
                                 raddr := (raddr + i * P) % 2 ^ 64, plen := part.length, body := collExt group level seq sig chunk ++ part },
              bytes := countOf part.length })
  | k =>
    let got := if size = 0 then (s, [], none)
      else if j.inline then (s, slice j.payload off size, none)
      else s.readVia { f := j.f, ctx := j.ctx, seg := o.seg } (o.near + off) size
    match got with
    | (s, _, some e) => (s, .error e)
    | (s, l, none) =>
      if k = .fold then
        let mod := fld j.head 40 1
        (s, .ok { pkt := { head with ty := 4, raddr := (o.far + foldSpan mod off) % 2 ^ 64, plen := size, body := foldExt mod ++ l }, bytes := countOf size })
      else
        let final := j.opcode == 3 && m.last && i + 1 == m.count
        let ext := if final then finalExt o.flag (fld j.head 48 8) o.flagHandle else []
        (s, .ok { pkt := { head with ty := 1, raddr := (o.far + off) % 2 ^ 64, plen := size, final, body := ext ++ l }, bytes := countOf size })

/-- The operation of a message; a collective message has none of its own. -/
def State.opFor (s : State) (m : Msg) : Op :=
  (s.op m.op).getD { id := 0, job := { f := 0, q := 0, seq := 0, head := [] }, kind := .coll 0 }

/-- The operation for whose data the next packet of an end, sent anew or again, needs a dispatch channel (R142). -/
def Endpoint.gathers (e : Endpoint) (x : Qp) : Option Nat :=
  if x.group.isSome then none
  else match e.out.find? fun o => !o.again.isEmpty with
    | some o => if o.pkt.ty = 1 ∨ o.pkt.ty = 4 then some o.op else none
    | none => match e.queue with
      | m :: _ => if m.kind = .write ∨ m.kind = .fold then some m.op else none
      | [] => none

/-- Whether a message holds data of a collective, not a control record. -/
def Msg.carriesData (m : Msg) : Bool :=
  match m.kind with
  | .coll _ _ _ _ _ ch _ => decide (ch.toNat < 0xFFFFFF00)
  | _ => false

/-- Whether a message may send its next packet: the last message of a PUT_FINAL waits for those before it (R169), and no more than 16
ATOMIC_REQs or control packets are outstanding (R182, R233). -/
def Endpoint.mayStart (e : Endpoint) (m : Msg) (o : Op) : Bool :=
  match m.kind with
  | .write => !(o.job.opcode == 3 && m.last && m.base != 0) ||
    match o.kind with
    | .push _ acked _ => decide (m.base ≤ acked)
    | _ => true
  | .atomic => decide ((e.out.filter fun x => x.pkt.ty == 3).length < 16)
  | .coll _ _ _ _ _ ch _ => decide (ch.toNat < 0xFFFFFF00) || decide ((e.out.filter fun x => decide (0xFFFFFF00 ≤ x.pkt.chunk)).length < 16)
  | _ => true

/-- A control record that refers to no sequence number: FREE, FORMED, READY (Table 7.13). -/
def noSequence (chunk : Nat) : Bool := chunk == 0xFFFFFF06 || chunk == 0xFFFFFF07 || chunk == 0xFFFFFF08

/-- The nonce of an operation's first packet, reported in its CQE (R408). -/
def State.noteNonce (s : State) (x : Qp) (n : Nat) (m : Msg) : State :=
  if !s.seals x n then s
  else
    let k := s.keySlot x.slot
    let v : W64 × W32 := (BitVec.ofNat 64 (k.n + s.node * 2 ^ 32), BitVec.ofNat 32 (x.slot + k.epoch * 65536))
    let put := fun (o : Op) => { o with nonce := some (o.nonce.getD v) }
    match m.kind with
    | .coll _ group _ seq _ ch _ =>
      match (tget s.groups group).bind fun g => g.cur.filter fun c => c.seq == seq && !noSequence ch.toNat with
      | some c => s.modOp c.op put
      | none => s
    | _ => s.modOp m.op put

/-- The next packet of the first message of an end, where the window and the pacer let it go (R178, R223, R225). -/
def State.sendNext (s : State) (x : Qp) (q n : Nat) (e : Endpoint) : State :=
  match e.queue with
  | [] => s
  | m :: rest =>
    let o := s.opFor m
    if !e.mayStart m o then s
    else match s.build x m o with
      | (s, .error err) => (s.endedBy err o.job.f o.job.layer o.job.oper).endQpOp o.id { status := .memUncorrectable }
      | (t, .ok b) =>
        if 512 < e.packets + 1 + b.n ∨ !e.admits b.bytes s.tclk then s
        else
          let s := t
          let since := e.sinceReq + 1
          let p := { b.pkt with psn := e.psn, ackreq := b.pkt.last || since % 64 == 0 }
          let d := s.drawFor n x.tc p.idx m.inter
          let s := d.1
          let m := { m with next := m.next + b.step, inter := d.2 }
          let entry : Outstanding := { psn := e.psn, op := m.op, pkt := p, bytes := b.bytes, first := b.first, n := b.n, answer := p.ty == 3, sentAt := s.tclk }
          let s := s.modEnd q n fun e => { e with
            psn := e.psn + 1, sinceReq := since, out := e.out ++ [entry], tLast := s.tclk
            timer := if e.out.isEmpty then some (s.tclk + rtoBase x e) else e.timer
            queue := if m.count ≤ m.next then rest else m :: rest }
          let s := if p.ty = 1 ∨ p.ty = 4 ∨ m.carriesData then s.countFn x.f 0 p.plen else s
          (s.noteNonce x n m).sendCopy x q n p d.2

/-- What R223 counts for the copy of a packet that is sent again: for a READ_REQ, the payload that this copy asks for. -/
def Outstanding.countAgain (o : Outstanding) (payload : Nat) : Nat :=
  match o.again with
  | (a, k) :: _ => if o.pkt.ty = 2 then countOf (askedBytes payload (fld o.pkt.body 8 4) a k) else o.bytes
  | [] => o.bytes

/-- One packet sent again: for a READ_REQ, its first run of missing responses. -/
def State.sendAgain (s : State) (x : Qp) (q n : Nat) (o : Outstanding) : State :=
  match o.again with
  | [] => s
  | (a, k) :: rest =>
    let p :=
      if o.pkt.ty = 2 then
        { o.pkt with
          raddr := (o.pkt.raddr + (a - o.first) * x.payload) % 2 ^ 64
          body := readPayload (fld o.pkt.body 0 8) (fld o.pkt.body 8 4) a k }
      else o.pkt
    let d := s.drawFor n x.tc 0 0
    let s := d.1.modOut q n o.psn fun y => { y with again := rest, sentAt := d.1.tclk }
    (s.modEnd q n fun e => { e with retx := Nat.min (2 ^ 32 - 1) (e.retx + 1), tLast := s.tclk }).sendCopy x q n p d.2

/-- One packet of an end injected: what it owes first, then what is to be sent again, then new packets. What an operation of an SQE gathers
waits for a dispatch channel of an ME (R142, R145). -/
def State.injectPacket (s : State) (q n : Nat) : State :=
  match tget s.qps q, s.endpoint q n with
  | some x, some e =>
    if e.state ≠ .ready then s
    else match e.replies with
      | r :: _ => s.sendReply x q n e r
      | [] =>
        match (e.gathers x).bind (s.gatherWaits x.home) with
        | some t => t
        | none => match e.out.find? fun o => !o.again.isEmpty with
        | some o => if e.paced (o.countAgain x.payload) s.tclk then s.sendAgain x q n o else s
        | none => s.sendNext x q n e
  | _, _ => s

/-- PACKET_INJECT (R200). -/
def execPacketInject (qp node : Nat) (s : State) : Host.Outcome State Fault Refusal :=
  if decide (qp < 16777216) && decide (node ≤ 65535) then .next (if s.live then s.injectPacket qp node else s)
  else .next s

end Sys2Proof.Machine
end

