-- ==== Sys2Proof/Machine/Qps.lean ====
section
/-! DEFINITION. The making and unmaking of QPs, for CREATE_QP, DESTROY_QP and the groups that have QPs of their own (R173–R176, R185, R404). -/

namespace Sys2Proof.Machine

/-- Payload sizes by their codes (Table 5.11). -/
def payloadOf (code : Nat) : Option Nat :=
  match code with
  | 0 => some 1024
  | 1 => some 2048
  | 2 => some 4096
  | _ => none

/-- Retry limit, rto_min and rto_max after their defaults (Table 5.10); none where one is out of range, or the least timeout exceeds the
greatest. -/
def timersOf (retry lo hi : Nat) : Option (Nat × Nat × Nat) :=
  let r := if retry = 0 then 7 else retry
  let a := if lo = 0 then 4 else lo
  let b := if hi = 0 then 4000 else hi
  if r ≤ 15 ∧ 4 ≤ a ∧ a ≤ 1000 ∧ 64 ≤ b ∧ b ≤ 4000 ∧ a ≤ b then some (r, a, b) else none

/-- The next present logical cluster after the last that the ZD24 chose, wrapping from L47 to L0. -/
def State.rotateHome (s : State) : Nat :=
  let l := (List.range 48).filter s.present
  match s.nextHome with
  | none => l.headD 0
  | some h => (l.find? fun c => decide (h < c)).getD (l.headD 0)

/-- What n contexts, and a pinned one, would exceed: 1 the device, 2 the grant (R119, R175, R176). -/
def State.qpRoom (s : State) (f n : Nat) (pinned : Bool) : Option Nat :=
  if s.qpcCount < s.qpcUsed + n ∨ (pinned ∧ 4096 < s.pinnedOf none + n) then some 1
  else if f ≠ 0 ∧ ((s.fn f).grant.qpc < s.qpcOf f + n ∨ (pinned ∧ (s.fn f).grant.pinned < s.pinnedOf (some f) + n)) then some 2
  else none

/-- A QP under the lowest number that none has; a home cluster of 0xFFFF is the ZD24's choice. Answers its number. -/
def State.addQp (s : State) (x : Qp) : State × Nat :=
  let n := tfree s.qps 1
  let h := if x.home = 0xFFFF then s.rotateHome else x.home
  let s := if x.home = 0xFFFF then { s with nextHome := some h } else s
  (State.wakeDeep { s with qps := tset s.qps n { x with home := h } }, n)

/-- Whether a slot may encrypt for a context (R404). -/
def State.slotGrants (s : State) (slot c : Nat) : Bool := decide ((s.keySlot slot).state = .loaded) && (s.keySlot slot).ctx == c

/-- A QP gone: its contexts, and what the cache and the sidings hold of it. -/
def State.dropQp (s : State) (q : Nat) : State :=
  { s with
    qps := tdel s.qps q
    cache := s.cache.filter fun e => e.1 != q
    sidings := s.sidings.map fun e => (e.1, { e.2 with pkts := e.2.pkts.filter fun a => a.pkt.qp != q }) }

end Sys2Proof.Machine
end

