-- ==== Sys2Proof/Machine/Collect.lean ====
section
/-! DEFINITION. Collective jobs and their data messages at a member (R240–R250). -/

namespace Sys2Proof.Machine

/-! ### Dispatch of a collective job (R240–R244) -/

/-- The signature of a collective (Table 7.9). -/
def collSig (j : Job) (n : Nat) (seq : W32) : W32 :=
  BitVec.ofNat 32 (crc32c (leBytes 1 j.opcode ++ slice j.head 40 1 ++ leBytes 2 0 ++ leBytes 4 n ++ slice j.head 58 2 ++ leBytes 2 0 ++ leBytes 4 seq.toNat))

/-- The lengths that end a job with LOC_LEN (R241). A root that is no member does so too. -/
def collLenBad (g : Group) (j : Job) : Bool :=
  let es := elemSize (fld j.head 40 1 % 16)
  let n := j.len / Nat.max 1 es
  j.opcode != 0x16 &&
    (j.len % Nat.max 1 es != 0 || (decide (j.opcode = 0x11 ∨ j.opcode = 0x15) && n % g.members.length != 0) ||
      decide (g.members.length ≤ fld j.head 58 2))

/-- The job with its buffers as yet untranslated. -/
def collOf (g : Group) (j : Job) (now : Nat) : Coll :=
  let m := fld j.head 40 1
  let n := if j.opcode = 0x16 then 0 else j.len / Nat.max 1 (elemSize (m % 16))
  let c : Coll := { seq := g.next, op := 0, job := j, elem := m % 16, red := bits m 6 4, n, root := fld j.head 58 2, input := 0, inSeg := 16,
                    result := 0, resSeg := 16, rlen := 0, sig := collSig j n g.next, startAt := now }
  { c with rlen := resultLen g c }

/-- Whether the operation reads an input at this member. -/
def collReads (g : Group) (j : Job) : Bool := j.opcode != 0x16 && !(j.opcode == 0x13 && g.me != fld j.head 58 2) && j.len != 0

/-- The buffers of a job translated, or the status of its local fault (R241, R242, R411). -/
def State.collBuffers (s : State) (g : Group) (j : Job) (c : Coll) : Except Status (Coll × List Ref) :=
  let near : Except Status (Option Trans) := if !collReads g j then .ok none
    else match s.translateLocal j.f j.ctx j.near j.len .read with
      | .ok t => .ok (some t)
      | .error e => .error e
  if collLenBad g j then .error .locLen
  else match near with
    | .error e => .error e
    | .ok near =>
      let res : Except Status (Option Trans) := if c.rlen = 0 then .ok none
        else match s.translateLocal j.f j.ctx (fld j.head 48 8) c.rlen .write with
          | .ok t => .ok (some t)
          | .error e => .error e
      match res with
      | .error e => .error e
      | .ok res =>
        if near.any (fun t => s.cutOff j.f t j.len) || res.any (fun t => s.cutOff j.f t c.rlen) then .error .locPeerUnreachable
        else if g.encrypted && decide (keyLimit < (s.keySlot g.slot).n) then .error .secKeyExhausted
        else .ok ({ c with
          input := near.elim 0 fun t => localOf t.addr
          inSeg := near.elim 16 fun t => t.via.seg
          result := res.elim 0 fun t => localOf t.addr
          resSeg := res.elim 16 fun t => t.via.seg }, near.toList.map (·.ref) ++ res.toList.map (·.ref))

/-- ENTER sent to every neighbour (R251). -/
def State.sendEnters (s : State) (gid : Nat) (g : Group) (c : Coll) : State :=
  let fault := c.fault.isSome
  let addr := if c.rlen = 0 ∨ fault then 0 else s.node * 2 ^ 48 + c.result
  g.nbrs.foldl (fun s n => s.sendCtl gid n.idx 0x01 (if fault then 4 else 0) 0 c.seq 0 c.sig.toNat addr c.rlen) s

/-- ENTERs of control children that came before this member's own are compared with it (R252). -/
def State.compareEnters (s : State) (gid : Nat) (g : Group) (c : Coll) : State :=
  (g.enters.filter fun e => e.seq == c.seq && g.children.contains e.idx && e.sig != c.sig).foldl (fun s e => s.reportUp gid c.seq 1 e.idx) s

/-- A chunk of this member's own input that belongs in its own result, put there. -/
def State.placeOwn (s : State) (gid i : Nat) : State :=
  match tget s.groups gid with
  | none => s
  | some g =>
    match g.cur with
    | none => s
    | some c =>
      match placeOf g c g.me i with
      | none => s
      | some off =>
        if c.fault.isSome then s
        else match s.collInput gid g c i with
          | (s, none) => s
          | (s, some l) =>
            match s.collStore gid g c off l with
            | (s, true) => s.collPlaced gid
            | (s, false) => s

/-- Chunks whose data this member supplies outside a reduction (Table 7.10). -/
def suppliedBy (g : Group) (c : Coll) : List Nat :=
  (List.range (chunksOf g c)).filter fun i =>
    match c.opc with
    | 0x12 => (chunkAt g c i).1 == g.me
    | 0x13 => g.me == c.root
    | 0x15 => (chunkAt g c i).1 / g.members.length == g.me
    | _ => false

/-- This member's data set on its way: contributions to level 0, or chunks spread or sent towards their members (R247). -/
def State.contribute (s : State) (gid : Nat) (g : Group) (c : Coll) : State :=
  if c.reducing then
    (List.range (chunksOf g c)).foldl (fun s i =>
      let o := ownerFrom g.sizes g.me i 0
      if o = g.me then
        s.modCur gid fun c => { c with contribs := c.contribs ++ [{ level := 0, chunk := i, pos := posOf g.sizes g.me 0, what := .input }] }
      else s.outMsg gid o { level := 0, chunk := i, what := .input, up := true }) s
  else (suppliedBy g c).foldl (fun s i => (s.handOn gid g c i g.sizes.length .input).placeOwn gid i) s

/-- A wait counter written (R257); an error in its memory is a local fault. -/
def State.addWait (s : State) (gid : Nat) : State :=
  match s.writeWait gid with
  | (s, none) => s
  | (s, some e) => s.waitFault gid e

/-- Laggard mode: ENTERED to the control parent, or at the leader ALL_ENTERED down the tree and the report, once this member has dispatched
and every control child has reported (R251, R257). -/
def State.tryEntered (s : State) (gid : Nat) (seq : W32) : State :=
  match tget s.groups gid with
  | none => s
  | some g =>
    let r := g.round seq
    let here := (g.cur.any fun c => c.seq == seq && c.fault.isNone) || r.decided.any fun d => d.1 == .ok
    if !g.laggard || !here || !g.children.all r.entered.contains || r.enterSent then s
    else match g.parent with
      | some p => (s.modRound gid seq fun r => { r with enterSent := true }).sendCtl gid p 0x0A 0 0 seq r.lastIn 0 0 0
      | none =>
        match s.allEntered gid g seq r with
        | (s, none) => s
        | (s, some e) => s.waitFault gid e

/-! ### Data messages (R248, R249) -/

/-- How a data message bears on the collective of its member. -/
inductive Verdict where
  /-- discarded: counted, its slot freed, MISMATCH reported -/
  | drop (counted freed mismatch : Bool)
  /-- held in its slot -/
  | hold
  /-- to be placed in the result buffer at an offset -/
  | place (off : Nat)
  /-- a contribution of a position -/
  | fold (pos : Nat)
  /-- to be handed on -/
  | pass

/-- The bytes of a message in order. -/
def CollMsg.bytes (m : CollMsg) : List Byte := m.parts.flatMap (·.2)

/-- Whether a message lies wholly within one landing slot of its sender. -/
def landsIn (g : Group) (n : Neighbour) (a len : Nat) : Bool :=
  let c := 2 ^ g.chunkLog
  decide (n.area ≤ a ∧ a < n.area + g.slots * c ∧ (a - n.area) % c + len ≤ c)

/-- Whether the path of a chunk leads from a neighbour to this member on its way down without a place in its result (R247). -/
def passesHere (g : Group) (c : Coll) (n : Neighbour) (i : Nat) : Bool :=
  match targetOf g c i with
  | none => false
  | some t => (placeOf g c g.me i).isNone && withPos g.sizes n.idx n.level (posOf g.sizes t n.level) == g.me

/-- Whether a contribution to a chunk is awaited from a neighbour: this member owns the chunk at the level, the neighbour owns it at the
level below, and it has not contributed yet. -/
def awaits (g : Group) (c : Coll) (n : Neighbour) (i : Nat) : Bool :=
  let k := n.level
  let p := posOf g.sizes n.idx k
  c.reducing && owns g.sizes g.me i k && (k == 0 || owns g.sizes n.idx i (k - 1)) &&
    match c.folds.find? fun f => f.level == k && f.chunk == i with
    | some f => !f.got.contains p && !f.wait.any fun x => x.pos == p
    | none => !c.assigned.contains (k, i) && ((c.exact && k != 0) || !c.contribs.any fun x => x.level == k && x.chunk == i && x.pos == p)

/-- The checks of R249 on a whole message. A message that comes on no path of R247, or has not the length of its chunk, is a mismatch. -/
def Group.judge (g : Group) (n : Neighbour) (m : CollMsg) : Verdict :=
  let len := m.bytes.length
  let lands := landsIn g n m.addr len
  let ahead := gap32 m.seq g.next
  match g.cur.filter fun c => c.seq == m.seq with
  | some c =>
    if c.fault.isSome then .drop false lands false
    else
      let i := m.chunk
      let inResult := decide (c.rlen ≠ 0 ∧ c.result ≤ m.addr ∧ m.addr + len ≤ c.result + c.rlen)
      if !lands && !inResult then .drop true false true
      else if m.sig ≠ c.sig then .drop false lands true
      else if chunksOf g c ≤ i then .drop false lands true
      else if !lands then
        (if len = chunkBytes g c i ∧ placeOf g c g.me i = some (m.addr - c.result) then .place (m.addr - c.result) else .drop true false true)
      else if awaits g c n i then .fold (posOf g.sizes n.idx n.level)
      else if passesHere g c n i && decide (len = chunkBytes g c i) then .pass
      else .drop false true true
  | none =>
    if ahead = 0 then (if lands then .hold else .drop true false true)
    else .drop true lands false

/-- The bytes of a message written to its landing slot (R232). -/
def State.landMsg (s : State) (g : Group) (m : CollMsg) : State := (s.writeVia (g.via g.regionSeg) m.addr m.bytes).1

/-- A whole message acted on; a held one has no port, and lies in its slot already. -/
def State.takeMsg (s : State) (gid : Nat) (m : CollMsg) (port : Option Nat) : State :=
  match tget s.groups gid with
  | none => s
  | some g =>
    match g.nbr m.src with
    | none => s
    | some n =>
      let land := fun (s : State) => if port.isSome then s.landMsg g m else s
      match g.judge n m with
      | .drop counted freed mismatch =>
        let s := if counted then s.discard (port.getD 16) 0x51 else s
        let s := if freed then s.freeSlot gid m.src (g.slotAt n m.addr) else s
        if mismatch then s.reportUp gid m.seq 1 m.src else s
      | .hold => (land s).modGroup gid fun g => { g with msgs := g.msgs ++ [m] }
      | .place off =>
        match g.cur with
        | none => s
        | some c =>
          match s.collStore gid g c off m.bytes with
          | (s, true) => (s.handOn gid g c m.chunk n.level (.bytes m.bytes)).collPlaced gid
          | (s, false) => s
      | .fold pos =>
        (land s).giveFold gid { level := n.level, chunk := m.chunk, pos, what := .slot m.addr m.bytes.length, src := some (m.src, g.slotAt n m.addr) }
      | .pass =>
        match g.cur with
        | none => s
        | some c =>
          match (land s).collSlot gid g c m.addr m.bytes.length with
          | (s, some l) => (s.handOn gid g c m.chunk n.level (.bytes l)).freeSlot gid m.src (g.slotAt n m.addr)
          | (s, none) => s.freeSlot gid m.src (g.slotAt n m.addr)

/-- Messages held for a collective that this member has now entered, checked again (R249). -/
def State.takeHeld (s : State) (gid : Nat) (seq : W32) : State :=
  match tget s.groups gid with
  | none => s
  | some g =>
    let held := g.msgs.filter fun m => m.seq == seq && m.whole && !m.dead
    let s := s.modGroup gid fun g => { g with msgs := g.msgs.filter fun m => !(m.seq == seq && m.whole && !m.dead) }
    held.foldl (fun s m => s.takeMsg gid m none) s

/-- A collective job runs: it takes the next number of its group (R243). A decision kept for that number ends it, with the record of an abort
(R254, R256); one that the leader makes while it compares the ENTERs it holds leaves nothing to send. -/
def State.runColl (s : State) (j : Job) : State :=
  let gid := fld j.head 56 2
  match (tget s.groups gid).filter fun g => g.ctx == j.ctx with
  | none => s.failJob j .collGroupDown
  | some g =>
    let seq := g.next
    let c := collOf g j s.tclk
    match g.decisions.find? fun d => d.1 == seq with
    | some (_, st, cause) =>
      let s := s.modGroup gid fun g => { g with next := seq + 1 }
      let s := if st = .ok then s
        else match s.collBuffers g j c with
          | .ok (c, _) => s.undefineRange g.f c.result c.rlen
          | .error _ => s
      let s := s.failJob j st
      if st = .ok then s else (s.freeHeld gid seq).abortAt gid g { seq, sig := 0, layer := j.layer, oper := j.oper, at_ := s.time } st cause
    | none =>
      if g.state ≠ .ready then s.failJob j .collGroupDown
      else
        let s := s.modGroup gid fun g => { g with next := seq + 1, enters := g.enters.filter fun e => decide (gap32 e.seq seq < 2 ^ 31) }
        match s.collBuffers g j c with
        | .error st =>
          let c := { c with fault := some st, overAt := s.time }
          let s := (s.failJob j st).modGroup gid fun g => { g with cur := some c }
          let s := (s.sendEnters gid g c).sendFirst gid seq g.me
          let s := if g.leader then s.startTimer gid seq else s
          ((s.compareEnters gid g c).reportUp gid seq 4 g.me).takeHeld gid seq
        | .ok (c, refs) =>
          let (s, id) := s.addOp { id := 0, job := j, kind := .coll gid, near := c.result, seg := c.resSeg, refs }
          let owed := ((List.range (chunksOf g c)).filter fun i => (placeOf g c g.me i).isSome).length
          let c := { c with op := id, owed }
          let s := s.modGroup gid fun g => { g with cur := some c }
          let s := (s.sendEnters gid g c).sendFirst gid seq g.me
          let s := if g.leader then s.startTimer gid seq else s.modRound gid seq fun r => { r with lastIn := g.me }
          let s := s.compareEnters gid g c
          if ((tget s.groups gid).bind (·.cur)).all (·.seq != seq) then s.advanceAll
          else
            let s := s.contribute gid g c
            let s := s.takeHeld gid seq
            (((s.tryEntered gid seq).checkPlaced gid).advance gid).decideNow gid seq

/-- The next job of an SQ dispatched where it is a collective whose group is not in the middle of another (R243). -/
def State.dispatchColl (s : State) (f q op : Nat) : State :=
  match s.nextJob f q op with
  | none => s
  | some j => if (tget s.groups (fld j.head 56 2)).any (·.cur.isSome) then s else s.dispatch f q op fun s j => s.runColl j

/-- ALL_REDUCE (R241). -/
def execAllReduce (f q : Nat) (s : State) : Host.Outcome State Fault Refusal :=
  if fnOk f && decide (q ≤ 65535) then .next (s.dispatchColl f q 0x10) else .next s

/-- REDUCE_SCATTER (R241). -/
def execReduceScatter (f q : Nat) (s : State) : Host.Outcome State Fault Refusal :=
  if fnOk f && decide (q ≤ 65535) then .next (s.dispatchColl f q 0x11) else .next s

/-- ALL_GATHER (R241). -/
def execAllGather (f q : Nat) (s : State) : Host.Outcome State Fault Refusal :=
  if fnOk f && decide (q ≤ 65535) then .next (s.dispatchColl f q 0x12) else .next s

/-- BROADCAST (R241). -/
def execBroadcast (f q : Nat) (s : State) : Host.Outcome State Fault Refusal :=
  if fnOk f && decide (q ≤ 65535) then .next (s.dispatchColl f q 0x13) else .next s

/-- REDUCE (R241). -/
def execReduce (f q : Nat) (s : State) : Host.Outcome State Fault Refusal :=
  if fnOk f && decide (q ≤ 65535) then .next (s.dispatchColl f q 0x14) else .next s

/-- ALL_TO_ALL (R241). -/
def execAllToAll (f q : Nat) (s : State) : Host.Outcome State Fault Refusal :=
  if fnOk f && decide (q ≤ 65535) then .next (s.dispatchColl f q 0x15) else .next s

/-- BARRIER (R241). -/
def execBarrier (f q : Nat) (s : State) : Host.Outcome State Fault Refusal :=
  if fnOk f && decide (q ≤ 65535) then .next (s.dispatchColl f q 0x16) else .next s

/-! ### Packets of collectives -/

/-- The control kind of an arrived COLL packet (R251): none for one of a data message. -/
def State.kindOf (s : State) (p : Packet) : Option Nat :=
  let k := ((tget s.qps p.qp).bind fun x => s.decrypt x p).elim p.chunk Packet.chunk
  if 0xFFFFFF01 ≤ k ∧ k ≤ 0xFFFFFF0A then some (k - 0xFFFFFF00) else none

/-- The group, and the neighbour that a packet came from, where its extension names the group. -/
def State.sender (s : State) (i : Inbound) : Option (Nat × Group × Neighbour) :=
  match i.x.group with
  | none => none
  | some gid =>
    if fld i.pkt.body 0 2 ≠ gid then none
    else (tget s.groups gid).bind fun g => (g.nbrOfQp i.q).map fun n => (gid, g, n)

/-- Whether a sequence number precedes the member's current collective (R249 step 1). -/
def Group.past (g : Group) (seq : W32) : Bool := decide (2 ^ 31 ≤ gap32 seq g.next) && !(g.cur.any fun c => c.seq == seq)

/-- A packet of a data message; the message is acted on when it is whole, and one of an earlier collective when its first packet comes. -/
def State.collPacket (s : State) (i : Inbound) : State :=
  match s.sender i with
  | none => s.discard i.port 0x51
  | some (gid, g, n) =>
    let p := i.pkt
    let s := s.modNbr gid n.idx fun n => { n with moved := s.tclk }
    if 0xFFFFFF00 ≤ p.chunk then s.discard i.port 0x51
    else
      let mine := fun (m : CollMsg) => m.src == n.idx && m.msg == p.msg && !m.whole
      let fresh : CollMsg := { src := n.idx, msg := p.msg, level := n.level, chunk := p.chunk, seq := BitVec.ofNat 32 (fld p.body 4 4),
                               sig := BitVec.ofNat 32 (fld p.body 8 4), addr := localOf p.raddr - p.idx * i.x.payload, landing := false }
      let m := (g.msgs.find? mine).getD fresh
      let m := { m with
        parts := tset m.parts p.idx p.payload
        lastIdx := if p.last then some p.idx else m.lastIdx
        landing := landsIn g n m.addr 1 }
      let seen := g.msgs.any mine
      -- a new message in a slot shows that its sender has given up whatever was to follow there
      let stale := fun (x : CollMsg) => !seen && x.dead && x.src == n.idx && x.landing && m.landing && g.slotAt n x.addr == g.slotAt n m.addr
      let s := s.modGroup gid fun g => { g with msgs := g.msgs.filter fun x => !mine x && !stale x }
      let past := !seen && g.past m.seq
      let s := if past then s.discard i.port 0x51 else s
      let s := if past && m.landing then s.freeSlot gid n.idx (g.slotAt n m.addr) else s
      let m := { m with dead := m.dead || past }
      if !m.whole then (s.modGroup gid fun g => { g with msgs := g.msgs ++ [m] }).advanceAll
      else if m.dead then s.advanceAll
      else (s.takeMsg gid m (some i.port)).advanceAll

/-- COLL_DATA (R249). -/
def execCollData (s : State) : Host.Outcome State Fault Refusal :=
  .next (s.takePacket (fun p => p.ty == 8 && (s.kindOf p).isNone) fun s i => s.takeRequest i (fun s => s.collPacket i) id)

end Sys2Proof.Machine
end

