-- ==== Sys2Proof/Machine/Control.lean ====
section
/-! DEFINITION. The control records of collectives, their timers, and the forming and destroying of groups (R229–R238, R251–R257). -/

namespace Sys2Proof.Machine

/-! ### Receiving control records (Table 7.12) -/

/-- A control record received: group, neighbour and the 64 bytes, where it is well formed. -/
def State.controlOf (s : State) (i : Inbound) (kind : Nat) : Option (Nat × Group × Neighbour × List Byte) :=
  match s.sender i with
  | none => none
  | some (gid, g, n) =>
    let l := i.pkt.payload
    if recordOk kind l then some (gid, g, n, l) else none

/-- A control record written to its place in the sender's control area (R232, R233). -/
def State.landRecord (s : State) (g : Group) (n : Neighbour) (a : Nat) (l : List Byte) : State :=
  let area := n.area + g.slots * 2 ^ g.chunkLog
  if area ≤ a ∧ a + 64 ≤ area + 1024 then (s.writeVia (g.via g.regionSeg) a l).1 else s

/-- A COLL packet of a control record taken. -/
def State.controlPacket (s : State) (i : Inbound) (kind : Nat) (act : State → Nat → Group → Neighbour → W32 → List Byte → State) : State :=
  match s.controlOf i kind with
  | some (gid, g, n, l) =>
    act ((s.landRecord g n (localOf i.pkt.raddr) l).modNbr gid n.idx fun n => { n with moved := s.tclk }) gid g n (BitVec.ofNat 32 (fld i.pkt.body 4 4)) l
  | none => s.discard i.port 0x51

/-- The first arrived control record of a kind taken. -/
def State.control (s : State) (kind : Nat) (act : State → Nat → Group → Neighbour → W32 → List Byte → State) : State :=
  s.takePacket (fun p => p.ty == 8 && s.kindOf p == some kind) fun s i =>
    s.takeRequest i (fun s => s.controlPacket i kind act) id

def ctlFlags (l : List Byte) : Nat := fld l 2 1
def ctlStatus (l : List Byte) : Nat := fld l 3 1
def ctlNamed (l : List Byte) : Nat := fld l 6 2

/-- A status that a DECISION carries. -/
def decisionOf (code : Nat) : Option Status :=
  match code with
  | 0x00 => some .ok
  | 0x41 => some .collAbortTimeout
  | 0x42 => some .collMismatch
  | 0x43 => some .collMemberLost
  | 0x46 => some .collMemberFault
  | _ => none

/-- An ENTER: kept, compared where it is a control child's, and what it announces can now be sent to. -/
def State.enterIn (s : State) (gid : Nat) (g : Group) (n : Neighbour) (seq : W32) (l : List Byte) : State :=
  let e : Entered := { idx := n.idx, seq, sig := BitVec.ofNat 32 (fld l 8 4), addr := fld l 16 8, len := fld l 24 4, flags := ctlFlags l }
  let s := s.modGroup gid fun g => { g with enters := (g.enters.filter fun x => !(x.idx == n.idx && x.seq == seq)) ++ [e] }
  let s := s.sendFirst gid seq n.idx
  let differs := g.cur.any fun c => c.seq == seq && c.sig != e.sig
  let s := if differs && g.children.contains n.idx then s.reportUp gid seq 1 n.idx else s
  ((s.tryDone gid seq).decideNow gid seq).advanceAll

/-- ENTER (R251). -/
def execEnter (s : State) : Host.Outcome State Fault Refusal := .next (s.control 0x01 fun s gid g n seq l => s.enterIn gid g n seq l)

/-- A FIRST: forwarded once; at the leader it starts the group timer. -/
def State.firstIn (s : State) (gid : Nat) (g : Group) (seq : W32) (l : List Byte) : State :=
  let s := s.sendFirst gid seq (ctlNamed l)
  if g.leader then s.startTimer gid seq else s

/-- FIRST (R251). -/
def execFirst (s : State) : Host.Outcome State Fault Refusal := .next (s.control 0x02 fun s gid g _ seq l => s.firstIn gid g seq l)

/-- A DONE of a control child. -/
def State.doneIn (s : State) (gid : Nat) (n : Neighbour) (seq : W32) (l : List Byte) : State :=
  (((s.modRound gid seq fun r => { r with done := addNew n.idx r.done, slowest := ctlNamed l }).tryDone gid seq).decideNow gid seq).advanceAll

/-- DONE (R251). -/
def execDone (s : State) : Host.Outcome State Fault Refusal := .next (s.control 0x03 fun s gid _ n seq l => s.doneIn gid n seq l)

/-- A REPORT: forwarded unchanged, or latched at the leader. -/
def State.reportIn (s : State) (gid : Nat) (g : Group) (seq : W32) (l : List Byte) : State :=
  match g.parent with
  | some p => s.sendRecord gid p 0x04 seq l
  | none => (s.reportUp gid seq (ctlFlags l) (ctlNamed l)).advanceAll

/-- REPORT (R251). -/
def execReport (s : State) : Host.Outcome State Fault Refusal := .next (s.control 0x04 fun s gid g _ seq l => s.reportIn gid g seq l)

/-- A DECISION from the control parent: forwarded, then acted on (R254). -/
def State.decisionIn (s : State) (gid : Nat) (g : Group) (n : Neighbour) (seq : W32) (l : List Byte) : State :=
  match decisionOf (ctlStatus l) with
  | none => s
  | some st =>
    if g.parent ≠ some n.idx then s
    else (((s.sendAll gid g.children 0x05 st.code seq (ctlNamed l)).act gid seq st (ctlNamed l)).advanceAll)

/-- DECISION (R254). -/
def execDecision (s : State) : Host.Outcome State Fault Refusal := .next (s.control 0x05 fun s gid g n seq l => s.decisionIn gid g n seq l)

/-- A FREE: the later of two cumulative counts holds (R233). -/
def State.freeIn (s : State) (gid : Nat) (n : Neighbour) (l : List Byte) : State :=
  let v := fld l 8 4
  let s := s.modNbr gid n.idx fun n => if gap32 (BitVec.ofNat 32 v) (BitVec.ofNat 32 n.freedBy) < 2 ^ 31 then { n with freedBy := v } else n
  s.advanceAll

/-- FREE (R233). -/
def execFree (s : State) : Host.Outcome State Fault Refusal := .next (s.control 0x06 fun s gid _ n _ l => s.freeIn gid n l)

/-! ### Forming a group (R234–R237) -/

/-- Bytes of the landing region that a number of neighbours use. -/
def landingBytes (g : Group) (nb : Nat) : Nat := nb * (g.slots * 2 ^ g.chunkLog + 1024)

/-- READY at a member: forwarded, and CREATE_GROUP completes. -/
def State.groupReady (s : State) (gid : Nat) : State :=
  match tget s.groups gid with
  | none => s
  | some g =>
    if g.state ≠ .forming then s
    else
      let s := s.sendAll gid g.children 0x08 0 0 0
      let s := s.modGroup gid fun g => { g with state := .ready, ticket := none }
      match g.ticket with
      | some j => s.answer j (.ok (landingBytes g g.nbrs.length + 2 ^ 32 * g.nbrs.length))
      | none => s

/-- FORMED up the tree, or READY down it from the leader, once every QP is connected and every control child has formed (R237). -/
def State.tryFormed (s : State) (gid : Nat) : State :=
  match tget s.groups gid with
  | none => s
  | some g =>
    let connected := g.nbrs.all fun n => (s.endpoint n.qp n.node).isSome
    let formed := g.nbrs.all fun n => !(g.children.contains n.idx) || n.formed
    if g.state ≠ .forming ∨ g.formedSent ∨ !connected ∨ !formed then s
    else
      let s := s.modGroup gid fun g => { g with formedSent := true }
      match g.parent with
      | some p => s.sendCtl gid p 0x07 0 0 0 0 0 0 0
      | none => s.groupReady gid

/-- A FORMED of a control child. -/
def State.formedIn (s : State) (gid : Nat) (n : Neighbour) : State := (s.modNbr gid n.idx fun n => { n with formed := true }).tryFormed gid

/-- FORMED (R237). -/
def execFormed (s : State) : Host.Outcome State Fault Refusal := .next (s.control 0x07 fun s gid _ n _ _ => s.formedIn gid n)

/-- A READY of the control parent. -/
def State.readyIn (s : State) (gid : Nat) (g : Group) (n : Neighbour) : State := if g.parent = some n.idx then s.groupReady gid else s

/-- READY (R237). -/
def execReady (s : State) : Host.Outcome State Fault Refusal :=
  .next (s.control 0x08 fun s gid g n _ _ => s.readyIn gid g n)

/-- The QP of a neighbour connected once its GROUP_JOIN and an OK to this member's own are held (R237). -/
def State.tryConnect (s : State) (gid j : Nat) : State :=
  match (tget s.groups gid).bind fun g => g.nbr j with
  | none => s
  | some n =>
    match n.remoteQp, tget s.qps n.qp with
    | some rq, some x =>
      if !n.okSeen || !x.ends.isEmpty then s
      else (s.modQp n.qp fun x => { x with node := n.node, ends := [(n.node, s.freshEnd x rq 0 0)] }).tryFormed gid
    | _, _ => s

/-- A group gone, with its QPs and what it still asks of its neighbours (R238). -/
def State.dropGroup (s : State) (gid : Nat) : State :=
  match tget s.groups gid with
  | none => s
  | some g =>
    let s := g.nbrs.foldl (fun s n => s.dropQp n.qp) s
    { s with groups := tdel s.groups gid, requests := s.requests.filter fun r => !r.qpOf.any fun x => x.1 == gid }

/-- Formation has failed (R237). -/
def State.formFail (s : State) (gid detail : Nat) : State :=
  match tget s.groups gid with
  | none => s
  | some g =>
    if g.state ≠ .forming then s
    else
      let s := s.dropGroup gid
      match g.ticket with
      | some j => s.answer j (.fail .collFormFailed detail)
      | none => s

/-- FORMATION_TIMEOUT (R237). -/
def execFormationTimeout (group : Nat) (s : State) : Host.Outcome State Fault Refusal :=
  .next (if s.live && (tget s.groups group).any (fun g => decide (g.formBy ≤ s.tclk)) then s.formFail group 1 else s)

/-- The REPLY to this member's GROUP_JOIN. A member that has no such group yet is asked again after 100 µs. -/
def State.joinReply (s : State) (gid j status : Nat) (old : Request) : State :=
  match status with
  | 0 => (s.modNbr gid j fun n => { n with okSeen := true }).tryConnect gid j
  | 1 =>
    let id := s.nextReq % 65536
    { s with nextReq := (id + 1) % 65536, requests := s.requests ++ [{ old with id, data := splice old.data 2 (leBytes 2 id), at_ := s.tclk }] }
  | 2 => s.formFail gid 2
  | _ => s.formFail gid 3

/-- The answer to a GROUP_JOIN (R237), and what it makes of this member. -/
def State.joinIn (s : State) (src : Nat) (l : List Byte) : State × Nat :=
  let gid := fld l 4 2
  let j := fld l 12 2
  if l.length ≠ 32 ∨ !zeroAt l 1 1 ∨ !zeroAt l 6 2 ∨ !zeroAt l 14 2 ∨ !zeroAt l 19 1 ∨ !zeroAt l 28 4 then (s, 4)
  else match tget s.groups gid with
    | none => (s, 1)
    | some g =>
      if BitVec.ofNat 32 (fld l 8 4) ≠ g.crc then (s, 2)
      else match g.nbr j with
        | none => (s, 3)
        | some n =>
          if n.node ≠ src then (s, 3)
          else ((s.modNbr gid j fun n => { n with remoteQp := some (n.remoteQp.getD (fld l 16 3)), remote := fld l 20 8 }).tryConnect gid j, 0)

/-- GROUP_JOIN (R237). -/
def execGroupJoin (s : State) : Host.Outcome State Fault Refusal :=
  .next (s.takeFabric (fun l => fld l 0 1 == 0x20) fun s a l =>
    let r := s.onceFrom a.pkt.src (fld l 2 2) fun s => s.joinIn a.pkt.src l
    r.1.replyFabric a.pkt.src l r.2)

/-- GROUP_JOIN as this member sends it (Table 7.4). -/
def joinBytes (gid me qp area : Nat) (crc : W32) : List Byte :=
  leBytes 1 0x20 ++ leBytes 3 0 ++ leBytes 2 gid ++ leBytes 2 0 ++ leBytes 4 crc.toNat ++ leBytes 2 me ++ leBytes 2 0 ++ leBytes 3 qp ++
  leBytes 1 0 ++ leBytes 8 area ++ leBytes 4 0

/-- Member indices of the neighbours with their levels: by level, then by position (R229). -/
def neighbourList (sizes : List Nat) (me : Nat) : List (Nat × Nat) :=
  (List.range sizes.length).flatMap fun k => (peersAt sizes me k).map fun j => (j, k)

/-- The group that CREATE_GROUP describes; none where a field is out of range (R234, R235). -/
def State.groupArgs (s : State) (j : Job) : Option Group :=
  let c := j.conts.headD []
  let levels := j.arg 40 1
  let sizes := (List.range levels).map fun k => j.arg (32 + 2 * k) 2 + 1
  let log := if j.arg 42 1 = 0 then 16 else j.arg 42 1
  let slots := if j.arg 43 1 = 0 then 4 else j.arg 43 1
  let gal := j.arg 44 1
  let serving := (bitsSet 8 (j.arg 45 1)).map (8 * gal + ·)
  let lag := bit (j.arg 41 1) 0
  let enc := bit (fld c 14 1) 0
  let form := if fld c 10 2 = 0 then 100 else fld c 10 2
  let fn := s.fn j.f
  let ok := decide (j.arg 16 2 ≤ 4095) && decide (2 ≤ j.arg 20 4 ∧ j.arg 20 4 ≤ 65536) && decide (1 ≤ levels ∧ levels ≤ 4) &&
    zeroAt j.head (32 + 2 * levels) (8 - 2 * levels) && decide (j.arg 41 1 ≤ 1) && decide (12 ≤ log ∧ log ≤ 20) &&
    decide (2 ≤ slots ∧ slots ≤ 16) && decide (gal ≤ 5) && !serving.isEmpty && serving.all s.present && decide (levels ≤ serving.length) &&
    decide (prod sizes = j.arg 20 4) && (lag || (zeroAt c 0 8 && zeroAt c 8 2)) && (!lag || fn.feature 4) && decide (form ≤ 600) &&
    decide (fld c 12 1 ≤ 7) && decide (fld c 14 1 ≤ 1) && zeroAt c 15 1 && (enc || zeroAt c 16 2) && (!enc || fn.feature 1) && zeroAt c 18 42
  match payloadOf (fld c 13 1) with
  | none => none
  | some P =>
    if !ok then none
    else some { ctx := j.arg 16 2, f := j.f, members := [], me := 0, sizes, chunkLog := log, slots, laggard := lag,
                timeout := if j.arg 46 2 = 0 then 50 else j.arg 46 2, report := fld c 8 2, formBy := s.tclk + form * 100000000, serving,
                region := 0, regionLen := 4096 * j.arg 56 4, tc := fld c 12 1, payload := P, encrypted := enc, slot := fld c 16 2, ticket := some j }

/-- The member list (Table 7.3): nodes, or none where a reserved byte is not zero, the local node is not listed once, or a node is twice. -/
def State.memberList (s : State) (l : List Byte) (m : Nat) : Option (List Nat) :=
  let recs := (List.range m).map fun i => slice l (8 * i) 8
  let nodes := recs.map fun r => fld r 0 2
  if recs.all (fun r => zeroAt r 2 6) && decide nodes.Nodup && nodes.contains s.node then some nodes else none

/-- Whether a range lies wholly within the tier A of the clusters and apart from every other landing region (R232). -/
def State.regionOk (s : State) (serving : List Nat) (a n : Nat) : Bool :=
  decide (0 < n) && decide (a + n ≤ 0x48000000) &&
  (List.range ((a + n - 1) / 0x1800000 + 1 - a / 0x1800000)).all (fun i => serving.contains (a / 0x1800000 + i)) &&
  !(s.groups.any fun e => overlaps e.2.region e.2.regionLen a n)

/-- The landing region and the wait counter translated. -/
def State.groupMemory (s : State) (j : Job) (g : Group) : Except Answer Group :=
  let c := j.conts.headD []
  match s.adminBuf j.f g.ctx (j.arg 48 8) g.regionLen .write, s.adminBuf j.f g.ctx (j.arg 48 8) g.regionLen .fold,
      (if g.laggard then s.adminBuf j.f g.ctx (fld c 0 8) 8 .write else s.adminBuf j.f g.ctx (j.arg 48 8) g.regionLen .write) with
  | .ok r, .ok _, .ok w =>
    if g.laggard ∧ localOf w.addr % 8 ≠ 0 then .error (.refuse .argument)
    else .ok { g with region := localOf r.addr, regionSeg := r.via.seg, waitAddr := localOf w.addr, waitSeg := w.via.seg, refs := if g.laggard then [r.ref, w.ref] else [r.ref] }
  | _, _, _ => .error (.refuse .argument)

/-- The neighbour QPs created and a GROUP_JOIN sent to each neighbour (R237 steps 1 and 2). -/
def State.startForming (s : State) (gid : Nat) (g : Group) : State :=
  let size := g.slots * 2 ^ g.chunkLog + 1024
  let l := neighbourList g.sizes g.me
  let s := State.wakeDeep { s with groups := tset s.groups gid g }
  ((List.range l.length).zip l).foldl (fun s (e : Nat × Nat × Nat) =>
    let node := g.members.getD e.2.1 0
    let r := s.addQp { ctx := g.ctx, f := g.f, encrypted := g.encrypted, slot := g.slot, payload := g.payload, home := 0xFFFF, tc := g.tc,
                       node, group := some gid }
    let n : Neighbour := { idx := e.2.1, node, level := e.2.2, qp := r.2, area := g.region + e.1 * size }
    let s := r.1.modGroup gid fun g => { g with nbrs := g.nbrs ++ [n] }
    s.request node (joinBytes gid g.me r.2 (s.node * 2 ^ 48 + n.area) g.crc) (some (gid, e.2.1))) s

def State.doCreateGroup (s : State) (j : Job) : State × Answer :=
  let gid := j.arg 18 2
  match s.groupArgs j with
  | none => (s, .refuse .argument)
  | some g =>
    if !s.ownsCtx j.f g.ctx then (s, .refuse .unknown)
    else if g.encrypted && !s.slotGrants g.slot g.ctx then (s, .refuse .argument)
    else match s.adminRead j g.ctx (j.arg 24 8) (8 * j.arg 20 4) with
      | (s, .error (.fail .memUncorrectable d)) => (s, .fail .memUncorrectable d)
      | (s, .error _) => (s, .refuse .argument)
      | (s, .ok list) =>
        match s.memberList list (j.arg 20 4), s.groupMemory j g with
        | some members, .ok g =>
          let me := members.idxOf s.node
          let nb := (neighbourList g.sizes me).length
          if g.regionLen < landingBytes g nb ∨ !s.regionOk g.serving g.region g.regionLen then (s, .refuse .argument)
          else if (tget s.groups gid).isSome then (s, .refuse .inUse)
          else if 4096 ≤ s.groups.length then (s, .resource 1)
          else if j.f ≠ 0 ∧ (s.fn j.f).grant.groups ≤ s.groupsOf j.f then (s, .resource 2)
          else match s.qpRoom j.f nb false with
            | some d => (s, .resource d)
            | none =>
              let crc := crc32c (leBytes 2 gid ++ slice j.head 20 4 ++ slice j.head 32 8 ++ slice j.head 40 4 ++ slice j.head 46 2 ++
                slice (j.conts.headD []) 12 3 ++ list)
              let s := s.undefineRange j.f g.region g.regionLen
              ((s.startForming gid { g with members, me, crc := BitVec.ofNat 32 crc }).tryFormed gid, .later)
        | none, _ => (s, .refuse .argument)
        | _, .error a => (s, a)

/-- CREATE_GROUP (R237). -/
def execCreateGroup (f : Nat) (s : State) : Host.Outcome State Fault Refusal :=
  if fnOk f then .next (s.admin f 0x20 none [(16, 44)] fun s j => s.doCreateGroup j)
  else .next s

/-- Whether a collective job of a group is in flight or armed (R238). -/
def State.groupBusy (s : State) (gid : Nat) (g : Group) : Bool :=
  ((s.ops ++ s.spent).any fun o => o.kind = .coll gid) ||
  s.armed.any fun a => isColl a.job.opcode && fld a.job.head 56 2 == gid && a.job.ctx == g.ctx

def State.doDestroyGroup (s : State) (j : Job) : State × Answer :=
  let gid := j.arg 18 2
  if 4095 < j.arg 16 2 then (s, .refuse .argument)
  else match tget s.groups gid with
    | none => (s, .refuse .unknown)
    | some g =>
      if g.ctx ≠ j.arg 16 2 ∨ g.f ≠ j.f then (s, .refuse .unknown)
      else if g.state = .forming then (s, .refuse .state)
      else if s.groupBusy gid g then (s, .refuse .inUse)
      else ((s.dropGroup gid).advanceAll, .ok 0)

/-- DESTROY_GROUP (R238). -/
def execDestroyGroup (f : Nat) (s : State) : Host.Outcome State Fault Refusal :=
  if fnOk f then .next (s.admin f 0x21 none [(16, 4)] fun s j => s.doDestroyGroup j)
  else .next s

/-! ### Laggard mode and timers (R253, R255, R257) -/

/-- An ALL_ENTERED of the control parent. -/
def State.allEnteredIn (s : State) (gid : Nat) (g : Group) (n : Neighbour) (seq : W32) : State :=
  if g.parent ≠ some n.idx then s
  else
    let s := s.sendAll gid g.children 0x09 0 seq 0
    if g.cur.any fun c => c.seq == seq then s.addWait gid else s

/-- ALL_ENTERED (R257). -/
def execAllEntered (s : State) : Host.Outcome State Fault Refusal :=
  .next (s.control 0x09 fun s gid g n seq _ => s.allEnteredIn gid g n seq)

/-- An ENTERED of a control child. -/
def State.enteredIn (s : State) (gid : Nat) (n : Neighbour) (seq : W32) (l : List Byte) : State :=
  (s.modRound gid seq fun r => { r with entered := addNew n.idx r.entered, lastIn := ctlNamed l }).tryEntered gid seq

/-- ENTERED (R257). -/
def execEntered (s : State) : Host.Outcome State Fault Refusal :=
  .next (s.control 0x0A fun s gid _ n seq l => s.enteredIn gid n seq l)

/-- A control record acted on, by its kind (Table 7.12). -/
def State.controlIn (s : State) (kind gid : Nat) (g : Group) (n : Neighbour) (seq : W32) (l : List Byte) : State :=
  match kind with
  | 0x01 => s.enterIn gid g n seq l
  | 0x02 => s.firstIn gid g seq l
  | 0x03 => s.doneIn gid n seq l
  | 0x04 => s.reportIn gid g seq l
  | 0x05 => s.decisionIn gid g n seq l
  | 0x06 => s.freeIn gid n l
  | 0x07 => s.formedIn gid n
  | 0x08 => s.readyIn gid g n
  | 0x09 => s.allEnteredIn gid g n seq
  | _ => s.enteredIn gid n seq l

/-- The leader's timer compared, after rules 1 to 4 of R253. -/
def State.groupTimeout (s : State) (gid : Nat) : State :=
  match tget s.groups gid with
  | none => s
  | some g =>
    if !g.leader || g.laggard || g.state != .ready then s
    else
      let due := g.rounds.filter fun r => r.decided.isNone && r.timerAt.any fun t => decide (t + g.timeout * 1000000 ≤ s.tclk)
      (due.foldl (fun s r => (s.decideNow gid r.seq).decideAs gid r.seq .collAbortTimeout 0) s).advanceAll

/-- GROUP_TIMEOUT (R253). -/
def execGroupTimeout (group : Nat) (s : State) : Host.Outcome State Fault Refusal := .next (if s.live then s.groupTimeout group else s)

/-- A member without a DECISION for twice the group timeout (R255). -/
def State.decisionWait (s : State) (gid : Nat) : State :=
  match tget s.groups gid with
  | none => s
  | some g =>
    match g.cur with
    | none => s
    | some c =>
      if g.laggard ∨ s.tclk < c.startAt + 2 * g.timeout * 1000000 then s
      else ((s.collEndEarly gid).modGroup gid fun g => { g with state := .failed }).advanceAll

/-- DECISION_WAIT_TIMEOUT (R255). -/
def execDecisionWaitTimeout (group : Nat) (s : State) : Host.Outcome State Fault Refusal := .next (if s.live then s.decisionWait group else s)

end Sys2Proof.Machine
end

