-- ==== Sys2Proof/Machine/Fabric.lean ====
section
/-! DEFINITION. Route messages, replies and events of the fabric processors, CREDIT frames, and ports that go down and come up
(R205, R209, R212–R214, R217, R452). -/

namespace Sys2Proof.Machine

/-! ### The bytes of a route slot (Tables 6.2, 6.3) -/

def RouteEntry.bytes (e : RouteEntry) : List Byte :=
  leBytes 2 e.mask.toNat ++ leBytes 1 (e.escape % 16 + 128 * ofBool e.valid) ++ leBytes 1 (e.dist % 64) ++ leBytes 2 e.minVia ++ leBytes 2 0 ++
  leBytes 2 e.escVia ++ leBytes 6 0

/-- A route entry; none where a reserved field is not zero. -/
def RouteEntry.read? (l : List Byte) : Option RouteEntry :=
  if bits (fld l 2 1) 6 4 ≠ 0 ∨ 63 < fld l 3 1 ∨ !zeroAt l 6 2 ∨ !zeroAt l 10 6 then none
  else some { mask := BitVec.ofNat 16 (fld l 0 2), escape := fld l 2 1 % 16, valid := bit (fld l 2 1) 7, dist := fld l 3 1, minVia := fld l 4 2,
              escVia := fld l 8 2 }

def AddrEntry.bytes (e : AddrEntry) : List Byte :=
  slice e.ip 0 16 ++ slice e.mac 0 6 ++ leBytes 2 (e.vlan % 4096) ++ leBytes 1 (ofBool e.valid + 2 * ofBool e.tagged) ++ leBytes 7 0

def AddrEntry.read? (l : List Byte) : Option AddrEntry :=
  if 4095 < fld l 22 2 ∨ 3 < fld l 24 1 ∨ !zeroAt l 25 7 then none
  else some { ip := slice l 0 16, mac := slice l 16 6, vlan := fld l 22 2, valid := bit (fld l 24 1) 0, tagged := bit (fld l 24 1) 1 }

/-- The CRC register over the entries of a table of 65,536, those not listed being what `fill` puts in. -/
def crcTable {α : Type} (fill : Nat → Nat → Nat) (bytes : α → List Byte) : Tab α → Nat → Nat → Nat
  | [], next, c => fill (65536 - next) c
  | (k, v) :: r, next, c => crcTable fill bytes r (k + 1) (crcRun (fill (k - next) c) (bytes v))

/-- The register after n copies of a record. -/
def crcTimes (l : List Byte) : Nat → Nat → Nat
  | 0, c => c
  | n + 1, c => crcTimes l n (crcRun c l)

/-- The CRC of a slot's contents (Table 6.5). -/
def RouteSlot.crc (r : RouteSlot) : Nat :=
  let rest := fun (n c : Nat) => if r.rest = {} then crcZeros (n * 16) c else crcTimes r.rest.bytes n c
  let c := crcTable rest RouteEntry.bytes r.table 0 crcStart
  let c := crcRun c (r.inter.flatMap (leBytes 4))
  crcEnd (crcTable (fun n c => crcZeros (n * 32) c) AddrEntry.bytes r.addrs 0 c)

/-! ### Applying a route message (R209, R213, R214) -/

def replyOk : Nat := 0
def replyState : Nat := 1
def replyCrc : Nat := 2
def replyInUse : Nat := 3
def replyArgument : Nat := 4

/-- Records of one size read from a message; none where one has a reserved field set. -/
def readAll {α : Type} (size : Nat) (get : List Byte → Option α) (l : List Byte) (n : Nat) : Option (List α) :=
  ((List.range n).map fun i => get (slice l (16 + size * i) size)).foldr (fun x acc =>
    match x, acc with
    | some x, some r => some (x :: r)
    | _, _ => none) (some [])

/-- Entries put into a table from an index on; one that says nothing is not listed. -/
def putFrom {α : Type} [DecidableEq α] (none_ : α) (t : Tab α) (first : Nat) : List α → Tab α
  | [] => t
  | x :: r => putFrom none_ (if x = none_ then tdel t first else tset t first x) (first + 1) r

/-- The intermediate set with nodes written from a position on. -/
def putInter (l : List Nat) (p : Nat) (new : List Nat) : List Nat := l.take p ++ new ++ l.drop (p + new.length)

/-- The form of a message (R213 check 2). -/
def routeForm (r : RouteSlot) (l : List Byte) : Bool :=
  let n := l.length
  let count := fld l 8 2
  decide (fld l 1 1 ≤ 1) &&
  match fld l 0 1 with
  | 0x02 =>
    zeroAt l 6 2 && zeroAt l 10 6 && decide (1 ≤ count ∧ count ≤ 240 ∧ n = 16 + 16 * count ∧ fld l 4 2 + count ≤ 65536) &&
      (readAll 16 RouteEntry.read? l count).isSome
  | 0x03 => zeroAt l 4 4 && n == 12
  | 0x06 =>
    zeroAt l 4 4 && zeroAt l 12 4 && decide (count ≤ 1000 ∧ n = 16 + 4 * count ∧ fld l 10 2 ≤ r.inter.length ∧ fld l 10 2 + count ≤ 1024) &&
      (List.range count).all fun i => zeroAt l (18 + 4 * i) 2
  | 0x07 =>
    zeroAt l 6 2 && zeroAt l 10 6 && decide (1 ≤ count ∧ count ≤ 120 ∧ n = 16 + 32 * count ∧ fld l 4 2 + count ≤ 65536) &&
      (readAll 32 AddrEntry.read? l count).isSome
  | _ => n == 4

def State.modSlot (s : State) (e : Nat) (g : RouteSlot → RouteSlot) : State := { s with slots := tmodD s.slots e {} g }

/-- A HELLO of this node's (R431): subtype, ZFT mask, node, port, bundle. -/
def State.helloBytes (s : State) (sub p : Nat) : List Byte :=
  leBytes 1 sub ++ leBytes 1 0 ++ leBytes 2 (s.boot.running.elim 2 (·.zft.toNat)) ++ leBytes 2 s.node ++ leBytes 1 0 ++ leBytes 1 p ++
  leBytes 8 (s.boot.running.elim 0 (·.id.toNat))

/-- HELLO sent to each node whose switched address has become valid in a sealed slot (R431). -/
def State.greet (s : State) (e : Nat) : State :=
  if s.boot.running.isNone then s
  else
    let new := ((s.slot e).addrs.filter fun a => a.2.valid && a.1 != s.node && !s.agent.greeted.contains a.1 && (tget s.agent.versions a.1).isNone).map (·.1)
    new.foldl (fun s n =>
      let s := { s with agent := { s.agent with greeted := s.agent.greeted ++ [n] } }
      s.launch (s.stamp { ty := 0x20, dst := n, plen := 16, body := s.helloBytes 0x01 0, first := true, last := true } 0) 7) s

/-- A message of Table 6.4 applied: the state and the status of its REPLY. -/
def State.applyRoute (s : State) (l : List Byte) : State × Nat :=
  let e := fld l 1 1 % 2
  let r := s.slot e
  let count := fld l 8 2
  if !routeForm r l then (s, replyArgument)
  else match fld l 0 1, r.state with
    | 0x01, .sealed_ => (s, replyState)
    | 0x01, _ => (s.modSlot e fun _ => { state := .loading }, replyOk)
    | 0x02, .loading => (s.modSlot e fun r => { r with table := putFrom {} r.table (fld l 4 2) ((readAll 16 RouteEntry.read? l count).getD []) }, replyOk)
    | 0x06, .loading =>
      (s.modSlot e fun r => { r with inter := putInter r.inter (fld l 10 2) ((List.range count).map fun i => fld l (16 + 4 * i) 2) }, replyOk)
    | 0x07, .loading => (s.modSlot e fun r => { r with addrs := putFrom {} r.addrs (fld l 4 2) ((readAll 32 AddrEntry.read? l count).getD []) }, replyOk)
    | 0x03, .loading =>
      if r.crc = fld l 8 4 then ((s.modSlot e fun r => { r with state := .sealed_ }).wakeNamed.greet e, replyOk) else (s, replyCrc)
    | 0x03, .sealed_ => (s, if r.crc = fld l 8 4 then replyOk else replyCrc)
    | 0x04, .sealed_ => ({ s with epoch := e }, replyOk)
    | 0x05, .sealed_ => if s.epoch = e then (s, replyInUse) else (s.modSlot e fun _ => {}, replyOk)
    | _, _ => (s, replyState)

/-- A message of Table 6.4 applied once (R213). -/
def State.routeOnce (s : State) (src : Nat) (l : List Byte) : State × Nat := s.once src (fld l 2 2) fun s => s.applyRoute l

/-- A route message from the fabric: accepted from the manager's node alone, or from the root node in its place (R212). -/
def State.routeMessage (s : State) (op : Nat) : State :=
  s.takeFabric (fun l => fld l 0 1 == op) fun s a l =>
    if !s.managedBy a.pkt.src then s.discard a.port 0x4C
    else
      let r := s.routeOnce a.pkt.src l
      ({ r.1 with agent := { r.1.agent with acted := r.1.agent.acted || s.fmNode.isSome } }).replyFabric a.pkt.src l r.2

/-- ROUTE_BEGIN (R209). -/
def execRouteBegin (s : State) : Host.Outcome State Fault Refusal := .next (s.routeMessage 0x01)
/-- ROUTE_WRITE (R213). -/
def execRouteWrite (s : State) : Host.Outcome State Fault Refusal := .next (s.routeMessage 0x02)
/-- ROUTE_SEAL (R209). -/
def execRouteSeal (s : State) : Host.Outcome State Fault Refusal := .next (s.routeMessage 0x03)
/-- INJECT (R209). -/
def execInject (s : State) : Host.Outcome State Fault Refusal := .next (s.routeMessage 0x04)
/-- RETIRE (R209). -/
def execRetire (s : State) : Host.Outcome State Fault Refusal := .next (s.routeMessage 0x05)
/-- INTERMEDIATES (R213). -/
def execIntermediates (s : State) : Host.Outcome State Fault Refusal := .next (s.routeMessage 0x06)
/-- ADDRESS (R213). -/
def execAddress (s : State) : Host.Outcome State Fault Refusal := .next (s.routeMessage 0x07)

/-- FABRIC_LOCAL: the message read and applied as one of a source of its own (R452). -/
def State.doFabricLocal (s : State) (j : Job) : State × Answer :=
  let n := j.arg 16 2
  if n < 4 ∨ 1024 < n then (s, .refuse .argument)
  else match s.adminRead j (s.firstCtx j.f) (j.arg 24 8) n with
    | (s, .error a) => (s, a)
    | (s, .ok l) =>
      if fld l 0 1 = 0 ∨ 7 < fld l 0 1 then (s, .refuse .argument)
      else
        let r := s.routeOnce 65536 l
        ({ r.1 with agent := { r.1.agent with acted := true } }, .ok r.2)

/-- FABRIC_LOCAL (R452). -/
def execFabricLocal (f : Nat) (s : State) : Host.Outcome State Fault Refusal :=
  if fnOk f then .next (s.admin f 0x3C none [(16, 2), (24, 8)] fun s j => s.doFabricLocal j)
  else .next s

/-! ### Replies, retransmission, events (R205, R213) -/

/-- ROUTE_MESSAGE_RETRY (R213). -/
def execRouteMessageRetry (request : Nat) (s : State) : Host.Outcome State Fault Refusal :=
  .next (if s.live then
    match s.requests.find? fun r => r.id == request with
    | some r =>
      if r.at_ + 100000 ≤ s.tclk then
        let s := { s with requests := updAll (fun x => x == r) (fun x => { x with at_ := s.tclk }) s.requests }
        match r.port with
        | some p => s.sendNear p r.data
        | none => s.sendFabric r.dst r.data
      else s
    | none => s
  else s)

/-- EVENT (R205): passed on to the fabric manager's software, and never refused. -/
def execEvent (s : State) : Host.Outcome State Fault Refusal :=
  .next (s.takeFabric (fun l => fld l 0 1 == 0x10) fun s a l =>
    let m : Passed := { src := a.pkt.src, data := l }
    let r := s.onceFrom a.pkt.src (fld l 2 2) fun s => ({ s with passed := s.passed ++ [m] }, replyOk)
    r.1.replyFabric a.pkt.src l r.2)

/-- A port's change reported to the fabric manager, where one is named. -/
def State.portEvent (s : State) (p : Nat) (up : Bool) : State :=
  match s.fmNode with
  | some n => s.request n (leBytes 1 0x10 ++ leBytes 3 0 ++ leBytes 1 p ++ leBytes 1 (ofBool up) ++ leBytes 2 0 ++ leBytes 4 s.time)
  | none => s

/-! ### Links (R205, R343, R421, R422, R431) -/

/-- The port is up while any of its sub-ports is; a change is reported. -/
def State.portState (s : State) (p : Nat) : State :=
  let up := !(s.upSubs p).isEmpty
  if (s.port p).up = up then s else (s.modPort p fun x => { x with up }).portEvent p up

/-- A sub-port's link lost. -/
def State.linkDown (s : State) (p sub : Nat) : State :=
  let s := (s.modSub p sub fun x => { x with up := false }).portState p
  if (s.port p).up then s
  else State.modPort { s with requests := s.requests.filter fun r => r.port != some p } p fun x => { x with near := [] }

/-- A sub-port's link come up: the version exchange and LLDP begin afresh. -/
def State.linkUp (s : State) (p sub delay : Nat) : State :=
  let x := s.port p
  let own := (List.range (8 / s.subCount p)).map (sub * (8 / s.subCount p) + ·)
  let broken := s.subCount p ≠ 1 && own.any fun m => x.failed.getLsbD m
  if !s.portEnabled p ∨ s.subCount p ≤ sub ∨ s.portsHeld ∨ x.retrain ∨ x.width = .down ∨ broken then s
  else
    let s := s.modPort p fun x => { x with delay, blocked := 0, version := 1, helloDone := false, helloSeen := false, helloNext := s.tclk, parked := false, waking := none }
    (s.modSub p sub fun x => { x with up := true, lldpNext := s.tclk, lldpSent := 0 }).portState p

/-- PORT_LINK_DOWN (R205). -/
def execPortLinkDown (p sub : Nat) (s : State) : Host.Outcome State Fault Refusal :=
  if portOk p && subOk sub then .next (if s.live then s.linkDown p sub else s) else .next s

/-- PORT_LINK_UP (R205). -/
def execPortLinkUp (p sub delay : Nat) (s : State) : Host.Outcome State Fault Refusal :=
  if portOk p && subOk sub then .next (if s.live then s.linkUp p sub delay else s) else .next s

/-! ### CREDIT frames (R217) -/

/-- The payload of a CREDIT frame (Table 6.7). -/
def Port.creditBytes (x : Port) : List Byte :=
  leBytes 1 0x80 ++ leBytes 1 0 ++ leBytes 2 x.creditSeq ++ List.replicate 12 0 ++
  (List.range 13).flatMap (fun i => leBytes 4 (tgetD x.freed i 0)) ++ List.replicate 12 0

/-- A frame put among those that leave a port ahead of every class. -/
def State.sendCtrl (s : State) (p : Nat) (data : List Byte) : State :=
  s.modSub p 0 fun x => { x with ctrl := x.ctrl ++ [s.directFrame p (s.linkPacket p data)] }

/-- A CREDIT frame where one is due. -/
def State.creditFrame (s : State) (p : Nat) : State :=
  let x := s.port p
  if s.portSwitched p ∨ !x.up ∨ !(decide (x.creditAt + 4000 ≤ s.tclk) || (x.creditNew && decide (x.creditAt + 128 ≤ s.tclk))) then s
  else (s.sendCtrl p x.creditBytes).modPort p fun x => { x with creditSeq := (x.creditSeq + 1) % 65536, creditAt := s.tclk, creditNew := false }

/-- CREDIT_FRAME_TIMER (R217). -/
def execCreditFrameTimer (p : Nat) (s : State) : Host.Outcome State Fault Refusal :=
  if portOk p then .next (if s.live then s.creditFrame p else s) else .next s

/-- CREDIT (R217): the later of two cumulative counts holds. What waited for credit of the neighbour is sent. -/
def execCredit (p : Nat) (s : State) : Host.Outcome State Fault Refusal :=
  if portOk p then
    .next (s.takeLink p 0x80 fun s _ l =>
      let s := s.modPort p fun x => { x with
        freedBy := (List.range 13).foldl (fun t i =>
          let v := fld l (16 + 4 * i) 4
          if gap32 (BitVec.ofNat 32 v) (BitVec.ofNat 32 (tgetD t i 0)) < 2 ^ 31 then tset t i v else t) x.freedBy }
      State.sendWaiting (s.port p).near.length s p)
  else .next s

end Sys2Proof.Machine
end

