-- ==== Sys2Proof/Machine/Frames.lean ====
section
/-! DEFINITION. Receiving frames: MAC statistics, pause, filters and policers, RECVs, and the checks of arriving packets
(R133, R158–R167, R193, R195, R209, R217, R349–R351, R361, R362). -/

namespace Sys2Proof.Machine

/-! ### MAC statistics (R361, R362) -/

/-- A statistic increased: 40 bits wide; bit 39 going from 0 to 1 sets the half flag and raises PF0's port-event vector. -/
def State.mac (s : State) (p sub i n : Nat) : State :=
  let x := s.sub p sub
  let v := (tgetD x.stats i 0).toNat
  let w := v + n
  let turned := decide (v < 2 ^ 39 ∧ 2 ^ 39 ≤ w)
  let wraps := decide (2 ^ 40 ≤ w) && x.half.getLsbD i
  let s := s.modSub p sub fun x => { x with
    stats := tset x.stats i (BitVec.ofNat 64 (w % 2 ^ 40))
    half := if turned then x.half ||| (1#128 <<< i) else x.half
    ovf := if wraps then x.ovf ||| (1#128 <<< i) else x.ovf }
  if turned then s.interrupt 0 2 else s

/-- The size bin of a frame of n bytes. -/
def sizeBin (n : Nat) : Nat :=
  if n ≤ 64 then 0 else if n ≤ 127 then 1 else if n ≤ 255 then 2 else if n ≤ 511 then 3 else if n ≤ 1023 then 4 else if n ≤ 1518 then 5
  else if n ≤ 2047 then 6 else if n ≤ 4095 then 7 else 8

def dmacOf (l : List Byte) : Nat := beNat (slice l 0 6)

/-- 0 unicast, 1 multicast, 2 broadcast. -/
def destKind (l : List Byte) : Nat := if dmacOf l = 2 ^ 48 - 1 then 2 else if bit (fld l 0 1) 0 then 1 else 0

/-- The statistics of a frame of n bytes that was received well or sent, from a base index. -/
def State.macFrame (s : State) (p sub octets frames bins n : Nat) (l : List Byte) : State :=
  (((s.mac p sub octets n).mac p sub frames 1).mac p sub (frames + 1 + destKind l) 1).mac p sub (bins + sizeBin n) 1

/-! ### Policers (R351) -/

inductive Colour where
  | green | yellow | red
  deriving DecidableEq, Repr

/-- Tokens are counted in thousandths of a bit. -/
structure Meter where
  mode  : Nat
  aware : Bool
  cir   : Nat
  pir   : Nat
  cbs   : Nat
  ebs   : Nat

/-- The buckets as time has filled them. Mode 0 fills the excess bucket with what the committed one does not take (RFC 2697). -/
def Meter.fill (m : Meter) (b : Int × Int × Nat) (now : Nat) : Int × Int :=
  let dt := now - b.2.2
  let c := b.1 + m.cir * dt
  let top : Int := m.cbs * 8000
  let high : Int := m.ebs * 8000
  if m.mode = 0 then (min top c, min high (b.2.1 + max 0 (c - top)))
  else (min top c, min high (b.2.1 + m.pir * dt))

/-- The colour of a frame of n bytes, and the buckets after it (RFC 2697, RFC 2698). -/
def Meter.colour (m : Meter) (b : Int × Int) (n : Nat) (yellow : Bool) : Colour × Int × Int :=
  let k : Int := n * 8000
  let yellow := m.aware && yellow
  if m.mode = 0 then
    if !yellow && decide (k ≤ b.1) then (.green, b.1 - k, b.2)
    else if k ≤ b.2 then (.yellow, b.1, b.2 - k) else (.red, b.1, b.2)
  else if b.2 < k then (.red, b.1, b.2)
  else if yellow || decide (b.1 < k) then (.yellow, b.1, b.2 - k)
  else (.green, b.1 - k, b.2 - k)

/-- PORT_POLICERi of a port (Table 11.6): its offset, its upper half, and what it says. -/
def policerBase (p i : Nat) : Nat := portBase p + 0x600 + 16 * i
def State.policerTop (s : State) (p i : Nat) : Nat := s.dword 0 (policerBase p i + 8)
def State.meter (s : State) (p i : Nat) : Meter :=
  let lo := s.dword 0 (policerBase p i)
  let hi := s.policerTop p i
  { mode := bits hi 32 32, aware := bit hi 33, cir := bits lo 23 0, pir := bits lo 47 24, cbs := bits lo 63 48 + bits hi 7 0 * 2 ^ 16, ebs := bits hi 31 8 }

/-- The buckets of a policer as time has filled them; they are full when it is enabled (RFC 2697, RFC 2698). -/
def State.filled (s : State) (p i : Nat) : Int × Int :=
  let m := s.meter p i
  m.fill (tgetD (s.port p).buckets i ((m.cbs * 8000 : Int), (m.ebs * 8000 : Int), s.tclk)) s.tclk

/-- A frame metered by a policer of a port: the colour that decides its fate, and the state. -/
def State.police (s : State) (p i n : Nat) (dei : Bool) : State × Colour × Bool :=
  if !bit (s.policerTop p i) 34 then (s, .green, false)
  else
    let r := (s.meter p i).colour (s.filled p i) n dei
    (s.modPort p fun x => { x with buckets := tset x.buckets i (r.2.1, r.2.2, s.tclk) }, r.1, bit (s.policerTop p i) 35)

/-- The buckets of a policer brought up to date before its register is written; those of one that is not enabled are full. -/
def State.policeTouch (s : State) (p i : Nat) : State :=
  let b := s.filled p i
  s.modPort p fun x => { x with
    buckets := if bit (s.policerTop p i) 34 then tset x.buckets i (b.1, b.2, s.tclk) else tdel x.buckets i }

/-! ### Filters and RECVs (R133, R350) -/

/-- The 802.1Q tag of a frame: VLAN ID, DEI. -/
def tagOf (l : List Byte) : Option (Nat × Bool) :=
  if beNat (slice l 12 2) = 0x8100 then some (beNat (slice l 14 2) % 4096, bit (beNat (slice l 14 2)) 12) else none

/-- Whether filter i of a port takes a frame; `ours` where step 6 of R349 applies. -/
def State.filterTakes (s : State) (p i : Nat) (l : List Byte) (ours : Bool) : Bool :=
  let o := portBase p + 0x200 + 16 * i
  let lo := s.dword 0 o
  let hi := s.dword 0 (o + 8)
  bit hi 25 && (ours || bit hi 16) && (!bit hi 16 || bits lo 47 0 == dmacOf l) &&
    (!bit hi 17 || bits lo 59 48 == (tagOf l).elim 0 (·.1)) && (!bit hi 18 || bits hi 15 0 == (etherType l).1)

/-- A frame delivered to the RECV at the head of a raw SQ. -/
def State.deliver (s : State) (p sub f q : Nat) (l : List Byte) : State :=
  let lost := s.mac p sub 0x23 1
  match s.sq f q with
  | none => lost
  | some x =>
    if (s.fn f).halted ∨ !x.raw then lost
    else match x.recvs with
      | [] => lost
      | id :: rest =>
        match s.op id with
        | none => lost
        | some o =>
          match o.kind with
          | .recv addr size =>
            if size < l.length then lost
            else
              let s := (s.mac p sub 0x1A 1).modSq f q fun x => { x with recvs := rest }
              match s.writeVia { f, ctx := o.job.ctx, seg := o.seg } addr l with
              | (s, some e) => (s.endedBy e f o.job.layer o.job.oper).endOp id { status := .memUncorrectable }
              | (s, none) => ((s.opWrote id (s.pathOf f addr) l.length).countFn f 1 l.length).endOp id { detail := l.length }
          | _ => lost

/-- A frame matched against the filters of its port. -/
def State.steer (s : State) (p sub : Nat) (l : List Byte) (ours : Bool) : State :=
  match (List.range 64).find? fun i => s.filterTakes p i l ours with
  | none => s.mac p sub 0x22 1
  | some i =>
    let hi := s.dword 0 (portBase p + 0x200 + 16 * i + 8)
    if bit hi 19 then s.mac p sub 0x22 1
    else
      let r := if bit hi 24 then s.police p (bits hi 23 20) (l.length + 4 + s.overhead p) ((tagOf l).any (·.2)) else (s, .green, false)
      match r with
      | (s, .red, _) => s.mac p sub 0x25 1
      | (s, .yellow, true) => s.mac p sub 0x24 1
      | (s, .yellow, false) => (s.mac p sub 0x24 1).deliver p sub (bits hi 47 32) (bits hi 63 48) l
      | (s, .green, _) => s.deliver p sub (bits hi 47 32) (bits hi 63 48) l

/-! ### Arriving packets -/

/-- The FABRIC opcodes that the manual defines (Tables 6.5 and 7.4, R423). -/
def fabricOp (op : Nat) : Bool := decide ((1 ≤ op ∧ op ≤ 9) ∨ op = 0x10 ∨ op = 0x20 ∨ op = 0x80)

/-- The version in force for what arrives at a port (R158, R431). -/
def State.versionFor (s : State) (p : Nat) (k : Packet) : Nat :=
  if s.portSwitched p then (if k.src = s.node then 1 else tgetD s.agent.versions k.src 1) else (s.port p).version

/-- Whether a FABRIC message passes between neighbours before any slot is SEALED: those of the ROM agent, and replies (R423). -/
def agentMessage (k : Packet) : Bool := k.ty == 0x21 && decide (fld k.body 0 1 = 0x08 ∨ fld k.body 0 1 = 0x09 ∨ fld k.body 0 1 = 0x80)

/-- A packet discarded on arrival; the credits that were spent on it are returned (R217). -/
def State.dropIn (s : State) (p : Nat) (k : Packet) (idx : Nat) : State := (s.freeCredit p k).discard p idx

/-- How many M packets wait for the fabric processors. -/
def State.mWaiting (s : State) : Nat := s.arrived.countP fun a => classOf a.pkt.ty == some .mgmt

/-- A packet for this node: the fabric processors' form checks and their queue (R220), or kept for its row. -/
def State.forUs (s : State) (p : Nat) (k : Packet) : State :=
  let keep := fun (s : State) => { s with arrived := s.arrived ++ [{ port := p, pkt := k, at_ := s.tclk }] }
  if classOf k.ty = some .mgmt then
    if k.qp ≠ 0 ∨ k.encrypted ∨ k.rsvd ≠ 0 ∨ k.body.length ≠ k.plen then s.dropIn p k 0x42
    else if !k.creditless && Config.mQueueFull s.mWaiting then s.dropIn p k 0x52
    else if k.ty = 0x21 ∧ !fabricOp (fld k.body 0 1) then
      let r := (s.freeCredit p k).onceFrom k.src (fld k.body 2 2) fun s => (s, replyArgument)
      r.1.replyFabric k.src k.body r.2
    else keep (s.freeCredit p k)
  else if k.qp = 0 then s.dropIn p k 0x42
  else keep s

/-- The checks of a packet that a frame carries, in transit and at its destination. -/
def State.zftIn (s : State) (p : Nat) (l : List Byte) : State :=
  match parsePacket l with
  | none => s.discard p 0x40
  | some (k, crcOk) =>
    let here := k.dst = s.node
    let hop := k.ty = 0x20 ∧ !s.portSwitched p
    if !crcOk ∧ (here ∨ hop ∨ !s.portSwitched p) then s.discard p 0x40
    else if !k.creditless ∧ k.vc < 10 ∧ s.poolSize p (poolOf k.vc k.epoch) < s.poolUsed p (poolOf k.vc k.epoch) + k.credits then s.discard p 0x4A
    else if k.version ≠ s.versionFor p k then s.dropIn p k 0x41
    else if (classOf k.ty).isNone then s.dropIn p k 0x42
    else if !k.vcOk then s.dropIn p k 0x46
    else
      let s := s.count 0x05 p (0x10 + k.vc) k.plen
      let s := if k.epoch = s.epoch then s else { s with agent := { s.agent with lastOld := s.tclk } }
      if hop then s.forUs p k
      else if !s.sealedSlot k.epoch ∧ !(here ∧ agentMessage k) then s.dropIn p k 0x4B
      else if here then s.forUs p k
      else s.buffer p k 0

/-- The node's own switched addresses (R198). -/
def State.ownAddress (s : State) (ip : List Byte) : Bool :=
  [0, 1].any fun e => s.sealedSlot e && ((s.slot e).addr s.node).valid && slice ((s.slot e).addr s.node).ip 0 16 == ip

/-- The UDP datagram in a frame that carries ZFT to this node (R349 step 4); none for any other frame. -/
def State.zftDatagram (s : State) (p : Nat) (l : List Byte) : Option (List Byte × List Byte × List Byte) :=
  let e := etherType l
  let src := slice l (e.2 + 8) 16
  let dst := slice l (e.2 + 24) 16
  let udp := l.drop (e.2 + 40)
  if s.portSwitched p && udp6To l (s.udpPort p) && s.ownAddress dst then some (src, dst, udp.take (beNat (slice udp 4 2))) else none

/-! ### XOFF and XON (R218) -/

/-- A PFC frame for one priority (IEEE 802.1Qbb). -/
def State.pfcFrame (s : State) (p sub t quanta : Nat) : List Byte :=
  beBytes 6 0x0180C2000001 ++ beBytes 6 (s.macAddr p sub) ++ beBytes 2 0x8808 ++ beBytes 2 0x0101 ++ beBytes 2 (2 ^ t) ++
  (List.range 8).flatMap (fun i => beBytes 2 (if i = t then quanta else 0)) ++ List.replicate 26 0

/-- Whether the buffer of a VC receives a priority on a switched port (R218, R355): from transit, by PORT_VC_TC; from the node that sends the
packet, the P class by resp_tc, M by 7, and the Q and C classes by the class of a QP end (notes/assumptions/20.md). -/
def State.receives (s : State) (p t v : Nat) : Bool :=
  s.vcClass p v == t || (if v = 4 ∨ v = 5 ∨ v = 8 then s.respTc p == t else if v = 9 then t == 7 else s.qps.any fun e => e.2.tc == t)

/-- Free credits of the emptiest buffer that receives a priority; none where no VC is mapped to it. -/
def State.leastFree (s : State) (p t : Nat) : Option Nat :=
  ((List.range 10).filter (s.receives p t)).foldl (fun m v =>
    let used := sum ((poolsOf v).map fun q => s.poolUsed p q)
    least? m (some (s.vcBuf p v - used))) none

/-- XOFF or XON sent for a priority whose buffers call for it. -/
def State.pfcPriority (s : State) (p t : Nat) : State :=
  let on := (s.port p).xoff.contains t
  let send := fun (s : State) (quanta : Nat) =>
    (s.upSubs p).foldl (fun s i => s.modSub p i fun x => { x with ctrl := x.ctrl ++ [s.pfcFrame p i t quanta] }) s
  match s.leastFree p t with
  | none => s
  | some free =>
    if !on && decide (free < s.xoffCredits p) then send (s.modPort p fun x => { x with xoff := x.xoff ++ [t] }) (s.pfcQuanta p)
    else if on && decide (2 * s.xoffCredits p ≤ free) then send (s.modPort p fun x => { x with xoff := x.xoff.filter (· != t) }) 0
    else s

def State.pfcCheck (s : State) (p : Nat) : State :=
  if s.portSwitched p && s.macCfgBit p 6 then (List.range 8).foldl (fun s t => s.pfcPriority p t) s else s

/-! ### FRAME_RECEIVE (R349) -/

/-- The current rate of a sub-port in bits per ns (Tables 11.1, 11.2). -/
def State.subRate (s : State) (p : Nat) : Nat :=
  if s.breakout p = 0 then (if (s.port p).width = .half then 800 else 1600) else 1600 / s.subCount p

/-- The classes that a pause or PFC frame names, each with its quanta. -/
def pauseClasses (l : List Byte) : List (Nat × Nat) :=
  if beNat (slice l 14 2) = 1 then (List.range 8).map fun t => (t, beNat (slice l 16 2))
  else ((List.range 8).filter fun t => bit (beNat (slice l 16 2)) t).map fun t => (t, beNat (slice l (18 + 2 * t) 2))

/-- What a frame checked now comes to: until when each class is paused, none where its pause ends (R360). -/
def State.pauseUntil (s : State) (p : Nat) (l : List Byte) : List (Nat × Option Nat) :=
  (pauseClasses l).map fun e => (e.1, if e.2 = 0 then none else some (s.tclk + ceilDiv (e.2 * 512) (s.subRate p)))

/-- A MAC control frame: pause and PFC frames are counted, and kept with the time of the check where they are obeyed. -/
def State.macControl (s : State) (p sub : Nat) (l : List Byte) : State :=
  let op := beNat (slice l 14 2)
  let keep := fun (s : State) (n : Nat) =>
    if !s.portSwitched p || !s.macCfgBit p n then s else s.modSub p sub fun x => { x with pauses := x.pauses ++ [s.pauseUntil p l] }
  if op = 0x0001 then keep (s.mac p sub 0x06 1) 4
  else if op = 0x0101 then
    keep ((bitsSet 8 (beNat (slice l 16 2))).foldl (fun s t => s.mac p sub (0x08 + t) 1) s) 5
  else s

/-- Steps 2 to 7 of R349. RX_ZFT counts every frame that steps 3 and 4 hand to R159 and R160, those discarded there included (R361). -/
def State.goodFrame (s : State) (p sub : Nat) (l : List Byte) : State :=
  let t := beNat (slice l 12 2)
  let ours := dmacOf l == s.macAddr p sub || destKind l != 0
  if t = 0x8808 then s.macControl p sub l
  else if t = 0x88B5 then
    if s.portSwitched p then s.mac p sub 0x26 1
    else if dmacOf l ≠ s.macAddr p 0 then ((s.mac p sub 0x19 1).mac p sub 0x26 1).discard p 0x44
    else (s.mac p sub 0x19 1).zftIn p (l.drop 14)
  else match s.zftDatagram p l with
    | some (src, dst, udp) =>
      if beNat (slice udp 6 2) = 0 ∨ fold16 8 (onesGo (src ++ dst ++ beBytes 4 udp.length ++ beBytes 4 17 ++ udp) 0) = 65535 then
        (s.mac p sub 0x19 1).zftIn p (udp.drop 8)
      else (s.mac p sub 0x19 1).discard p 0x45
    | none =>
      if t = 0x88CC ∧ dmacOf l = 0x0180C200000E then s.modPort p fun x => { x with lldpIn := x.lldpIn ++ [(sub, l)] }
      else s.steer p sub l ours

/-- The packet in a frame, if it carries ZFT at all. -/
def State.zftOf (s : State) (p : Nat) (l : List Byte) : Option (Packet × Bool) :=
  if beNat (slice l 12 2) = 0x88B5 then parsePacket (l.drop 14)
  else if s.portSwitched p && udp6To l (s.udpPort p) then parsePacket (l.drop ((etherType l).2 + 48)) else none

/-- A frame in transit that fails its FCS, or its CRC in direct mode, after the package has begun to forward it: the outgoing frame is ended with
an invalid FCS (R165). What that frame carries is what came in. -/
def State.abortOut (s : State) (p : Nat) (x : Frame) : State :=
  match x.begun, s.zftOf p x.bytes with
  | some (q, i), some (k, crcOk) =>
    if (x.fcsOk && (crcOk || s.portSwitched p)) || k.dst == s.node || !(s.sub q i).up then s
    else
      let d : Sent := { port := q, sub := i, bytes := x.bytes, fcsOk := false }
      State.mac { s with sent := s.sent ++ [d] } q i 0x5B 1
  | _, _ => s

/-- A frame received on a sub-port that is up. -/
def State.frameIn (s : State) (p sub : Nat) (x : Frame) : State :=
  let n := x.bytes.length + 4
  if s.subCount p ≤ sub ∨ !(s.sub p sub).up then s
  else
    let s := (((s.abortOut p x).mac p sub 0x20 x.fixed).mac p sub 0x21 x.lost).mac p sub 0x01 n
    if n < 64 then s.mac p sub (if x.fcsOk then 0x1C else 0x1D) 1
    else if s.maxFrame p < n then s.mac p sub (if x.fcsOk then 0x1E else 0x1F) 1
    else if !x.fcsOk then s.mac p sub 0x1B 1
    else ((s.macFrame p sub 0x00 0x02 0x10 n x.bytes).goodFrame p sub x.bytes).pfcCheck p

/-- FRAME_RECEIVE (R349). -/
def execFrameReceive (p sub : Nat) (frame : Frame) (s : State) : Host.Outcome State Fault Refusal :=
  if portOk p && subOk sub then .next (if s.live then s.frameIn p sub frame else s) else .next s

end Sys2Proof.Machine
end

