-- ==== Sys2Proof/Machine/Egress.lean ====
section
/-! DEFINITION. Sending frames: shapers, deficit round robin, time gates, pause, and the clearing of statistics (R355–R362). -/

namespace Sys2Proof.Machine

/-! ### Rates and lengths (Tables 11.1, 11.10) -/

/-- A frame's counted length, from its bytes without the FCS (R347). -/
def State.counted (s : State) (p n : Nat) : Nat := n + 4 + s.overhead p

/-- PORT_TCt of a sub-port. -/
def State.tcReg (s : State) (p sub t : Nat) : Nat := s.dword 0 (subBase p sub + 0x400 + 8 * t)
def State.shapeRate (s : State) (p sub t : Nat) : Nat := bits (s.tcReg p sub t) 13 0
def State.shapeBurst (s : State) (p sub t : Nat) : Nat := bits (s.tcReg p sub t) 39 16
def State.quantum (s : State) (p sub t : Nat) : Nat := bits (s.tcReg p sub t) 47 40 * 256

/-! ### Time gates (R359) -/

/-- The guard band in ns. -/
def State.guardBand (s : State) (p : Nat) : Nat := ceilDiv ((s.maxFrame p + s.overhead p) * 8) (s.subRate p)

def State.gateEnabled (s : State) (p sub : Nat) : Bool := bit (s.dword 0 (subBase p sub + 0x468)) 32

/-- The entries of a list: gate states and interval; an interval of 0 ends it. -/
def gateListGo (word : Nat → Nat) : Nat → Nat → List (Nat × Nat)
  | 0, _ => []
  | n + 1, e => if word e / 256 = 0 then [] else (word e % 256, word e / 256) :: gateListGo word n (e + 1)

def State.gateList (s : State) (p sub bank : Nat) : List (Nat × Nat) :=
  gateListGo (fun e => s.word 0 (subBase p sub + 0x500 + 0x100 * (bank % 2) + 4 * e)) 64 0

/-- Where a schedule stands: bank, start and length of its cycle, the entry in force, its gate states, and when it ends. -/
structure GatePos where
  bank  : Nat
  start : Nat
  cycle : Nat
  entry : Nat
  gates : Nat
  stop  : Nat

/-- Entry e of a list in force from an instant on: cut at the end of the cycle, and the last entry held until then. -/
def gateEntry (l : List (Nat × Nat)) (bank start cycle e at_ : Nat) : GatePos :=
  let x := l.getD e (0xFF, 0)
  { bank, start, cycle, entry := e, gates := x.1,
    stop := if e + 1 < l.length then Nat.min (at_ + x.2) (start + cycle) else start + cycle }

def State.gateStart (s : State) (p sub bank start cycle : Nat) : GatePos := gateEntry (s.gateList p sub bank) bank start cycle 0 start

/-- What follows a position at its end, or at a bank switch that comes first. -/
def State.gateNext (s : State) (p sub : Nat) (g : GatePos) : GatePos :=
  let x := s.sub p sub
  if x.pending ∧ g.bank = x.bank ∧ x.commitAt ≤ g.stop then s.gateStart p sub (1 - g.bank) x.commitAt x.nextCycle
  else if g.start + g.cycle ≤ g.stop then s.gateStart p sub g.bank (g.start + g.cycle) g.cycle
  else gateEntry (s.gateList p sub g.bank) g.bank g.start g.cycle (g.entry + 1) g.stop

/-- Whether a class stays open up to an instant. -/
def gateHolds (next : GatePos → GatePos) (stop : GatePos → Nat) (cls until_ : Nat) : Nat → GatePos → Bool
  | 0, _ => true
  | n + 1, g => bit g.gates cls && (decide (until_ ≤ stop g) || gateHolds next stop cls until_ n (next g))

def SubPort.pos (x : SubPort) : GatePos :=
  { bank := x.bank, start := x.cycleAt, cycle := x.gateCycle, entry := x.entry, gates := x.gates.toNat, stop := x.entryEnd }

def SubPort.at (x : SubPort) (g : GatePos) : SubPort :=
  { x with bank := g.bank, cycleAt := g.start, gateCycle := g.cycle, entry := g.entry, gates := BitVec.ofNat 8 g.gates, entryEnd := g.stop }

/-- The position that a schedule has reached at an instant, from one that it had before: the cycle that runs then, and its entry. -/
def gateAdvance (next : GatePos → GatePos) (now : Nat) : Nat → GatePos → GatePos
  | 0, g => g
  | n + 1, g => if g.stop ≤ now then gateAdvance next now n (next g) else g

/-- Where the schedule in operation stands at gate time: a bank whose first cycle start has come is in operation from then on, whether or not
GATE_BANK_SWITCH has run; none before the first cycle start. -/
def State.gateNow (s : State) (p sub : Nat) : Option GatePos :=
  let x := s.sub p sub
  let now := s.gateTime.toNat
  let from_ := if x.pending ∧ (x.commitAt : Int) ≤ s.gateTime then some (s.gateStart p sub (1 - x.bank) x.commitAt x.nextCycle)
    else if x.gateOn then some x.pos
    else if (x.gateBase : Int) ≤ s.gateTime then some (s.gateStart p sub x.bank x.gateBase x.gateCycle) else none
  from_.map fun g =>
    let k := (now - g.start) / Nat.max 1 g.cycle
    let g := if k = 0 then g else s.gateStart p sub g.bank (g.start + k * g.cycle) g.cycle
    gateAdvance (fun g => gateEntry (s.gateList p sub g.bank) g.bank g.start g.cycle (g.entry + 1) g.stop) now 64 g

/-- Whether a class's gate is open and stays so for the guard band. -/
def State.gateOpen (s : State) (p sub cls : Nat) : Bool :=
  let x := s.sub p sub
  if !s.gateEnabled p sub then true
  else
    let stop := fun (g : GatePos) => if x.pending && g.bank == x.bank then Nat.min g.stop x.commitAt else g.stop
    let until_ := s.gateTime + s.guardBand p
    match s.gateNow p sub with
    | none =>
      !decide ((x.gateBase : Int) < until_) ||
        gateHolds (s.gateNext p sub) stop cls until_.toNat 512 (s.gateStart p sub x.bank x.gateBase x.gateCycle)
    | some g => gateHolds (s.gateNext p sub) stop cls until_.toNat 512 g

/-- The first instant base + k × cycle that is no earlier than gate time. -/
def firstStart (base cycle : Nat) (now : Int) : Nat :=
  if now ≤ base then base else base + ceilDiv (now.toNat - base) (Nat.max 1 cycle) * Nat.max 1 cycle

/-- A write of PORT_GATE_CFG's second word: cycle_time, enable and commit. -/
def State.gateWrite (s : State) (p sub : Nat) (v : Nat) : State :=
  let o := subBase p sub
  let was := s.gateEnabled p sub
  let s := if 256 ≤ v % 2 ^ 32 then s.setWord 0 (o + 0x468) (v % 2 ^ 32) else s
  let s := s.setWord 0 (o + 0x46C) (ofBool (bit v 32))
  let base := s.dword 0 (o + 0x460)
  let cycle := s.word 0 (o + 0x468)
  let first := firstStart base cycle s.gateTime
  let s := if bit v 32 && !was then
      s.modSub p sub fun x => { x with gateBase := first, gateCycle := cycle, gateOn := false, gates := 0xFF }
    else s
  if bit v 33 then s.modSub p sub fun x => { x with nextCycle := cycle, pending := true, commitAt := first } else s

/-- GATE_COMMIT (R359). -/
def execGateCommit (p sub : Nat) (word : W64) (s : State) : Host.Outcome State Fault Refusal :=
  if portOk p && subOk sub then .next (if s.served && decide (sub < s.subCount p) then s.gateWrite p sub word.toNat else s)
  else .next s

/-- GATE_ENABLE (R359). -/
def execGateEnable (p sub : Nat) (word : W64) (s : State) : Host.Outcome State Fault Refusal :=
  if portOk p && subOk sub then .next (if s.served && decide (sub < s.subCount p) then s.gateWrite p sub word.toNat else s)
  else .next s

/-- The committed bank comes into operation. -/
def State.gateSwitch (s : State) (p sub : Nat) : State :=
  let x := s.sub p sub
  if x.pending ∧ (x.commitAt : Int) ≤ s.gateTime then
    let g := s.gateStart p sub (1 - x.bank) x.commitAt x.nextCycle
    s.modSub p sub fun x => { x.at g with pending := false, gateBase := x.commitAt, gateOn := true }
  else s

/-- GATE_BANK_SWITCH (R359). -/
def execGateBankSwitch (p sub : Nat) (s : State) : Host.Outcome State Fault Refusal :=
  if portOk p && subOk sub then .next (if s.live then s.gateSwitch p sub else s) else .next s

/-- The list restarted at the latest cycle start that has been reached. -/
def State.gateCycleBegin (s : State) (p sub : Nat) : State :=
  let x := s.sub p sub
  let due := if x.gateOn then x.cycleAt + x.gateCycle else x.gateBase
  if s.gateEnabled p sub ∧ (due : Int) ≤ s.gateTime then
    let start := due + (s.gateTime.toNat - due) / Nat.max 1 x.gateCycle * Nat.max 1 x.gateCycle
    s.modSub p sub fun x => { x.at (s.gateStart p sub x.bank start x.gateCycle) with gateOn := true }
  else s

/-- GATE_CYCLE_START (R359). -/
def execGateCycleStart (p sub : Nat) (s : State) : Host.Outcome State Fault Refusal :=
  if portOk p && subOk sub then .next (if s.live then s.gateCycleBegin p sub else s) else .next s

/-- The next entry of the cycle in progress. -/
def State.gateIntervalOver (s : State) (p sub : Nat) : State :=
  let x := s.sub p sub
  if s.gateEnabled p sub ∧ x.gateOn ∧ (x.entryEnd : Int) ≤ s.gateTime ∧ x.entryEnd < x.cycleAt + x.gateCycle then
    s.modSub p sub fun x => x.at (gateEntry (s.gateList p sub x.bank) x.bank x.cycleAt x.gateCycle (x.entry + 1) x.entryEnd)
  else s

/-- GATE_INTERVAL_END (R359). -/
def execGateIntervalEnd (p sub : Nat) (s : State) : Host.Outcome State Fault Refusal :=
  if portOk p && subOk sub then .next (if s.live then s.gateIntervalOver p sub else s) else .next s

/-! ### Pause (R360) -/

/-- The pauses in force after a frame. -/
def settlePause (t : Tab Nat) (l : List (Nat × Option Nat)) : Tab Nat :=
  l.foldl (fun t e => e.2.elim (tdel t e.1) (tset t e.1)) t

/-- The first pause or PFC frame received settled among the pauses in force. -/
def State.pauseNext (s : State) (p sub : Nat) : State :=
  match (s.sub p sub).pauses with
  | [] => s
  | l :: rest => s.modSub p sub fun x => { x with pauses := rest, pausedTo := settlePause x.pausedTo l }

/-- PAUSE_FRAME (R360). -/
def execPauseFrame (p sub : Nat) (s : State) : Host.Outcome State Fault Refusal :=
  if portOk p && subOk sub then .next (if s.live then s.pauseNext p sub else s) else .next s

/-- Whether a class is paused. A frame that has been checked holds from then on, whether or not PAUSE_FRAME has settled it. -/
def State.paused (s : State) (p sub cls : Nat) : Bool :=
  (tget ((s.sub p sub).pauses.foldl settlePause (s.sub p sub).pausedTo) cls).any fun t => decide (s.tclk < t)

/-- PAUSE_EXPIRE (R360). -/
def execPauseExpire (p sub cls : Nat) (s : State) : Host.Outcome State Fault Refusal :=
  if portOk p && subOk sub && decide (cls ≤ 7) then
    .next (if s.live && !s.paused p sub cls then s.modSub p sub fun x => { x with pausedTo := tdel x.pausedTo cls } else s)
  else .next s

/-! ### The frame at the head of a class (R355) -/

/-- The sub-queue of a frame: its VC, or 16 for what is no ZFT packet. -/
def TxFrame.lane (x : TxFrame) : Nat :=
  match x.kind with
  | .zft _ _ => x.vc
  | _ => 16

/-- The frame that a class would send next: the first of its queue, or on a direct port that of the next sub-queue in turn. -/
def State.headOf (s : State) (p sub cls : Nat) : Option TxFrame :=
  let x := s.sub p sub
  let l := x.queue.filter fun f => f.cls == cls
  if s.portSwitched p then l.head?
  else
    let last := tgetD x.rotation cls 16
    let order := ((List.range 17).filter fun v => decide (last < v)) ++ (List.range 17).filter fun v => decide (v ≤ last)
    order.findSome? fun v => l.find? fun f => f.lane == v

/-! ### Shapers (R358) -/

/-- The tokens of a shaper now, in thousandths of a bit. -/
def State.shaperNow (s : State) (p sub cls : Nat) : Int :=
  let x := s.sub p sub
  let full : Int := (s.shapeBurst p sub cls * 8000 : Nat)
  match tget x.tokens cls with
  | none => full
  | some t => min full (t + ((s.shapeRate p sub cls * 100 * (s.tclk - x.tokensAt) : Nat) : Int))

/-- Every shaper brought up to now, with a class charged for a frame of a counted length. -/
def State.chargeShapers (s : State) (p sub cls n : Nat) : State :=
  let t : Tab Int := ((List.range 8).filter fun c => s.shapeRate p sub c != 0).map fun c =>
    (c, s.shaperNow p sub c - (if c = cls then (n * 8000 : Nat) else 0 : Nat))
  s.modSub p sub fun x => { x with tokens := t, tokensAt := s.tclk }

/-- Whether a class is eligible (R358). -/
def State.eligible (s : State) (p sub cls : Nat) : Bool :=
  (s.headOf p sub cls).isSome && !s.paused p sub cls && s.gateOpen p sub cls &&
    (s.shapeRate p sub cls == 0 || decide (0 ≤ s.shaperNow p sub cls))

/-! ### The choice (R358) -/

/-- Deficit round robin over classes 0–5: the class that sends, and the deficits and the class visited then. `fresh`: the class is visited
anew, so that its quantum is due. -/
def drr (len : Nat → Option Nat) (elig : Nat → Bool) (quantum : Nat → Nat) : Nat → Nat → Bool → Tab Nat → Option Nat × Nat × Tab Nat
  | 0, c, _, d => (none, c, d)
  | n + 1, c, fresh, d =>
    let next := (c + 1) % 6
    match len c with
    | none => drr len elig quantum n next true (tdel d c)
    | some k =>
      if !elig c then drr len elig quantum n next true d
      else
        let v := tgetD d c 0 + if fresh then quantum c else 0
        if k ≤ v then (some c, c, tset d c v) else drr len elig quantum n next true (tset d c v)

/-- A frame that leaves: counters, statistics, and the end of a SEND. -/
def State.transmit (s : State) (p sub : Nat) (l : List Byte) (kind : Option TxKind) : State :=
  let s := { s with sent := s.sent ++ [({ port := p, sub := sub, bytes := l } : Sent)] }
  let s := s.modPort p fun x => { x with movedAt := s.tclk }
  let s := s.macFrame p sub 0x40 0x41 0x50 (l.length + 4) l
  match kind with
  | some (.zft k _) =>
    let s := (s.mac p sub 0x59 1).count 0x05 p k.vc k.plen
    if k.encrypted ∧ k.src = s.node then s.count 0x09 p 0 1 else s
  | some (.raw id) => (match s.op id with
    | some o => ((s.mac p sub 0x5A 1).countFn o.job.f 0 o.job.len).endOp id {}
    | none => s.mac p sub 0x5A 1)
  | some .lldp => s
  | none =>
    if beNat (slice l 12 2) = 0x88B5 then (s.mac p sub 0x59 1).count 0x05 p 9 ((parsePacket (l.drop 14)).elim 0 (·.1.plen))
    else (bitsSet 8 (beNat (slice l 16 2))).foldl (fun (s : State) t => s.mac p sub (0x48 + t) 1) s

/-- The head frame of a class sent. -/
def State.sendClass (s : State) (p sub cls : Nat) : State :=
  match s.headOf p sub cls with
  | none => s
  | some f =>
    let s := s.chargeShapers p sub cls (s.counted p f.bytes.length)
    let s := s.modSub p sub fun x => { x with
      queue := (takeFirst (fun y => y == f) x.queue).elim x.queue (·.2)
      rotation := if s.portSwitched p then x.rotation else tset x.rotation cls f.lane }
    s.transmit p sub f.bytes (some f.kind)

/-- The weighted group's turn: one frame, if it has an eligible one. -/
def State.sendWeighted (s : State) (p sub : Nat) : State :=
  let x := s.sub p sub
  let len := fun c => (s.headOf p sub c).map fun f => s.counted p f.bytes.length
  match drr len (s.eligible p sub) (s.quantum p sub) 240 x.visited false x.deficit with
  | (none, v, d) => s.modSub p sub fun x => { x with visited := v, deficit := d }
  | (some c, v, d) =>
    let n := (len c).getD 0
    let s := (s.modSub p sub fun x => { x with visited := v, deficit := tset d c (tgetD d c 0 - n), strict := 0 }).sendClass p sub c
    if (s.headOf p sub c).isNone then s.modSub p sub fun x => { x with deficit := tdel x.deficit c } else s

/-- A frame start (R358): control frames first, then the strict classes under the floor of the weighted group. -/
def State.frameStart (s : State) (p sub : Nat) : State :=
  let x := s.sub p sub
  if !x.up ∨ (s.port p).parked ∨ s.subCount p ≤ sub then s
  else match x.ctrl with
    | l :: rest => (s.modSub p sub fun x => { x with ctrl := rest }).transmit p sub l none
    | [] =>
      let weighted := (List.range 6).any fun c => s.eligible p sub c
      let strict := if s.eligible p sub 7 then some 7 else if s.eligible p sub 6 then some 6 else none
      match strict with
      | some c =>
        if weighted && decide (15 ≤ x.strict) then s.sendWeighted p sub
        else (s.modSub p sub fun x => { x with strict := if weighted then x.strict + 1 else 0 }).sendClass p sub c
      | none => if weighted then s.sendWeighted p sub else s

/-- FRAME_START (R358). -/
def execFrameStart (p sub : Nat) (s : State) : Host.Outcome State Fault Refusal :=
  if portOk p && subOk sub then .next (if s.live then (s.pfcCheck p).frameStart p sub else s) else .next s

/-! ### Statistics (R362) -/

/-- Flags cleared, and bit 39 of their counters. -/
def State.halfClear (s : State) (p sub word v : Nat) : State :=
  s.modSub p sub fun x => (bitsSet 64 v).foldl (fun (x : SubPort) i =>
    let n := 64 * word + i
    { x with half := x.half &&& ~~~(1#128 <<< n),
             stats := tset x.stats n (BitVec.ofNat 64 ((tgetD x.stats n 0).toNat % 2 ^ 39)) }) x

/-- STAT_HALF_CLEAR (R362). -/
def execStatHalfClear (p sub word : Nat) (value : W64) (s : State) : Host.Outcome State Fault Refusal :=
  if portOk p && subOk sub && decide (word ≤ 1) then
    .next (if s.served && decide (sub < s.subCount p) then s.halfClear p sub word value.toNat else s)
  else .next s

end Sys2Proof.Machine
end

