-- ==== Sys2Proof/Machine/Journal.lean ====
section
/-! DEFINITION. Powered time, boot events, failed starts, catalogue entries and what they make of the silicon, the start sequence and
the package reset (R27–R31, R346, R419, R420, R432–R437, R444, R456–R460). -/

namespace Sys2Proof.Machine

/-! ### Powered time and boot events (R432, R437) -/

/-- The powered time now, in ms. -/
def State.poweredNow (s : State) : Nat := s.nor.powered + (s.time - s.nor.poweredAt) / 1000000

/-- The state journal changed, and both its copies written anew (R432–R436, R456). -/
def State.modJournal (s : State) (g : Nor → Nor) : State := s.modNor fun n => (g n).journaled

/-- The count in the NOR brought up to date. -/
def State.stampPowered (s : State) : State :=
  s.modJournal fun n => { n with powered := s.poweredNow, poweredAt := s.time - (s.time - n.poweredAt) % 1000000 }

/-- A boot event; the last 16 are kept. -/
def State.bootEvent (s : State) (event cause unit detail : Nat) : State :=
  let s := s.stampPowered
  let e : BootEvent := { at_ := s.nor.powered, event, cause, unit, detail }
  s.modBoot fun b => { b with events := (e :: b.events).take 16 }

/-- Failed starts within the window (R432). -/
def State.failedStarts (s : State) : Nat := s.nor.failed.countP fun t => decide (s.poweredNow ≤ t + 900000)

/-- Package resets within the window (R434). -/
def State.resetCount (s : State) : Nat := s.nor.resets.countP fun t => decide (s.poweredNow ≤ t + 3600000)

/-- Vestibule mode entered (R433). -/
def State.enterVestibule (s : State) : State :=
  (((s.modJournal fun n => { n with vestibule := true }).modBoot fun b => { b with stage := 4, running := none, ifMajor := 0 }).bootEvent 10 0 0 0) |> fun s =>
    { s with procs := [] }

/-- A failed start, logged with its cause (R432, R433). -/
def State.failedStart (s : State) (event cause unit detail : Nat) : State :=
  let s := (s.modBoot fun b => { b with cause }).bootEvent event cause unit detail
  let s := s.modJournal fun n => { n with failed := (s.nor.powered :: n.failed).take 3 }
  if s.failedStarts = 3 then s.enterVestibule else s

/-! ### Catalogue entries (R458, R459) -/

/-- A repair made: its entry is held until CATALOGUE_WRITE puts it into the NOR. -/
def State.repair (s : State) (ty cause : Nat) (loc : List Nat) : State :=
  let e : CatEntry := { ty, cause, loc := locBytes loc, time := s.poweredNow }
  s.modNor fun n => { n with unwritten := n.unwritten ++ [e] }

/-- Every entry in force or held, oldest first. -/
def Nor.entries (n : Nor) : List CatEntry := n.factory ++ n.field ++ n.unwritten

def CatEntry.at (e : CatEntry) (i : Nat) : Nat := e.loc.getD (i - 2) 0

/-- A physical cluster of a gallery retired from its map (R29, R31). -/
def retireIn (m : List (Option Nat) × Option Nat) (c : Nat) : List (Option Nat) × Option Nat :=
  if m.2 = some c then (m.1, none)
  else if m.1.contains (some c) then (m.1.map fun x => if x = some c then m.2 else x, none)
  else m

/-- The map of a gallery under the catalogue (R29, R30). -/
def Nor.mapOf (n : Nor) (g : Nat) : List (Option Nat) × Option Nat :=
  (n.entries.filter fun e => e.ty == 1 && e.at 2 == g).foldl (fun m e => retireIn m (e.at 3))
    ((List.range 8).map some, some 8)

/-- The fold units of a physical cluster under the catalogue, slot by slot, and whether the spare, unit 4, is unused (R17). -/
def Nor.unitsOf (n : Nor) (g c : Nat) : List Nat × Bool :=
  (n.entries.filter fun e => e.ty == 2 && e.at 2 == g && e.at 3 == c).foldl (fun m e =>
    if e.at 4 = 4 then (m.1, false) else if m.2 then (m.1.map fun u => if u = e.at 4 then 4 else u, false) else m) ([0, 1, 2, 3], true)

/-- The lanes of a port that the catalogue holds as failed. -/
def Nor.lanesOf (n : Nor) (p : Nat) : BitVec 9 :=
  (n.entries.filter fun e => decide (e.ty = 3 ∨ e.ty = 4) && e.at 2 == p).foldl (fun m e => m ||| (1#9 <<< e.at 3)) 0

/-- The latest voltage offset and divider floor of a gallery. -/
def Nor.latest (n : Nor) (ty g : Nat) : Nat :=
  ((n.entries.filter fun e => e.ty == ty && e.at 2 == g).getLast?).elim 0 fun e => e.at 3

/-! ### Lanes (Table 11.2) -/

/-- What a port runs on, given the lanes that either end has failed: its width, its lanes in order, the lane that L8 replaces. -/
def laneSetup (switched : Bool) (failed : BitVec 9) : Width × List Nat × Option Nat :=
  let bad := (List.range 8).filter fun m => failed.getLsbD m
  let half := fun (l : List Nat) => if l.length = 4 then (Width.half, l, (none : Option Nat)) else (.down, [], none)
  if bad.isEmpty then (.full, List.range 8, none)
  else if switched then
    half (((([[0, 1, 2, 3], [4, 5, 6, 7]] : List (List Nat)).find? fun l => l.all fun m => !failed.getLsbD m)).getD [])
  else match bad with
    | [m] => if failed.getLsbD 8 then half (((List.range 9).filter fun m => !failed.getLsbD m).take 4)
             else (.spared, (List.range 8).map fun x => if x = m then 8 else x, some m)
    | _ => half (((List.range 9).filter fun m => !failed.getLsbD m).take 4)

/-- A port as it trains under the catalogue. -/
def Nor.portOf (n : Nor) (switched : Bool) (p : Nat) : Port :=
  let failed := n.lanesOf p
  let x := laneSetup switched failed
  { failed, width := x.1, lanes := x.2.1, spareFor := x.2.2 }

/-! ### The start sequence (R419, Table 14.1) -/

/-- A signed byte. -/
def signed8 (v : Nat) : Int := toSigned 8 v

/-- A gallery as the catalogue and the reset leave it; the divider in force is the floor (R35). -/
def Nor.galleryOf (n : Nor) (g : Nat) : Gallery :=
  let m := n.mapOf g
  { phys := m.1, spare := m.2, floor := n.latest 0x0D g % 4, divider := n.latest 0x0D g % 4, offset := signed8 (n.latest 0x0C g % 256) }

/-- The lowest present logical cluster of a gallery. -/
def Gallery.lowest (x : Gallery) (g : Nat) : Option Nat :=
  ((List.range 8).find? fun k => (x.phys.getD k none).isSome).map (8 * g + ·)

/-- The fold units and resets of the logical clusters that are present. -/
def Nor.clustersOf (n : Nor) : Tab Cluster :=
  ((List.range 48).filterMap fun l =>
    match (n.mapOf (l / 8)).1.getD (l % 8) none with
    | some c => some (l, ({ unitMap := (n.unitsOf (l / 8) c).1, spareFu := (n.unitsOf (l / 8) c).2 } : Cluster))
    | none => none)

/-- The repairs of one memory port that the catalogue holds (R321, R338–R340). -/
def CatEntry.row (e : CatEntry) : Nat := e.at 4 + 256 * e.at 5 + 65536 * e.at 6 + 16777216 * e.at 7

def Nor.entriesOf (n : Nor) (ty unit : Nat) : List CatEntry := n.entries.filter fun e => e.ty == ty && e.at 2 == unit

def Nor.sliceScrub (n : Nor) (g ph : Nat) : Scrub :=
  let used := fun ty => ((n.entriesOf ty g).filter fun e => e.at 3 == ph).map fun e => e.at 4 + 256 * e.at 5
  { rowsUsed := used 0x0A, colsUsed := used 0x0B }

def Nor.stackScrub (n : Nor) (h : Nat) : Scrub :=
  let spared := (n.entriesOf 0x06 h).map fun e => (e.at 3, e.at 4)
  { fixed := ((n.entriesOf 0x05 h).filter fun e => !spared.any fun x => x.1 == e.at 3).map fun e => (e.at 3, e.row)
    spared, exhausted := (n.entriesOf 0x07 h).map fun e => e.at 3 }

def Nor.chanScrub (n : Nor) (d : Nat) : Scrub :=
  { fixed := (n.entriesOf 0x08 d).map fun e => (0, e.row), device := (n.entriesOf 0x09 d).map fun e => e.at 3 }

/-- The repairs of every memory port, as the ROM applies them at boot (R458). -/
def Nor.scrubsOf (n : Nor) : Tab Scrub :=
  let slices := (List.range 48).filterMap fun c => ((n.mapOf (c / 8)).1.getD (c % 8) none).map fun ph => (c, n.sliceScrub (c / 8) ph)
  (slices ++ (List.range 24).map (fun h => (64 + h, n.stackScrub h)) ++ (List.range 20).map fun d => (128 + d, n.chanScrub d)).filter
    fun e => e.2 != ({ next := 0 } : Scrub)

/-- Everything but the fuses, the NOR, the node ID and what lies outside the package brought to its reset value (R444). -/
def State.wiped (s : State) : State :=
  { State.reset with
    activity := s.activity, lands := { s.lands with stopOut := false }, fuses := s.fuses, nor := s.nor, boot := { node := s.boot.node, source := s.boot.source, cause := s.boot.cause },
    host := s.host, hps := s.hps.map fun e => (e.1, { refuses := e.2.refuses }), sent := s.sent, irqs := s.irqs, pending := s.pending,
    passed := s.passed, free := s.free }

/-- An entry as the numbers of its fields, and back. -/
def CatEntry.nums (e : CatEntry) : List Nat := e.ty :: e.cause :: e.time :: e.loc
def entryOf (l : List Nat) : CatEntry := { ty := l.getD 0 0, cause := l.getD 1 0, time := l.getD 2 0, loc := locBytes (l.drop 3) }

/-- The field section rewritten: into the copy with the lower write sequence number, and then into the other, each signed with the
identity key (R395, R397, R457); d and e are the draws of the two signatures. -/
def Nor.rewrite (n : Nor) (d e : Nat) (field : List CatEntry) : Nor :=
  let top := Nat.max n.seq0 n.seq1
  let x := identitySign d (fieldSigned (top + 1) field)
  let y := identitySign e (fieldSigned (top + 2) field)
  let n : Nor := { n with field }
  if n.seq0 < n.seq1 then { n with seq0 := top + 1, sign0 := x, seq1 := top + 2, sign1 := y }
  else { n with seq1 := top + 1, sign1 := x, seq0 := top + 2, sign0 := y }

/-- The field section changed and rewritten, if there is a change. -/
def State.rewriteField (s : State) (field : List CatEntry) : State :=
  if field = s.nor.field then s
  else
    let (d, s) := s.draw
    let (e, s) := s.draw
    s.modNor fun n => n.rewrite d e field

/-- The identity public key. -/
def identityPublic : List Byte := pairBytes ((times (scalarOf Config.identityKey) basePoint).getD (0, 0))

/-- Whether the first (0) or the second copy of the field section verifies: its signature is the identity key's over what the copy holds (R395, R457). -/
def Nor.fieldOk (n : Nor) (copy : Nat) : Bool :=
  ecdsaVerify (fieldSigned (if copy = 0 then n.seq0 else n.seq1) n.field) identityPublic (if copy = 0 then n.sign0 else n.sign1)

/-- The copy of the field section that the ROM uses: of those that verify, that with the higher sequence number (R457). -/
def Nor.fieldCopy (n : Nor) : Option Nat :=
  if n.fieldOk 1 && (!n.fieldOk 0 || decide (n.seq0 < n.seq1)) then some 1 else if n.fieldOk 0 then some 0 else none

/-- The field section as read from a copy: the header page and the entries (R457). -/
def Nor.fieldBytes (n : Nor) (copy : Nat) : List Byte :=
  let l := fieldSigned (if copy = 0 then n.seq0 else n.seq1) n.field
  let x := if copy = 0 then n.sign0 else n.sign1
  l.take 32 ++ x ++ List.replicate (0x1000 - 32 - x.length) 0 ++ l.drop 32

/-- The factory section as read: its entries, and the signature block that ends it (R393). -/
def Nor.factoryBytes (n : Nor) : List Byte := n.factory.flatMap CatEntry.bytes ++ n.factoryBlock

/-- A verified update takes effect (R461). It replaces the factory section, or changes the field section, which the ZD24 then signs; a field
section of which no copy verifies is not rewritten. -/
def State.applyUpdate (s : State) (u : List Byte) : State :=
  let n := s.nor
  let entries := fun (k : Nat) (l : List CatEntry) => (Config.catalogueUpdate u k (l.map CatEntry.nums)).map entryOf
  if Config.replacesFactory u then
    let b := u.drop (u.length - 3072)
    s.modNor fun x => { x with
      factory := entries 0 n.factory, factoryBlock := b, factory0 := true, factory1 := true, factoryKey := fld b 2 1, factorySvn := fld b 4 4 }
  else if n.fieldCopy.isSome then s.rewriteField (entries 1 n.field)
  else s

/-- The updates that have been verified since the last package reset, in the order in which they came. -/
def State.applyUpdates (s : State) : State :=
  (s.nor.updates.foldl (fun (s : State) u => s.applyUpdate u) s).modNor fun n => { n with updates := [] }

/-- The hard repairs that are pending made, and their pending bits cleared (R458). The factory section, which the ZD24 cannot sign, keeps its bits. -/
def State.hardRepairs (s : State) : State :=
  s.rewriteField (s.nor.field.map fun e => if e.ty = 5 ∨ e.ty = 8 then { e with cause := e.cause % 16 } else e)

/-- Whether the factory section's key index and security version pass checks 2 and 4 of R394, which the fuses can come to fail. -/
def State.factoryAllowed (s : State) : Bool :=
  !(decide (s.nor.factoryKey < 4) && s.fuses.revoked.getLsbD s.nor.factoryKey) && decide (s.fuses.minSvn ≤ s.nor.factorySvn)

/-- Whether both sections of the catalogue verify (step 3 of Table 14.1, R395). -/
def State.catalogueOk (s : State) : Bool := (s.nor.factory0 || s.nor.factory1) && s.factoryAllowed && s.nor.fieldCopy.isSome

/-- Steps 2 to 5 of Table 14.1. The sections are verified and measured as they are read; only then are hard repairs made. -/
def State.startUp (s : State) (event : Nat) : State :=
  let s := s.applyUpdates
  let ok := s.catalogueOk
  let copy := s.nor.fieldCopy.getD 0
  let catalogue := sha384 (s.nor.factoryBytes ++ s.nor.fieldBytes copy)
  let second : BitVec 2 := BitVec.ofNat 2 (ofBool (!s.nor.factory0 && s.nor.factory1) + 2 * copy)
  let s := if ok then s.hardRepairs else s
  let n : Nor := { s.nor with poweredAt := 0 }
  let (d, s) := s.draw
  let s := { s with
    tclk := 0, activity := .running, nor := n
    gals := (List.range 6).map fun g => (g, { n.galleryOf g with
      fwHome := if g = 0 ∨ g = 3 then (n.galleryOf g).lowest g else none, cons := { due := 0 } })
    clusters := n.clustersOf, scrubs := n.scrubsOf
    ports := (List.range 16).map fun p => (p, n.portOf false p)
    tiers := { mem := { undef := [(0x100000000000, 0x18000000000, d), (0x200000000000, 0x28000000000, d)] } }
    boot := { s.boot with romOk := ok, second }
    sec := { s.sec with measures := [(1, Config.romDigest), (4, catalogue)] } }
  let s := s.bootEvent event 0 0 0
  let s := match n.trip with
    | some (die, reading) => (s.bootEvent 15 0 die reading.toNat).modJournal fun n => { n with trip := none }
    | none => s
  let s := if n.tamperNew then (s.bootEvent 13 0 0 0).modJournal fun n => { n with tamperNew := false } else s
  let s := if ok then s.bootEvent 3 0 0 0 else s.failedStart 4 1 0 0
  let s := s.modBoot fun b => { b with stage := if s.nor.outOfSvc then 5 else if s.nor.vestibule then 4 else 1 }
  { s with agent := { s.agent with running := ok && s.boot.stage != 5 } }

/-- A package reset entered in its log, but for the first after power is applied; the fourth within the hour takes the package out of
service (R434). -/
def State.countReset (s : State) : State :=
  if s.nor.firstReset then s.modJournal fun n => { n with firstReset := false }
  else
    let s := s.stampPowered
    let s := s.modJournal fun n => { n with resets := (n.powered :: n.resets).take 4 }
    if s.resetCount = 4 ∧ !s.nor.outOfSvc then (s.modJournal fun n => { n with outOfSvc := true, cycled := false }) else s

/-- The event of a package taken out of service by its last reset. -/
def State.outOfServiceEvent (s : State) (was : Bool) : State :=
  if s.nor.outOfSvc && !was then s.bootEvent 11 0 0 0 else s

/-- A package reset that PORST_N does not cause: the node ID is kept, and Table 14.1 runs (R420, R444). -/
def State.packageReset (s : State) (counts : Bool) : State :=
  let was := s.nor.outOfSvc
  let s := if counts then s.countReset else s.stampPowered
  (s.wiped.startUp 2).outOfServiceEvent was

end Sys2Proof.Machine
end

