-- ==== Sys2Proof/Machine/Lanes.lean ====
section
/-! DEFINITION. Lanes that fail, the spare lane, retraining (R344–R346), and ports that park and wake (R472). -/

namespace Sys2Proof.Machine

/-! ### The lane state machine (Table 11.2) -/

/-- The lanes that either end has failed. -/
def Port.allFailed (x : Port) : BitVec 9 := x.failed ||| x.peerFailed

/-- Every sub-port of a port taken down. -/
def State.allDown (s : State) (p : Nat) : State := (s.upSubs p).foldl (fun s i => s.linkDown p i) s

/-- The receiver switched to L8 in place of a lane, the repair entered in the catalogue, and DONE sent (R345 step 3). -/
def State.takeSpare (s : State) (p m : Nat) : State :=
  let s := s.modPort p fun x => { x with lanes := x.lanes.map fun l => if l = m then 8 else l, width := .spared, spareFor := some m }
  (s.repair 0x03 7 [p, m]).sendCtrl p (leBytes 1 0x82 ++ leBytes 1 0 ++ leBytes 1 m)

/-- A lane in use lost beyond the spare: the port retrains on what Table 11.2 leaves, or stays down. -/
def State.retrainOn (s : State) (p : Nat) : State :=
  let x := laneSetup (s.portSwitched p) (s.port p).allFailed
  let s := s.allDown p
  s.modPort p fun y => { y with width := x.1, lanes := x.2.1, spareFor := x.2.2, swapping := none, retrain := x.1 != .down }

/-- A failed lane of a port, by the row of Table 11.2 (R344, R346). -/
def State.laneFailed (s : State) (p m : Nat) : State :=
  let x := s.port p
  if x.failed.getLsbD m ∨ (s.portSwitched p ∧ m = 8) then s
  else
    let s := s.modPort p fun y => { y with failed := y.failed ||| (1#9 <<< m) }
    if s.subCount p ≠ 1 then (s.repair 0x04 7 [p, m]).linkDown p (m / (8 / s.subCount p))
    else if x.width = .down ∨ (!x.lanes.contains m && !(m == 8 && x.swapping.isSome)) then s.repair 0x04 7 [p, m]
    else if x.width = .full ∧ x.swapping = none ∧ !s.portSwitched p ∧ !x.allFailed.getLsbD 8 ∧ x.peerFailed = 0 ∧ x.failed = 0 then
      (s.modPort p fun y => { y with swapping := some m }).sendCtrl p (leBytes 1 0x81 ++ leBytes 1 0 ++ leBytes 1 m)
    else (s.repair 0x04 7 [p, m]).retrainOn p

/-- The lanes of a port chosen anew after its mode or its breakout has been written (R341, R346): a broken-out port drives every lane, and a
port whose lanes change retrains. -/
def State.laneRedo (s : State) (p : Nat) : State :=
  let y := s.port p
  let x := laneSetup (s.portSwitched p) y.allFailed
  if s.subCount p ≠ 1 then
    s.modPort p fun y => { y with width := .full, lanes := List.range 8, spareFor := none, swapping := none, retrain := false }
  else if y.width = x.1 ∧ y.lanes = x.2.1 ∧ y.spareFor = x.2.2 then s
  else s.retrainOn p

/-- LANE_FAIL (R344). -/
def execLaneFail (p lane : Nat) (s : State) : Host.Outcome State Fault Refusal :=
  if portOk p && decide (lane ≤ 8) then .next (if s.live then s.laneFailed p lane else s)
  else .next s

/-- Whether either end has failed a lane other than one: L8, or a lane whose replacement is under way or is asked for by this end. -/
def Port.failedBeside (x : Port) (m : Nat) : Bool := x.allFailed &&& ~~~(1#9 <<< m) != 0

/-- LANE_SWAP (R345). Where L8 has failed, or another lane has and L8 is to replace that one, the next row of Table 11.2 holds. -/
def execLaneSwap (p : Nat) (s : State) : Host.Outcome State Fault Refusal :=
  if portOk p then
    .next (s.takeLink p 0x81 fun s _ l =>
      let m := fld l 2 1
      let x := s.port p
      if 7 < m ∨ x.width ≠ .full ∨ s.portSwitched p then s
      else if x.failedBeside m then
        ((s.modPort p fun y => { y with peerFailed := y.peerFailed ||| (1#9 <<< m) }).repair 0x04 7 [p, m]).retrainOn p
      else (s.modPort p fun y => { y with peerFailed := y.peerFailed ||| (1#9 <<< m), swapping := some m }).takeSpare p m)
  else .next s

/-- LANE_SWAP_DONE (R345): the replaced lane is no longer driven; the end that has not yet switched does so. -/
def execLaneSwapDone (p : Nat) (s : State) : Host.Outcome State Fault Refusal :=
  if portOk p then
    .next (s.takeLink p 0x82 fun s _ _ =>
      match (s.port p).swapping with
      | none => s
      | some m =>
        let s := if (s.port p).lanes.contains m then s.takeSpare p m else s
        s.modPort p fun y => { y with swapping := none })
  else .next s

/-- The end of a retrain: the link comes up on the lanes chosen. -/
def State.retrained (s : State) (p : Nat) : State :=
  if !(s.port p).retrain then s
  else (s.modPort p fun y => { y with retrain := false }).linkUp p 0 (s.port p).delay

/-- RETRAIN_COMPLETE (R346). -/
def execRetrainComplete (p : Nat) (s : State) : Host.Outcome State Fault Refusal :=
  if portOk p then .next (if s.live then s.retrained p else s) else .next s

/-! ### Parking (R472) -/

/-- The conditions of R472 at this end. -/
def State.mayPark (s : State) (p : Nat) : Bool := bit (s.word 0 0x010448) 12 && !s.routeNames p && !s.filterOn p

/-- The lanes parked. The link of a switched port goes down. -/
def State.parkNow (s : State) (p : Nat) : State :=
  let s := s.modPort p fun x => { x with parked := true, parkSeen := false, parkSent := false, waking := none }
  if s.portSwitched p then s.allDown p else s

/-- A port that may park: a switched one parks; a direct one tells its partner, and parks once the partner has said the same. -/
def State.parkStep (s : State) (p : Nat) (heard : Bool) : State :=
  let x := s.port p
  if x.parked ∨ !x.up then s
  else if !s.mayPark p then s.modPort p fun x => { x with parkSeen := x.parkSeen || heard, parkSent := false }
  else if s.portSwitched p then s.parkNow p
  else
    let s := if heard || x.parkSeen then s.modPort p fun x => { x with parkSeen := true } else s
    let s := if x.parkSent then s else
      (s.sendOn p (s.linkPacket p (leBytes 1 0x83 ++ List.replicate 3 0))).modPort p fun x => { x with parkSent := true }
    if (s.port p).parkSeen && ((s.sub p 0).queue.isEmpty) then s.parkNow p else s

/-- PARK (R472): the partner's message, or, where none waits, the port's own check. -/
def State.park (s : State) (p : Nat) : State :=
  match takeFirst (fun a => a.port == p && a.pkt.ty == 0x20 && fld a.pkt.body 0 1 == 0x83) s.arrived with
  | some (_, l) =>
    State.parkStep { s with arrived := l } p true
  | none => s.parkStep p false

/-- PARK (R472). -/
def execPark (p : Nat) (s : State) : Host.Outcome State Fault Refusal :=
  if portOk p then .next (if s.live then s.park p else s) else .next s

/-- A parked port wakes: 12 µs from the cause on. -/
def State.wakeStep (s : State) (p : Nat) : State :=
  let x := s.port p
  if !x.parked then s
  else match x.waking with
    | none => s.modPort p fun x => { x with waking := some (s.tclk + 12000) }
    | some t => if t ≤ s.tclk then s.modPort p fun x => { x with parked := false, waking := none, helloNext := s.tclk } else s

/-- PORT_WAKE (R472). -/
def execPortWake (p : Nat) (s : State) : Host.Outcome State Fault Refusal :=
  if portOk p then .next (if s.live then s.wakeStep p else s) else .next s

end Sys2Proof.Machine
end

