-- ==== Sys2Proof/Machine/Agent.lean ====
section
/-! DEFINITION. LLDP, the version exchange of HELLO, and the tree and routes of the ROM agent (R207, R210, R421–R424, R431). -/

namespace Sys2Proof.Machine

/-! ### LLDP (R421, R422) -/

def lldpTlv (ty : Nat) (l : List Byte) : List Byte := beBytes 2 (ty * 512 + l.length) ++ l

/-- A TLV of Table 14.2. -/
def ownTlv (sub : Nat) (l : List Byte) : List Byte := lldpTlv 127 (beBytes 3 Config.oui.toNat ++ leBytes 1 sub ++ l)

/-- The ZFT versions this node supports (Table 14.2). -/
def State.zftMask (s : State) : Nat := s.boot.running.elim 2 (·.zft.toNat)

/-- HUB_BOOT_STATUS (Table 12.9). -/
def State.bootStatus (s : State) : Nat := s.boot.stage + 16 * ofBool s.boot.romOk + 256 * s.failedStarts

/-- An LLDP frame of this node's. -/
def State.lldpFrame (s : State) (p sub : Nat) : List Byte :=
  let mac := beBytes 6 (s.macAddr p sub)
  beBytes 6 0x0180C200000E ++ mac ++ beBytes 2 0x88CC ++ lldpTlv 1 (leBytes 1 4 ++ mac) ++ lldpTlv 2 (leBytes 1 3 ++ mac) ++ lldpTlv 3 (beBytes 2 4) ++
  ownTlv 1 (leBytes 2 s.node ++ leBytes 1 0) ++
  ownTlv 2 (leBytes 1 p ++ leBytes 1 (ofBool (s.portSwitched p)) ++ leBytes 1 (s.breakout p)) ++
  ownTlv 3 (leBytes 2 s.zftMask) ++ ownTlv 4 (leBytes 1 (s.bootStatus % 256)) ++ lldpTlv 0 []

/-- Four frames 25 ms apart once the link is up, then one every second. -/
def State.lldpSend (s : State) (p sub : Nat) : State :=
  let x := s.sub p sub
  if !x.up ∨ (s.port p).parked ∨ s.tclk < x.lldpNext ∨ !s.agent.running then s
  else
    let fr : TxFrame := { cls := 7, kind := .lldp, bytes := s.lldpFrame p sub ++ List.replicate (60 - (s.lldpFrame p sub).length) 0 }
    s.modSub p sub fun x => { x with
      queue := x.queue ++ [{ fr with at_ := s.tclk }], lldpSent := x.lldpSent + 1, lldpNext := s.tclk + if x.lldpSent < 3 then 25000000 else 1000000000 }

/-- LLDP_TRANSMIT (R422). -/
def execLldpTransmit (p sub : Nat) (s : State) : Host.Outcome State Fault Refusal :=
  if portOk p && subOk sub then .next (if s.live then s.lldpSend p sub else s) else .next s

/-- The TLVs of an LLDPDU: type and contents, up to the end TLV. -/
def lldpTlvs : Nat → List Byte → List (Nat × List Byte)
  | 0, _ => []
  | n + 1, l =>
    let h := beNat (slice l 0 2)
    if l.length < 2 ∨ h / 512 = 0 then [] else (h / 512, slice l 2 (h % 512)) :: lldpTlvs n (l.drop (2 + h % 512))

/-- The node that an LLDP frame names. A NODE TLV whose reserved byte is not zero is malformed, and names none (R7, R10). -/
def lldpNode (l : List Byte) : Option Nat :=
  ((lldpTlvs 64 (l.drop 14)).find? fun t => t.1 == 127 && beNat (slice t.2 0 3) == Config.oui.toNat && fld t.2 3 1 == 1 && zeroAt t.2 6 1).map
    fun t => fld t.2 4 2

/-- A port held out of every candidate set for a cause, with a boot event when that begins; or no longer. -/
def State.hold (s : State) (p bitNo cause : Nat) (on : Bool) : State :=
  let was := bit (s.port p).blocked bitNo
  let s := s.modPort p fun x => { x with blocked := setBits x.blocked bitNo bitNo (ofBool on) }
  if on && !was then s.bootEvent 14 cause p 0 else s

/-- A received LLDP frame taken in by the fabric processors. -/
def State.lldpTake (s : State) (p : Nat) : State :=
  match (s.port p).lldpIn with
  | [] => s
  | (_, l) :: rest =>
    let s := s.modPort p fun x => { x with lldpIn := rest }
    if (s.port p).parked then s
    else match lldpNode l with
      | none => s
      | some n => (s.modPort p fun x => { x with peerNode := n, peerMac := slice l 6 6 }).hold p 0 8 (n == s.node)

/-- LLDP_RECEIVE (R421). -/
def execLldpReceive (p : Nat) (s : State) : Host.Outcome State Fault Refusal :=
  if portOk p then .next (if s.live then s.lldpTake p else s) else .next s

/-! ### HELLO (R431) -/

/-- The highest version of a mask. -/
def topVersion (mask : Nat) : Nat := ((bitsSet 16 mask).getLast?).getD 0

/-- The lower of the two ends' highest versions, where both support it. -/
def agreedVersion (a b : Nat) : Option Nat :=
  let v := Nat.min (topVersion a) (topVersion b)
  if bit a v && bit b v then some v else none

/-- What an exchange over a link or with a node comes to. -/
def State.versionSet (s : State) (p : Nat) (k : Packet) (l : List Byte) : State :=
  let v := agreedVersion s.zftMask (fld l 2 2)
  if s.portSwitched p then
    let s := { s with agent := { s.agent with versions := tset s.agent.versions k.src (v.getD 0) } }
    if v.isNone then s.bootEvent 14 9 p 0 else s
  else
    (s.modPort p fun x => { x with version := v.getD 1, peerNode := fld l 4 2 }).hold p 1 9 v.isNone

/-- A HELLO or HELLO_ACK whose byte 6 is not zero is malformed, and is not acted on (R7, R10, R431). -/
def helloForm (l : List Byte) : Bool := zeroAt l 6 1

/-- HELLO (R431): answered with HELLO_ACK. The exchange over a link is complete once both ends have said HELLO and this end's has been answered; until
then version 1 stays in force (notes/assumptions/29.md). -/
def execHello (p : Nat) (s : State) : Host.Outcome State Fault Refusal :=
  if portOk p then
    .next (s.takeLink p 0x01 fun s k l =>
      if (s.port p).parked ∨ !helloForm l then s
      else
        let s := if s.portSwitched p then s else s.modPort p fun x => { x with helloSeen := true }
        let s := if !s.portSwitched p && (s.port p).helloDone then s.versionSet p k l else s
        let body := s.helloBytes 0x02 p
        if s.portSwitched p then s.launch (s.stamp { ty := 0x20, dst := k.src, plen := 16, body, first := true, last := true } 0) 7
        else s.sendOn p (s.linkPacket p body))
  else .next s

/-- HELLO_ACK (R431). -/
def execHelloAck (p : Nat) (s : State) : Host.Outcome State Fault Refusal :=
  if portOk p then
    .next (s.takeLink p 0x02 fun s k l =>
      if !helloForm l then s
      else if s.portSwitched p then
        let t := s.versionSet p k l
        { t with agent := { t.agent with greeted := t.agent.greeted.filter (· != k.src) } }
      else
        let s := s.modPort p fun x => { x with helloDone := true }
        if (s.port p).helloSeen then s.versionSet p k l else s)
  else .next s

/-- HELLO sent again while no HELLO_ACK has come. -/
def State.helloAgain (s : State) (p : Nat) : State :=
  let x := s.port p
  if !x.up ∨ x.parked ∨ s.tclk < x.helloNext ∨ !s.agent.running then s
  else
    let s := s.modPort p fun x => { x with helloNext := s.tclk + 1000000 }
    if s.portSwitched p then
      s.agent.greeted.foldl (fun s n =>
        s.launch (s.stamp { ty := 0x20, dst := n, plen := 16, body := s.helloBytes 0x01 0, first := true, last := true } 0) 7) s
    else if x.helloDone then s
    else s.sendOn p (s.linkPacket p (s.helloBytes 0x01 p))

/-- HELLO_RETRY (R431). -/
def execHelloRetry (p : Nat) (s : State) : Host.Outcome State Fault Refusal :=
  if portOk p then .next (if s.live then s.helloAgain p else s) else .next s

/-! ### The tree of the ROM agent (R207, R423) -/

/-- The fabric processors keep the tree and the routes themselves: the ROM agent, and, from stage 3 on, FBP0 and FBP1 in its place, while no
fabric manager is named and none has acted (R212, R424; notes/assumptions/20.md). -/
def State.agentOn (s : State) : Bool := s.agent.running && s.fmNode.isNone && !s.agent.acted

/-- The direct ports with a neighbour. -/
def State.nearPorts (s : State) : List Nat :=
  (List.range 16).filter fun p => !s.portSwitched p && s.portLive p && !(s.port p).peerMac.isEmpty

/-- A request between neighbours: it awaits a REPLY on its port (R213). -/
def State.askNear (s : State) (p : Nat) (data : List Byte) : State :=
  let id := s.nextReq % 65536
  let data := splice data 2 (leBytes 2 id)
  let r : Request := { id := id, dst := (s.port p).peerNode, data := data, at_ := s.tclk, port := some p }
  State.sendNear { s with nextReq := (id + 1) % 65536, requests := s.requests ++ [r] } p data

/-- TREE to every neighbour. An older TREE that awaits its REPLY is not sent again. -/
def State.sendTree (s : State) : State :=
  s.nearPorts.foldl (fun s p =>
    let s := { s with requests := s.requests.filter fun r => !(r.port == some p && fld r.data 0 1 == 0x08) }
    s.askNear p (leBytes 1 0x08 ++ leBytes 3 0 ++ leBytes 2 s.agent.root ++ leBytes 2 0 ++ leBytes 1 s.agent.dist)) s

/-- Of two neighbours (port, node, root, distance), the first by R207: the lower root, then distance, node and port. -/
def nearer (a b : Nat × Nat × Nat × Nat) : Bool :=
  decide (a.2.2.1 < b.2.2.1) || (a.2.2.1 == b.2.2.1 && (decide (a.2.2.2 < b.2.2.2) || (a.2.2.2 == b.2.2.2 &&
    (decide (a.2.1 < b.2.1) || (a.2.1 == b.2.1 && decide (a.1 < b.1))))))

/-- The root, the distance and the parent from what the neighbours say; a change is told to them. -/
def State.treeUpdate (s : State) : State :=
  let near := s.nearPorts
  let heard := s.agent.heard.filter fun h => near.contains h.1 && decide (h.2.2.2 < 64)
  let best := heard.foldl (fun (b : Option (Nat × Nat × Nat × Nat)) h =>
    match b with
    | none => some h
    | some x => if nearer h x then some h else some x) none
  let new : Nat × Nat × Option Nat := match best with
    | some h => if h.2.2.1 < s.node then (h.2.2.1, h.2.2.2 + 1, some h.1) else (s.node, 0, none)
    | none => (s.node, 0, none)
  let a := s.agent
  if a.root = new.1 ∧ a.dist = new.2.1 ∧ a.parent = new.2.2 ∧ a.heard = heard then s
  else
    let kids := a.subtree.filter fun e => near.contains e.1 && new.2.2 != some e.1
    let change := if new.1 = s.node then a.change else none
    State.sendTree { s with agent := { a with
      heard, root := new.1, dist := new.2.1, parent := new.2.2, subtree := kids, changed := s.tclk, stable := false, change } }

/-- A message between neighbours answered once: what is kept of the source, or `act` (R213). -/
def State.nearOnce (s : State) (a : Arrival) (l : List Byte) (act : State → State × Nat) : State :=
  let r := s.once a.pkt.src (fld l 2 2) act
  r.1.sendNear a.port (leBytes 1 0x80 ++ leBytes 1 0 ++ slice l 2 2 ++ leBytes 1 r.2)

/-- A TREE message. -/
def State.treeHear (s : State) (a : Arrival) (l : List Byte) : State × Nat :=
  if l.length < 9 ∨ 1 < fld l 1 1 ∨ !zeroAt l 6 1 ∨ s.portSwitched a.port ∨ 15 < a.port then (s, replyArgument)
  else
    let s := s.modPort a.port fun x => { x with peerNode := a.pkt.src }
    let old := tget s.agent.heard a.port
    let now := (a.pkt.src, fld l 4 2, fld l 8 1)
    if old = some now then (s, replyOk)
    else (State.treeUpdate { s with agent := { s.agent with heard := tset s.agent.heard a.port now } }, replyOk)

/-- TREE (R423). -/
def execTree (s : State) : Host.Outcome State Fault Refusal :=
  .next (s.takeFabric (fun l => fld l 0 1 == 0x08) fun s a l => s.nearOnce a l fun s => s.treeHear a l)

/-- TREE_TIMER (R423). -/
def execTreeTimer (s : State) : Host.Outcome State Fault Refusal :=
  .next (if s.live && s.agentOn && decide (s.agent.nextTree ≤ s.tclk) then
    let s := { s with agent := { s.agent with nextTree := s.tclk + 10000000 } }
    s.treeUpdate.sendTree
  else s)

/-! ### The routes of the ROM agent (R204, R210, R423) -/

/-- The slot that the agent builds: direct neighbours at distance 1, and the tree for everything else. -/
def State.agentSlot (s : State) : RouteSlot :=
  let up := s.agent.parent
  let rest : RouteEntry := match up with
    | some p => { escape := p, valid := true }
    | none => {}
  let kids : Tab RouteEntry := s.agent.subtree.foldl (fun t e =>
    e.2.foldl (fun t n => if n = s.node then t else tset t n { rest with escape := e.1, valid := true }) t) []
  let near := s.nearPorts.foldl (fun (t : Tab RouteEntry) p =>
    let n := (s.port p).peerNode
    let e := tgetD t n rest
    tset t n { e with mask := e.mask ||| (1#16 <<< p), dist := 1 }) kids
  { state := .sealed_, table := tset near s.node {}, rest }

/-- The drain time of R210: what is greatest on any node, this one included. -/
def State.drainTime (s : State) : Nat :=
  64 * (Nat.max s.hopResidence Config.farResidence + Nat.max (maxOf (s.ports.map fun p => p.2.delay)) Config.farDelay) + Config.segmentLife

/-- The routes loaded, sealed and injected: into slot 0 at first, then into the slot that is not in use. Where that is not yet free,
the tree counts as not settled. -/
def State.agentLoad (s : State) : State :=
  let cur := s.slot s.epoch
  if cur.state ≠ .sealed_ then State.greet { (s.modSlot 0 fun _ => s.agentSlot).wakeNamed with epoch := 0 } 0
  else if s.agentSlot = cur then s
  else
    let e := 1 - s.epoch
    if (s.slot e).state = .sealed_ then { s with agent := { s.agent with stable := false } }
    else { (s.modSlot e fun _ => s.agentSlot).wakeNamed with
      epoch := e, agent := { s.agent with retireAt := some (s.tclk + s.drainTime), lastOld := s.tclk } }

/-- Nodes that a SUBTREE adds to the routes in use: the tree has not changed, so neither slot nor epoch does. -/
def State.agentAdd (s : State) : State := (s.modSlot s.epoch fun _ => s.agentSlot).wakeNamed

/-- The nodes of this node's subtree told to its parent, 240 to a message. -/
def State.sendSubtree (s : State) : State :=
  match s.agent.parent with
  | none => s
  | some p =>
    let nodes := s.node :: s.agent.subtree.flatMap (·.2)
    (List.range (ceilDiv nodes.length 240)).foldl (fun s i =>
      let l := (nodes.drop (240 * i)).take 240
      s.askNear p (leBytes 1 0x09 ++ leBytes 7 0 ++ leBytes 2 l.length ++ leBytes 2 (240 * i) ++ leBytes 4 0 ++
        l.flatMap fun n => leBytes 2 n ++ leBytes 2 0)) s

/-! ### The root node acts for the fabric manager (R210, R212, R424) -/

/-- The other nodes that the root knows of. -/
def State.knownNodes (s : State) : List Nat :=
  (s.agent.subtree.flatMap (·.2)).foldl (fun l n => if n = s.node then l else addNew n l) []

/-- The table that the root works out for another node. What it needs to know of that node's links no rule says how it learns, so which ports
each entry names is open (notes/assumptions/20.md). -/
def State.rootTable (s : State) (c : RouteChange) (n : Nat) : RouteSlot :=
  let entry := fun (d : Nat) =>
    let v := Config.rootRoute c.seed n d
    ({ mask := BitVec.ofNat 16 v, escape := v / 65536 % 16, valid := true, dist := v / 2 ^ 20 % 64 } : RouteEntry)
  { table := ((s.node :: s.knownNodes).filter (· != n)).foldl (fun t d => tset t d (entry d)) [] }

/-- Route messages sent to every other node: the state, and their request IDs. -/
def State.askAll (s : State) (msgs : Nat → List (List Byte)) : State × List Nat :=
  s.knownNodes.foldl (fun x n => (msgs n).foldl (fun (y : State × List Nat) l => (y.1.request n l, y.2 ++ [y.1.nextReq % 65536])) x) (s, [])

/-- The opcode and the slot of a route message. -/
def routeHead (op slot : Nat) : List Byte := leBytes 1 op ++ leBytes 1 slot ++ leBytes 2 0

/-- The messages of a step for a node. -/
def State.changeMsgs (s : State) (c : RouteChange) (n : Nat) : List (List Byte) :=
  match c.step with
  | 1 => [routeHead 0x01 c.slot]
  | 2 => (s.rootTable c n).table.map fun e => routeHead 0x02 c.slot ++ leBytes 2 e.1 ++ leBytes 2 0 ++ leBytes 2 1 ++ leBytes 6 0 ++ e.2.bytes
  | 3 => [routeHead 0x03 c.slot ++ leBytes 4 0 ++ leBytes 4 (s.rootTable c n).crc]
  | 4 => [routeHead 0x04 c.slot]
  | 5 => []
  | _ => [routeHead 0x05 (1 - c.slot)]

/-- What a step does on the root node itself. -/
def State.changeHere (s : State) (c : RouteChange) : State :=
  match c.step with
  | 1 => s.modSlot c.slot fun _ => { state := .loading }
  | 2 => s.modSlot c.slot fun _ => { s.agentSlot with state := .loading }
  | 3 => (s.modSlot c.slot fun r => { r with state := .sealed_ }).wakeNamed
  | 4 => { s with epoch := c.slot }
  | 5 => s
  | _ => s.modSlot (1 - c.slot) fun _ => {}

/-- A step of R210 carried out: on this node, and in messages to every other. The drain counts from the last reply. -/
def State.changeStep (s : State) (c : RouteChange) : State :=
  let r := (s.changeHere c).askAll (s.changeMsgs c)
  { r.1 with agent := { r.1.agent with change := some { c with asked := r.2, drainBy := s.tclk + s.drainTime } } }

/-- Whether a step waits: for replies of nodes that are still known, or for the end of the drain. -/
def State.changeWaits (s : State) (c : RouteChange) : Bool :=
  (s.requests.any fun r => c.asked.contains r.id && s.knownNodes.contains r.dst) || (c.step == 5 && decide (s.tclk < c.drainBy))

/-- The change goes on as far as it need not wait. -/
def State.changeGo : Nat → State → State
  | 0, s => s
  | fuel + 1, s =>
    match s.agent.change with
    | none => s
    | some c =>
      if s.changeWaits c then s
      else if 6 ≤ c.step then { s with agent := { s.agent with change := none } }
      else State.changeGo fuel (s.changeStep { c with step := c.step + 1 })

/-- The root begins a change where its routes differ and the other slot is INVALID; else the tree counts as not settled. -/
def State.changeBegin (s : State) : State :=
  if s.agentSlot = s.slot s.epoch ∨ s.agent.change.isSome then s
  else if (s.slot (1 - s.epoch)).state ≠ .invalid then { s with agent := { s.agent with stable := false } }
  else
    let d := s.draw
    State.changeGo 6 (d.2.changeStep { slot := 1 - s.epoch, seed := d.1 })

/-- The routes once the tree is settled. The ROM agent, and whoever has none in force, loads its own; from stage 3 on the root node changes them for
the whole fabric, and the others wait for its messages (R212, R423, R424). -/
def State.settleRoutes (s : State) : State :=
  if s.boot.stage ≠ 3 ∨ (s.slot s.epoch).state ≠ .sealed_ then s.agentLoad
  else if s.agent.root = s.node then s.changeBegin else s

/-- TREE_STABLE (R423). -/
def execTreeStable (s : State) : Host.Outcome State Fault Refusal :=
  .next (if s.live && s.agentOn && !s.agent.stable && decide (s.agent.changed + 20000000 ≤ s.tclk) then
    State.settleRoutes (State.sendSubtree { s with agent := { s.agent with stable := true } })
  else s)

/-- A REPLY to a message of a change: one that refuses gives the change up before its INJECT, to be begun again (R210). -/
def State.changeReply (s : State) (id status : Nat) : State :=
  match s.agent.change with
  | none => s
  | some c =>
    if c.asked.contains id && status != 0 && decide (c.step ≤ 3) then
      { (s.modSlot c.slot fun _ => {}) with agent := { s.agent with change := none, stable := false } }
    else State.changeGo 6 s

/-- REPLY (R213). -/
def execReply (s : State) : Host.Outcome State Fault Refusal :=
  .next (s.takeFabric (fun l => fld l 0 1 == 0x80) fun s a l =>
    match s.requests.find? fun r => r.id == fld l 2 2 && r.dst == a.pkt.src with
    | none => s
    | some r =>
      let s := { s with requests := s.requests.filter fun x => x != r }
      match r.qpOf with
      | some (gid, j) => s.joinReply gid j (fld l 4 1) r
      | none => s.changeReply r.id (fld l 4 1))

/-- A SUBTREE message from a child: its nodes stand from the position that the message names, and none behind them. Nodes that are only added go into
the slot in use; any other difference is a change of the tree (notes/assumptions/28.md). -/
def State.subtreeHear (s : State) (a : Arrival) (l : List Byte) : State × Nat :=
  let n := fld l 8 2
  if l.length ≠ 16 + 4 * n ∨ 240 < n ∨ 1 < fld l 1 1 ∨ !zeroAt l 4 4 ∨ !zeroAt l 12 4 ∨ !((List.range n).all fun i => zeroAt l (18 + 4 * i) 2) ∨
      s.portSwitched a.port ∨ 15 < a.port then (s, replyArgument)
  else
    let had := tgetD s.agent.subtree a.port []
    let all := had.take (fld l 10 2) ++ (List.range n).map fun i => fld l (16 + 4 * i) 2
    if all = had ∨ s.agent.parent = some a.port then (s, replyOk)
    else
      let s := { s with agent := { s.agent with subtree := tset s.agent.subtree a.port all } }
      (if !s.agent.stable || !s.agentOn then s
        else if had.isPrefixOf all && s.boot.stage != 3 then s.sendSubtree.agentAdd
        else { s with agent := { s.agent with changed := s.tclk, stable := false } }, replyOk)

/-- SUBTREE (R423). -/
def execSubtree (s : State) : Host.Outcome State Fault Refusal :=
  .next (s.takeFabric (fun l => fld l 0 1 == 0x09) fun s a l => s.nearOnce a l fun s => s.subtreeHear a l)

/-- AGENT_ROUTE_RETIRE (R423), or the end of the drain of a change that the root node carries out (R210). -/
def execAgentRouteRetire (s : State) : Host.Outcome State Fault Refusal :=
  .next (if s.live then
    let s := if s.agentOn then State.changeGo 6 s else s
    match s.agent.retireAt with
    | some t =>
      if t ≤ s.tclk ∧ s.agent.lastOld + s.drainTime ≤ s.tclk then
        { (s.modSlot (1 - s.epoch) fun _ => {}) with agent := { s.agent with retireAt := none } }
      else s
    | none => s
  else s)

end Sys2Proof.Machine
end

