-- ==== Sys2Proof/Machine/Tve.lean ====
section
/-! DEFINITION. What one bundle of a plan computes: the fields of a bundle, tiles, matrix and vector operations (R296–R305). -/

namespace Sys2Proof.Machine

/-! ### Bundle fields (Table 9.10) -/

def bLop (b : Nat) : Nat := bits b 3 0
def bLt (b : Nat) : Nat := bits b 9 4
def bLa (b : Nat) : Nat := bits b 13 10
def bLimm (b : Nat) : Int := toSigned 12 (bits b 25 14)
/-- STAGE: second address register, scalar register, counter slot. -/
def bStB (b : Nat) : Nat := bits b 17 14
def bStS (b : Nat) : Nat := bits b 21 18
def bStK (b : Nat) : Nat := bits b 25 22
def bLp (b : Nat) : Bool := bit b 26
def bMop (b : Nat) : Nat := bits b 35 32
def bMfmt (b : Nat) : Nat := bits b 39 36
def bMd (b : Nat) : Nat := bits b 45 40
def bMx (b : Nat) : Nat := bits b 51 46
def bMy (b : Nat) : Nat := bits b 57 52
def bMacc (b : Nat) : Bool := bit b 58
def bVop (b : Nat) : Nat := bits b 69 64
def bVd (b : Nat) : Nat := bits b 75 70
def bVx (b : Nat) : Nat := bits b 81 76
def bVy (b : Nat) : Nat := bits b 87 82
def bVz (b : Nat) : Nat := bits b 93 88
def bCop (b : Nat) : Nat := bits b 100 96
def bCf (b : Nat) : Nat := bits b 104 101
def bCimm (b : Nat) : Nat := bits b 127 105

/-- A bundle whose control slot makes the point before it a plan boundary (R307). -/
def bBoundary (b : Nat) : Bool := decide (bCop b = 0x08 ∨ bCop b = 0x04 ∨ bCop b = 0x1F)

/-! ### Tiles (R296): rows of 1,024 bits as one number, and the scale area -/

abbrev Tile := Nat × Nat

def tileAt (t : Tab Tile) (i : Nat) : Tile := tgetD t i (0, 0)

/-- Element e of row r, w bits wide. -/
def elemAt (t : Tile) (w r e : Nat) : Nat := t.1 / 2 ^ (1024 * r + w * e) % 2 ^ w

/-- Byte i of the scale area. -/
def scaleAt (t : Tile) (i : Nat) : Nat := t.2 / 2 ^ (8 * i) % 256

/-- A tile of 32 × 32 elements of 32 bits from a function of row and column. -/
def tile32 (f : Nat → Nat → Nat) : Tile :=
  (leNat ((List.range 32).flatMap fun i => (List.range 32).flatMap fun j => leBytes 4 (f i j)), 0)

def tileBytes (t : Tile) : List Byte := leBytes 4096 t.1
def scaleBytes (t : Tile) : List Byte := leBytes 256 t.2

/-! ### Formats of Table 9.12 -/

/-- Element format, element width, depth K, whether blocks are scaled. -/
def mmaFormat (f : Nat) : Option (Fmt × Nat × Nat × Bool) :=
  match f with
  | 0 => some (bf16, 16, 64, false)
  | 1 => some (fp16, 16, 64, false)
  | 2 => some (e4m3, 8, 128, false)
  | 3 => some (e5m2, 8, 128, false)
  | 4 => some (e4m3, 8, 128, true)
  | 5 => some (e5m2, 8, 128, true)
  | 6 => some (e3m2, 6, 128, true)
  | 7 => some (e2m3, 6, 128, true)
  | 8 => some (e2m1, 4, 256, true)
  | 9 => some (fp32, 32, 32, false)
  | _ => none

/-- An element's value, with its block's scale (R302). -/
def mxValue (t : Tile) (f : Fmt) (w k : Nat) (mx : Bool) (r e : Nat) : Fp :=
  let v := f.decode (elemAt t w r e)
  if mx then
    let sc := scaleAt t (r * (k / 32) + e / 32)
    if sc = 255 then .nan
    else match v with
      | .fin n m x => .fin n m (x + sc - 127)
      | v => v
  else v

/-- MMA: C[i][j] ⊕ Σ A[i][k] × B[j][k] (R301, R302). -/
def mma (f : Nat) (acc : Bool) (c a b : Tile) : Tile :=
  match mmaFormat f with
  | some (m, w, k, mx) =>
    tile32 fun i j =>
      let terms := (List.range k).map fun e => (mxValue a m w k mx i e).mul (mxValue b m w k mx j e)
      fp32.encode (sumExact (if acc then fp32.decode (elemAt c 32 i j) :: terms else terms))
  | none =>
    tile32 fun i j =>
      let terms := (List.range 128).map fun e => toSigned 8 (elemAt a 8 i e) * toSigned 8 (elemAt b 8 j e)
      ofSigned 32 (terms.foldl (· + ·) (if acc then (elemAt c 32 i j : Int) else 0))

/-! ### Vector operations (R303, R304) -/

/-- The exact sum of a row's elements, rounded once (RSUM). -/
def rowSum (x : Tile) (i : Nat) : Nat :=
  ((List.range 32).foldl (fun (a : Acc) j => a.fold (fp32.decode (elemAt x 32 i j))) {}).round fp32

def rowMax (x : Tile) (i : Nat) : Nat :=
  ((List.range 31).map (· + 1)).foldl (fun m j => fp32.pick false m (elemAt x 32 i j)) (elemAt x 32 i 0)

/-- The format of a conversion and the width of its elements. -/
def cvtFormat (f : Nat) : Option (Fmt × Nat × Nat × Bool) := if f = 9 ∨ f = 10 then none else mmaFormat f

/-- CVTO: column block q of d written in a format. -/
def cvtOut (f q : Nat) (x d : Tile) : Tile :=
  match cvtFormat f with
  | none => d
  | some (m, w, _, _) =>
    let row := fun i =>
      let base := 1024 * i + w * 32 * q
      let old := d.1 / 2 ^ base % 2 ^ (w * 32)
      let new := (List.range 32).foldl (fun acc j => acc + m.encode (fp32.decode (elemAt x 32 i j)) * 2 ^ (w * j)) 0
      ((new : Int) - old) * 2 ^ base
    (((d.1 : Int) + (List.range 32).foldl (fun acc i => acc + row i) 0).toNat, d.2)

/-- CVTI: column block q of x, in a format, to FP32. -/
def cvtIn (f q : Nat) (x : Tile) : Tile :=
  match cvtFormat f with
  | none => x
  | some (m, w, k, mx) => tile32 fun i j => fp32.encode (mxValue x m w k mx i (32 * q + j))

/-- The result of a vector opcode: d is the old destination, s the scalar register that MULS names. -/
def vector (op vy vz s : Nat) (d x y z : Tile) : Tile :=
  let e := fun t i j => elemAt t 32 i j
  match op with
  | 0x01 => tile32 fun i j => fp32.add (e x i j) (e y i j)
  | 0x02 => tile32 fun i j => fp32.sub (e x i j) (e y i j)
  | 0x03 => tile32 fun i j => fp32.mulBits (e x i j) (e y i j)
  | 0x04 => tile32 fun i j => fp32.fma (e x i j) (e y i j) (e z i j)
  | 0x05 => tile32 fun i j => fp32.pick false (e x i j) (e y i j)
  | 0x06 => tile32 fun i j => fp32.pick true (e x i j) (e y i j)
  | 0x07 => tile32 fun i j => fp32.add (e x i j) (e y i 0)
  | 0x08 => tile32 fun i j => fp32.sub (e x i j) (e y i 0)
  | 0x09 => tile32 fun i j => fp32.mulBits (e x i j) (e y i 0)
  | 0x0A => tile32 fun i j => fp32.mulBits (e x i j) s
  | 0x0B => tile32 fun i j => exp2Bits (e x i j)
  | 0x0C => tile32 fun i j => rcp32 (e x i j)
  | 0x0D => tile32 fun i j => rsqrt32 (e x i j)
  | 0x0E => tile32 fun i j => if j = 0 then rowMax x i else 0
  | 0x0F => tile32 fun i j => if j = 0 then rowSum x i else 0
  | 0x10 => cvtOut vz vy x d
  | 0x11 => cvtIn vz vy x
  | 0x12 => x
  | _ => d

/-! ### What LOAD_PLAN checks of a bundle (R287) -/

/-- The tiles that the slots of a bundle write. -/
def bWrites (b : Nat) : List Nat :=
  (if bLop b = 1 ∨ bLop b = 3 then [bLt b] else []) ++ (if bMop b = 1 then [bMd b] else []) ++ (if bVop b = 0 then [] else [bVd b])

def distinct : List Nat → Bool
  | [] => true
  | x :: r => !r.contains x && distinct r

/-- Tiles that a bundle names. -/
def bTiles (b : Nat) : List Nat :=
  let v := bVop b
  (if 1 ≤ bLop b ∧ bLop b ≤ 3 then [bLt b] else []) ++ (if bMop b = 1 then [bMd b, bMx b, bMy b] else []) ++
  (if v = 0 then [] else [bVd b, bVx b]) ++ (if (1 ≤ v ∧ v ≤ 9) then [bVy b] else []) ++ (if v = 4 then [bVz b] else [])

/-- Counter slots that a bundle names. -/
def bSlots (b : Nat) : List Nat :=
  (if 4 ≤ bLop b ∧ bLop b ≤ 6 then [bStK b] else []) ++ (if bCop b = 4 ∨ bCop b = 5 then [bCf b] else [])

/-- The format and column block of CVTO and CVTI. -/
def cvtOk (b : Nat) : Bool :=
  if bVop b = 0x10 then
    decide (bVz b ≤ 3) && decide (bVy b < if bVz b ≤ 1 then 2 else 4)
  else if bVop b = 0x11 then
    decide (bVz b ≤ 8) && decide (bVy b < if bVz b ≤ 1 then 2 else if bVz b = 8 then 8 else 4)
  else true

/-- A bundle that LOAD_PLAN accepts, tiles and slots being those the header declares; `last` for the last bundle. -/
def bundleOk (tiles mask : Nat) (last : Bool) (b : Nat) : Bool :=
  bits b 31 27 == 0 && bits b 63 59 == 0 && bits b 95 94 == 0 &&
  decide (bLop b ≤ 6) && decide (bMop b ≤ 1) && (bMop b == 0 || decide (bMfmt b ≤ 10)) && decide (bVop b ≤ 0x12) &&
  (decide (bCop b ≤ 8) || bCop b == 0x1F) && (bCop b == 0x1F) == last &&
  (bTiles b).all (fun t => decide (t < tiles)) && (bSlots b).all (fun k => bit mask k) &&
  (if 4 ≤ bLop b ∧ bLop b ≤ 6 then decide (bStS b + 3 ≤ 15) && (bLop b != 6 || decide (bStB b + 1 ≤ 15)) else true) &&
  cvtOk b && distinct (bWrites b)

/-- Loop depth after each bundle; none where an ENDLOOP has no LOOP or loops nest deeper than four. -/
def loopDepth (d : Nat) (b : Nat) : Option Nat :=
  if bCop b = 1 ∨ bCop b = 2 then (if d < 4 then some (d + 1) else none)
  else if bCop b = 3 then (if d = 0 then none else some (d - 1))
  else some d

/-- The bundle after the ENDLOOP that matches a LOOP, looking from bundle i at nesting d. -/
def afterLoop : List Nat → Nat → Nat → Nat
  | [], i, _ => i
  | b :: r, i, d =>
    if bCop b = 1 ∨ bCop b = 2 then afterLoop r (i + 1) (d + 1)
    else if bCop b = 3 then (if d = 0 then i + 1 else afterLoop r (i + 1) (d - 1))
    else afterLoop r (i + 1) d

end Sys2Proof.Machine
end

