-- ==== Sys2Proof/Machine/Plans.lean ====
section
/-! DEFINITION. LOAD_PLAN and UNLOAD_PLAN, the dispatch of a PLAN_RUN, and what the running of plans shares: their accesses to memory,
their failure and their end (R284–R290, R299, R310–R312). -/

namespace Sys2Proof.Machine

/-! ### Containers (R284–R287) -/

def Plan.count (p : Plan) : Nat := fld p.bytes 12 2
def Plan.tiles (p : Plan) : Nat := fld p.bytes 14 1
/-- The counter slots a plan uses; a family uses slots 0–3 (R315). -/
def Plan.mask (p : Plan) : Nat := if p.family = 0 then fld p.bytes 18 2 else 0xF
def Plan.bundle (p : Plan) (i : Nat) : Nat := fld p.bytes (fld p.bytes 20 4 + 16 * i) 16
def Plan.bundles (p : Plan) : List Nat := (List.range p.count).map p.bundle
/-- The 72-byte movement entries. -/
def Plan.moves (p : Plan) : List (List Byte) := (List.range (fld p.bytes 28 2)).map fun i => slice p.bytes (fld p.bytes 24 4 + 72 * i) 72

/-- The header of Table 9.2, for a container of n bytes. -/
def headerOk (l : List Byte) (n : Nat) : Bool :=
  let bundles := fld l 12 2
  let boff := fld l 20 4
  let moff := fld l 24 4
  let moves := fld l 28 2
  let gmin := fld l 15 1
  decide (fld l 0 4 = 0x4E4C505A) && decide (fld l 4 1 = 1) && zeroAt l 5 1 && decide (fld l 6 2 = 256) &&
  decide (fld l 8 4 = n ∧ n % 16 = 0) && decide (1 ≤ bundles ∧ bundles ≤ 16384) && decide (1 ≤ fld l 14 1 ∧ fld l 14 1 ≤ 64) &&
  decide (1 ≤ gmin ∧ gmin ≤ fld l 16 1 ∧ fld l 16 1 ≤ 8) && zeroAt l 17 1 && decide (boff % 16 = 0 ∧ 256 ≤ boff ∧ boff + 16 * bundles + 256 ≤ n) &&
  decide (moves ≤ 192) &&
  (if moves = 0 then moff == 0 || decide (boff + 16 * bundles ≤ moff ∧ moff + 256 ≤ n)
   else decide (boff + 16 * bundles ≤ moff ∧ moff + 72 * moves + 256 ≤ n)) &&
  zeroAt l 30 2 && zeroAt l 36 4 && zeroAt l 48 208

/-- The first bundle that LOAD_PLAN refuses, if there is one: bundles, how many there are, tiles, counter mask, index, loop depth. -/
def badBundle (count tiles mask : Nat) : List Nat → Nat → Nat → Option Nat
  | [], _, _ => none
  | b :: r, i, d =>
    if !bundleOk tiles mask (i + 1 == count) b then some i
    else match loopDepth d b with
      | none => some i
      | some d => badBundle count tiles mask r (i + 1) d

/-- A program-channel descriptor of Table 4.7. -/
def descOk (d : List Byte) : Bool :=
  let start := fld d 1 1
  let per := fld d 40 8
  decide (fld d 0 1 = 1) && decide (start ≤ 2) &&
  (if start = 1 then decide (fld d 2 1 < 32) else zeroAt d 2 1) && decide (fld d 3 1 < 4) && !badRef (fld d 4 2) &&
  (if start = 2 then !badRef (fld d 6 2) && bit (fld d 6 2) 15 else zeroAt d 6 2) && decide (1 ≤ fld d 24 4) && decide (1 ≤ fld d 28 4) &&
  (if start = 0 then decide (64 ≤ per ∧ per < 2 ^ 32) else if start = 1 then per == 0 else decide (1 ≤ per ∧ per < 2 ^ 48)) &&
  zeroAt d 62 2

/-- A movement entry of Table 9.7. -/
def moveOk (gmax : Nat) (m : List Byte) : Bool :=
  decide (fld m 0 1 < gmax) && decide (fld m 1 1 < 32) && decide (4 ≤ fld m 1 1 % 16) && decide (fld m 2 1 < 32) && decide (fld m 3 1 < 32) &&
  zeroAt m 4 4 && descOk (slice m 8 64)

/-- What of a container fails first: none, or the index that a refusal reports. -/
def containerFault (l : List Byte) : Option Nat :=
  let p : Plan := { ctx := 0, bytes := l }
  if !headerOk l l.length then some 0xFFFF
  else match badBundle p.count p.tiles p.mask p.bundles 0 0 with
    | some i => some i
    | none =>
      if p.moves.all (moveOk (fld l 16 1)) && distinct (p.moves.map fun m => fld m 0 2) && zeroAt l (l.length - 64) 64 then none
      else some 0xFFFF

/-- Bytes of the plan store in use (R288). -/
def State.storeUsed (s : State) : Nat := sum (s.plans.map fun e => e.2.size)

/-- A plan put into the store, within the device's limits and the function's grant (R288). -/
def State.addPlan (s : State) (f : Nat) (p : Plan) : State × Answer :=
  if 1024 ≤ s.plans.length ∨ 0x10000000 < s.storeUsed + p.size then (s, .resource 1)
  else if f ≠ 0 ∧ (s.fn f).grant.plans ≤ s.plansOf f then (s, .resource 2)
  else ({ s with plans := tset s.plans (tfree s.plans 0) p }, .ok (tfree s.plans 0))

/-- The digest of a container's key and whether its signature verifies (R285, R286). -/
def keyDigest (l : List Byte) : List Byte := sha384 (slice l (l.length - 256) 96)
def signedOk (l : List Byte) : Bool :=
  ecdsaVerify (l.take (l.length - 256)) (slice l (l.length - 256) 96) (slice l (l.length - 160) 96)

/-- A container loaded. -/
def State.loadContainer (s : State) (j : Job) (c : Nat) : State × Answer :=
  let dev := j.arg 24 8
  let n := j.arg 32 4
  if n < 528 ∨ 2 ^ 21 < n then (s, .refuse .argument)
  else match s.adminBuf j.f c dev n .planExec with
    | .error a => (s, a)
    | .ok _ =>
      match s.adminRead j c dev n with
      | (s, .error a) => (s, a)
      | (s, .ok l) =>
        match containerFault l with
        | some i => (s, .refuseAt i)
        | none =>
          let key := (tget s.ctxs c).bind (·.planKey)
          if !signedOk l ∨ (key.any fun k => k != keyDigest l) then (s, .fail .locPlanSignature 0)
          else
            match s.addPlan j.f { ctx := c, addr := dev, bytes := l, size := roundUp n 65536 } with
            | (s, .ok k) => (s.modCtx c fun x => { x with planKey := some (keyDigest l) }, .ok k)
            | r => r

def State.doLoadPlan (s : State) (j : Job) : State × Answer :=
  let c := j.arg 16 2
  let fam := j.arg 18 1
  if 4095 < c then (s, .refuse .argument)
  else if !s.ownsCtx j.f c then (s, .refuse .unknown)
  else if 3 < fam then (s, .refuse .argument)
  else if fam = 0 then s.loadContainer j c
  else if !(s.fn j.f).feature 2 ∨ j.arg 24 8 ≠ 0 ∨ j.arg 32 4 ≠ 0 then (s, .refuse .argument)
  else s.addPlan j.f { ctx := c, family := fam }

/-- LOAD_PLAN (R287). -/
def execLoadPlan (f : Nat) (s : State) : Host.Outcome State Fault Refusal :=
  if fnOk f then .next (s.admin f 0x24 none [(16, 3), (24, 12)] fun s j => s.doLoadPlan j) else .next s

/-- A PLAN_RUN that names plan k; it is dispatched until its completion is reported (R135). -/
def Job.runsPlan (j : Job) (k : Nat) : Bool := fld j.head 0 1 == 8 && fld j.head 48 2 == k

def State.doUnloadPlan (s : State) (j : Job) : State × Answer :=
  let c := j.arg 16 2
  let k := j.arg 18 2
  if !s.ownsCtx j.f c ∨ !((tget s.plans k).any fun p => p.ctx == c) then (s, .refuse .unknown)
  else if (s.ops ++ s.spent).any fun o => o.job.runsPlan k then (s, .refuse .state)
  else ({ s with plans := tdel s.plans k }, .ok 0)

/-- UNLOAD_PLAN (R288). -/
def execUnloadPlan (f : Nat) (s : State) : Host.Outcome State Fault Refusal :=
  if fnOk f then .next (s.admin f 0x25 none [(16, 4)] fun s j => s.doUnloadPlan j) else .next s

/-! ### PLAN_RUN (R290) -/

/-- A run behind those dispatched before it; of those that wait and were dispatched at the same time, the lower function number goes first, then
the lower SQ ID (R294; notes/assumptions/47.md). -/
def queueRun (run : PlanRun) : List PlanRun → List PlanRun
  | [] => [run]
  | x :: l =>
    if x.at_ = run.at_ ∧ !x.started ∧ (run.f < x.f ∨ (run.f = x.f ∧ run.q < x.q)) then run :: x :: l else x :: queueRun run l

/-- A PLAN_RUN runs: its argument block and its container are translated, and it is queued for its gang. One whose plan was unloaded after the
entry was fetched ends with LOC_PLAN_ARGS (notes/assumptions/46.md). -/
def State.runPlan (s : State) (j : Job) : State :=
  match (tget s.plans (fld j.head 48 2)).filter fun p => p.ctx == j.ctx && p.addr == j.far with
  | none => s.failJob j .locPlanArgs
  | some p =>
    match s.translateLocal j.f j.ctx j.near j.len .read with
    | .error e => s.failJob j e
    | .ok a =>
      let box : Except Status (Option Trans) := if p.family ≠ 0 then .ok none
        else match s.translateLocal j.f j.ctx j.far p.bytes.length .planExec with
          | .ok t => .ok (some t)
          | .error e => .error e
      match box with
      | .error e => s.failJob j e
      | .ok box =>
        if s.cutOff j.f a j.len || box.any (fun t => s.cutOff j.f t p.bytes.length) then s.failJob j .locPeerUnreachable
        else if j.len ≠ 512 then s.failJob j .locLen
        else
          let id := s.nextRun
          let (s, op) := s.addOp { id := 0, job := j, kind := .plan id, near := localOf a.addr, seg := a.via.seg,
                                   refs := a.ref :: box.toList.map (·.ref) }
          let run : PlanRun := { id, op, plan := fld j.head 48 2, ctx := j.ctx, f := j.f, gang := s.jobClusters j, q := j.q, at_ := s.tclk }
          { s with runs := queueRun run s.runs, nextRun := id + 1 }

/-- PLAN_RUN (R290). -/
def execPlanRun (f q : Nat) (s : State) : Host.Outcome State Fault Refusal :=
  if fnOk f && decide (q ≤ 65535) then .next (s.dispatch f q 8 fun s j => s.runPlan j) else .next s

/-! ### What running plans share -/

def State.run (s : State) (id : Nat) : Option PlanRun := s.runs.find? fun r => r.id == id
def State.modRun (s : State) (id : Nat) (h : PlanRun → PlanRun) : State := { s with runs := updAll (fun r => r.id == id) h s.runs }
def State.modMember (s : State) (id i : Nat) (h : Member → Member) : State :=
  s.modRun id fun r => { r with members := (r.members.zip (List.range r.members.length)).map fun p => if p.2 = i then h p.1 else p.1 }

/-- The job of a run. -/
def State.jobOf (s : State) (r : PlanRun) : Job := (s.op r.op).elim { f := r.f, q := 1, seq := 0, head := [] } (·.job)

/-- A PLAN trace record of a member, with the ACLK cycles since start (R486, R487). -/
def State.tracePlan (s : State) (r : PlanRun) (cluster event bundle : Nat) : State :=
  let j := s.jobOf r
  s.trace (cluster / 8) 0x05 cluster j.layer j.oper r.f
    (leBytes 2 r.plan ++ leBytes 1 event ++ leBytes 1 r.gang.length ++ leBytes 2 bundle ++ leBytes 2 0 ++
      leBytes 8 (if event = 0 then 0 else s.aclkNow (cluster / 8) - r.startCycle))

/-- Every member traced. -/
def State.tracePlans (s : State) (r : PlanRun) (event bundle : Nat) : State := r.gang.foldl (fun s c => s.tracePlan r c event bundle) s

/-- The access of a plan at a device address, against a segment on which it took a reference at its start (R299). -/
def State.planAccess (s : State) (r : PlanRun) (dev n : Nat) (right : Right) : Except Status (Via × Nat) :=
  let i := dev / 2 ^ 60 % 16
  let g := s.segment r.ctx i
  if !r.segs.contains i then .error .locSeg
  else if !g.has right then .error .locSeg
  else if g.limit + 1 < dev % 2 ^ 60 + n then .error .locLen
  else if g.imported then .error .locDest
  else
    let a := localOf (g.base + dev % 2 ^ 60)
    if s.unreachable r.f a n then .error .locPeerUnreachable else .ok ({ f := r.f, ctx := r.ctx, seg := i }, a)

/-- A byte of memory by its local address, or of commander memory through a function's window. -/
def State.peek (s : State) (f a : Nat) : Byte :=
  match s.region a with
  | .host hp => s.host.get (hostKey hp (s.busOf f a))
  | _ => s.tiers.mem.get a

/-- The memory that a plan reaches, by device address. -/
def State.planSees (s : State) (r : PlanRun) : Nat → Byte := fun dev =>
  let g := s.segment r.ctx (dev / 2 ^ 60 % 16)
  if r.segs.contains (dev / 2 ^ 60 % 16) && decide (dev % 2 ^ 60 ≤ g.limit) then s.peek r.f (localOf (g.base + dev % 2 ^ 60)) else 0

/-- The number of contents that are open but the same on every run of a plan (R313; notes/assumptions/84.md). -/
def State.sameSeed (s : State) (r : PlanRun) (operands : List Nat) : Nat := Config.sameEachRun operands (s.planSees r)

/-- Whether an access lies in the tier A of gang members. -/
def State.inGang (s : State) (r : PlanRun) (a n : Nat) : Bool :=
  [a, a + n - 1].all fun x => match s.region x with
    | .tierA c => r.gang.contains c
    | _ => false

/-- Bytes read by a plan. -/
def State.planRead (s : State) (r : PlanRun) (dev n : Nat) : State × Except Status (List Byte) :=
  match s.planAccess r dev n .read with
  | .error e => (s, .error e)
  | .ok (v, a) =>
    match s.readVia v a n with
    | (s, l, none) => (s, .ok l)
    | (s, _, some e) => (s.endedBy e r.f (s.jobOf r).layer (s.jobOf r).oper, .error .memUncorrectable)

/-- Bytes written by a plan. -/
def State.planWrite (s : State) (r : PlanRun) (dev : Nat) (l : List Byte) : State × Option Status :=
  match s.planAccess r dev l.length .write with
  | .error e => (s, some e)
  | .ok (v, a) =>
    match s.writeVia v a l with
    | (s, none) => (if l.isEmpty then s else s.opWrote r.op (s.pathOf r.f a) l.length, none)
    | (s, some e) => (s.endedBy e r.f (s.jobOf r).layer (s.jobOf r).oper, some .memUncorrectable)

/-- A plan fails, at the first failure: its record is written (R311, R312). -/
def State.failRun (s : State) (id : Nat) (st : Status) (slot cluster bundle dev : Nat) : State :=
  match s.run id with
  | none => s
  | some r =>
    if r.failed.isSome then s
    else
      let j := s.jobOf r
      (s.modRun id fun r => { r with failed := some st, paused := false }).record r.f
        (leBytes 1 0x08 ++ leBytes 1 1 ++ leBytes 1 st.code ++ leBytes 1 slot ++ leBytes 2 r.plan ++ leBytes 2 cluster ++ leBytes 2 bundle ++
          leBytes 2 0 ++ slice j.head 4 4 ++ leBytes 8 dev ++ leBytes 2 j.layer ++ leBytes 2 j.oper ++ leBytes 4 s.time)

/-- Keys of the program channels of a run. -/
def State.channelsOf (s : State) (id : Nat) : List Nat := (s.channels.filter fun e => e.2.run == id).map (·.1)

/-- A run whose work is held for a replay (R453). -/
def State.runHeld (s : State) (id : Nat) : Bool :=
  s.recov.replays.any fun r => r.plan == some id || r.runs.any fun x => (tget s.channels x.chan).any fun c => c.run == id

/-- An operation whose run of a dispatch channel is held for a replay. -/
def State.opHeld (s : State) (id : Nat) : Bool := s.recov.replays.any fun r => r.runs.any fun x => x.serves == some id

/-- An ME without the runs of some channels. -/
def MeUnit.without (l : List Nat) (m : MeUnit) : MeUnit :=
  { m with ready := m.ready.filter fun x => !l.contains x.chan, running := m.running.filter fun x => !l.contains x.chan }

/-- A run ends: its channels are disarmed, its gang is free, its job completes (R310). -/
def State.endRun (s : State) (r : PlanRun) (rep : Report) : State :=
  let mine := s.channelsOf r.id
  let s := { s with
    channels := s.channels.filter fun e => e.2.run != r.id
    mes := s.mes.map fun (e : Nat × MeUnit) => (e.1, MeUnit.without mine e.2)
    flags := s.flags.filter fun p => match p.flag with
      | .signal run _ _ _ _ => run != r.id
      | .meRun k _ _ => !mine.contains k
      | _ => true
    runs := s.runs.filter fun x => x.id != r.id }
  (s.endOp r.op rep).checkStop.advanceAll

end Sys2Proof.Machine
end

