-- ==== Sys2Proof/Machine/Families.lean ====
section
/-! DEFINITION. The plan families OPT_APPLY, EMB_POOL and DECODE_ATTN, to the bit (R315–R318). A family's plan is modelled as one bundle,
whose effect on memory the last member to issue it brings about. -/

namespace Sys2Proof.Machine

/-- A fold that stops at the first failure. -/
def foldE {α β ε : Type} (h : State → β → α → State × Except ε β) : List α → State → β → State × Except ε β
  | [], s, b => (s, .ok b)
  | x :: r, s, b =>
    match h s b x with
    | (s, .ok b) => foldE h r s b
    | e => e

/-- Ranges (device address, length) read in order. -/
def State.planReads (s : State) (r : PlanRun) (l : List (Nat × Nat)) : State × Except (Status × Nat) (List (List Byte)) :=
  foldE (fun s acc x => match s.planRead r x.1 x.2 with
    | (s, .ok b) => (s, .ok (acc ++ [b]))
    | (s, .error e) => (s, .error (e, x.1))) l s []

/-- Ranges written in order. -/
def State.planWrites (s : State) (r : PlanRun) (l : List (Nat × List Byte)) : State × Except (Status × Nat) Unit :=
  foldE (fun s _ x => match s.planWrite r x.1 x.2 with
    | (s, none) => (s, .ok ())
    | (s, some e) => (s, .error (e, x.1))) l s ()

/-- The failure of a unit of a family's work: the status, the device address, and the number of the unit, which runs on that member modulo the
size of the gang (R318; notes/assumptions/48.md). -/
def inUnit {β : Type} (u : Nat) (x : State × Except (Status × Nat) β) : State × Except (Status × Nat × Nat) β :=
  match x with
  | (s, .ok b) => (s, .ok b)
  | (s, .error e) => (s, .error (e.1, e.2, u))

/-- A typed element as FP32 bits. -/
def toFp32 (ty v : Nat) : Nat := (elemFmt ty).elim v fun t => fp32.encode (t.decode v)

/-- FP32 bits converted to a type. -/
def fromFp32 (ty v : Nat) : Nat := (elemFmt ty).elim v fun t => t.encode (fp32.decode v)

/-! ### Arguments -/

def argA (l : List Byte) (k : Nat) : Nat := fld l (8 * k) 8
def argS (l : List Byte) (k : Nat) : Nat := fld l (256 + 4 * k) 4
def argMask (l : List Byte) : Nat := fld l 354 2
def argRef (l : List Byte) (k : Nat) : Nat := fld l (320 + 2 * k) 2

/-- The scalars from k on are zero. -/
def restZero (l : List Byte) (k : Nat) : Bool := zeroAt l (256 + 4 * k) (64 - 4 * k)

/-- Arguments that a family does not take (R315–R318). -/
def familyBad (fam : Nat) (l : List Byte) : Bool :=
  let s := argS l
  match fam with
  | 0 => false
  | 1 => decide (64 ≤ argMask l) || !restZero l 11 || !(s 1 == 2 || s 1 == 4)
  | 2 => decide (64 ≤ argMask l) || !restZero l 5 || decide (s 1 = 0 ∨ 4096 < s 1) || !([2, 4, 5, 6, 7].contains (s 3)) || !(s 4 == 2 || s 4 == 4)
  | _ =>
    decide (32 ≤ argMask l) || !restZero l 8 || decide (s 0 = 0 ∨ 2 ^ 20 < s 0) || decide (s 1 = 0 ∨ s 2 = 0) ||
      decide (s 1 % Nat.max 1 (s 2) ≠ 0 ∨ 32 < s 1 / Nat.max 1 (s 2)) || decide (s 3 % 32 ≠ 0 ∨ s 3 = 0 ∨ 256 < s 3) || !(s 7 == 2 || s 7 == 4)

/-! ### OPT_APPLY (R316) -/

/-- One element: gradient, moments, parameter as FP32 bits; the new moments and parameter. -/
def optStep (s : Nat → Nat) (g m v p : Nat) : Nat × Nat × Nat :=
  let m := fp32.fma (s 3) m (fp32.mulBits (s 5) g)
  let v := fp32.fma (s 4) v (fp32.mulBits (s 6) (fp32.mulBits g g))
  let mh := fp32.mulBits m (s 7)
  let u := fp32.mulBits mh (rsqrt32 (fp32.fma v (s 8) (s 9)))
  let p := fp32.fma (Nat.xor (s 2) 0x80000000) (fp32.fma (s 10) p u) p
  (m, v, p)

/-- One run of at most 1,024 elements, from element lo on. -/
def State.optRun (s : State) (r : PlanRun) (a sc : Nat → Nat) (mask lo n : Nat) : State × Except (Status × Nat) Unit :=
  let es := elemSize (sc 1)
  let at_ := fun k w => a k + w * lo
  match s.planReads r [(at_ 0 4, 4 * n), (at_ 1 es, es * n), (at_ 2 4, 4 * n), (at_ 3 4, 4 * n)] with
  | (s, .error e) => (s, .error e)
  | (s, .ok l) =>
    let col := fun k w => elemsOf w (l.getD k [])
    let out := (((col 1 es).zip (col 2 4)).zip ((col 3 4).zip (col 0 4))).map fun x =>
      optStep sc (toFp32 (sc 1) x.1.1) x.1.2 x.2.1 x.2.2
    s.planWrites r ([(at_ 2 4, elemBytes 4 (out.map (·.1))), (at_ 3 4, elemBytes 4 (out.map (·.2.1))), (at_ 0 4, elemBytes 4 (out.map (·.2.2)))] ++
      if bit mask 4 then [(at_ 4 2, elemBytes 2 (out.map fun x => fromFp32 4 x.2.2))] else [])

/-- The elements in runs of 1,024, which go to the members in turn. -/
def State.optApply (s : State) (r : PlanRun) (a sc : Nat → Nat) (mask : Nat) : State × Except (Status × Nat × Nat) Unit :=
  foldE (fun s _ k => inUnit k (s.optRun r a sc mask (1024 * k) (Nat.min 1024 (sc 0 - 1024 * k)))) (List.range (ceilDiv (sc 0) 1024)) s ()

/-! ### EMB_POOL (R317) -/

/-- Element j of a bag: rows as (weight, elements). -/
def bagElem (ty out : Nat) (rows : List (Nat × List Nat)) (j : Nat) : Nat :=
  let acc := rows.foldl (fun (x : Acc) r => x.fold (fp32.decode (fp32.mulBits r.1 (toFp32 ty (r.2.getD j 0))))) {}
  (elemFmt out).elim 0 acc.round

/-- The rows of a bag, list entries lo to lo + n − 1, each with its weight. -/
def State.bagRows (s : State) (r : PlanRun) (a sc : Nat → Nat) (mask lo n : Nat) : State × Except (Status × Nat) (List (Nat × List Nat)) :=
  let es := elemSize (sc 3)
  match s.planReads r ((a 1 + 4 * lo, 4 * n) :: if bit mask 2 then [(a 2 + 4 * lo, 4 * n)] else []) with
  | (s, .error e) => (s, .error e)
  | (s, .ok l) =>
    let w := if bit mask 2 then elemsOf 4 (l.getD 1 []) else List.replicate n 0x3F800000
    foldE (fun s acc x =>
      if 2 ^ 60 ≤ a 0 % 2 ^ 60 + x.1 * sc 2 then (s, .error (.locLen, (a 0 + x.1 * sc 2) % 2 ^ 64))
      else match s.planRead r (a 0 + x.1 * sc 2) (sc 1 * es) with
      | (s, .ok b) => (s, .ok (acc ++ [(x.2, elemsOf es b)]))
      | (s, .error e) => (s, .error (e, a 0 + x.1 * sc 2))) ((elemsOf 4 (l.getD 0 [])).zip w) s []

/-- One bag. What a list of offsets that does not rise, or a bag of more than 2^20 rows, gives is open, but the same on every run (R313). -/
def State.bag (s : State) (r : PlanRun) (a sc : Nat → Nat) (mask b lo hi : Nat) : State × Except (Status × Nat) Unit :=
  let out := a 3 + b * sc 1 * elemSize (sc 4)
  if hi < lo ∨ lo + 2 ^ 20 < hi then
    let e := s.sameSeed r ([2, b, mask] ++ (List.range 6).map a ++ (List.range 5).map sc)
    s.planWrites r [(out, (List.range (sc 1 * elemSize (sc 4))).map (Config.freeByte e))]
  else match s.bagRows r a sc mask lo (hi - lo) with
    | (s, .error e) => (s, .error e)
    | (s, .ok rows) => s.planWrites r [(out, elemBytes (elemSize (sc 4)) ((List.range (sc 1)).map (bagElem (sc 3) (sc 4) rows)))]

def State.embPool (s : State) (r : PlanRun) (a sc : Nat → Nat) (mask : Nat) : State × Except (Status × Nat × Nat) Unit :=
  match s.planReads r [(a 5, 4 * (sc 0 + 1))] with
  | (s, .error e) => (s, .error (e.1, e.2, 0))
  | (s, .ok l) =>
    let o := elemsOf 4 (l.getD 0 [])
    foldE (fun s _ b => inUnit b (s.bag r a sc mask b (o.getD b 0) (o.getD (b + 1) 0))) (List.range (sc 0)) s ()

/-! ### DECODE_ATTN (R318) -/

/-- The running maximum, denominator and output of a head over a segment, as FP32 bits. -/
structure Attn where
  m : Nat
  l : Nat
  o : List Nat

/-- The matrix rule of R302 over two rows of BF16 elements, with a term besides. -/
def dotBf16 (c : List Fp) (x y : List Nat) : Nat :=
  fp32.encode (sumExact (c ++ (x.zip y).map fun p => (bf16.decode p.1).mul (bf16.decode p.2)))

/-- One block: the query row, the key rows of its tokens, its value rows by dimension. -/
def attnBlock (c : Nat) (q : List Nat) (keys vals : List (List Nat)) (t : Attn) : Attn :=
  let x := keys.map fun k => fp32.mulBits (dotBf16 [] q k) c
  let mn := x.foldl (fun m v => fp32.pick false m v) t.m
  let a := exp2Bits (fp32.sub t.m mn)
  let p := x.map fun v => bf16.encode (fp32.decode (exp2Bits (fp32.sub v mn)))
  let rs := (p.foldl (fun (z : Acc) v => z.fold (bf16.decode v)) {}).round fp32
  { m := mn, l := fp32.fma a t.l rs, o := (t.o.zip vals).map fun z => dotBf16 [fp32.decode (fp32.mulBits z.1 a)] p z.2 }

/-- Two segments merged. -/
def attnMerge (x y : Attn) : Attn :=
  let mn := fp32.pick false x.m y.m
  let a := exp2Bits (fp32.sub x.m mn)
  let b := exp2Bits (fp32.sub y.m mn)
  { m := mn, l := fp32.fma b y.l (fp32.mulBits x.l a), o := (x.o.zip y.o).map fun z => fp32.fma b z.2 (fp32.mulBits z.1 a) }

/-- One block of a group read and taken. -/
def State.attnRead (s : State) (r : PlanRun) (a sc : Nat → Nat) (g : Nat) (q : List Nat) (t : Attn) (blk : Nat) :
    State × Except (Status × Nat) Attn :=
  let d := sc 3
  let n := Nat.min 64 (sc 0 - 64 * blk)
  let kAt := a 1 + g * sc 5 + 64 * blk * 2 * d
  let vAt := a 2 + g * sc 6 + blk * d * 128
  match s.planReads r ((kAt, n * 2 * d) :: (List.range d).map fun i => (vAt + 128 * i, 2 * n)) with
  | (s, .error e) => (s, .error e)
  | (s, .ok l) =>
    let keys := (List.range n).map fun i => elemsOf 2 (slice (l.getD 0 []) (2 * d * i) (2 * d))
    (s, .ok (attnBlock (sc 4) q keys ((l.drop 1).map (elemsOf 2)) t))

/-- One head over one segment, from the values in `start`. -/
def State.attnSegment (s : State) (r : PlanRun) (a sc : Nat → Nat) (g : Nat) (q : List Nat) (start : Attn) (z : Nat) :
    State × Except (Status × Nat) Attn :=
  foldE (fun s t b => s.attnRead r a sc g q t (64 * z + b)) (List.range (Nat.min 64 (ceilDiv (sc 0 - 4096 * z) 64))) s start

/-- One head: its segments in turn, each a unit of its own, merged in order, and its output row written. The member that merges a group is that of
its number (notes/assumptions/48.md). -/
def State.attnHead (s : State) (r : PlanRun) (a sc : Nat → Nat) (h : Nat) : State × Except (Status × Nat × Nat) Unit :=
  let d := sc 3
  let g := h * sc 2 / sc 1
  let segs := ceilDiv (sc 0) 4096
  let start : Attn := { m := fp32.infinity true, l := 0, o := List.replicate d 0 }
  match s.planReads r [(a 0 + h * 2 * d, 2 * d)] with
  | (s, .error e) => (s, .error (e.1, e.2, g * segs))
  | (s, .ok l) =>
    let q := elemsOf 2 (l.getD 0 [])
    let merged := foldE (fun s (t : Option Attn) z =>
      match inUnit (g * segs + z) (s.attnSegment r a sc g q start z) with
      | (s, .ok y) => (s, .ok (some (t.elim y fun x => attnMerge x y)))
      | (s, .error e) => (s, .error e)) (List.range segs) s none
    match merged with
    | (s, .error e) => (s, .error e)
    | (s, .ok t) =>
      let t := t.getD start
      let es := elemSize (sc 7)
      inUnit g (s.planWrites r [(a 3 + h * d * es, elemBytes es (t.o.map fun o => fromFp32 (sc 7) (fp32.mulBits o (rcp32 t.l))))])

/-! ### A family's plan -/

/-- The address register of the scratch, and its size. -/
def scratchOf (fam : Nat) : Nat × Nat := if fam = 1 then (5, 0x40000) else (4, 0x80000)

/-- A family computed. -/
def State.familyRun (s : State) (r : PlanRun) (fam mask : Nat) (a sc : Nat → Nat) : State × Except (Status × Nat × Nat) Unit :=
  match fam with
  | 1 => s.optApply r a sc mask
  | 2 => s.embPool r a sc mask
  | _ => foldE (fun s _ h => s.attnHead r a sc h) (List.range (sc 1)) s ()

/-- The scratch of each member: it must lie in the tier A of the gang. What it holds afterwards is open, but the same on every run (R313). -/
def State.scratch (s : State) (r : PlanRun) (fam : Nat) : State × Except (Status × Nat × Nat) Unit :=
  foldE (fun s _ (x : Member × Nat) =>
    let m := x.1
    inUnit x.2 <|
    let dev := m.a.getD (scratchOf fam).1 0
    match s.planAccess r dev (scratchOf fam).2 .write with
    | .error e => (s, .error (e, dev))
    | .ok (_, at_) =>
      if s.inGang r at_ (scratchOf fam).2 then
        (s.undefineAs r.f at_ (scratchOf fam).2 (s.sameSeed r ([fam, r.mask] ++ m.a ++ m.sreg)), .ok ())
      else (s, .error (.locSeg, dev))) r.members.zipIdx s ()

/-- The counters bound to slots 0–3, which order the family's own STAGE operations: what they gain is open, but the
same on every run (R315, R313). -/
def State.familyCounts (s : State) (r : PlanRun) : State :=
  (List.range 4).foldl (fun s k => match r.slots.getD k none with
    | some c => s.addEvc r.ctx c (Config.freeNat (s.sameSeed r [0x100 + k]))
    | none => s) s

end Sys2Proof.Machine
end

