-- ==== Sys2Proof/Machine/Gang.lean ====
section
/-! DEFINITION. The running of a plan on its gang: start, bundles, boundaries and pauses, STAGEs, waits and signals, the end
(R291–R310, R258, R493). -/

namespace Sys2Proof.Machine

/-! ### PLAN_START (R292–R294) -/

/-- The argument block breaks R292, but for segments that are not ACTIVE. -/
def argsBad (p : Plan) (l : List Byte) : Bool :=
  fld l 352 1 != 1 || !zeroAt l 353 1 || !zeroAt l 356 156 || (List.range 16).any (fun k => badRef (argRef l k)) ||
    (List.range 16).any (fun k => bit p.mask k && !bit (argRef l k) 15) || familyBad p.family l

/-- The gang members with their registers (R291). -/
def gangMembers (gang : List Nat) (l : List Byte) : List Member :=
  (gang.zip (List.range gang.length)).map fun x =>
    { cluster := x.1
      a := (List.range 16).map fun k => (argA l k + x.2 * fld l (128 + 8 * k) 8) % 2 ^ 64
      sreg := (List.range 16).map (argS l)
      marks := List.replicate 16 0 }

/-- An address field of a movement entry for a member: relocated, and whether it was. -/
def moveAddr (m : Member) (e : List Byte) (side field : Nat) : Nat × Bool :=
  let c := fld e side 1
  let a := fld e (8 + field) 8
  if bit c 4 then ((a + m.a.getD (c % 16) 0) % 2 ^ 64, true) else (a, false)

/-- A member's program channels, by key, armed now. -/
def memberChannels (now run ctx i : Nat) (m : Member) (moves : List (List Byte)) : List (Nat × Channel) :=
  (moves.filter fun e => fld e 0 1 == i).map fun e =>
    let b := fld e 1 1
    (m.cluster * 32 + 16 * (b / 16 % 2) + b % 16,
      { run, ctx, desc := slice e 8 64, armedAt := now, src := (moveAddr m e 2 8).1, dst := (moveAddr m e 3 16).1, armed := true })

/-- The segments whose references a plan takes at its start: those of masked registers and of relocated movement addresses. -/
def startSegs (mask : Nat) (members : List Member) (moves : List (List Byte)) : List Nat :=
  let regs := members.flatMap fun m => (bitsSet 16 mask).map fun k => m.a.getD k 0
  let rel := (members.zip (List.range members.length)).flatMap fun x =>
    (moves.filter fun e => fld e 0 1 == x.2).flatMap fun e =>
      [moveAddr x.1 e 2 8, moveAddr x.1 e 3 16].filterMap fun y => if y.2 then some y.1 else none
  (regs ++ rel).foldl (fun l a => addNew (a / 2 ^ 60 % 16) l) []

/-- A run begins on its gang, which is free. -/
def State.beginRun (s : State) (r : PlanRun) (p : Plan) (o : Op) : State :=
  match s.readVia { f := r.f, ctx := r.ctx, seg := o.seg } o.near 512 with
  | (s, _, some e) => (s.endedBy e r.f o.job.layer o.job.oper).endRun r { status := .memUncorrectable }
  | (s, l, none) =>
    let active := fun i => decide ((s.segment r.ctx i).state = .active)
    if argsBad p l || !((bitsSet 16 (argMask l)).all fun k => active (argA l k / 2 ^ 60 % 16)) then s.endRun r { status := .locPlanArgs }
    else
      let members := gangMembers r.gang l
      let segs := startSegs (argMask l) members p.moves
      if !segs.all active then s.endRun r { status := .locSeg }
      else
        let refs := segs.map fun i => ({ ctx := r.ctx, seg := i, gen := s.segGen r.ctx i } : Ref)
        let slots := (List.range 16).map fun k => if bit p.mask k then some (argRef l k % 256) else none
        let now := s.tclk
        let s := s.modRun r.id fun r => { r with started := true, startAt := now, startCycle := s.aclkNow (r.gang.headD 0 / 8), members, slots, mask := argMask l, segs, refs }
        let chans : List (Nat × Channel) := (members.zip (List.range members.length)).flatMap fun x => memberChannels s.tclk r.id r.ctx x.2 x.1 p.moves
        let table : Tab Channel := chans.foldl (fun t e => tset t e.1 e.2) s.channels
        let s := { s with channels := table }
        (s.tracePlans r 0 0).countersChanged

/-- The runs dispatched before a run. -/
def runsBefore : List PlanRun → Nat → List PlanRun
  | [], _ => []
  | r :: l, id => if r.id = id then [] else r :: runsBefore l id

/-- Whether a waiting run's gang is free for it (R294, R258, R51, R445, R469). -/
def State.gangFree (s : State) (r : PlanRun) : Bool :=
  (runsBefore s.runs r.id).all (fun x => x.gang.all fun c => !r.gang.contains c) &&
  r.gang.all fun c => !s.inService c && s.clusterOpen c && s.awake (c / 8)

def State.startRun (s : State) (id : Nat) : State :=
  match s.run id with
  | none => s
  | some r =>
    if r.started || !s.gangFree r then s
    else match tget s.plans r.plan, s.op r.op with
      | some p, some o => s.beginRun r p o
      | _, _ => s

/-- PLAN_START (R292). -/
def execPlanStart (run : Nat) (s : State) : Host.Outcome State Fault Refusal := .next (if s.live then s.startRun run else s)

/-! ### Boundaries (R307–R309, R258, R493) -/

/-- A chunk needs a file on a cluster. -/
def State.wantsCluster (s : State) (cl : Nat) : Bool :=
  s.groups.any fun e => e.2.cur.any fun c => c.fault.isNone && (List.range e.2.sizes.length).any fun k =>
    e.2.nextCluster k == cl && (e.2.unassigned c k).head?.any fun i => c.contribs.any fun x => x.level == k && x.chunk == i

/-- TVEs wait at boundaries for a pending inventory stop. -/
def State.stopWaits (s : State) : Bool := s.dbg.stop == .pending && bit (s.word 0 0x120020) 4

/-- The bundles of a plan; a family's is one that ends. -/
def Plan.bundleAt (p : Plan) (i : Nat) : Nat := if p.family = 0 then p.bundle i else 0x1F * 2 ^ 96
def Plan.length (p : Plan) : Nat := if p.family = 0 then p.count else 1

/-- A gap between two plan boundaries of a cluster, in ACLK cycles, held where it is the longest (R508). -/
def State.noteGap (s : State) (cl n : Nat) : State :=
  s.modGal (cl / 8) fun g => { g with gaps := tmodD g.gaps (cl % 8) 0 fun v => Nat.min 0xFFFFFFFF (Nat.max v n) }

/-- A member reaches a boundary: the gap since its last one, of a length the manual does not fix, is reported (R508). -/
def State.reachBoundary (s : State) (r : PlanRun) (i : Nat) (m : Member) : State :=
  let s := s.modMember r.id i fun m => { m with atBound := true }
  let (e, s) := s.draw
  let s := if m.pc = 0 then s else s.noteGap m.cluster (Config.freeNat e)
  (s.tracePlan r m.cluster 1 m.pc).checkStop

/-- The members pass the boundary once every one has reached it, unless a chunk takes a cluster of the gang. -/
def State.passBoundary (s : State) (id : Nat) : State :=
  match s.run id with
  | none => s
  | some r =>
    if s.stopWaits || r.paused || r.failed.isSome || !(r.members.all fun m => m.ended || m.atBound) then s
    else if r.gang.any s.wantsCluster then
      ((s.modRun id fun r => { r with paused := true }).tracePlans r 2 (r.members.headD { cluster := 0 }).pc).advanceAll
    else s.modRun id fun r => { r with members := r.members.map fun m => if m.ended then m else { m with atBound := false, passed := true } }

/-- A paused run resumes once its clusters have left collective service. -/
def State.resumeRun (s : State) (id : Nat) : State :=
  match s.run id with
  | none => s
  | some r =>
    if !r.paused || s.stopWaits || r.gang.any (fun c => s.inService c || s.wantsCluster c) then s
    else
      let s := s.modRun id fun r => { r with
        paused := false
        members := r.members.map fun m => if m.ended then m else { m with atBound := false, passed := true } }
      s.tracePlans r 3 (r.members.headD { cluster := 0 }).pc

/-- PLAN_RESUME (R258). -/
def execPlanResume (run : Nat) (s : State) : Host.Outcome State Fault Refusal := .next (if s.live then s.resumeRun run else s)

/-! ### The slots of a bundle (R298–R305) -/

/-- What the matrix and vector slots write. -/
def computed (m : Member) (b : Nat) : List (Nat × Tile) :=
  let t := tileAt m.tiles
  (if bMop b = 1 then [(bMd b, mma (bMfmt b) (bMacc b) (t (bMd b)) (t (bMx b)) (t (bMy b)))] else []) ++
  (if bVop b = 0 then []
   else [(bVd b, vector (bVop b) (bVy b) (bVz b) (m.sreg.getD (bVy b % 16) 0) (t (bVd b)) (t (bVx b)) (t (bVy b)) (t (bVz b)))])

/-- The address of LDT, STT or LDS. -/
def tileAddr (m : Member) (b : Nat) : Nat := ofSigned 64 ((m.a.getD (bLa b) 0 : Int) + bLimm b * 128)

/-- The local address of a device address of the plan. -/
def State.planLocal (s : State) (r : PlanRun) (dev : Nat) : Nat := localOf ((s.segment r.ctx (dev / 2 ^ 60 % 16)).base + dev % 2 ^ 60)

/-- Whether an address lies in a strip: base, row length, pitch, rows. -/
def inStrip (t : Nat × Nat × Nat × Nat) (a : Nat) : Bool :=
  decide (t.1 ≤ a) && decide (0 < t.2.2.2) &&
    (let k := if t.2.2.1 = 0 then 0 else Nat.min ((a - t.1) / t.2.2.1) (t.2.2.2 - 1)
     decide (a - t.1 - k * t.2.2.1 < t.2.1))

/-- The strip that a STAGE or GATHER writes. -/
def State.stageDst (s : State) (r : PlanRun) (st : Stage) : Nat × Nat × Nat × Nat :=
  if st.op = 5 then (s.planLocal r st.far, st.len, st.pitchF, st.rows) else (s.planLocal r st.near, st.len, st.pitchN, st.rows)

/-- The strips that outstanding STAGEs of a run are writing. -/
def State.outDst (s : State) (r : PlanRun) : List (Nat × Nat × Nat × Nat) :=
  r.members.flatMap fun m => m.stages.map (s.stageDst r)

/-- Every outstanding STAGE told of a strip that another access writes (R300). -/
def PlanRun.clashAll (r : PlanRun) (t : Nat × Nat × Nat × Nat) : PlanRun :=
  { r with members := r.members.map fun m => { m with stages := m.stages.map fun x => { x with clash := t :: x.clash } } }

/-- The address of LDT, STT or LDS checked: its local address, or the status that it fails with (R299). -/
def State.tileCheck (s : State) (r : PlanRun) (dev b : Nat) : Except Status Nat :=
  let n := if bLop b = 3 then 256 else 4096
  match s.planAccess r dev n (if bLop b = 2 then .write else .read) with
  | .error e => .error e
  | .ok (_, a) => if a % 128 ≠ 0 then .error .locLen else if !s.inGang r a n then .error .locSeg else .ok a

/-- LDT, STT or LDS of a member: the tile written, if one is; or the status and address of its failure. Bytes that an outstanding STAGE is
writing depend on timing, and are free (R300). -/
def State.tileAccess (s : State) (r : PlanRun) (i : Nat) (m : Member) (b : Nat) : State × Except (Status × Nat) (List (Nat × Tile)) :=
  let dev := tileAddr m b
  let n := if bLop b = 3 then 256 else 4096
  match s.tileCheck r dev b with
  | .error e => (s, .error (e, dev))
  | .ok a =>
    if bLop b = 2 then
      match s.planWrite r dev (tileBytes (tileAt m.tiles (bLt b))) with
      | (s, some e) => (s, .error (e, dev))
      | (s, none) =>
        let s := s.modRun r.id fun r => r.clashAll (a, 4096, 0, 1)
        (s.modMember r.id i fun m => { m with stored := addPath .tierA m.stored }, .ok [])
    else
      match s.planRead r dev n with
      | (s, .error e) => (s, .error (e, dev))
      | (s, .ok l) =>
        let (e, s) := s.draw
        let l := (l.zip (List.range n)).map fun x => if (s.outDst r).any fun t => inStrip t (a + x.2) then Config.freeByte e (a + x.2) else x.1
        let old := tileAt m.tiles (bLt b)
        (s, .ok [(bLt b, if bLop b = 3 then (old.1, leNat l) else (leNat l, old.2))])

/-- A loop of n iterations entered, or left out where n is 0. -/
def Member.enter (m : Member) (prog : List Nat) (n : Nat) : Member :=
  if n = 0 then { m with pc := afterLoop (prog.drop (m.pc + 1)) (m.pc + 1) 0 }
  else { m with pc := m.pc + 1, loops := { body := m.pc + 1, left := n - 1 } :: m.loops }

/-- The control slot (Table 9.14), SIGNAL apart. -/
def Member.control (m : Member) (prog : List Nat) (b : Nat) : Member :=
  let next := { m with pc := m.pc + 1 }
  match bCop b with
  | 0x01 => m.enter prog (m.sreg.getD (bCf b) 0)
  | 0x02 => m.enter prog (bCimm b)
  | 0x03 => match m.loops with
    | [] => next
    | l :: r => if l.left = 0 then { next with loops := r } else { m with pc := l.body, loops := { l with left := l.left - 1 } :: r }
  | 0x04 =>
    let v := (m.marks.getD (bCf b) 0 + bCimm b) % 2 ^ 64
    { next with marks := m.marks.set (bCf b) v, waiting := some (bCf b, v) }
  | 0x06 => { next with a := m.a.set (bCf b) (ofSigned 64 ((m.a.getD (bCf b) 0 : Int) + toSigned 23 (bCimm b) * 128)) }
  | 0x07 => { next with a := m.a.set (bCf b) ((m.a.getD (bCf b) 0 + m.sreg.getD (bCimm b % 16) 0) % 2 ^ 64) }
  | 0x1F => { next with ended := true }
  | _ => next

/-- The paths that a member's flushing reads have yet to flush. -/
def State.flushing (s : State) (id i : Nat) : List Path :=
  s.flags.foldl (fun l p => match p.flag with
    | .signal run member _ _ _ => if run = id ∧ member = i then p.paths.foldl (fun l x => addPath x l) l else l
    | _ => l) []

/-- A SIGNAL whose stores and STAGE_OUTs are done: what was written, and what earlier SIGNALs' flushes have not ended for, is flushed, and the
counter gains its amount (R306). -/
def State.doSignal (s : State) (r : PlanRun) (i counter amount : Nat) : State :=
  let paths := (((s.run r.id).bind fun r => r.members[i]?).elim [] (·.stored)).foldl (fun l x => addPath x l) (s.flushing r.id i)
  let s := s.modMember r.id i fun m => { m with stored := [] }
  if paths.isEmpty then s.addEvc r.ctx counter amount else s.addFlag r.f paths (.signal r.id i r.ctx counter amount)

/-- A SIGNAL issued: it waits for the member's STAGE_OUTs. -/
def State.signalOut (s : State) (r : PlanRun) (i b : Nat) : State :=
  match r.slots.getD (bCf b) none with
  | none => s
  | some c =>
    let outs := ((s.run r.id).bind fun r => r.members[i]?).elim [] fun m => (m.stages.filter fun x => x.op == 5).map (·.id)
    if outs.isEmpty then s.doSignal r i c (bCimm b)
    else s.modMember r.id i fun m => { m with signals := m.signals ++ [(c, bCimm b, outs)] }

/-- The STAGE or GATHER of a bundle. -/
def stageOf (m : Member) (b id : Nat) (clash : List (Nat × Nat × Nat × Nat)) : Stage :=
  let sc := fun k => m.sreg.getD (bStS b + k) 0
  { id, op := bLop b, bundle := m.pc, rows := sc 0, len := sc 1, near := m.a.getD (bLa b) 0, far := m.a.getD (bStB b) 0,
    list := m.a.getD (bStB b + 1) 0, pitchF := sc 2, pitchN := sc 3, slot := bStK b, clash }

/-- The galleries whose memory ports serve a STAGE or GATHER: its rows at both ends and, for a GATHER, its index list and whatever of the segment
its indices may reach. -/
def State.stageMem (s : State) (r : PlanRun) (st : Stage) (ddr : Bool) : List Nat :=
  let rows := fun (dev pitch : Nat) => s.memGals (s.planLocal r dev) ((st.rows - 1) * pitch + st.len) ddr
  if st.rows * st.len = 0 then []
  else rows st.near st.pitchN ++
    (if st.op = 6 then s.memGals (s.planLocal r st.far) ((s.segment r.ctx (st.far / 2 ^ 60 % 16)).limit + 1 - st.far % 2 ^ 60) ddr ++
        s.memGals (s.planLocal r st.list) (4 * st.rows) ddr
      else rows st.far st.pitchF)

/-- Whether a STAGE waits because memory of another gallery that it uses is held for a change of its timetables (R51). What reaches its own
gallery's memory is part of a plan in flight there, which the change waits for (notes/assumptions/50.md). -/
def State.stageHeld (s : State) (r : PlanRun) (m : Member) (st : Stage) : Bool :=
  (s.stageMem r st true).any fun g => g != m.cluster / 8 && (s.gal g).hold.isSome

/-- The load/store slot of a bundle: the tiles that it loads, or the status and address of its failure. -/
def State.loadStore (s : State) (r : PlanRun) (i : Nat) (m : Member) (b : Nat) : State × Except (Status × Nat) (List (Nat × Tile)) :=
  if bLop b = 0 then (s, .ok [])
  else if bLop b ≤ 3 then s.tileAccess r i m b
  else
    let st := stageOf m b r.nextStage (s.outDst r)
    let s := s.modRun r.id fun r => { r.clashAll (s.stageDst r st) with nextStage := r.nextStage + 1 }
    (s.modMember r.id i fun m => { m with stages := m.stages ++ [st] }, .ok [])

/-- Whether a bundle waits for a place for its STAGE or GATHER, or for memory held for a change of timetables. -/
def State.stageWaits (s : State) (r : PlanRun) (m : Member) (b : Nat) : Bool :=
  decide (4 ≤ bLop b ∧ bLop b ≤ 6) && (decide (32 ≤ m.stages.length) || s.stageHeld r m (stageOf m b r.nextStage []))

/-- A bundle issues: every slot reads before any writes, and the control slot takes effect last (R298, R305). -/
def State.issueNow (s : State) (r : PlanRun) (p : Plan) (i : Nat) (m : Member) : State :=
  let b := p.bundleAt m.pc
  if s.stageWaits r m b then s
  else
    match s.loadStore r i m b with
    | (s, .error (e, dev)) => s.failRun r.id e 0 m.cluster m.pc dev
    | (s, .ok loaded) =>
      let step := if bLp b && decide (1 ≤ bLop b ∧ bLop b ≤ 3) then (if bLop b = 3 then 256 else 4096) else 0
      let tiles := (loaded ++ computed m b).foldl (fun t e => tset t e.1 e.2) m.tiles
      let upd := fun (x : Member) =>
        let y := { x with tiles, passed := false, issued := x.issued + 1, moved := s.tclk, a := x.a.set (bLa b) ((x.a.getD (bLa b) 0 + step) % 2 ^ 64) }
        y.control p.bundles b
      let s := s.modMember r.id i upd
      if bCop b = 5 then s.signalOut r i b else s.checkStop

/-- A family's plan fails on the member on which the failing unit of its work runs (R312, R318; notes/assumptions/48.md). -/
def State.failFamily (s : State) (r : PlanRun) (e : Status × Nat × Nat) : State :=
  s.failRun r.id e.1 4 (r.gang.getD (e.2.2 % Nat.max 1 r.gang.length) 0) 0 e.2.1

/-- A family's plan issues on a member: the last of the gang brings its effect about (R315). The gap to its last boundary is of a length that the
manual does not fix (R508). -/
def State.issueFamily (s : State) (r : PlanRun) (p : Plan) (i : Nat) (m : Member) : State :=
  let (e, s) := s.draw
  let s := (s.modMember r.id i fun m => { m with ended := true, passed := false }).noteGap m.cluster (Config.freeNat e)
  if !(r.members.zip (List.range r.members.length)).all fun x => x.1.ended || x.2 == i then s
  else
    let first := r.members.headD { cluster := 0 }
    match s.familyRun r p.family r.mask (fun k => first.a.getD k 0) (fun k => first.sreg.getD k 0) with
    | (s, .error e) => s.failFamily r e
    | (s, .ok ()) =>
      match s.scratch r p.family with
      | (s, .error e) => s.failFamily r e
      | (s, .ok ()) =>
        let (e, s) := s.draw
        ((s.familyCounts r).countFn r.f 11 (Config.freeNat e)).checkStop

/-- Whether it is a member's turn: the members run in step, and of one bundle the lowest index issues first, so that what they write to each
other's tier A is the same on every run (R308, R313; notes/assumptions/84.md). -/
def PlanRun.turn (r : PlanRun) (i : Nat) (m : Member) : Bool :=
  (r.members.zip (List.range r.members.length)).all fun x =>
    x.1.ended || x.2 == i || (if x.2 < i then decide (m.issued < x.1.issued) else decide (m.issued ≤ x.1.issued))

/-- A member issues its next bundle, if it is its turn. -/
def State.issueTurn (s : State) (r : PlanRun) (p : Plan) (i : Nat) (m : Member) : State :=
  if !r.turn i m then s else if p.family = 0 then s.issueNow r p i m else s.issueFamily r p i m

/-- BUNDLE_ISSUE: at a boundary the member reaches it first, and goes on once it may pass. -/
def State.issue (s : State) (id i : Nat) : State :=
  match s.run id with
  | none => s
  | some r =>
    match tget s.plans r.plan, r.members[i]? with
    | some p, some m =>
      if r.paused || r.failed.isSome || m.ended || m.waiting.isSome || s.runHeld id then s
      else if p.length ≤ m.pc then (s.modMember id i fun m => { m with ended := true }).checkStop
      else if (decide (m.pc = 0) || bBoundary (p.bundleAt m.pc)) && !m.passed then
        let s := (if m.atBound then s else s.reachBoundary r i m).passBoundary id
        match s.run id with
        | none => s
        | some r =>
          match r.members[i]? with
          | some m => if !m.passed then s else s.issueTurn r p i m
          | none => s
      else s.issueTurn r p i m
    | _, _ => s

/-- Whether a slot of a bundle (Table 9.15) reads a tile: STT, MMA, a vector operation. What the bundles of a family read is open. -/
def slotReads (p : Plan) (b slot : Nat) : Bool :=
  decide (p.family ≠ 0 ∧ slot ≤ 2) || match slot with
    | 0 => bLop b == 2
    | 1 => bMop b == 1
    | 2 => bVop b != 0
    | _ => false

/-- The slot of a bundle that issues reads a tile which the code finds uncorrectable: the plan fails (R328, R331; notes/assumptions/88.md), at the
load/store slot where that fails too, being the lower one (R311). -/
def State.tileBad (s : State) (id i slot : Nat) : State :=
  match s.run id with
  | none => s
  | some r =>
    match tget s.plans r.plan, r.members[i]? with
    | some p, some m =>
      let b := p.bundleAt m.pc
      if r.paused || r.failed.isSome || m.ended || m.waiting.isSome || s.runHeld id || decide (p.length ≤ m.pc) ||
          ((decide (m.pc = 0) || bBoundary b) && !m.passed) || !r.turn i m || !slotReads p b slot || s.stageWaits r m b then s
      else
        let read := fun (s : State) =>
          let (d, s) := s.draw
          let e : MemErr := { source := 3, tier := 0, unit := m.cluster, position := 0, addr := Config.freeNat d }
          s.endedBy e r.f (s.jobOf r).layer (s.jobOf r).oper
        if slot = 0 then
          let dev := tileAddr m b
          match if p.family = 0 then s.tileCheck r dev b else .ok 0 with
          | .error e => (read s).failRun id e 0 m.cluster m.pc dev
          | .ok _ => (read s).failRun id .memUncorrectable 0 m.cluster m.pc 0
        else
          match s.loadStore r i m b with
          | (s, .error (e, dev)) => (read s).failRun id e 0 m.cluster m.pc dev
          | (s, .ok _) => (read s).failRun id .memUncorrectable slot m.cluster m.pc 0
    | _, _ => s

/-! ### STAGE_COMPLETE (R299, R300) -/

/-- One row copied: `free` gives what a byte with a given source and destination holds where that is open. -/
def State.copyRow (s : State) (r : PlanRun) (st : Stage) (free : Nat → Nat → Option Byte) (src dst : Nat) : State × Except (Status × Nat) Unit :=
  let near := if st.op = 5 then src else dst
  match s.planAccess r src st.len .read with
  | .error x => (s, .error (x, src))
  | .ok (_, sa) =>
    match s.planAccess r dst st.len .write with
    | .error x => (s, .error (x, dst))
    | .ok (_, da) =>
      if !s.inGang r (s.planLocal r near) st.len then (s, .error (.locSeg, near))
      else match s.planRead r src st.len with
        | (s, .error x) => (s, .error (x, src))
        | (s, .ok l) =>
          let l := (l.zip (List.range st.len)).map fun x => (free (sa + x.2) (da + x.2)).getD x.1
          match s.planWrite r dst l with
          | (s, none) => (s, .ok ())
          | (s, some x) => (s, .error (x, dst))

/-- The rows of a STAGE or GATHER, as source and destination. -/
def State.stageRows (s : State) (r : PlanRun) (st : Stage) : State × Except (Status × Nat) (List (Nat × Nat)) :=
  let w := fun (a : Nat) => a % 2 ^ 64
  if st.len = 0 then (s, .ok [])
  else if st.op = 6 then
    match s.planRead r st.list (4 * st.rows) with
    | (s, .error e) => (s, .error (e, st.list))
    | (s, .ok l) => (s, .ok (((elemsOf 4 l).zip (List.range st.rows)).map fun x => (w (st.far + x.1 * st.pitchF), w (st.near + x.2 * st.pitchN))))
  else
    let row := fun i => (w (st.near + i * st.pitchN), w (st.far + i * st.pitchF))
    (s, .ok ((List.range st.rows).map fun i => if st.op = 5 then row i else ((row i).2, (row i).1)))

/-- Whether more than one row of a copy writes an address. -/
def writtenTwice (dsts : List Nat) (len a : Nat) : Bool := decide (1 < dsts.countP fun d => decide (d ≤ a ∧ a < d + len))

/-- A STAGE or GATHER carried out. Bytes that others wrote meanwhile depend on timing, and are free (R300); bytes that it reads after writing
them, or writes twice, depend on the order of its own moves, which is open but the same on every run (R313). -/
def State.copyStage (s : State) (r : PlanRun) (st : Stage) : State × Except (Status × Nat) Unit :=
  match s.stageRows r st with
  | (s, .error e) => (s, .error e)
  | (s, .ok rows) =>
    let (e, s) := s.draw
    let own := s.stageDst r st
    let srcs := rows.map fun x => (s.planLocal r x.1, st.len, 0, 1)
    let dsts := rows.map fun x => s.planLocal r x.2
    let same := s.sameSeed r [st.op, st.rows, st.len, st.near, st.far, st.list, st.pitchF, st.pitchN]
    let timed := fun a => st.clash.any fun t => inStrip t a
    let self := fun a => (inStrip own a && srcs.any fun t => inStrip t a) || (decide (own.2.2.1 < st.len) && writtenTwice dsts st.len a)
    let free := fun sa da =>
      if timed sa || timed da then some (Config.freeByte e da) else if self sa || self da then some (Config.freeByte same da) else none
    foldE (fun s _ x => s.copyRow r st free x.1 x.2) rows s ()

/-- SIGNALs that wait for no STAGE_OUT any more take effect, in order. -/
def State.releaseSignals (s : State) (r : PlanRun) (i : Nat) : State :=
  let l := ((s.run r.id).bind fun r => r.members[i]?).elim [] (·.signals)
  let s := s.modMember r.id i fun m => { m with signals := m.signals.filter fun x => !x.2.2.isEmpty }
  (l.filter fun x => x.2.2.isEmpty).foldl (fun s x => s.doSignal r i x.1 x.2.1) s

def State.stageDone (s : State) (id i n : Nat) : State :=
  match s.run id with
  | none => s
  | some r =>
    match r.members[i]? with
    | none => s
    | some m =>
      match m.stages.find? fun x => x.id == n with
      | none => s
      | some st =>
        let counter := r.slots.getD st.slot none
        match s.copyStage r st with
        | (s, .ok ()) =>
          let s := s.modMember id i fun m => { m with
            stages := m.stages.filter fun x => x.id != n
            signals := m.signals.map fun x => (x.1, x.2.1, x.2.2.filter (· != n))
            stored := if st.op = 5 ∧ st.len * st.rows ≠ 0 then addPath (s.pathOf r.f (s.planLocal r st.far)) m.stored else m.stored }
          let s := (s.countFn r.f 11 (st.rows * st.len)).releaseSignals r i
          counter.elim s fun c => s.addEvc r.ctx c 1
        | (s, .error (e, dev)) =>
          let s := s.modMember id i fun m => { m with
            stages := m.stages.filter fun x => x.id != n
            signals := m.signals.filter fun x => !x.2.2.contains n }
          (counter.elim s fun c => s.markEvc r.ctx c).failRun id e 4 m.cluster st.bundle dev

/-- STAGE_COMPLETE (R300). -/
def execStageComplete (run member stage : Nat) (s : State) : Host.Outcome State Fault Refusal :=
  .next (if s.live then s.stageDone run member stage else s)

/-! ### WAIT_RELEASE and PLAN_END (R306, R308, R310) -/

/-- A member's WAIT is over: its counter's count has reached the mark. -/
def State.waitOver (s : State) (r : PlanRun) (w : Nat × Nat) : Bool :=
  (r.slots.getD w.1 none).all fun c => decide (w.2 ≤ evcCount (s.evc r.ctx c))

def State.waitDone (s : State) (id : Nat) : State :=
  match s.run id with
  | none => s
  | some r =>
    let held := r.members.filter fun m => !m.ended
    if held.isEmpty || r.failed.isSome || !held.all (·.waiting.isSome) then s
    else match held.find? fun m => m.waiting.any fun w => (r.slots.getD w.1 none).any fun c => evcMarked (s.evc r.ctx c) with
      | some m => s.failRun id .locTriggerAborted 3 m.cluster (m.pc - 1) 0
      | none =>
        if held.all fun m => m.waiting.all (s.waitOver r) then
          s.modRun id fun r => { r with members := r.members.map fun m => { m with waiting := none } }
        else s

/-- WAIT_RELEASE (R306). -/
def execWaitRelease (run : Nat) (s : State) : Host.Outcome State Fault Refusal := .next (if s.live then s.waitDone run else s)

/-- Nothing of a run is outstanding: STAGEs, SIGNALs, channel runs. -/
def State.runQuiet (s : State) (r : PlanRun) : Bool :=
  r.members.all (fun m => m.stages.isEmpty && m.signals.isEmpty) && !((s.channelsOf r.id).any s.chanBusy) &&
  s.flags.all fun p => match p.flag with
    | .signal run _ _ _ _ => run != r.id
    | _ => true

def State.finishRun (s : State) (id : Nat) : State :=
  match s.run id with
  | none => s
  | some r =>
    if !r.started || !(r.failed.isSome || r.members.all (·.ended)) || !s.runQuiet r || s.runHeld id then s
    else (s.tracePlans r 4 (r.members.headD { cluster := 0 }).pc).endRun r { status := r.failed.getD .ok }

/-- PLAN_END (R310). -/
def execPlanEnd (run : Nat) (s : State) : Host.Outcome State Fault Refusal := .next (if s.live then s.finishRun run else s)

end Sys2Proof.Machine
end

