-- ==== Sys2Proof/Machine/Mes.lean ====
section
/-! DEFINITION. The runs of the movement engines' program channels (R142–R146, R154). -/

namespace Sys2Proof.Machine

/-! ### Descriptors (Table 4.7) -/

def Channel.options (c : Channel) : Nat := fld c.desc 3 1
def Channel.ref (c : Channel) : Nat := fld c.desc 4 2
def Channel.rowLen (c : Channel) : Nat := fld c.desc 24 4
def Channel.rows (c : Channel) : Nat := fld c.desc 28 4
def Channel.period (c : Channel) : Nat := fld c.desc 40 8
def Channel.cq (c : Channel) : Nat := fld c.desc 52 2
def Channel.layer (c : Channel) : Nat := fld c.desc 54 2
def Channel.oper (c : Channel) : Nat := fld c.desc 60 2

/-- The rows of a run: source and destination device addresses. -/
def Channel.pairs (c : Channel) : List (Nat × Nat) :=
  (List.range c.rows).map fun i => ((c.src + i * fld c.desc 32 4) % 2 ^ 64, (c.dst + i * fld c.desc 36 4) % 2 ^ 64)

/-- The function whose plan a channel belongs to. -/
def State.chanFn (s : State) (c : Channel) : Nat := (tget s.ctxs c.ctx).elim 0 (·.owner)

def State.modMe (s : State) (u : Nat) (h : MeUnit → MeUnit) : State := { s with mes := tmodD s.mes u {} h }

/-! ### ME_TIMER_RUN (R144, R145) -/

/-- The next period of a TIMER channel expires: a run becomes ready, or is an overrun. -/
def State.timerRun (s : State) (key : Nat) : State :=
  match tget s.channels key with
  | none => s
  | some c =>
    let k := c.started + 1
    if !c.armed || c.start != 0 || decide (s.tclk < c.armedAt + k * c.period) || (c.limit != 0 && decide (c.limit < k)) then s
    else if s.chanBusy key then
      { (s.countFn (s.chanFn c) 10 1) with channels := tset s.channels key { c with started := k, overruns := c.overruns + 1 } }
    else s.ready key 1

/-- ME_TIMER_RUN (R144). -/
def execMeTimerRun (cluster me channel : Nat) (s : State) : Host.Outcome State Fault Refusal :=
  if decide (cluster < 48) && decide (me < 2) && decide (channel < 16) then
    .next (if s.live then s.timerRun (cluster * 32 + me * 16 + channel) else s)
  else .next s

/-! ### ME_RUN_START (R144–R146) -/

/-- A device address of a row translated (R67). What an import segment names on this node is checked under R73, against the export
table of the plan's own context, since no QP names another (notes/assumptions/49.md). Answers the local address, the segment through which
the access goes, and the references that it takes. -/
def State.rowEnd (s : State) (c : Channel) (dev : Nat) (r : Right) : Except Status (Nat × Via × List Ref) :=
  match s.translate (s.chanFn c) c.ctx dev c.rowLen r with
  | .error e => .error e
  | .ok t =>
    if nodeOf t.addr ≠ s.node then .error .locDest
    else if s.unreachable (s.chanFn c) (localOf t.addr) c.rowLen then .error .locPeerUnreachable
    else if !t.seg.imported then .ok (localOf t.addr, t.via, [t.ref])
    else match s.remoteCheck c.ctx t.seg.handle t.addr c.rowLen r with
      | .error (st, _) => .error st
      | .ok ref => .ok (localOf t.addr, { f := s.chanFn c, ctx := c.ctx, seg := ref.seg }, [t.ref, ref])

/-- One row checked: its references, or the status it fails with and the device address. -/
def State.rowCheck (s : State) (c : Channel) (x : Nat × Nat) : Except (Status × Nat) (List Ref) :=
  match s.rowEnd c x.1 .read, s.rowEnd c x.2 .write with
  | .error e, _ => .error (e, x.1)
  | _, .error e => .error (e, x.2)
  | .ok a, .ok b => .ok (a.2.2 ++ b.2.2)

def State.rowChecks (s : State) (c : Channel) : List (Nat × Nat) → List Ref → Except (Status × Nat) (List Ref)
  | [], acc => .ok acc
  | x :: r, acc =>
    match s.rowCheck c x with
    | .error e => .error e
    | .ok l => State.rowChecks s c r (l.foldl (fun a y => if a.contains y then a else a ++ [y]) acc)

/-- The oldest ready run taken out. -/
def MeUnit.take (m : MeUnit) : Option (MeRun × MeUnit) :=
  match m.ready with
  | [] => none
  | r :: l => some (r, { m with ready := if r.n ≤ 1 then l else { r with k := r.k + 1, n := r.n - 1 } :: l })

/-- The local address of a device address of a channel's context, and the segment through which it goes. The run holds a reference on the
segment since it started, and goes on as if it were not being withdrawn (R80). -/
def State.chanAt (s : State) (c : Channel) (dev : Nat) : Nat × Via :=
  let i := dev / 2 ^ 60 % 16
  let g := s.segment c.ctx i
  (localOf (g.base + dev % 2 ^ 60), { f := s.chanFn c, ctx := c.ctx, seg := if g.imported then g.rindex else i })

/-- The galleries whose memory ports serve a channel's runs. -/
def State.chanMem (s : State) (c : Channel) (ddr : Bool) : List Nat :=
  let span := fun (stride : Nat) => (c.rows - 1) * stride + c.rowLen
  s.memGals (s.chanAt c c.src).1 (span (fld c.desc 32 4)) ddr ++ s.memGals (s.chanAt c c.dst).1 (span (fld c.desc 36 4)) ddr

/-- Whether a run waits because memory of another gallery that it uses is held for a change of its timetables (R51). A run is part of a plan in
flight in its own gallery, which the change waits for (notes/assumptions/50.md). -/
def State.chanHeld (s : State) (u : Nat) (c : Channel) : Bool := (s.chanMem c true).any fun g => g != u / 16 && (s.gal g).hold.isSome

/-- Whether a run of ME1 must let one of ME0 start first: one completion made both ready (R145). -/
def State.laterMe (s : State) (u : Nat) (r : MeRun) : Bool :=
  u % 2 == 1 && r.chainAt.isSome && (tgetD s.mes (u - 1) {}).ready.any fun x => x.chainAt == r.chainAt

/-- The oldest ready run of an ME starts: a program channel's is translated (R144), a dispatch channel's serves an operation of an SQE. -/
def State.startMe (s : State) (u : Nat) : State :=
  let m := tgetD s.mes u {}
  if m.running.isSome || s.clusterFenced (u / 2) || s.replaying (u / 2) || !s.awake (u / 16) then s
  else match m.take with
    | none => s
    | some (r, m) =>
      match tget s.channels r.chan with
      | none =>
        if r.serves.any fun id => (s.op id).isSome then s.modMe u fun _ => { m with running := some r, lastMove := s.tclk }
        else s.modMe u fun _ => m
      | some c =>
        if s.laterMe u r || s.chanHeld u c then s
        else if s.recov.fences.any fun x => x.domain == .function (s.chanFn c) then s
        else
          let x : MeRun := { chan := r.chan, k := r.k, marked := r.marked }
          let x : MeRun := if r.marked then { x with status := some .locTriggerAborted }
            else match s.rowChecks c c.pairs [] with
              | .ok refs => { x with refs }
              | .error (e, dev) => { x with status := some e, dev }
          s.modMe u fun _ => { m with running := some x, lastMove := s.tclk }

/-- ME_RUN_START (R145). -/
def execMeRunStart (cluster me : Nat) (s : State) : Host.Outcome State Fault Refusal :=
  if decide (cluster < 48) && decide (me < 2) then .next (if s.live then s.startMe (cluster * 2 + me) else s)
  else .next s

/-! ### ME_RUN_COMPLETE (R145, R146, R153, R154) -/

/-- The channel completion record of Table 4.8. -/
def chanRecord (c : Channel) (key k : Nat) (st : Status) (moved : Nat) : List Byte :=
  slice c.desc 56 4 ++ leBytes 4 k ++ leBytes 2 0xFFFF ++ leBytes 1 st.code ++ leBytes 1 0xFF ++ leBytes 2 (key / 32) ++ leBytes 1 (key % 32) ++
  leBytes 1 (Nat.min 255 c.overruns) ++ leBytes 8 moved ++ List.replicate 7 0 ++ leBytes 1 0x10

/-- A run put in by ascending channel. -/
def insertRun (x : MeRun) : List MeRun → List MeRun
  | [] => [x]
  | y :: r => if x.chan ≤ y.chan then x :: y :: r else y :: insertRun x r

/-- Channels chained to a channel of their cluster. -/
def State.chained (s : State) (key : Nat) : List Nat :=
  (s.channels.filter fun e => e.2.armed && e.2.start == 1 && decide (e.1 / 32 = key / 32) && fld e.2.desc 2 1 == key % 32).map (·.1)

/-- The runs that became ready since an earlier state put in the order in which runs of one cycle start (R145): ascending channel. -/
def State.orderReady (s old : State) : State :=
  { s with mes := s.mes.map fun e =>
      let k := (tgetD old.mes e.1 {}).ready.length
      (e.1, { e.2 with ready := e.2.ready.take k ++ (e.2.ready.drop k).foldr insertRun [] }) }

/-- The end of run k of a channel: signal, record, trace, chained runs; a failed run fails its plan (R311), and names the device address
at fault (R312). -/
def State.runEnded (s : State) (key : Nat) (c : Channel) (k : Nat) (st : Status) (moved dev : Nat) (chains : Bool) : State :=
  let f := s.chanFn c
  let ok := st == .ok
  let records := c.cq != 0xFFFF && (bit c.options 0 || !ok)
  let d := { c with done := c.done + 1, overruns := if records then 0 else c.overruns }
  let old := s
  let (e, s) := s.draw
  let s := { s with channels := tset s.channels key d }
  let s := if ok then s else s.failRun c.run st 5 (key / 32) (Config.freeNat e) dev
  let s := s.signal c.ctx c.ref ok
  let s := if records then s.postCqe f c.cq (chanRecord c key k st moved) .other else s
  let s := s.trace (key / 256) 0x06 (key / 32) c.layer c.oper f
    (leBytes 4 k ++ leBytes 1 (key % 32) ++ leBytes 1 st.code ++ leBytes 2 0 ++ leBytes 8 moved)
  (if chains then (s.chained key).foldl (fun (s : State) n => s.ready n 1 false (some s.tclk)) s else s).orderReady old

/-- The run that an ME carries out ends. -/
def State.finishMe (s : State) (key : Nat) (st : Status) (moved : Nat) : State :=
  match tget s.channels key, (tgetD s.mes (meOf key) {}).running with
  | some c, some r => (s.modMe (meOf key) fun m => { m with running := none, lastMove := s.tclk }).runEnded key c r.k st moved r.dev true
  | _, _ => s

/-- One row moved; bytes that the run itself overwrites depend on the order of its moves, and are open. Answers its path, or the status and
the device address of the access that failed. -/
def State.moveRow (s : State) (c : Channel) (free : Nat → Nat → Option Byte) (src dst : Nat) : State × Except (Status × Nat) Path :=
  let a := s.chanAt c src
  let b := s.chanAt c dst
  match s.readVia a.2 a.1 c.rowLen with
  | (s, _, some x) => (s.endedBy x a.2.f c.layer c.oper, .error (.memUncorrectable, src))
  | (s, l, none) =>
    let l := (l.zip (List.range c.rowLen)).map fun x => (free (a.1 + x.2) (b.1 + x.2)).getD x.1
    match s.writeVia b.2 b.1 l with
    | (s, none) => (s, .ok (s.pathOf b.2.f b.1))
    | (s, some x) => (s.endedBy x b.2.f c.layer c.oper, .error (.memUncorrectable, dst))

/-- The rows of a run moved: its status, the device address at fault, the bytes moved and the paths written. -/
def State.moveRows (s : State) (c : Channel) (free : Nat → Nat → Option Byte) :
    List (Nat × Nat) → Nat → List Path → State × Status × Nat × Nat × List Path
  | [], n, ps => (s, .ok, 0, n, ps)
  | x :: r, n, ps =>
    match s.moveRow c free x.1 x.2 with
    | (s, .ok p) => State.moveRows s c free r (n + c.rowLen) (addPath p ps)
    | (s, .error (st, dev)) => (s, st, dev, n, ps)

/-- What a byte that a run moves holds where that depends on the order of its moves, because the run writes its source or writes it twice:
open, but the same on every run of the plan (R313; notes/assumptions/84.md). -/
def State.chanOpen (s : State) (c : Channel) (key k : Nat) : Nat → Nat → Option Byte :=
  let dsts := c.pairs.map fun x => (s.chanAt c x.2).1
  let e := Config.sameEachRun [3, key, k, leNat c.desc, c.src, c.dst] ((s.run c.run).elim (fun _ => 0) s.planSees)
  let twice := decide (fld c.desc 36 4 < c.rowLen)
  fun sa da => if dsts.any (fun d => decide (d ≤ sa ∧ sa < d + c.rowLen)) || (twice && writtenTwice dsts c.rowLen da) then some (Config.freeByte e da)
    else none

/-- The paths of the flags that the end of a run writes: its CQ, its counter's mirror. -/
def State.chanFlags (s : State) (f : Nat) (c : Channel) : List Path :=
  (match s.cq f c.cq with
   | some q => [s.pathOf f q.ring]
   | none => []) ++
  (if bit c.ref 15 && s.mirrored f then [Path.host (fnPort f)] else [])

/-- The run of an ME ends. One of a dispatch channel places the response that it carries, or has gathered what was sent meanwhile. -/
def State.completeMe (s : State) (u : Nat) : State :=
  match (tgetD s.mes u {}).running with
  | none => s
  | some r =>
    match tget s.channels r.chan with
    | none =>
      let s := s.modMe u fun m => { m with running := none, lastMove := s.tclk }
      r.pkt.elim s fun p => s.scatterNow p.1 p.2.1 p.2.2
    | some c =>
      if s.flags.any fun p => match p.flag with
          | .meRun k _ _ => k == r.chan
          | _ => false then s
      else match r.status with
        | some st => s.finishMe r.chan st 0
        | none =>
          let f := s.chanFn c
          match s.moveRows c (s.chanOpen c r.chan r.k) c.pairs 0 [] with
          | (s, st, dev, n, paths) =>
            let need := if bit c.options 1 then [] else toFlush paths (s.chanFlags f c)
            let s := s.modMe u fun m => { m with running := some { r with moved := n, paths, dev } }
            if need.isEmpty then s.finishMe r.chan st n else s.addFlag f need (.meRun r.chan st n)

/-- ME_RUN_COMPLETE (R146). -/
def execMeRunComplete (cluster me : Nat) (s : State) : Host.Outcome State Fault Refusal :=
  if decide (cluster < 48) && decide (me < 2) then .next (if s.live then s.completeMe (cluster * 2 + me) else s)
  else .next s

end Sys2Proof.Machine
end

