-- ==== Sys2Proof/Machine/Latch.lean ====
section
/-! DEFINITION. Packets acted on by their type, and the order of R183: what has arrived takes effect before a MODIFY_QP or a function's fence
that falls in the same cycle. -/

namespace Sys2Proof.Machine

/-- A packet for a QP of this node acted on, by its type. -/
def State.packetIn (s : State) (i : Inbound) : State :=
  match i.pkt.ty with
  | 1 => s.takeRequest i (fun s => s.placeWrite i) id
  | 2 => s.takeRequest i (fun s => s.takeRead i) fun s => s.readAgain i
  | 3 => s.takeRequest i (fun s => s.takeAtomic i) fun s => s.atomicAgain i
  | 4 => s.takeRequest i (fun s => s.takeFold i) id
  | 8 =>
    let k := i.pkt.chunk
    s.takeRequest i (fun s =>
      if 0xFFFFFF01 ≤ k ∧ k ≤ 0xFFFFFF0A then s.controlPacket i (k - 0xFFFFFF00) fun s gid g n seq l => s.controlIn (k - 0xFFFFFF00) gid g n seq l
      else s.collPacket i) id
  | 0x10 => s.responseIn i
  | 0x11 => s.responseIn i
  | 0x12 => s.responseIn i
  | _ => s

/-- The arrived packets that satisfy a test, acted on in the order in which they arrived. -/
def State.latchGo (test : Packet → Bool) : Nat → State → State
  | 0, s => s
  | fuel + 1, s =>
    if s.arrived.any fun a => test a.pkt then State.latchGo test fuel (s.takePacket test fun s i => s.packetIn i) else s

/-- Whether a packet is for a QP. LINK and FABRIC messages are not. -/
def Packet.forQp (p : Packet) : Bool := decide (p.ty ≠ 0x20 ∧ p.ty ≠ 0x21)

/-- What has arrived for a QP takes effect. -/
def State.latchQp (s : State) (q : Nat) : State := State.latchGo (fun p => p.forQp && p.qp == q && q != 0) s.arrived.length s

/-- What has arrived for the QPs of a function takes effect. -/
def State.latchFn (s : State) (f : Nat) : State :=
  State.latchGo (fun p => p.forQp && p.qp != 0 && (tget s.qps p.qp).any fun x => x.f == f) s.arrived.length s

end Sys2Proof.Machine
end

