-- ==== Sys2Proof/Machine/QpAdmin.lean ====
section
/-! DEFINITION. The commands that create, connect, change, query and destroy QPs (R173–R176, R184–R190, R404). -/

namespace Sys2Proof.Machine

/-! ### CREATE_QP (R175, R185) -/

def State.doCreateQp (s : State) (j : Job) : State × Answer :=
  let c := j.arg 16 2
  let omni := j.arg 18 1 == 1
  let fl := j.arg 19 1
  let slot := j.arg 20 2
  let home := j.arg 24 2
  let cap := j.arg 32 4
  let pinned := bit fl 0
  if 4095 < c ∨ 1 < j.arg 18 1 ∨ fl / 8 ≠ 0 ∨ 15 < j.arg 23 1 ∨ 7 < j.arg 26 1 ∨ 64 < j.arg 38 1 ∨ badRef (j.arg 36 2) ∨
      (if omni then cap = 0 ∨ 65536 < cap else cap ≠ 0) ∨ (slot ≠ 0 ∧ !bit fl 2) ∨ (bit fl 2 ∧ !(s.fn j.f).feature 1) then (s, .refuse .argument)
  else match payloadOf (j.arg 22 1), timersOf (j.arg 23 1) (j.arg 28 2) (j.arg 30 2) with
    | some P, some t =>
      if !s.ownsCtx j.f c then (s, .refuse .unknown)
      else if (home ≠ 0xFFFF ∧ !s.present home) ∨ (bit fl 2 ∧ (omni ∨ !s.slotGrants slot c)) then (s, .refuse .argument)
      else
        let x : Qp := { ctx := c, f := j.f, omnibus := omni, pinned, wide := bit fl 1, encrypted := bit fl 2, slot, payload := P, retry := t.1,
                        home, tc := j.arg 26 1, rtoMin := t.2.1, rtoMax := t.2.2, capacity := cap, arrival := j.arg 36 2,
                        ackDelay := if j.arg 38 1 = 0 then 8 else j.arg 38 1 }
        match s.qpRoom j.f x.contexts pinned with
        | some d => (s, .resource d)
        | none =>
          if 0xFFFFF < tfree s.qps 1 then (s, .resource 1)
          else
            let r := s.addQp x
            (r.1, .ok r.2)
    | _, _ => (s, .refuse .argument)

/-- CREATE_QP (R185). -/
def execCreateQp (f : Nat) (s : State) : Host.Outcome State Fault Refusal :=
  if fnOk f then .next (s.admin f 0x18 none [(16, 11), (28, 11)] fun s j => s.doCreateQp j)
  else .next s

/-! ### MODIFY_QP (R186, R189) -/

/-- Why a QP cannot be named: it is no QP of the function's, or it belongs to a group (R174). -/
def State.namedQp (s : State) (j : Job) : Except Answer Qp :=
  let q := j.arg 12 3
  match tget s.qps q with
  | none => .error (.refuse .unknown)
  | some x => if q = 0 ∨ x.f ≠ j.f then .error (.refuse .unknown) else if x.group.isSome then .error (.refuse .inUse) else .ok x

/-- The node of an RC QP's end, or the node that the command names for an omnibus QP. -/
def Qp.named (x : Qp) (j : Job) : Nat := if x.omnibus then j.arg 20 2 else x.node

/-- A QP number that a remote end can have (R173). -/
def qpNumOk (q : Nat) : Bool := decide (1 ≤ q ∧ q ≤ 0xFFFFF)

def State.doConnect (s : State) (j : Job) : State × Answer :=
  if j.arg 16 1 ≠ 1 ∨ !qpNumOk (j.arg 24 3) then (s, .refuse .argument)
  else match s.namedQp j with
    | .error a => (s, a)
    | .ok x =>
      if x.omnibus ∨ !x.ends.isEmpty ∨ (x.encrypted ∧ (s.keySlot x.slot).state ≠ .loaded) then (s, .refuse .state)
      else
        let n := j.arg 20 2
        let e := s.freshEnd x (j.arg 24 3) (BitVec.ofNat 32 (j.arg 28 4)) (BitVec.ofNat 32 (j.arg 32 4))
        (s.modQp (j.arg 12 3) fun x => { x with node := n, ends := [(n, e)] }, .ok 0)

/-- CONNECT (R186). A MODIFY_QP whose operation Table 5.12 does not give is refused here. -/
def execConnect (f : Nat) (s : State) : Host.Outcome State Fault Refusal :=
  if fnOk f then
    .next (s.admin f 0x19 (some 1) [(12, 3), (16, 1), (20, 2), (24, 3), (28, 8)] fun s j => (s.latchQp (j.arg 12 3)).doConnect j)
  else .next s

/-- Peer records read in order (Table 5.13): the entries to be added, none where one is not allowed. -/
def State.peersGo (s : State) (x : Qp) : List (List Byte) → Tab Endpoint → Option (Tab Endpoint)
  | [], acc => some acc
  | l :: r, acc =>
    let n := fld l 0 2
    if !zeroAt l 2 2 ∨ !zeroAt l 7 1 ∨ !qpNumOk (fld l 4 3) ∨ (tget acc n).isSome then none
    else State.peersGo s x r (tset acc n (s.freshEnd x (fld l 4 3) (BitVec.ofNat 32 (fld l 8 4)) (BitVec.ofNat 32 (fld l 12 4))))

def State.doAddPeers (s : State) (j : Job) : State × Answer :=
  match s.namedQp j with
  | .error a => (s, a)
  | .ok x =>
    let count := j.arg 32 4
    if !x.omnibus then (s, .refuse .state)
    else if x.capacity < x.ends.length + count then (s, .refuse .argument)
    else match s.adminRead j x.ctx (j.arg 24 8) (16 * count) with
      | (s, .error a) => (s, a)
      | (s, .ok l) =>
        match s.peersGo x ((List.range count).map fun i => slice l (16 * i) 16) x.ends with
        | none => (s, .refuse .argument)
        | some ends => (s.modQp (j.arg 12 3) fun x => { x with ends }, .ok 0)

/-- ADD_PEERS (R186). -/
def execAddPeers (f : Nat) (s : State) : Host.Outcome State Fault Refusal :=
  if fnOk f then .next (s.admin f 0x19 (some 2) [(12, 3), (16, 1), (24, 12)] fun s j => (s.latchQp (j.arg 12 3)).doAddPeers j)
  else .next s

/-- A peer entry gone, with its part of the cache. -/
def State.dropPeer (s : State) (q n : Nat) : State :=
  { (s.modQp q fun x => { x with ends := tdel x.ends n }) with cache := s.cache.filter (· != (q, n)) }

def State.doRemovePeer (s : State) (j : Job) : State × Answer :=
  let n := j.arg 20 2
  match s.namedQp j with
  | .error a => (s, a)
  | .ok x =>
    if !x.omnibus then (s, .refuse .state)
    else if (tget x.ends n).isNone then (s, .refuse .unknown)
    else if !(s.opsOn (j.arg 12 3) n).isEmpty then (s, .refuse .state)
    else (s.dropPeer (j.arg 12 3) n, .ok 0)

/-- REMOVE_PEER (R186). -/
def execRemovePeer (f : Nat) (s : State) : Host.Outcome State Fault Refusal :=
  if fnOk f then .next (s.admin f 0x19 (some 3) [(12, 3), (16, 1), (20, 2)] fun s j => (s.latchQp (j.arg 12 3)).doRemovePeer j)
  else .next s

/-- The end that SET_ERROR or RESET names, where it is in the state that the operation needs. -/
def State.namedEnd (s : State) (j : Job) (st : EndState) : Except Answer (Qp × Endpoint) :=
  match s.namedQp j with
  | .error a => .error a
  | .ok x =>
    if !x.omnibus ∧ j.arg 20 2 ≠ 0 then .error (.refuse .argument)
    else match tget x.ends (x.named j) with
      | none => .error (.refuse (if x.omnibus then .unknown else .state))
      | some e => if e.state = st then .ok (x, e) else .error (.refuse .state)

def State.doSetError (s : State) (j : Job) : State × Answer :=
  match s.namedEnd j .ready with
  | .error a => (s, a)
  | .ok (x, _) => (s.qpError (j.arg 12 3) (x.named j) .xportQpError, .ok 0)

/-- SET_ERROR (R189). -/
def execSetError (f : Nat) (s : State) : Host.Outcome State Fault Refusal :=
  if fnOk f then .next (s.admin f 0x19 (some 4) [(12, 3), (16, 1), (20, 2)] fun s j => (s.latchQp (j.arg 12 3)).doSetError j)
  else .next s

def State.doResetQp (s : State) (j : Job) : State × Answer :=
  match s.namedEnd j .error with
  | .error a => (s, a)
  | .ok (x, _) =>
    if !(s.opsOn (j.arg 12 3) (x.named j)).isEmpty then (s, .refuse .state)
    else if x.omnibus then (s.dropPeer (j.arg 12 3) (x.named j), .ok 0)
    else (s.modQp (j.arg 12 3) fun x => { x with ends := [], node := 0 }, .ok 0)

/-- MODIFY_QP RESET (R189). -/
def execModifyQpReset (f : Nat) (s : State) : Host.Outcome State Fault Refusal :=
  if fnOk f then .next (s.admin f 0x19 (some 5) [(12, 3), (16, 1), (20, 2)] fun s j => (s.latchQp (j.arg 12 3)).doResetQp j)
  else .next s

def State.doSetTimers (s : State) (j : Job) : State × Answer :=
  match timersOf (j.arg 23 1) (j.arg 28 2) (j.arg 30 2) with
  | none => (s, .refuse .argument)
  | some t =>
    match s.namedQp j with
    | .error a => (s, a)
    | .ok _ => (s.modQp (j.arg 12 3) fun x => { x with retry := t.1, rtoMin := t.2.1, rtoMax := t.2.2 }, .ok 0)

/-- SET_TIMERS (R186). -/
def execSetTimers (f : Nat) (s : State) : Host.Outcome State Fault Refusal :=
  if fnOk f then .next (s.admin f 0x19 (some 6) [(12, 3), (16, 1), (23, 1), (28, 4)] fun s j => (s.latchQp (j.arg 12 3)).doSetTimers j)
  else .next s

/-! ### QUERY_QP and DESTROY_QP (R187, R189) -/

def EndState.code : EndState → Nat
  | .idle => 0 | .ready => 1 | .error => 2

/-- The QP status record (Table 5.14). -/
def State.qpStatus (s : State) (q n : Nat) (x : Qp) (e : Endpoint) : List Byte :=
  leBytes 1 1 ++ leBytes 1 (ofBool x.omnibus) ++ leBytes 1 e.state.code ++
  leBytes 1 (ofBool x.pinned + 2 * ofBool (s.resident q x n) + 4 * ofBool x.wide) ++ leBytes 3 q ++ leBytes 1 0 ++ leBytes 2 x.ctx ++
  leBytes 2 x.home ++ leBytes 2 n ++ leBytes 1 0 ++ leBytes 1 e.retries ++ leBytes 3 e.remoteQp ++ leBytes 1 x.retry ++
  leBytes 4 e.psn.toNat ++ leBytes 4 e.oldest.toNat ++ leBytes 4 e.epsn.toNat ++ leBytes 4 (e.srtt / 8) ++ leBytes 4 (e.rttvar / 8) ++
  leBytes 4 (rtoNow x e) ++ leBytes 4 (if x.omnibus then x.ends.length else 0) ++ leBytes 4 e.retx ++
  leBytes 1 (e.errStat.elim 0 Status.code) ++ leBytes 3 0 ++ leBytes 8 s.time

def State.doQueryQp (s : State) (j : Job) : State × Answer :=
  let q := j.arg 12 3
  match tget s.qps q with
  | none => (s, .refuse .unknown)
  | some x =>
    if q = 0 ∨ x.f ≠ j.f then (s, .refuse .unknown)
    else if !x.omnibus ∧ j.arg 16 2 ≠ 0 then (s, .refuse .argument)
    else
      let n := if x.omnibus then j.arg 16 2 else x.node
      match tget x.ends n with
      | none => if x.omnibus then (s, .refuse .unknown) else s.adminWrite j x.ctx (j.arg 24 8) (s.qpStatus q n x {}) (.ok 0)
      | some e => s.adminWrite j x.ctx (j.arg 24 8) (s.qpStatus q n x e) (.ok 0)

/-- QUERY_QP (R187). -/
def execQueryQp (f : Nat) (s : State) : Host.Outcome State Fault Refusal :=
  if fnOk f then .next (s.admin f 0x1A none [(12, 3), (16, 2), (24, 8)] fun s j => s.doQueryQp j)
  else .next s

/-- The jobs fetched or armed that name a QP when it is destroyed: none of them runs on a later QP of that number (R189). -/
def State.orphanJobs (s : State) (q : Nat) : State :=
  let mark := fun (c : Nat) (j : Job) => if decide (1 ≤ j.opcode ∧ j.opcode ≤ 5) && j.qpn == q && j.ctx == c then { j with orphan := true } else j
  match tget s.qps q with
  | none => s
  | some x =>
    { s with
      sqs := s.sqs.map fun e => if e.1 % 65536 = 0 then e else (e.1, { e.2 with fetched := e.2.fetched.map (mark x.ctx) })
      armed := s.armed.map fun a => { a with job := mark x.ctx a.job } }

def State.doDestroyQp (s : State) (j : Job) : State × Answer :=
  let q := j.arg 12 3
  match s.namedQp j with
  | .error a => (s, a)
  | .ok _ => if (s.ops ++ s.spent).any fun o => o.qp == q then (s, .refuse .state) else ((s.orphanJobs q).dropQp q, .ok 0)

/-- DESTROY_QP (R189). -/
def execDestroyQp (f : Nat) (s : State) : Host.Outcome State Fault Refusal :=
  if fnOk f then .next (s.admin f 0x1B none [(12, 3)] fun s j => s.doDestroyQp j)
  else .next s

end Sys2Proof.Machine
end

