-- ==== Sys2Proof/Machine/Late.lean ====
section
/-! DEFINITION. The firing of triggered jobs (R140, R141), the return of flushing reads (R152, R153), and the end of a context fetch (R177). -/

namespace Sys2Proof.Machine

/-! ### TRIGGER_FIRE (R140, R141) -/

/-- A job runs, by its opcode. -/
def State.runJob (s : State) (j : Job) : State :=
  match j.opcode with
  | 0 => s.runNop j
  | 1 => s.runPut j false
  | 2 => s.runGet j
  | 3 => s.runPut j true
  | 4 => s.runAtomic j
  | 5 => s.runFold j
  | 6 => s.runSend j
  | 7 => s.runRecv j
  | 8 => s.runPlan j
  | _ => s.runColl j

/-- Whether an armed job whose condition came to hold may fire now. -/
def State.mayFire (s : State) (a : Armed) : Bool :=
  let j := a.job
  a.due.isSome && decide ((s.fn j.f).state = .active) && s.placeFree j.f && !s.jobHeld j &&
  !(isColl j.opcode && (tget s.groups (fld j.head 56 2)).any (·.cur.isSome))

/-- The armed job that fires next: of those that may, the one whose condition came to hold first. -/
def State.nextArmed (s : State) : Option Armed :=
  (s.armed.filter s.mayFire).foldl (fun b a => match b with
    | none => some a
    | some x => if a.due.getD 0 < x.due.getD 0 then some a else some x) none

/-- The armed job fires. It aborts where its condition came by the error mark, or its counter carries the mark now, when it comes to fire
(R138, R141, Table 4.5). -/
def State.fire (s : State) : State :=
  match s.nextArmed with
  | none => s
  | some a =>
    let j := a.job
    let marked := a.marked || evcMarked (s.evc j.ctx j.trigCounter)
    let s := State.armHeld { s with armed := s.armed.filter fun b => !(b.job.f == j.f && b.job.q == j.q && b.job.seq == j.seq) }
    if marked then s.failJob j .locTriggerAborted
    else if s.jobFenced j then s.failJob j .devFenced
    else ((s.resetSignal j).rouseJob j).runJob j

/-- TRIGGER_FIRE (R140). -/
def execTriggerFire (s : State) : Host.Outcome State Fault Refusal := .next (if s.live then s.fire else s)

/-! ### FLUSH_COMPLETE (R153) -/

/-- What a flag announces, now that its paths are flushed. -/
def State.flushed (s : State) (p : PendingFlag) : State :=
  match p.flag with
  | .job op j r =>
    s.finishJob op j r ((op.bind s.op).elim 0 (·.bytes))
  | .final q n msg addr value ctx seg _ layer oper echo => s.writeFinal q n msg addr value ctx seg layer oper echo
  | .folded q n msg echo =>
    match tget s.qps q, s.endpoint q n with
    | some x, some e => if e.state = .ready then s.finalEffect q n x msg echo else s
    | _, _ => s
  | .collDone gid seq => (s.collFlushed gid seq).advanceAll
  | .signal _ _ ctx counter amount => s.addEvc ctx counter amount
  | .meRun key st moved => s.finishMe key st moved

def State.flushDone (s : State) (n : Nat) : State :=
  match s.flags.find? fun p => p.id == n with
  | none => s
  | some p => State.flushed { s with flags := s.flags.filter fun x => x.id != n } p

/-- FLUSH_COMPLETE (R153). -/
def execFlushComplete (n : Nat) (s : State) : Host.Outcome State Fault Refusal := .next (if s.live then s.flushDone n else s)

/-! ### CONTEXT_FETCH_COMPLETE (R177) -/

/-- A packet out of a siding, its context resident now. -/
def State.fromSiding (s : State) (a : Arrival) : State :=
  match tget s.qps a.pkt.qp with
  | none => s.count 0x08 (dieOf a.port) 3 1
  | some x =>
    match s.inspect x a with
    | (s, some i) => s.packetIn i
    | (s, none) => s

/-- The packets of one context taken out of a siding. -/
def State.unside (s : State) (die q : Nat) (x : Qp) (n : Nat) : List Arrival × State :=
  let d := tgetD s.sidings die {}
  let mine := fun (a : Arrival) => a.pkt.qp == q && x.entry (x.peer a.pkt) == x.entry n
  (d.pkts.filter mine, { s with sidings := tset s.sidings die { pkts := d.pkts.filter fun a => !mine a } })

/-- The record of uncorrectable data in the QP context store; where in it a context lies, the manual does not say. -/
def State.fetchError (s : State) : MemErr × State :=
  let (e, s) := s.draw
  let a := s.qpcBase + Config.freeNat e % Nat.max 1 s.qpcCount * 256
  (tierErr (if s.qpcHost then .host 0 else s.region a) a 0, s)

/-- A context fetch ends: the packets that wait for it act, those of CD0's siding before those of CD1's (notes/assumptions/79.md). Or, where no packet
waits, the write-back of a context. One that meets uncorrectable data ends the QP (R189). -/
def State.fetched (s : State) (q n : Nat) (bad : Bool) : State :=
  match tget s.qps q with
  | none => s
  | some x =>
    let (l0, s) := s.unside 0 q x n
    let (l1, s) := s.unside 1 q x n
    if bad then
      let (e, s) := s.fetchError
      (s.endedBy e x.f 0 0).qpError q (if x.omnibus then n else x.node) .memUncorrectable
    else if (l0 ++ l1).isEmpty then s
    else (l0 ++ l1).foldl (fun s a => s.fromSiding a) (s.touch q x n)

/-- CONTEXT_FETCH_COMPLETE (R177). -/
def execContextFetchComplete (qp node : Nat) (bad : Bool) (s : State) : Host.Outcome State Fault Refusal :=
  if decide (qp < 16777216) && decide (node ≤ 65535) then .next (if s.live then s.fetched qp node bad else s)
  else .next s

end Sys2Proof.Machine
end

