-- ==== Sys2Proof/Machine/Timetables.lean ====
section
/-! DEFINITION. Timetables and their limits, dividers, die-to-die replays, plan gaps, latency tolerances, power states and the
power cap's ladder (R34–R37, R42–R53, R469–R474, R508–R510). -/

namespace Sys2Proof.Machine

/-! ### Timetables (R43–R53, R509, R510) -/

/-- The owner and standby of each of the 32 positions of Table 1.10, as slot entries. -/
def defaultPattern : List Nat :=
  [0x21, 0x12, 0x45, 0x34, 0x21, 0x12, 0x56, 0x43, 0x45, 0x21, 0x12, 0x34, 0x45, 0x56, 0x21, 0x12,
   0x17, 0x45, 0x34, 0x43, 0x21, 0x12, 0x45, 0x56, 0x34, 0x21, 0x12, 0x45, 0x43, 0x34, 0x56, 0x18]

/-- The default table (R48). -/
def defaultTable : List Byte := ((List.range 8).flatMap fun _ => defaultPattern).map (BitVec.ofNat 8 ·)

/-- DDR channels of a gallery (Table 1.3). -/
def ddrPorts (g : Nat) : Nat := if g = 0 ∨ g = 3 then 4 else 3

/-- Whether timetable window k of gallery g belongs to a port that exists (R510). -/
def State.hasWindow (s : State) (g k : Nat) : Bool :=
  if k < 4 then true
  else if k < 8 then decide (k - 4 < ddrPorts g)
  else decide (k < 16) && s.present (8 * g + (k - 8))

/-- The table in force at a port: the declared one, or the default table (R48). -/
def Gallery.table (x : Gallery) (k : Nat) : List Byte := (tget x.tables k).elim defaultTable (·.live)

/-- What a read of a timetable window gives (R510). -/
def State.window (s : State) (g k : Nat) : List Byte :=
  if s.hasWindow g k then (s.gal g).table k else List.replicate 256 0

def slotOwner (b : Byte) : Nat := b.toNat % 16
def slotStandby (b : Byte) : Nat := b.toNat / 16

/-- Slots that an owner holds in a table. -/
def slotsOf (t : List Byte) (o : Nat) : Nat := t.countP fun b => slotOwner b == o

/-- The least number of slots of an owner at a port (R49). -/
def slotMinimum (k o : Nat) : Nat := if o = 8 then 8 else if o = 7 then (if k < 8 then 8 else 4) else 0

/-- The manager's floor and ceiling for an owner (R50, R509). -/
def Gallery.limit (x : Gallery) (o : Nat) : Nat × Nat := tgetD x.limits o (0, 256)

/-- Whether firmware loads a declared table at a port (R49). -/
def Gallery.accepts (x : Gallery) (k : Nat) (t : List Byte) : Bool :=
  t.all (fun b =>
    decide (1 ≤ slotOwner b ∧ slotOwner b ≤ 8) && decide ((1 ≤ slotStandby b ∧ slotStandby b ≤ 8) ∨ slotStandby b = 15) &&
    slotOwner b != slotStandby b) &&
  (List.range 8).all fun i =>
    decide (Nat.max (slotMinimum k (i + 1)) (x.limit (i + 1)).1 ≤ slotsOf t (i + 1) ∧ slotsOf t (i + 1) ≤ (x.limit (i + 1)).2)

/-- Clusters of a gallery. -/
def clustersIn (g : Nat) : List Nat := (List.range 8).map (8 * g + ·)

/-- A fold holds accumulator files of a cluster. -/
def State.foldOn (s : State) (c : Nat) : Bool := s.groups.any fun e => e.2.cur.any fun x => x.folds.any fun f => f.cluster == c

/-- Whether an ME of a cluster runs. -/
def State.meRunning (s : State) (c : Nat) : Bool := s.mes.any fun e => e.1 / 2 == c && e.2.running.isSome

/-- A dispatched operation that occupies a cluster: a plan only once it has started, a collective only through its folds. -/
def State.opHolds (s : State) (o : Op) (c : Nat) : Bool :=
  match o.kind with
  | .coll _ => false
  | .plan r => (s.runs.any fun x => x.id == r && x.started) && (s.jobClusters o.job).contains c
  | _ => (s.jobClusters o.job).contains c

/-- A cluster holds work. -/
def State.clusterBusy (s : State) (c : Nat) : Bool := s.foldOn c || s.meRunning c || s.ops.any fun o => s.opHolds o c

/-- An operation in flight whose bytes the memory ports of a gallery have still to serve. A SEND has read its frame, and a RECV waits for one. -/
def State.opServes (s : State) (o : Op) (g : Nat) (ddr : Bool) : Bool :=
  match o.kind with
  | .push .. => o.seg != 16 && (s.memGals o.near o.job.len ddr).contains g
  | .get .. => o.seg != 16 && (s.memGals o.near o.job.len ddr).contains g
  | .atomic => o.seg != 16 && (s.memGals o.near 8 ddr).contains g
  | .coll gid => ((tget s.groups gid).bind (·.cur)).any fun c =>
      c.op == o.id && ((s.memGals c.input o.job.len ddr).contains g || (s.memGals c.result c.rlen ddr).contains g)
  | _ => false

/-- Responses owed to a READ_REQ whose bytes the memory ports of a gallery have still to serve. -/
def State.replyServes (s : State) (x : Qp) (r : Reply) (g : Nat) (ddr : Bool) : Bool :=
  match r with
  | .read _ _ _ _ _ addr _ next stop _ _ _ _ _ => (s.memGals addr ((stop - next) * x.payload) ddr).contains g
  | _ => false

/-- Work other than operations of SQEs that uses the memory ports of a gallery: STAGEs outstanding, ME runs under way, responses owed. -/
def State.othersServe (s : State) (g : Nat) (ddr : Bool) : Bool :=
  (s.runs.any fun r => r.members.any fun m => m.stages.any fun st => (s.stageMem r st ddr).contains g) ||
  (s.mes.any fun e => e.2.running.any fun r => (tget s.channels r.chan).any fun c => (s.chanMem c ddr).contains g) ||
  s.qps.any fun e => e.2.ends.any fun x => x.2.replies.any fun r => s.replyServes e.2 r g ddr

/-- No cluster of a gallery holds work, and no port of its memory has work to serve; R469 leaves the DDR channels out. -/
def State.quiet (s : State) (g : Nat) (ddr : Bool) : Bool :=
  ((clustersIn g).all fun c => !s.clusterBusy c) && (s.ops.all fun o => !s.opServes o g ddr) && !s.othersServe g ddr

/-- No work is in flight in a gallery (R51). -/
def State.drained (s : State) (g : Nat) : Bool := s.quiet g true

/-- LOAD_TIMETABLE: the tables checked, and the gallery's dispatch held (R49–R51). -/
def State.doLoadTimetable (s : State) (j : Job) : State × Answer :=
  let g := j.arg 16 1
  let ks := bitsSet 16 (j.arg 20 2)
  if 5 < g ∨ ks.any fun k => !s.hasWindow g k then (s, .refuse .argument)
  else match s.adminRead j (s.firstCtx j.f) (j.arg 24 8) (256 * ks.length) with
    | (s, .error a) => (s, a)
    | (s, .ok l) =>
      let new : List (Nat × List Byte) := (ks.zip (List.range ks.length)).map fun x => (x.1, slice l (256 * x.2) 256)
      let x := s.gal g
      if new.any fun e => !x.accepts e.1 e.2 then (s, .refuse .argument)
      else
        let tables : Tab Timetable := new.foldl (fun t e => tmodD t e.1 { live := defaultTable } fun y => { y with shadow := some e.2 }) x.tables
        (s.modGal g fun x => { x with tables, hold := some (s.tclk, j) }, .later)

/-- LOAD_TIMETABLE (R51). -/
def execLoadTimetable (f : Nat) (s : State) : Host.Outcome State Fault Refusal :=
  if fnOk f then .next (s.admin f 0x30 none [(16, 1), (20, 2), (24, 8)] fun s j => s.doLoadTimetable j) else .next s

/-- The end of a change: dispatch resumes. -/
def Gallery.endHold (x : Gallery) (switch : Bool) : Gallery :=
  { x with
    hold := none
    tables := x.tables.map fun e => (e.1, { live := if switch then e.2.shadow.getD e.2.live else e.2.live, shadow := none }) }

def State.switchTables (s : State) (g : Nat) : State :=
  match (s.gal g).hold with
  | none => s
  | some (_, j) => if s.drained g then (s.modGal g fun x => x.endHold true).answer j (.ok 0) else s

/-- TIMETABLE_SWITCH (R51). -/
def execTimetableSwitch (g : Nat) (s : State) : Host.Outcome State Fault Refusal :=
  if galOk g then .next (if s.live then s.switchTables g else s) else .next s

def State.abandonTables (s : State) (g : Nat) : State :=
  match (s.gal g).hold with
  | none => s
  | some (at_, j) =>
    if at_ + 1000000 ≤ s.tclk ∧ !s.drained g then (s.modGal g fun x => x.endHold false).answer j (.fail .devDrainTimeout 0) else s

/-- TIMETABLE_DRAIN_TIMEOUT (R52). -/
def execTimetableDrainTimeout (g : Nat) (s : State) : Host.Outcome State Fault Refusal :=
  if galOk g then .next (if s.live then s.abandonTables g else s) else .next s

def State.doSetLimits (s : State) (j : Job) : State × Answer :=
  let g := j.arg 16 1
  if 5 < g then (s, .refuse .argument)
  else
    let limits : Tab (Nat × Nat) := (List.range 8).map fun i => (i + 1, (j.arg (24 + 4 * i) 2, j.arg (26 + 4 * i) 2))
    (s.modGal g fun x => { x with limits }, .ok 0)

/-- SET_TIMETABLE_LIMITS (R50). -/
def execSetTimetableLimits (f : Nat) (s : State) : Host.Outcome State Fault Refusal :=
  if fnOk f then .next (s.admin f 0x31 none [(16, 1), (24, 32)] fun s j => s.doSetLimits j) else .next s

/-! ### Dividers, plan gaps -/

/-- The gallery's divider becomes the larger of floor and demand; ACLK stops for at most two turns, for how long is open (R35, R36). -/
def State.changeDivider (s : State) (g : Nat) : State :=
  let x := s.gal g
  let d := Nat.max x.floor x.demand
  if d = x.divider then s
  else
    let (e, s) := s.draw
    let n := s.aclkNow g
    (s.modGal g fun x => { x with divider := d, aclk := n, aclkAt := s.tclk + Config.freeNat e % 257 }).count 0x0B g 0x11 1

/-- DIVIDER_CHANGE (R36). -/
def execDividerChange (g : Nat) (s : State) : Host.Outcome State Fault Refusal :=
  if galOk g then .next (if s.live then s.changeDivider g else s) else .next s

/-- GAP_CLEAR (R508). -/
def execGapClear (g : Nat) (mask : BitVec 8) (s : State) : Host.Outcome State Fault Refusal :=
  if galOk g then
    .next (if s.served then s.modGal g fun x => { x with gaps := x.gaps.filter fun e => !mask.getLsbD e.1 } else s)
  else .next s

/-! ### Latency tolerances and power states (R469, R471) -/

def State.doTolerance (s : State) (j : Job) : State × Answer :=
  let n := j.arg 16 4
  ((s.modFn j.f fun x => { x with tolerance := some (if n = 0xFFFFFFFF then none else some n) }).wakeDeep, .ok 0)

/-- SET_LATENCY_TOLERANCE (R471). -/
def execSetLatencyTolerance (f : Nat) (s : State) : Host.Outcome State Fault Refusal :=
  if fnOk f then .next (s.admin f 0x28 none [(16, 4)] fun s j => s.doTolerance j) else .next s

/-- Work that has reached a gallery and waits there: a PLAN_RUN for its gang, a run of an ME for its turn. -/
def State.awaited (s : State) (g : Nat) : Bool :=
  (s.runs.any fun r => !r.started && r.gang.any fun c => c / 8 == g) || s.mes.any fun e => e.1 / 16 == g && !e.2.ready.isEmpty

/-- A gallery idle for the idle time of the deepest state it may take enters that state; in U3 tier A is lost (R469). -/
def State.enterPower (s : State) (g : Nat) : State :=
  let d := s.deepest g
  let x := s.gal g
  if d ≤ x.power ∨ !s.quiet g false ∨ s.awaited g ∨ x.waking.any (fun t => decide (s.tclk < t)) ∨ s.tclk < x.idleAt + idleTime d then s
  else
    let s := s.modGal g fun y => { y with power := d, waking := none }
    if d = 3 then
      let (e, s) := s.draw
      { s with tiers := { s.tiers with mem := s.tiers.mem.undefine (galTierA g).1 (galTierA g).2 e } }
    else s

/-- POWER_STATE_ENTRY (R469). -/
def execPowerStateEntry (g : Nat) (s : State) : Host.Outcome State Fault Refusal :=
  if galOk g then .next (if s.live then s.enterPower g else s) else .next s

/-- GALLERY_WAKE (R469). -/
def execGalleryWake (g : Nat) (s : State) : Host.Outcome State Fault Refusal :=
  if galOk g then .next (if s.live then s.rouse g else s) else .next s

/-! ### The power cap (R473, R474) -/

/-- A measurement of package power; `below` says since when it has stood below the cap − 50 W. -/
def State.measure (s : State) (watts : Nat) (galleries : List Nat) : State :=
  let below := if watts + 50 < s.powerCap then some (s.power.below.getD s.tclk) else none
  { s with power := { s.power with watts, byGal := galleries, below } }

/-- POWER_MEASURE (R473). -/
def execPowerMeasure (watts : Nat) (galleries : List Nat) (s : State) : Host.Outcome State Fault Refusal :=
  .next (if s.live then s.measure watts galleries else s)

/-- The step of a gallery at a stage of Table 15.9, and the last step of that stage. -/
def Gallery.rung (x : Gallery) (stage : Nat) : Nat := if stage = 1 then x.issue else if stage = 2 then x.demand else x.inject
def lastRung (stage : Nat) : Nat := if stage = 1 then 6 else 3

def Gallery.setRung (x : Gallery) (stage n : Nat) : Gallery :=
  if stage = 1 then { x with issue := n } else if stage = 2 then { x with demand := n } else { x with inject := n }

/-- The gallery with the highest measured power among some; ties go to the lower number. -/
def hottestOf (p : List Nat) : List Nat → Option Nat
  | [] => none
  | g :: r =>
    match hottestOf p r with
    | none => some g
    | some h => if p.getD g 0 < p.getD h 0 then some h else some g

/-- The gallery that the next rung of a stage applies to. -/
def State.rungFor (s : State) (stage : Nat) : Option Nat :=
  hottestOf s.power.byGal ((List.range 6).filter fun g => decide ((s.gal g).rung stage < lastRung stage))

/-- The next rung down: its stage and gallery. -/
def State.nextRung (s : State) : Option (Nat × Nat) :=
  match s.rungFor 1, s.rungFor 2, s.rungFor 3 with
  | some g, _, _ => some (1, g)
  | none, some g, _ => some (2, g)
  | none, none, some g => some (3, g)
  | none, none, none => none

/-- A record whose bytes the manual does not lay out: free bytes. -/
def State.openRecord (s : State) : List Byte × State :=
  let (e, s) := s.draw
  ((List.range 32).map fun i => Config.freeByte e i, s)

/-- A device event whose record the manual does not lay out (R473, R416, R322). -/
def State.openEvent (s : State) : State :=
  let (l, s) := s.openRecord
  s.deviceEvent l

/-- The ladder moves a rung down; with every rung applied it is held, and a measurement above the cap is a device event. -/
def State.ladderDown (s : State) : State :=
  match s.nextRung with
  | some (stage, g) =>
    let s := s.modGal g fun x => x.setRung stage (x.rung stage + 1)
    { s with power := { s.power with rungs := (stage, g) :: s.power.rungs } }
  | none => if s.powerCap < s.power.watts then s.openEvent else s

/-- The ladder moves one rung back up. -/
def State.ladderUp (s : State) : State :=
  match s.power.rungs with
  | [] => s
  | (stage, g) :: r =>
    let s := s.modGal g fun x => x.setRung stage (x.rung stage - 1)
    { s with power := { s.power with rungs := r, below := some s.tclk } }

/-- One step of the ladder, with the hottest die sensor in °C (R473). -/
def State.ladder (s : State) (hottest : Int) : State :=
  let hot := decide (105 ≤ hottest)
  let s := { s with power := { s.power with thermal := hot } }
  if hot ∨ s.powerCap < s.power.watts then s.ladderDown
  else if s.power.below.any fun t => decide (t + 1000000 ≤ s.tclk) then s.ladderUp
  else s

/-- LADDER_STEP (R473). -/
def execLadderStep (hottest : Int) (s : State) : Host.Outcome State Fault Refusal :=
  .next (if s.live then s.ladder hottest else s)

end Sys2Proof.Machine
end

