-- ==== Sys2Proof/Machine/Graphs.lean ====
section
/-! DEFINITION. The wait-for graph of R449 and R450: what waits on what, the record, and the notice. -/

namespace Sys2Proof.Machine

/-- A node of the graph (R450): kind, function, context, node, object, and for an operation its sq_seq. -/
structure WNode where
  kind : Nat
  f    : Nat
  ctx  : Nat
  node : Nat
  obj  : Nat
  seq  : Nat := 0
  deriving DecidableEq, Repr

/-- A wait: who waits, on what, and the kind of edge. -/
abbrev WEdge := WNode × WNode × Nat

def State.ctxOwner (s : State) (c : Nat) : Nat := (tget s.ctxs c).elim 0 (·.owner)

def State.opNode (s : State) (o : Op) : WNode := { kind := 1, f := o.job.f, ctx := o.job.ctx, node := s.node, obj := o.job.q, seq := o.job.seq.toNat }
def State.queueNode (s : State) (f q : Nat) : WNode := { kind := 2, f, ctx := (s.sq f q).elim 0 (·.ctx), node := s.node, obj := q }
def qpNode (q n : Nat) (x : Qp) : WNode := { kind := 3, f := x.f, ctx := x.ctx, node := n, obj := q }
def memberNode (gid : Nat) (g : Group) (j : Nat) : WNode := { kind := 5, f := g.f, ctx := g.ctx, node := g.members.getD j 0, obj := gid }
def State.withdrawNode (s : State) (c i : Nat) : WNode := { kind := 6, f := s.ctxOwner c, ctx := c, node := s.node, obj := i }
def State.planNode (s : State) (r : PlanRun) : WNode := { kind := 7, f := r.f, ctx := r.ctx, node := s.node, obj := r.plan }

/-- An engine: the TVE is unit 0, the fold units 1–4, the MEs 5 and 6; a TE is its port with unit 15 (DESIGN CHOICE, notes/assumptions/61.md). -/
def State.engineNode (s : State) (e : Engine) : WNode :=
  let obj := match e with
    | .tve c => c
    | .fu c u => c + 256 * (1 + u)
    | .me c m => c + 256 * (5 + m)
    | .te p => p + 256 * 15
  { kind := 8, f := 0, ctx := 0, node := s.node, obj }

/-! Counters and buffers that are awaited (R450, edge kinds 4 and 2) -/

/-- Whether a job signals a counter of a context. -/
def Job.signals (j : Job) (ctx counter : Nat) : Bool := j.ctx == ctx && bit (fld j.head 36 2) 15 && fld j.head 36 2 % 256 == counter

/-- Who waits on a counter waits on the operations in flight that signal it, and on the other plans that run with it bound to a slot. -/
def State.counterWaits (s : State) (me : WNode) (ctx counter : Nat) : List WEdge :=
  ((s.ops.filter fun o => o.job.signals ctx counter).map fun o => (me, s.opNode o, 4)) ++
  ((s.runs.filter fun r => r.started && r.ctx == ctx && r.slots.contains (some counter)).map fun r => (me, s.planNode r, 4)).filter fun e => e.2.1 != me

/-- An armed job waits on its trigger counter. -/
def State.armedWaits (s : State) (a : Armed) : List WEdge :=
  s.counterWaits { kind := 1, f := a.job.f, ctx := a.job.ctx, node := s.node, obj := a.job.q, seq := a.job.seq.toNat } a.job.ctx a.job.trigCounter

/-- The buffer of a VC at a port. -/
def State.bufNode (s : State) (p vc : Nat) : WNode := { kind := 4, f := 0, ctx := 0, node := s.node, obj := p % 16 + 16 * vc }

/-- A packet at the head of its pool waits on the buffers of the ports that it could leave by and has no credit for; one of the node's own stands
for its QP. -/
def State.creditWaits (s : State) : List WEdge :=
  ((List.range 17).flatMap fun p => (s.inputOf p).map fun w => (p, w)).flatMap fun x =>
    let k := s.atInter x.2.pkt
    let e := (s.slot k.epoch).entry (if k.phase = 1 then k.inter else k.dst)
    let from_ := if x.1 < 16 then [s.bufNode x.1 k.vc] else
        (s.qps.filter fun q => q.2.ends.any fun n => n.1 == k.dst && n.2.remoteQp == k.qp).map fun q => qpNode q.1 k.dst q.2
    if x.2.headAt.isNone then []
    else from_.flatMap fun me => ((s.livePorts e).filter fun p => !s.hasCredit p k).map fun p => (me, s.bufNode p k.vc, 2)

/-- What an operation waits on. -/
def State.opWaits (s : State) (o : Op) : List WEdge :=
  let me := s.opNode o
  (s.queueNode o.job.f o.job.q, me, 1) ::
  match o.kind with
  | .plan r => (s.runs.filter fun x => x.id == r).map fun x => (me, s.planNode x, 1)
  | .coll gid => (tget s.groups gid).elim [] fun g => [(me, memberNode gid g g.me, 1)]
  | .send | .recv _ _ => []
  | _ => (tget s.qps o.qp).elim [] fun x => [(me, qpNode o.qp o.node x, 1)]

/-- What a plan waits on: the engines of its gang, and the MEs that run its channels. -/
def State.planWaits (s : State) (r : PlanRun) : List WEdge :=
  let me := s.planNode r
  if !r.started then r.gang.map fun c => (me, s.engineNode (.tve c), 5)
  else
    ((r.members.filter fun m => !m.ended).map fun m => (me, s.engineNode (.tve m.cluster), 1)) ++
    (((s.channelsOf r.id).filter s.chanBusy).map fun k => (me, s.engineNode (.me (k / 32) (k / 16 % 2)), 1)) ++
    r.members.flatMap fun m => (m.waiting.bind fun w => (r.slots.getD w.1 none)).elim [] fun c => s.counterWaits me r.ctx c

/-- What a member of a group waits on: the members that it has not heard from, and the fold units that hold its chunks. -/
def State.collWaits (s : State) (gid : Nat) (g : Group) : List WEdge :=
  let me := memberNode gid g g.me
  match g.cur with
  | none => []
  | some c =>
    ((g.children.filter fun j => !(g.round c.seq).done.contains j).map fun j => (me, memberNode gid g j, 1)) ++
    ((g.nbrs.filter fun n => !n.out.isEmpty && n.credits g.slots == 0).map fun n => (me, memberNode gid g n.idx, 2)) ++
    c.folds.flatMap fun f => f.units.map fun u => (me, s.engineNode (.fu f.cluster u), 1)

/-- What a withdrawal waits on. -/
def State.withdrawWaits (s : State) (c i : Nat) : List WEdge :=
  let plan := fun (o : Op) => s.runs.any fun x => x.op == o.id && x.refs.any fun r => r.ctx == c && r.seg == i
  (s.ops.filter fun o => plan o || o.refs.any fun r => r.ctx == c && r.seg == i).map fun o => (s.withdrawNode c i, s.opNode o, 3)

/-- Packets that wait in a siding for a context. -/
def State.fetchWaits (s : State) : List WEdge :=
  s.sidings.flatMap fun d => d.2.pkts.filterMap fun a =>
    (tget s.qps a.pkt.qp).map fun x => (s.bufNode a.port a.pkt.vc, qpNode a.pkt.qp a.pkt.src x, 6)

/-- Every wait of the node. -/
def State.waits (s : State) : List WEdge :=
  s.ops.flatMap s.opWaits ++ s.runs.flatMap s.planWaits ++ s.groups.flatMap (fun e => s.collWaits e.1 e.2) ++
  s.ctxs.flatMap (fun c => c.2.segs.flatMap fun g => if g.2.state = .withdrawing then s.withdrawWaits c.1 g.1 else []) ++ s.fetchWaits ++
  s.armed.flatMap s.armedWaits ++ s.creditWaits

/-- The nodes that a list does not hold yet, put behind it. -/
def addNodes (l : List WNode) (new : List WNode) : List WNode := new.foldl (fun a x => if a.contains x then a else a ++ [x]) l

/-- Breadth first from the nodes found so far: the waits of node i, and those on it. -/
def spread (es : List WEdge) : Nat → Nat → List WNode → List WNode
  | 0, _, l => l
  | fuel + 1, i, l =>
    match l[i]? with
    | none => l
    | some x => spread es fuel (i + 1) (addNodes l (es.filterMap fun e => if e.1 = x then some e.2.1 else if e.2.1 = x then some e.1 else none))

/-- Edges left when those that cannot lie on a cycle are taken away. -/
def cyclic : Nat → List WEdge → List WEdge
  | 0, es => es
  | n + 1, es => cyclic n (es.filter fun e => (es.any fun x => x.1 == e.2.1) && es.any fun x => x.2.1 == e.1)

/-- When what a node stands for last made progress (R450; which event counts as that, notes/assumptions/61.md). An operation has a sequence number
in its place. -/
def State.movedLast (s : State) (x : WNode) : Nat :=
  let latest := fun (l : List Nat) => l.foldl Nat.max 0
  match x.kind with
  | 2 => (s.sq x.f x.obj).elim 0 (·.moved)
  | 3 => (s.endpoint x.obj x.node).elim 0 (·.moved)
  | 4 => latest ((s.inputOf (x.obj % 16)).map fun w => w.headAt.getD 0)
  | 5 => (tget s.groups x.obj).elim 0 fun g =>
      if g.members.getD g.me 0 = x.node then latest (g.cur.elim 0 (·.startAt) :: g.nbrs.map (·.moved)) else latest ((g.nbrs.filter fun n => n.node == x.node).map (·.moved))
  | 6 => (s.segment x.ctx x.obj).askedAt
  | 7 => latest ((s.runs.filter fun r => r.plan == x.obj && r.ctx == x.ctx).flatMap fun r => r.startAt :: r.at_ :: r.members.map (·.moved))
  | _ =>
    let c := x.obj % 256
    let u := x.obj / 256
    if u = 0 then latest (s.runs.flatMap fun r => (r.members.filter fun m => m.cluster == c).map fun m => Nat.max r.startAt m.moved)
    else if u ≤ 4 then latest (s.groups.flatMap fun g => g.2.cur.elim [] fun y => (y.folds.filter fun f => f.cluster == c && f.units.contains (u - 1)).map (·.moved))
    else if u ≤ 6 then (tgetD s.mes (c * 2 + (u - 5)) {}).lastMove
    else (s.port c).movedAt

/-- A wait-for graph record (R450). -/
def State.graph (s : State) (trigger : Nat) (root : WNode) (guilty : List (Nat × Nat)) : List Byte :=
  let es := s.waits
  let all := spread es 168 0 [root]
  let nodes := all.take 168
  let kept := (es.filter fun x => nodes.contains x.1 && nodes.contains x.2.1).take 336
  let loops := cyclic 168 kept
  let bad := fun (x : WNode) => guilty.contains (x.f, x.ctx)
  let flags := fun (x : WNode) => ofBool (loops.any fun y => y.1 == x || y.2.1 == x) + 2 * ofBool (x == root) + 8 * ofBool (bad x)
  let index := fun (x : WNode) => nodes.findIdx (· == x)
  let entry := fun (x : WNode) =>
    leBytes 1 x.kind ++ leBytes 1 (flags x) ++ leBytes 2 x.f ++ leBytes 2 x.ctx ++ leBytes 2 x.node ++ leBytes 1 0 ++ leBytes 3 x.obj ++
    leBytes 4 (if x.kind = 1 then x.seq else Nat.min 0xFFFFFFFF ((s.tclk - s.movedLast x) / 1000))
  let head := leBytes 1 0x74 ++ leBytes 1 1 ++ leBytes 1 trigger ++
    leBytes 1 (ofBool (!loops.isEmpty) + 2 * ofBool (decide (168 < all.length)) + 4 * ofBool (!guilty.isEmpty)) ++
    leBytes 2 nodes.length ++ leBytes 2 kept.length ++ leBytes 8 (s.boot.running.elim 0 fun b => b.id.toNat) ++ leBytes 8 s.time ++
    leBytes 8 s.recov.graphSeq
  let table := nodes.flatMap entry
  let edges := kept.flatMap fun x => leBytes 1 (index x.1) ++ leBytes 1 (index x.2.1) ++ leBytes 1 x.2.2 ++ leBytes 1 0
  slice head 0 64 ++ slice table 0 2688 ++ slice edges 0 1344

/-- A graph assembled, kept among the last 16, and its notice written to PF0's error queue. -/
def State.keepGraph (s : State) (trigger : Nat) (root : WNode) (guilty : List (Nat × Nat) := []) : State :=
  let l := s.graph trigger root guilty
  (s.modRecov fun r => { r with graphs := (l :: r.graphs).take 16, graphSeq := r.graphSeq + 1 }).record 0 (slice l 0 32)

/-- A node entry as a tenant sees it: one of another function is masked (R451). -/
def maskEntry (f : Nat) (l : List Byte) : List Byte :=
  if fld l 0 1 = 0 ∨ fld l 2 2 = f then l
  else slice l 0 1 ++ leBytes 1 (fld l 1 1 % 4 + 4 + fld l 1 1 / 8 * 8) ++ List.replicate 14 0

/-- A graph as a function receives it. -/
def graphFor (f : Nat) (l : List Byte) : List Byte :=
  if f = 0 then l
  else slice l 0 64 ++ ((List.range 168).flatMap fun i => if i < fld l 4 2 then maskEntry f (slice l (64 + 16 * i) 16) else slice l (64 + 16 * i) 16) ++
    slice l 2752 1344

end Sys2Proof.Machine
end

