-- ==== Sys2Proof/Machine/Peers.lean ====
section
/-! DEFINITION. The registration and probing of peers on HP0 (R155, R156, R383). -/

namespace Sys2Proof.Machine

def State.peer (s : State) (n : Nat) : Peer := tgetD s.peers n {}
def State.modPeer (s : State) (n : Nat) (g : Peer → Peer) : State := { s with peers := tmodD s.peers n {} g }

/-- A probe begins. -/
def State.probe (s : State) (n : Nat) : State := s.modPeer n fun x => { x with probing := true, issued := 0, nextAt := s.tclk }

/-- A write of the second word of HUB_PEERn: size, valid and probe. -/
def State.peerWrite (s : State) (n v : Nat) : State :=
  let x := s.peer n
  let o := 0x010200 + 16 * n
  if bit v 32 && !x.valid then
    let size := v % 2 ^ 32 * 4096
    if s.peers.any fun e => e.1 != n && e.2.valid && overlaps (s.peerBase e.1) (s.peerSize e.1) (s.peerBase n) size then s
    else ((s.setWord 0 (o + 8) (v % 2 ^ 32)).modPeer n fun _ => { valid := true }).probe n
  else if x.valid && !bit v 32 then s.modPeer n fun _ => {}
  else if x.valid then (if bit v 33 then s.probe n else s)
  else s.setWord 0 (o + 8) (v % 2 ^ 32)

/-- PEER_REGISTER (R383). -/
def execPeerRegister (n : Nat) (word : W64) (s : State) : Host.Outcome State Fault Refusal :=
  if n ≤ 31 then .next (if s.served then s.peerWrite n word.toNat else s) else .next s

/-- PEER_UNREGISTER (R383). -/
def execPeerUnregister (n : Nat) (word : W64) (s : State) : Host.Outcome State Fault Refusal :=
  if n ≤ 31 then .next (if s.served then s.peerWrite n word.toNat else s) else .next s

/-- PEER_PROBE_REQUEST (R383). -/
def execPeerProbeRequest (n : Nat) (word : W64) (s : State) : Host.Outcome State Fault Refusal :=
  if n ≤ 31 then .next (if s.served then s.peerWrite n word.toNat else s) else .next s

/-- The next of a probe's 16 reads. -/
def State.probeRead (s : State) (n : Nat) : State :=
  let x := s.peer n
  if x.probing && decide (x.issued < 16) && decide (x.nextAt ≤ s.tclk) then
    s.modPeer n fun y => { y with issued := y.issued + 1, nextAt := s.tclk + 1000 }
  else s

/-- PEER_PROBE_READ (R155). -/
def execPeerProbeRead (n : Nat) (s : State) : Host.Outcome State Fault Refusal :=
  if n ≤ 31 then .next (if s.live then s.probeRead n else s) else .next s

/-- The median of 16 round trips in ns. -/
def median16 (l : List Nat) : Nat :=
  let l := sortNat l
  (l.getD 7 0 + l.getD 8 0) / 2

/-- A probe ends: reachable if all 16 reads completed within 50 µs. The median is a free value where some read did not return. -/
def State.probeEnd (s : State) (n : Nat) (rtts : List (Option Nat)) : State :=
  let x := s.peer n
  if x.probing && x.issued == 16 then
    let back := rtts.filterMap id
    let ok := decide (rtts.length = 16) && rtts.all fun r => r.any fun t => decide (t ≤ 50000)
    let r : State × Nat := if back.length = 16 then (s, Nat.min 0xFFFF (median16 back / 10)) else
      let d := s.draw
      (d.2, Config.freeNat d.1 % 65536)
    r.1.modPeer n fun y => { y with probing := false, state := if ok then 1 else 2, rtt := r.2 }
  else s

/-- PEER_PROBE_DONE (R156). -/
def execPeerProbeDone (n : Nat) (rtts : List (Option Nat)) (s : State) : Host.Outcome State Fault Refusal :=
  if n ≤ 31 then .next (if s.live then s.probeEnd n rtts else s) else .next s

end Sys2Proof.Machine
end

