-- ==== Sys2Proof/Machine/Fences.lean ====
section
/-! DEFINITION. Fences and resets of ports, clusters and galleries, the retirement of a cluster, hangs, and the replay that finds the
guilty context (R444–R453, R463). -/

namespace Sys2Proof.Machine

/-! ### The three phases of a fence (R445) -/

/-- Clusters of a reset domain. -/
def domClusters : Domain → List Nat
  | .cluster c => [c]
  | .gallery g => clustersIn g
  | .package => List.range 48
  | _ => []

/-- Operations of a function that a reset ends with DEV_FENCED are counted (Table 12.19). -/
def State.countFenced (s : State) (d : Domain) : State :=
  match d with
  | .function f => s.modFn f fun x => { x with fenced := x.fenced + 1 }
  | _ => s

/-- A job completes with DEV_FENCED. -/
def State.fenceJob (s : State) (d : Domain) (j : Job) : State := (s.countFenced d).completeJob j { status := .devFenced } 0

/-- Whether a channel's runs are work of a domain. -/
def State.chanIn (s : State) (d : Domain) (key : Nat) : Bool :=
  match d with
  | .function f => (tget s.channels key).any fun c => s.chanFn c == f
  | .cluster c => key / 32 == c
  | .gallery g => key / 256 == g
  | .package => true
  | .port _ => false

/-- The ready runs of an entry of an ME's list completed with DEV_FENCED. -/
def State.fenceRuns (s : State) (r : MeRun) : State :=
  (List.range r.n).foldl (fun s i => match tget s.channels r.chan with
    | some c => s.runEnded r.chan c (r.k + i) .devFenced 0 0 false
    | none => s) s

/-- Whether an armed job is refused with a domain: at a function-level reset, which alone removes a job that has not fired (R141), or with the
package. At any other fence it stays armed, and completes with DEV_FENCED if it fires meanwhile (notes/assumptions/83.md). -/
def State.armedIn (s : State) (d : Domain) (j : Job) : Bool :=
  match d with
  | .function _ => s.jobIn d j
  | .package => true
  | _ => false

/-- Phase 1: fetched jobs not yet dispatched, armed jobs and ready channel runs complete with DEV_FENCED. The places that they leave in the
trigger table are taken by jobs that waited for one (R140). -/
def State.refuseWork (s : State) (d : Domain) : State :=
  let fetched := s.sqs.flatMap fun e => e.2.fetched.filter (s.jobIn d)
  let armed := (s.armed.map (·.job)).filter (s.armedIn d)
  let ready := s.mes.flatMap fun e => e.2.ready.filter fun r => r.serves.isNone && s.chanIn d r.chan
  let t := { s with
    sqs := s.sqs.map fun (e : Nat × Sq) => (e.1, { e.2 with fetched := e.2.fetched.filter fun j => !s.jobIn d j })
    armed := s.armed.filter fun a => !s.armedIn d a.job
    mes := s.mes.map fun (e : Nat × MeUnit) => (e.1, { e.2 with ready := e.2.ready.filter fun r => r.serves.isSome || !s.chanIn d r.chan }) }
  let t := (fetched ++ armed).foldl (fun (s : State) j => s.fenceJob d j) t
  (ready.foldl (fun (s : State) r => s.fenceRuns r) t).armHeld

/-- A frame of an operation. -/
def TxFrame.isRaw (id : Nat) (x : TxFrame) : Bool :=
  match x.kind with
  | .raw n => n == id
  | _ => false

/-- A flag that reports an operation. -/
def PendingFlag.reports (id : Nat) (p : PendingFlag) : Bool :=
  match p.flag with
  | .job (some n) _ _ => n == id
  | _ => false

/-- An operation taken out of the QP, the raw queues, the MEs and the flags. -/
def State.leaveOp (s : State) (o : Op) : State :=
    let id := o.id
    let s := s.modEnd o.qp o.node fun e => e.forget id
    let s := { s with
      flags := s.flags.filter fun p => !p.reports id
      mes := s.mes.map fun (e : Nat × MeUnit) => (e.1, { e.2 with
        ready := e.2.ready.filter fun r => r.serves != some id
        running := e.2.running.filter fun r => r.serves != some id })
      ports := s.ports.map fun (e : Nat × Port) => (e.1, { e.2 with subs := e.2.subs.map fun (x : Nat × SubPort) => (x.1, { x.2 with queue := x.2.queue.filter fun t => !t.isRaw id }) }) }
    (s.modSq o.job.f o.job.q fun x => { x with recvs := x.recvs.filter (· != id) }).dropOp id

/-- What is left of an operation ended by a fence: its job is reported. -/
def State.fenceOp (s : State) (d : Domain) (id : Nat) : State :=
  match s.op id with
  | none => s
  | some o => (s.leaveOp o).fenceJob d o.job

/-- A fold of a collective stands on one of some clusters. -/
def State.foldsOn (s : State) (gid : Nat) (l : List Nat) : Bool :=
  ((tget s.groups gid).bind (·.cur)).any fun c => c.folds.any fun f => l.contains f.cluster

/-- Whether an operation is outstanding work of a domain, not held for a replay. -/
def State.opIn (s : State) (d : Domain) (o : Op) : Bool :=
  match o.kind with
  | .plan r => s.jobIn d o.job && (d == .package || !s.runHeld r)
  | .coll gid => (match d with
    | .function _ => s.jobIn d o.job
    | .package => true
    | _ => s.foldsOn gid (domClusters d))
  | _ => s.jobIn d o.job && (d == .package || !s.opHeld o.id)

/-- An operation ends in phase 3: a plan is stopped, a member reports FAULT. -/
def State.answerOp (s : State) (d : Domain) (o : Op) : State :=
  let s := match o.kind with
    | .plan r => (match s.run r with
      | some r => s.endRun r { status := .devFenced }
      | none => s)
    | .coll gid => s.collFault gid .devFenced
    | _ => s
  if (s.op o.id).isNone then s.countFenced d else s.fenceOp d o.id

/-- Admin commands of a function that wait (R78, R237, R51). -/
def State.waitingTickets (s : State) (f : Nat) : List Job :=
  (s.ctxs.flatMap fun c => c.2.segs.filterMap fun g => g.2.ticket.filter fun j => j.f == f) ++
  (s.groups.filterMap fun e => e.2.ticket.filter fun j => j.f == f && e.2.state = .forming) ++
  (s.gals.filterMap fun e => (e.2.hold.map (·.2)).filter fun j => j.f == f)

/-- They complete with DEV_FENCED. -/
def State.fenceTickets (s : State) (f : Nat) : State :=
  let l := s.waitingTickets f
  let t := { s with
    ctxs := s.ctxs.map fun (c : Nat × Context) => (c.1, { c.2 with segs := c.2.segs.map fun g => (g.1, { g.2 with ticket := g.2.ticket.filter fun j => j.f != f }) })
    groups := s.groups.map fun (e : Nat × Group) => (e.1, { e.2 with ticket := e.2.ticket.filter fun j => j.f != f })
    gals := s.gals.map fun (e : Nat × Gallery) => (e.1, if e.2.hold.any fun h => h.2.f == f then e.2.endHold false else e.2) }
  l.foldl (fun (s : State) j => s.fenceJob (.function f) j) t

/-- Frames queued at a port discarded. -/
def State.dropFrames (s : State) (p : Nat) : State :=
  s.modPort p fun x => { x with subs := x.subs.map fun e => (e.1, { e.2 with queue := [], ctrl := [] }) }

/-- Every function's waiting commands answered, and the ME runs held for a replay, with the package. -/
def State.fenceAll (s : State) : State :=
  let held := s.recov.replays.flatMap (·.runs)
  let s := held.foldl (fun (s : State) r => s.fenceRuns r) s
  { ((s.fns.map (·.1)).foldl (fun (s : State) f => s.fenceTickets f) s) with flags := [] }

/-- ME runs under way in a domain without a plan to end them. -/
def State.stopMes (s : State) (d : Domain) : State :=
  { s with mes := s.mes.map fun (e : Nat × MeUnit) => (e.1, { e.2 with running := e.2.running.filter fun r => !s.chanIn d r.chan }) }

/-- Phase 3: what is still outstanding completes with DEV_FENCED, and its references are released. -/
def State.answerWork (s : State) (d : Domain) : State :=
  let ops := s.ops.filter (s.opIn d)
  let s := ops.foldl (fun (s : State) o => s.answerOp d o) s
  match d with
  | .function f => { (s.fenceTickets f) with flags := s.flags.filter fun p => p.f != f }
  | .port p => s.dropFrames p
  | .package => s.fenceAll
  | _ => (s.stopMes d).advanceAll

/-! ### Domains that contain one another (R447) -/

/-- Whether the first domain contains the second. -/
def domHolds (d e : Domain) : Bool :=
  d == e || match d, e with
    | .gallery g, .cluster c => c / 8 == g
    | .package, _ => true
    | _, _ => false

/-- Whether a domain lies inside one already resetting. -/
def State.resetting (s : State) (d : Domain) : Bool := s.recov.fences.any fun x => domHolds x.domain d

/-- The requested reset, if any, reported in HUB_RESET_CTRL and by PF0 vector 3 (R446). -/
def State.endRequest (s : State) (d : Domain) (result : Nat) : State :=
  if s.recov.request = some d then (s.modRecov fun r => { r with busy := false, request := none, result }).interrupt 0 3 else s

/-- A fence over a domain: those inside it are absorbed, a retirement among them to be made up for when the reset ends, and phase 1 is carried out. -/
def State.beginFence (s : State) (d : Domain) (retire : Option Nat := none) : State :=
  let inside := s.recov.fences.filter fun x => domHolds d x.domain
  let late := inside.flatMap fun x => (domClusters x.domain).filterMap fun c => x.retire.map fun n => (c, n)
  let s := s.modRecov fun r => { r with
    fences := r.fences.filter (fun x => !domHolds d x.domain) ++ [{ domain := d, drainBy := s.tclk + 1000000, retire }]
    retires := r.retires ++ late }
  let s := inside.foldl (fun (s : State) x => s.endRequest x.domain 2) s
  s.refuseWork d

/-- Resets of a cluster within the last 10 minutes (R448). -/
def Cluster.recent (x : Cluster) (now : Nat) : List Nat := x.resets.filter fun t => decide (now ≤ t + 600000000000)

/-- The reset of a port, a cluster or a gallery begins. A cluster reset counts towards escalation (R447, R448). -/
def State.beginReset (s : State) (d : Domain) : State :=
  let s := match d with
    | .cluster c => s.modCluster c fun x => { x with resets := s.tclk :: x.recent s.tclk }
    | _ => s
  s.beginFence d

/-- Whether the target of HUB_RESET_CTRL is present. -/
def State.targetOk (s : State) (d : Domain) : Bool :=
  match d with
  | .cluster c => s.present c
  | .gallery g => galOk g
  | .port p => portOk p
  | .function f => fnOk f
  | .package => true

/-- A write of HUB_RESET_CTRL: a target that is absent or out of range is refused with ARGUMENT (R446). -/
def State.requestReset (s : State) (d : Domain) : State :=
  if !s.served || s.recov.busy then s
  else if !s.targetOk d then (s.modRecov fun r => { r with result := 1 }).interrupt 0 3
  else if s.resetting d then (s.modRecov fun r => { r with result := 2 }).interrupt 0 3
  else (s.modRecov fun r => { r with busy := true, request := some d }).beginReset d

/-- PORT_RESET (R446). -/
def execPortReset (p : Nat) (s : State) : Host.Outcome State Fault Refusal :=
  if p ≤ 63 then .next (s.requestReset (.port p)) else .next s

/-- CLUSTER_RESET (R446). -/
def execClusterReset (cluster : Nat) (s : State) : Host.Outcome State Fault Refusal :=
  if cluster ≤ 63 then .next (s.requestReset (.cluster cluster)) else .next s

/-- GALLERY_RESET (R446). -/
def execGalleryReset (g : Nat) (s : State) : Host.Outcome State Fault Refusal :=
  if g ≤ 63 then .next (s.requestReset (.gallery g)) else .next s

/-- MEMORY_PORT_FAILURE (R444). -/
def execMemoryPortFailure (g : Nat) (s : State) : Host.Outcome State Fault Refusal :=
  if galOk g then .next (if s.live && !s.resetting (.gallery g) then s.beginReset (.gallery g) else s) else .next s

/-- Whether nothing of a domain is outstanding. -/
def State.quietDomain (s : State) (d : Domain) : Bool :=
  !s.ops.any (s.opIn d) &&
  match d with
  | .function f => (s.waitingTickets f).isEmpty && s.flags.all fun p => p.f != f
  | .port p => (s.port p).subs.all fun e => e.2.queue.isEmpty && e.2.ctrl.isEmpty
  | .package => s.flags.isEmpty && s.fns.all (fun e => (s.waitingTickets e.1).isEmpty) && (List.range 48).all fun c => !s.meRunning c && !s.foldOn c
  | _ => (domClusters d).all fun c => !s.meRunning c && !s.foldOn c

/-! ### Retiring a cluster (R463, R29, R31, R321, R322) -/

/-- The slice of a logical cluster, as base and length. -/
def sliceOf (c : Nat) : Nat × Nat := (c * 0x1800000, 0x1800000)

/-- Segments that cover any byte of a lost slice are marked (R321). -/
def State.markLost (s : State) (c : Nat) : State :=
  let mark := fun (g : Segment) => if g.covers (sliceOf c) then { g with lost := sliceOf c :: g.lost } else g
  let ctxs : Tab Context := s.ctxs.map fun e => (e.1, { e.2 with segs := e.2.segs.map fun g => (g.1, mark g.2) })
  { s with ctxs }

/-- A slice whose every line reads as written with zeros. -/
def State.zeroSlice (s : State) (c : Nat) : State :=
  let t := s.tiers.clean fun a => decide ((sliceOf c).1 ≤ a ∧ a < (sliceOf c).1 + (sliceOf c).2)
  { s with tiers := { t with mem := t.mem.clear (sliceOf c).1 (sliceOf c).2 } }

/-- The next present cluster of the same gallery, in ascending order and wrapping within it; in a gallery with none, the lowest present
cluster of the device. -/
def State.nextPresent (s : State) (c : Nat) : Nat :=
  let same := ((List.range 7).map fun i => c / 8 * 8 + (c % 8 + 1 + i) % 8).find? s.present
  same.getD (((List.range 48).find? s.present).getD c)

/-- A logical number becomes absent: QP homes move, and groups go on without it (R31, R20, R463). -/
def State.leaveCluster (s : State) (c : Nat) : State :=
  let to_ := s.nextPresent c
  let s := { s with clusters := tdel s.clusters c, qps := s.qps.map fun (e : Nat × Qp) => (e.1, if e.2.home = c then { e.2 with home := to_ } else e.2) }
  let mine := (s.groups.filter fun e => e.2.serving.contains c).map (·.1)
  mine.foldl (fun (s : State) gid =>
    let s := s.modGroup gid fun g => { g with serving := g.serving.filter (· != c) }
    match tget s.groups gid with
    | some g => if g.serving.length < g.sizes.length then s.groupLost gid g.me else s
    | none => s) s

/-- Steps 2 to 4 of R463. -/
def State.switchCluster (s : State) (c cause : Nat) : State :=
  let g := c / 8
  let x := s.gal g
  match x.phys.getD (c % 8) none with
  | none => s
  | some old =>
    let s := s.markLost c
    let fwLost := x.fwLost || x.fwHome == some c
    let s := match x.spare with
      | some sp =>
        let u := s.nor.unitsOf g sp
        let s := s.modGal g fun y => { y with phys := y.phys.set (c % 8) (some sp), spare := none, fwLost }
        (State.zeroSlice { s with
          clusters := tset s.clusters c { unitMap := u.1, spareFu := u.2 }, scrubs := tset s.scrubs c (s.nor.sliceScrub g sp) } c)
      | none => (s.modGal g fun y => { y with phys := y.phys.set (c % 8) none, fwLost }).leaveCluster c
    (s.repair 0x01 cause [g, old]).advanceAll

/-- The fence of a retirement is over: the cluster is replaced, and dispatch resumes (R463). -/
def State.retireEnd (s : State) (c cause : Nat) : State :=
  let s := (s.answerWork (.cluster c)).modRecov fun r => { r with fences := r.fences.filter fun x => x.domain != .cluster c }
  (s.switchCluster c cause).checkStop

/-- A cluster is to be retired: it is fenced, and replaced once the drain ends. While a reset covers it, that reset ends first (R463;
notes/assumptions/62.md). -/
def State.retire (s : State) (c cause : Nat) : State :=
  if !s.present c || (s.recov.retires.any fun x => x.1 == c) || (s.recov.fences.any fun x => x.domain == .cluster c && x.retire.isSome) then s
  else if s.resetting (.cluster c) then s.modRecov fun r => { r with retires := r.retires ++ [(c, cause)] }
  else
    let s := s.beginFence (.cluster c) (some cause)
    if s.quietDomain (.cluster c) then s.retireEnd c cause else s

/-! ### The fence of the package (R442, R445) -/

/-- The package's fence is over: what was left is answered, and the reset follows. -/
def State.packageEnd (s : State) : State :=
  match s.recov.after with
  | none => s
  | some (why, p) =>
    let s := s.answerWork .package
    if why = 1 then ((s.failedStart 9 7 p 0).packageReset true).bootEvent 9 7 p 0
    else if why = 2 then ((s.failedStart 8 5 p 0).packageReset true).bootEvent 8 5 p 0
    else s.packageReset true

/-- A package reset, which a fence over the whole package precedes; where nothing is outstanding it follows at once. -/
def State.fencePackage (s : State) (why p : Nat) : State :=
  if s.recov.after.isSome then s
  else
    let s := (s.modRecov fun r => { r with after := some (why, p) }).beginFence .package
    if s.quietDomain .package then s.packageEnd else s

/-- The end of a fence's drain: its time is over, or nothing is left. -/
def State.drainEnd (s : State) (d : Domain) : State :=
  match s.recov.fences.find? fun x => x.domain == d && !x.ended with
  | none => s
  | some x =>
    if s.tclk < x.drainBy ∧ !s.quietDomain d then s
    else match d, x.retire with
      | .package, _ => s.packageEnd
      | .cluster c, some cause => s.retireEnd c cause
      | _, _ => (s.answerWork d).modRecov fun r => { r with fences := updAll (fun x => x.domain == d) (fun x => { x with ended := true }) r.fences }

/-- FENCE_DRAIN_END (R445). -/
def execFenceDrainEnd (domain : Domain) (s : State) : Host.Outcome State Fault Refusal :=
  if domain.ok then .next (if s.live then s.drainEnd domain else s) else .next s

/-- A flit replayed; sixteen replays of one flit in succession are a package fault (R42, R43). -/
def State.replayFlit (s : State) (link dir : Nat) (again : Bool) : State :=
  let n := if again then tgetD s.links.replays (link * 2 + dir) 0 + 1 else 1
  let replays : Tab Nat := tset s.links.replays (link * 2 + dir) n
  let s := { s with links := { replays } }
  let s := s.count 0x04 link 2 1
  if 16 ≤ n then s.fencePackage 0 0 else s

/-- FLIT_REPLAY (R42). -/
def execFlitReplay (link dir : Nat) (again : Bool) (s : State) : Host.Outcome State Fault Refusal :=
  if link ≤ 2 ∧ dir ≤ 1 then .next (if s.live then s.replayFlit link dir again else s) else .next s

/-! ### The end of a reset (R444, R446) -/

/-- What a sub-port keeps through a port reset: the gate schedule that its registers show (R359, R444, R500). -/
def SubPort.cleared (x : SubPort) : SubPort :=
  { gateBase := x.gateBase, gateCycle := x.gateCycle, nextCycle := x.nextCycle, pending := x.pending, commitAt := x.commitAt, bank := x.bank,
    entry := x.entry, gateOn := x.gateOn, gates := x.gates, cycleAt := x.cycleAt, entryEnd := x.entryEnd }

/-- A port's MAC, PCS, FEC and lane training state and its counters cleared (R362, R481); the link is down until it has trained again. -/
def State.clearPort (s : State) (p : Nat) : State :=
  let s := s.allDown p
  let mine := fun (id : Nat) => (id / 2 ^ 24 == 5 || id / 2 ^ 24 == 9) && id / 2 ^ 12 % 2 ^ 12 == p
  let s := { s with counters := s.counters.filter fun e => !mine e.1 }
  s.modPort p fun x => { x with subs := x.subs.map fun e => (e.1, e.2.cleared), lldpIn := [], xoff := [], parked := false, waking := none, parkSeen := false, parkSent := false }

/-- The engines of a cluster cleared: what a fence left of ME runs, accumulator files and tiles (R444, Table 14.11). -/
def State.clearCluster (s : State) (c : Nat) : State :=
  let groups : Tab Group := s.groups.map fun e =>
    (e.1, { e.2 with cur := e.2.cur.map fun x => { x with folds := x.folds.filter fun f => f.cluster != c } })
  let runs := s.runs.map fun r => { r with members := r.members.map fun m => if m.cluster = c then { m with tiles := [] } else m }
  State.modCluster { s with
    groups, runs
    mes := s.mes.map fun (e : Nat × MeUnit) => (e.1, if e.1 / 2 = c then { e.2 with running := none, lastMove := s.tclk } else e.2) } c
    fun x => { x with accs := [] }

def State.clearDomain (s : State) (d : Domain) : State :=
  match d with
  | .port p => s.clearPort p
  | _ => (domClusters d).foldl (fun (s : State) c => s.clearCluster c) s

/-- The retirements that waited for a reset of their cluster. -/
def State.retireLate (s : State) (d : Domain) : State :=
  let mine := s.recov.retires.filter fun x => (domClusters d).contains x.1
  let s := s.modRecov fun r => { r with retires := r.retires.filter fun x => !(domClusters d).contains x.1 }
  mine.foldl (fun (s : State) x => if s.present x.1 then s.switchCluster x.1 x.2 else s) s

/-- A reset completes. A cluster reset for the third time within 10 minutes is retired (R448); suspects of a hang are now replayed (R453). -/
def State.resetDone (s : State) (d : Domain) : State :=
  match s.recov.fences.find? fun x => x.domain == d && x.ended with
  | none => s
  | some _ =>
    let s := s.modRecov fun r => { r with
      fences := r.fences.filter fun x => x.domain != d
      replays := updAll (fun x => (domClusters d).contains x.cluster) (fun x => { x with ready := true, startAt := s.tclk }) r.replays }
    let s := s.clearDomain d
    let s := match d with
      | .cluster c =>
        if 3 ≤ ((s.cluster c).recent s.tclk).length && !s.replaying c then
          (s.modRecov fun r => { r with retires := r.retires.filter fun x => x.1 != c }).switchCluster c 3
        else s.retireLate d
      | _ => s.retireLate d
    ((s.endRequest d 0).advanceAll).checkStop

/-- DOMAIN_RESET_COMPLETE (R446). -/
def execDomainResetComplete (domain : Domain) (s : State) : Host.Outcome State Fault Refusal :=
  if domain.ok then
    .next (match domain with
      | .function _ => s
      | .package => s
      | _ => if s.live then s.resetDone domain else s)
  else .next s

/-! ### Hangs (R449) and the replay of suspects (R453) -/

/-- A port holds a frame that was queued at a time and could go, then and now: its class is neither paused nor gated, and has its tokens. -/
def State.frameStuck (s : State) (p since : Nat) : Bool :=
  (List.range (s.subCount p)).any fun sub => (List.range 8).any fun c =>
    (s.headOf p sub c).any (fun f => decide (f.at_ ≤ since)) && s.eligible p sub c && State.eligible { s with tclk := since } p sub c

/-- The engine holds started work and has made no progress for hang_timeout. A TVE that waits on a counter or a boundary, and a fold unit
that waits for contributions, do not hang. -/
def State.hangs (s : State) (e : Engine) : Bool :=
  match e with
  | .tve c => s.runs.any fun r => r.started && !r.paused && r.failed.isNone && !s.runHeld r.id && r.members.any fun m =>
      m.cluster == c && !m.ended && !m.atBound && m.waiting.isNone && decide (Nat.max r.startAt m.moved + s.hangTimeout ≤ s.tclk)
  | .fu c u => s.groups.any fun g => g.2.cur.any fun x => x.folds.any fun f =>
      f.cluster == c && f.units.contains u && decide (g.2.sizes.getD f.level 1 ≤ f.got.length) && decide (f.moved + s.hangTimeout ≤ s.tclk)
  | .me c u => let m := tgetD s.mes (c * 2 + u) {}
      m.running.any (fun r => s.flags.all fun p => match p.flag with
        | .meRun k _ _ => k != r.chan
        | _ => true) && decide (m.lastMove + s.hangTimeout ≤ s.tclk)
  | .te p => decide ((s.port p).movedAt + s.hangTimeout ≤ s.tclk) && s.frameStuck p (s.tclk - s.hangTimeout)

/-- The function and context of a run: of its channel's plan, or of the SQE that it serves. -/
def State.runCtx (s : State) (r : MeRun) : Nat × Nat :=
  match tget s.channels r.chan with
  | some c => (s.chanFn c, c.ctx)
  | none => (r.serves.bind s.op).elim (0, 0) fun o => (o.job.f, o.job.ctx)

/-- Suspects in ascending order of function and then context, each once. -/
def sortSuspects (l : List (Nat × Nat)) : List (Nat × Nat) :=
  ((sortNat (l.map fun x => x.1 * 65536 + x.2)).foldl (fun a n => addNew n a) []).map fun n => (n / 65536, n % 65536)

/-- The suspects of a hang recorded, and their work held (R453 step 1). -/
def State.holdSuspects (s : State) (e : Engine) : State :=
  match e with
  | .tve c =>
    (match s.runs.find? fun r => r.started && r.failed.isNone && r.members.any fun m => m.cluster == c && !m.ended with
     | some r => s.modRecov fun x => { x with replays := x.replays ++ [{ cluster := c, todo := [(r.f, r.ctx)], plan := some r.id }] }
     | none => s)
  | .me c u =>
    let m := tgetD s.mes (c * 2 + u) {}
    let runs := m.running.toList ++ m.ready
    let s := s.modRecov fun x => { x with replays := x.replays ++ [{ cluster := c, todo := sortSuspects (runs.map s.runCtx), runs }] }
    s.modMe (c * 2 + u) fun m => { m with ready := [], running := none }
  | _ => s

/-- The domain that a hang of an engine resets. -/
def engineDomain : Engine → Domain
  | .tve c => .cluster c
  | .fu c _ => .cluster c
  | .me c _ => .cluster c
  | .te p => .port p

def State.hang (s : State) (e : Engine) : State :=
  let d := engineDomain e
  if !s.hangs e || s.resetting d then s
  else
    let again := (domClusters d).any s.replaying
    let s := (s.keepGraph 1 (s.engineNode e)).event 4
    let s := if s.replayOn && !again then s.holdSuspects e else s
    s.beginReset d

/-- ENGINE_HANG (R449). -/
def execEngineHang (engine : Engine) (s : State) : Host.Outcome State Fault Refusal :=
  if engine.ok then .next (if s.live then s.hang engine else s) else .next s

/-- The root of the graph of a long wait, where the wait has lasted 10 × hang_timeout. -/
def State.longRoot (s : State) (w : LongWaiter) : Option WNode :=
  let past := fun (t : Nat) => decide (t + 10 * s.hangTimeout ≤ s.tclk)
  match w with
  | .withdrawal c i => let g := s.segment c i
      if g.state = .withdrawing ∧ past g.askedAt then some (s.withdrawNode c i) else none
  | .quiesce f => if (s.fn f).state = .quiescing ∧ past (s.fn f).quiesceAt then some (s.queueNode f 0) else none
  | .collective gid => (tget s.groups gid).bind fun g =>
      if g.laggard ∧ g.cur.any (fun c => past c.startAt) then some (memberNode gid g g.me) else none

/-- LONG_WAIT (R449). -/
def execLongWait (waiter : LongWaiter) (s : State) : Host.Outcome State Fault Refusal :=
  if waiter.ok then
    .next (if s.live then
      match s.longRoot waiter with
      | some n => s.keepGraph 2 n
      | none => s
    else s)
  else .next s

def State.replayOf (s : State) (c : Nat) : Option Replay := s.recov.replays.find? fun r => r.cluster == c
def State.modReplay (s : State) (c : Nat) (h : Replay → Replay) : State :=
  s.modRecov fun r => { r with replays := updAll (fun x => x.cluster == c) h r.replays }

/-- The suspect at hand is done with: it made progress, or it did not and the engine is reset again. -/
def State.nextSuspect (s : State) (c : Nat) (bad : Bool) : State :=
  match s.replayOf c with
  | none => s
  | some r =>
    match r.todo with
    | [] => s
    | x :: rest =>
      if !r.ready ∨ (bad ∧ s.tclk < r.startAt + s.replayTimeout) then s
      else s.modReplay c fun r => { r with
        todo := rest, startAt := s.tclk
        guilty := if bad then r.guilty ++ [x] else r.guilty
        clean := if bad then r.clean else r.clean ++ [x] }

/-- REPLAY_TIMEOUT (R453). -/
def execReplayTimeout (cluster : Nat) (s : State) : Host.Outcome State Fault Refusal :=
  if clusterOk cluster then .next (if s.live then s.nextSuspect cluster true else s) else .next s

/-- SUSPECT_REPLAY_COMPLETE (R453). -/
def execSuspectReplayComplete (cluster : Nat) (s : State) : Host.Outcome State Fault Refusal :=
  if clusterOk cluster then .next (if s.live then s.nextSuspect cluster false else s) else .next s

/-- Whether the source and the destination of a channel's runs share a byte. -/
def State.runOverlaps (s : State) (c : Channel) : Bool :=
  c.pairs.any fun x => c.pairs.any fun y => overlaps (s.chanAt c x.1).1 c.rowLen (s.chanAt c y.2).1 c.rowLen

/-- A held ME run of a program channel dealt with after the replay: completed with a status, or put back to run again. -/
def State.releaseChan (s : State) (c : Channel) (st : Option Status) (r : MeRun) : State :=
  let end_ := fun (e : Status) => (List.range r.n).foldl (fun (s : State) i => s.runEnded r.chan c (r.k + i) e 0 0 false) s
  match st with
  | some e => end_ e
  | none =>
    if s.runOverlaps c then end_ .devFenced
    else s.modMe (meOf r.chan) fun m => { m with ready := m.ready ++ [{ chan := r.chan, k := r.k, n := r.n }] }

/-- A held run: one of a dispatch channel ends its operation with a status, or runs again with what it carries. -/
def State.releaseRun (s : State) (st : MeRun → Option Status) (r : MeRun) : State :=
  match tget s.channels r.chan with
  | some c => s.releaseChan c (st r) r
  | none =>
    match r.serves.bind s.op, st r with
    | none, _ => s
    | some o, some e => (s.leaveOp o).completeJob o.job { status := e } 0
    | some _, none => s.modMe (meOf r.chan) fun m => { m with ready := m.ready ++ [r] }

/-- The plan of a TVE's hang after the replay. -/
def State.releasePlan (s : State) (st : Option Status) (c : Nat) (id : Nat) : State :=
  match s.run id with
  | none => s
  | some r =>
    match st with
    | some .devGuilty => s.failRun id .devGuilty 4 c ((r.members.find? fun m => m.cluster == c).elim 0 (·.pc)) 0
    | _ => s.answerOp (.cluster c) ((s.op r.op).getD { id := r.op, job := s.jobOf r, kind := .plan id })

/-- The end of a replay (R453 steps 5 and 6). -/
def State.endReplay (s : State) (c : Nat) : State :=
  match s.replayOf c with
  | none => s
  | some r =>
    if !r.ready ∨ !r.todo.isEmpty then s
    else
      let all := r.clean.isEmpty && decide (2 ≤ r.guilty.length)
      let s := s.modRecov fun x => { x with replays := x.replays.filter fun y => y.cluster != c }
      let st := fun (k : Nat × Nat) => if all then some Status.devFenced else if r.guilty.contains k then some .devGuilty else none
      let s := r.runs.foldl (fun (s : State) x => s.releaseRun (fun y => st (s.runCtx y)) x) s
      let s := match r.plan.bind s.run with
        | some p => s.releasePlan (st (p.f, p.ctx)) c p.id
        | none => s
      let s := s.keepGraph 4 (s.engineNode (.tve c)) r.guilty
      let s := if all then s.retire c 3
        else if 3 ≤ ((s.cluster c).recent s.tclk).length then s.retire c 3 else s
      s.advanceAll.checkStop

/-- REPLAY_COMPLETE (R453). -/
def execReplayComplete (cluster : Nat) (s : State) : Host.Outcome State Fault Refusal :=
  if clusterOk cluster then .next (if s.live then s.endReplay cluster else s) else .next s

end Sys2Proof.Machine
end

