-- ==== Sys2Proof/Machine/Silicon.lean ====
section
/-! DEFINITION. Fold-unit scrub and retirement, the repair catalogue, the conservation cycle, DDR training, patrol scrub and memory
repair (R261, R262, R322, R326–R340, R393, R394, R456–R468). -/

namespace Sys2Proof.Machine

/-! ### Fold units (R262, R464) -/

/-- The physical cluster of a logical number. -/
def State.physOf (s : State) (c : Nat) : Option Nat := (s.gal (c / 8)).phys.getD (c % 8) none

/-- The accumulators of a fold-unit slot that a chunk holds: those are checked by the reads of its fold, and no pass reads them (R262). -/
def State.heldAccs (s : State) (c u : Nat) : Nat :=
  (s.groups.flatMap fun g => g.2.cur.toList.flatMap (·.folds)).foldl (fun n f =>
    if f.cluster = c then (f.units.zipIdx).foldl (fun n e => if e.1 = u then Nat.max n (Nat.min 8192 (f.acc.length - 8192 * e.2)) else n) n else n) 0

/-- An uncorrectable error inside a cluster resets it, if no reset covers it yet (R444, Table 14.11). -/
def State.innerError (s : State) (c : Nat) : State := if s.resetting (.cluster c) then s else s.beginReset (.cluster c)

/-- The cluster in whose fold unit u a chunk lies. -/
def State.foldClusters (s : State) (gid level chunk u : Nat) : List Nat :=
  match (tget s.groups gid).bind fun g => g.cur.bind fun c => c.folds.find? fun f => f.level == level && f.chunk == chunk with
  | some f => if f.units.contains u then [f.cluster] else []
  | none => []

/-- CHUNK_FOLD_COMPLETE (R250, R262). -/
def execChunkFoldComplete (group level : Nat) (chunk : Folded) (s : State) : Host.Outcome State Fault Refusal :=
  .next (if s.live && chunk.bad.all (fun u => decide (u ≤ 3)) then
    match chunk.bad with
    | none => s.foldDone group level chunk.chunk
    | some u =>
      (s.foldClusters group level chunk.chunk u).foldl State.innerError (s.foldBad group level chunk.chunk u)
  else s)

/-- The cluster on which a member of a run issues. -/
def State.memberAt (s : State) (run i : Nat) : List Nat := ((s.run run).bind fun r => r.members[i]?).elim [] fun m => [m.cluster]

/-- BUNDLE_ISSUE (R298, R328). -/
def execBundleIssue (run : Nat) (member : Issue) (s : State) : Host.Outcome State Fault Refusal :=
  .next (if s.live && member.bad.all (fun k => decide (k ≤ 4)) then
    match member.bad with
    | none => s.issue run member.member
    | some k =>
      let t := s.tileBad run member.member k
      if (s.run run).any (·.failed.isNone) && (t.run run).any (·.failed.isSome) then (s.memberAt run member.member).foldl State.innerError t else t
  else s)

/-- One scrub pass of a fold unit's accumulator file, with the accumulators in which it corrected a symbol. A pass falls due 10 minutes after
the one before fell due; when the first does is open. The address in the record is free. -/
def State.fuPass (s : State) (c u : Nat) (corrected : List Nat) (bad : Bool) : State :=
  if !s.present c ∨ s.tclk < tgetD (s.cluster c).scrubDue u 0 then s
  else
    let before := tgetD (s.cluster c).lastCorr u []
    let due := (tget (s.cluster c).scrubDue u).getD s.tclk + 600000000000
    let corrected := corrected.filter fun i => decide (s.heldAccs c u ≤ i)
    let s := s.modCluster c fun x => { x with scrubDue := tset x.scrubDue u due, lastCorr := tset x.lastCorr u corrected }
    if bad then
      let (d, s) := s.draw
      (s.badAccs c u (Config.freeNat d)).innerError c
    else if corrected.any before.contains then s.failFu c u 1 else s

/-- FU_SCRUB_PASS (R262). -/
def execFuScrubPass (cluster unit : Nat) (corrected : List Nat) (uncorrectable : Bool) (s : State) : Host.Outcome State Fault Refusal :=
  if clusterOk cluster && fuOk unit then .next (if s.live then s.fuPass cluster unit corrected uncorrectable else s)
  else .next s

/-- A failing fold unit switched to the spare once no chunk holds it; where the spare is in use its cluster is retired (R464, R261). -/
def State.retireFu (s : State) (c u : Nat) : State :=
  let x := s.cluster c
  match tget x.badFu u, s.physOf c with
  | some cause, some ph =>
    if (s.unitsHeld c).contains u then s
    else if x.spareFu then
      let s := s.modCluster c fun x => { x with
        badFu := tdel x.badFu u, unitMap := x.unitMap.set u 4, spareFu := false, scrubDue := tdel x.scrubDue u
        lastCorr := tdel x.lastCorr u, accs := tdel x.accs u }
      (s.repair 0x02 cause [c / 8, ph, x.unitMap.getD u u]).advanceAll
    else s.retire c cause
  | _, _ => s

/-- FU_RETIRE (R464). -/
def execFuRetire (cluster unit : Nat) (s : State) : Host.Outcome State Fault Refusal :=
  if clusterOk cluster && fuOk unit then .next (if s.live then s.retireFu cluster unit else s) else .next s

/-! ### The repair catalogue (R456–R461) -/

/-- Entries of row repairs. -/
def CatEntry.isRow (e : CatEntry) : Bool := [0x05, 0x08, 0x0A, 0x0B].contains e.ty

/-- Whether later entries make an entry one that R460 drops first. -/
def superseded (e : CatEntry) (later : List CatEntry) : Bool :=
  if e.ty = 0x0C ∨ e.ty = 0x0D then later.any fun x => x.ty == e.ty && x.at 2 == e.at 2
  else e.ty == 5 && later.any fun x => x.ty == 6 && x.at 2 == e.at 2 && x.at 3 == e.at 3

def dropSuperseded : List CatEntry → List CatEntry
  | [] => []
  | e :: r => if superseded e r then dropSuperseded r else e :: dropSuperseded r

/-- The oldest row entries dropped until the list is short enough. -/
def dropRows : Nat → Nat → List CatEntry → List CatEntry
  | 0, _, l => l
  | fuel + 1, n, l =>
    if l.length ≤ n then l
    else match takeFirst CatEntry.isRow l with
      | some (_, r) => dropRows fuel n r
      | none => l

/-- A field section that an entry has been added to, and whether row entries were dropped for it (R460). -/
def addEntry (l : List CatEntry) (e : CatEntry) : List CatEntry × Bool :=
  let a := l ++ [e]
  if a.length ≤ fieldRoom then (a, false)
  else
    let b := dropSuperseded a
    let c := dropRows b.length fieldRoom b
    (c, decide (c.countP CatEntry.isRow < a.countP CatEntry.isRow))

/-- The repair event (R459). -/
def repairRecord (dropped : Bool) (e : CatEntry) (time : Nat) : List Byte :=
  leBytes 1 0x78 ++ leBytes 1 1 ++ leBytes 1 (ofBool dropped) ++ leBytes 1 0 ++ e.bytes ++ List.replicate 8 0 ++ leBytes 4 time

/-- The oldest entry that is held written to the NOR. -/
def State.writeEntry (s : State) : State :=
  match s.nor.unwritten with
  | [] => s
  | e :: r =>
    let x := addEntry s.nor.field e
    ((s.rewriteField x.1).modNor fun n => { n with unwritten := r }).record 0 (repairRecord x.2 e s.time)

/-- CATALOGUE_WRITE (R459). -/
def execCatalogueWrite (s : State) : Host.Outcome State Fault Refusal := .next (if s.live then s.writeEntry else s)

/-- The checks of R394 on an object that ends with the signature block of Table 13.1: the first that fails, or none. An index above 3
has no fused digests, and fails check 3. -/
def Fuses.refuses (u : Fuses) (l : List Byte) : Option Nat :=
  let b := l.drop (l.length - 3072)
  let before := l.take (l.length - 3072)
  let k := fld b 2 1
  let signed := before ++ slice b 0 168
  if l.length < 3072 ∨ fld b 0 2 ≠ 1 ∨ fld b 3 1 ≠ 0 ∨ !zeroAt b 8 8 ∨ !zeroAt b 2932 140 then some 1
  else if k < 4 ∧ u.revoked.getLsbD k then some 2
  else if 3 < k ∨ (sha384 (slice b 16 96), sha384 (slice b 112 56)) ≠ u.keys.getD k ([], []) then some 3
  else if fld b 4 4 < u.minSvn then some 4
  else if !ecdsaVerify signed (slice b 16 96) (slice b 168 96) then some 5
  else if !lmsVerify (sha384 signed) (slice b 112 56) (slice b 264 2668) then some 6
  else none

def State.doCatalogueUpdate (s : State) (j : Job) : State × Answer :=
  match s.adminRead j (s.firstCtx j.f) (j.arg 24 8) (j.arg 16 4) with
  | (s, .error a) => (s, a)
  | (s, .ok l) =>
    if (s.fuses.refuses l).isSome then (s, .refuse .argument)
    else (s.modNor fun n => { n with updates := n.updates ++ [l] }, .ok 0)

/-- CATALOGUE_UPDATE (R461). -/
def execCatalogueUpdate (f : Nat) (s : State) : Host.Outcome State Fault Refusal :=
  if fnOk f then .next (s.admin f 0x3D none [(16, 4), (24, 8)] fun s j => s.doCatalogueUpdate j) else .next s

/-- CATALOGUE_CLEAR: the lane entries of a port removed, and the port reset, to train on the lanes that are left (R461). -/
def State.doCatalogueClear (s : State) (j : Job) : State × Answer :=
  let p := j.arg 16 1
  if 15 < p then (s, .refuse .argument)
  else
    let keep := fun (e : CatEntry) => !(decide (e.ty = 3 ∨ e.ty = 4) && e.at 2 == p)
    let s := (s.rewriteField (s.nor.field.filter keep)).modNor fun n => { n with unwritten := n.unwritten.filter keep }
    let y := s.nor.portOf (s.portSwitched p) p
    let s := (s.allDown p).modPort p fun x => { x with
      failed := y.failed, peerFailed := 0, width := y.width, lanes := y.lanes, spareFor := y.spareFor, swapping := none, retrain := false }
    (if s.resetting (.port p) then s else s.beginReset (.port p), .ok 0)

/-- CATALOGUE_CLEAR (R461). -/
def execCatalogueClear (f : Nat) (s : State) : Host.Outcome State Fault Refusal :=
  if fnOk f then .next (s.admin f 0x3E none [(16, 1)] fun s j => s.doCatalogueClear j) else .next s

/-! ### The conservation cycle (R465–R468) -/

def State.modCons (s : State) (g : Nat) (h : Conserve → Conserve) : State := s.modGal g fun x => { x with cons := h x.cons }

/-- The clusters of a measurement that are enabled, and the slack of each one's monitors. -/
def Gallery.enabled (x : Gallery) (l : Slack) : List (Nat × List Nat) := l.clusters.filter fun e => x.phys.contains (some e.1)

/-- The smallest of some numbers; none of an empty list. -/
def leastOf (l : List Nat) : Option Nat := l.foldl (fun m v => some (m.elim v (Nat.min v))) none

/-- The least slack of any monitor in the enabled clusters of a gallery (R465). -/
def Gallery.least (x : Gallery) (l : Slack) : Nat := (leastOf ((x.enabled l).flatMap (·.2))).getD 255

/-- The median monitor slack of a gallery: of the two in the middle the lower (Table 15.6; notes/assumptions/52.md). -/
def Gallery.median (x : Gallery) (l : Slack) : Nat :=
  let v := sortNat ((x.enabled l).flatMap (·.2))
  v.getD ((v.length - 1) / 2) 0

/-- Clusters of the gallery that are worn, the spare among those measured: at most one is retired in a cycle (Table 15.6). -/
def State.retireWorn (s : State) (g : Nat) (l : Slack) : State :=
  let x := s.gal g
  let worn := fun (e : Nat × List Nat) => (leastOf e.2).any (fun m => decide (m < 10)) && decide (40 ≤ x.median l)
  match l.clusters.find? fun e => worn e && (x.phys.contains (some e.1) || x.spare == some e.1) with
  | none => s
  | some (c, _) =>
    if x.spare = some c then (s.modGal g fun y => { y with spare := none }).repair 0x01 4 [g, c]
    else s.retire (8 * g + x.phys.findIdx (· == some c)) 4

/-- The fold units, as physical cluster and unit, whose oscillators are more than 4 % slower than their factory values. -/
def slowFus (g : Nat) (l : Slack) : List (Nat × Nat) :=
  (l.fus.filter fun e => decide (100 * e.2.2 < 96 * Config.factoryOsc g e.1 e.2.1)).map fun e => (e.1, e.2.1)

/-- A slow unit of an active cluster: the slot that uses it is retired under R464; the spare unit, where it is unused, at once. -/
def State.slowActive (s : State) (g ph u : Nat) : State :=
  let c := 8 * g + (s.gal g).phys.findIdx (· == some ph)
  let x := s.cluster c
  if x.unitMap.contains u then s.failFu c (x.unitMap.idxOf u) 4
  else if u = 4 ∧ x.spareFu then (s.modCluster c fun x => { x with spareFu := false }).repair 0x02 4 [g, ph, 4]
  else s

/-- A slow unit of the spare cluster: it is replaced by the cluster's spare unit, or, where that is used, the cluster is retired. -/
def State.slowSpare (s : State) (g ph u : Nat) : State :=
  let m := s.nor.unitsOf g ph
  if m.2 ∧ (m.1.contains u ∨ u = 4) then s.repair 0x02 4 [g, ph, u]
  else if m.1.contains u then (s.modGal g fun y => { y with spare := none }).repair 0x01 4 [g, ph]
  else s

/-- Every fold unit that is slow. -/
def State.retireSlow (s : State) (g : Nat) (l : Slack) : State :=
  (slowFus g l).foldl (fun (s : State) e =>
    if (s.gal g).phys.contains (some e.1) then s.slowActive g e.1 e.2
    else if (s.gal g).spare = some e.1 then s.slowSpare g e.1 e.2 else s) s

/-- The end of a cycle. The trace records that have waited for the MAINT slots are written (R488). -/
def State.endCycle (s : State) (g m : Nat) : State :=
  let at_ := s.poweredNow / 1000
  ((s.modCons g fun c => { c with busy := false, settling := false, slack := Nat.min 255 m, last := at_, lastTemp := c.temp }).count 0x0B g 0x10 1).traceDrain g

/-- The rows of Table 15.6 for the gallery that follow the raising of the offset. -/
def State.adjust (s : State) (g m : Nat) : State :=
  let x := s.gal g
  let s :=
    if m < 40 ∧ x.offset = 10 ∧ x.floor < 3 then
      (s.modGal g fun y => { y with floor := y.floor + 1 }).repair 0x0D 4 [g, x.floor + 1]
    else if m < 40 ∧ x.offset = 10 then
      s.record 0 (repairRecord false { ty := 0x0D, cause := 4, loc := locBytes [g, 3], time := s.poweredNow } s.time)
    else if 90 ≤ m ∧ -6 < x.offset then
      (s.modGal g fun y => { y with offset := y.offset - 1 }).repair 0x0C 4 [g, ofSigned 8 (x.offset - 1)]
    else s
  s.endCycle g m

/-- The measurement of a cycle and what follows from it. -/
def State.measureSlack (s : State) (g : Nat) (l : Slack) : State :=
  let s := ((s.modCons g fun c => { c with noc := l.noc }).retireWorn g l).retireSlow g l
  let x := s.gal g
  let m := x.least l
  if m < 40 ∧ x.offset < 10 then
    let up : Int := x.offset + ceilDiv (40 - m) 4
    let new : Int := if up < 10 then up else 10
    ((s.modGal g fun y => { y with offset := new }).repair 0x0C 4 [g, ofSigned 8 new]).modCons g fun c => { c with settling := true, settleAt := s.tclk }
  else s.adjust g m

/-- A conservation cycle begins, where one is due: none runs, no timetable change is under way, the gallery is not in U3 (R466, R53). -/
def State.cycle (s : State) (g : Nat) (l : Slack) : State :=
  let x := s.gal g
  let daily := decide (x.cons.due ≤ s.poweredNow)
  if s.boot.stage ≠ 3 ∨ x.cons.busy ∨ x.hold.isSome ∨ x.power = 3 ∨ !(x.cons.again || daily) then s
  else
    (s.modCons g fun c => { c with busy := true, again := false, due := if daily then c.due + 86400000 else c.due }).measureSlack g l

/-- CONSERVATION_CYCLE (R467). -/
def execConservationCycle (g : Nat) (slack : Slack) (s : State) : Host.Outcome State Fault Refusal :=
  if galOk g then .next (if s.live then s.cycle g slack else s) else .next s

/-- The second measurement, once the voltage has settled for 0.5 ms: at +50 mV the next row applies, and otherwise the cycle ends. -/
def State.settled (s : State) (g : Nat) (l : Slack) : State :=
  let x := s.gal g
  if !x.cons.settling ∨ s.tclk < x.cons.settleAt + 500000 then s
  else
    let m := x.least l
    if m < 40 ∧ x.offset = 10 then s.adjust g m else s.endCycle g m

/-- VOLTAGE_SETTLED (R467). -/
def execVoltageSettled (g : Nat) (slack : Slack) (s : State) : Host.Outcome State Fault Refusal :=
  if galOk g then .next (if s.live then s.settled g slack else s) else .next s

/-- CONSERVATION_RUN (R466). -/
def execConservationRun (g : Nat) (s : State) : Host.Outcome State Fault Refusal :=
  if galOk g then .next (if s.served then s.modCons g fun c => { c with again := true } else s) else .next s

/-- The hottest sensor of a gallery read: a change of 20 °C since the last cycle asks for one. -/
def State.readTemp (s : State) (g : Nat) (reading : Int) : State :=
  s.modCons g fun c => { c with
    temp := some reading
    again := c.again || c.lastTemp.any fun t => decide (20 ≤ reading - t ∨ 20 ≤ t - reading) }

/-- TEMPERATURE_CHECK (R466). -/
def execTemperatureCheck (g : Nat) (reading : Int) (s : State) : Host.Outcome State Fault Refusal :=
  if galOk g then .next (if s.live then s.readTemp g reading else s) else .next s

/-! ### DDR training (R326, R327) -/

/-- The first DIMM said of each channel, in ascending channel order. -/
def dimmsByChan (l : List Dimm) : List Dimm := (List.range 20).filterMap fun c => l.find? fun d => d.chan == c

/-- What is taken in: capacity, channels, and those left out. -/
def ddrOf (l : List Dimm) : Ddr :=
  let all := dimmsByChan l
  let gib := (all.head?).elim 0 (·.gib)
  let ok := fun (d : Dimm) => d.accepted && d.gib == gib && [32, 64, 128].contains d.gib
  let taken := all.filter ok
  let speed := ([8800, 8000, 6400].find? fun v => taken.all fun d => decide (v ≤ d.speed)).getD 0
  if taken.isEmpty then { left := all.map (·.chan) }
  else { chans := taken.map (·.chan), gib, speed, left := (all.filter fun d => !ok d).map (·.chan) }

/-- DDR_TRAINING_COMPLETE (R326), once in a start, after the ROM checks. A DIMM left out is a boot event of its own, whose code the manual
does not give. -/
def execDdrTrainingComplete (dimms : List Dimm) (s : State) : Host.Outcome State Fault Refusal :=
  .next (if s.live && s.boot.romOk && !s.boot.ddrDone then
    let d := ddrOf dimms
    d.left.foldl (fun (s : State) c => s.bootEvent (Config.dimmLeftOut % 256) 0 c 0)
      (({ s with tiers := { s.tiers with ddr := d } }).modBoot fun b => { b with ddrDone := true })
  else s)

/-! ### Patrol scrub, refresh and repair (R334–R340) -/

def unitGallery : MemUnit → Nat
  | .slice c => c / 8
  | .stack h => h / 4
  | .chan d => chanGallery d

/-- Lines of a memory port. -/
def State.unitLines (s : State) (u : MemUnit) : Nat :=
  match u with
  | .slice c => if s.present c then 393216 else 0
  | .stack _ => 2 ^ 30
  | .chan d => if s.tiers.ddr.chans.contains d then s.tiers.ddr.gib * 2 ^ 24 else 0

/-- The local address of a line of a memory port (R323, R327). -/
def State.lineOf (s : State) (u : MemUnit) (i : Nat) : Nat :=
  match u with
  | .slice c => c * 0x1800000 + 64 * i
  | .stack h => 0x100000000000 + h / 4 * 2 ^ 38 + i / 64 * 2 ^ 14 + h % 4 * 4096 + i % 64 * 64
  | .chan d => 0x200000000000 + (i / 64 * s.tiers.ddr.chans.length + s.tiers.ddr.chans.findIdx (· == d)) * 4096 + i % 64 * 64

/-- A pseudo-channel is spared onto a free spare of its stack, or found to have none (R339, R340). -/
def State.sparePc (s : State) (h pc cause : Nat) : State :=
  let x := s.scrubOf (.stack h)
  if x.copies.any (fun m => m.pc == pc) || x.exhausted.contains pc then s
  else match ([0, 1] : List Nat).find? fun n => !(x.copies.any fun m => m.to_ == n) && !x.spared.any fun e => e.2 == n with
    | some n => s.modScrub (.stack h) fun x => { x with copies := x.copies ++ [{ pc, to_ := n, cause }] }
    | none => (s.modScrub (.stack h) fun x => { x with exhausted := x.exhausted ++ [pc] }).repair 0x07 cause [h, pc]

/-- Distinct rows on which a symbol position of a pseudo-channel has failed. -/
def Scrub.rowsAt (x : Scrub) (pc pos : Nat) : Nat := (x.marks.filter fun m => m.pc == pc && m.pos == pos).length

/-- A row or column of a slice remapped to a spare one (Table 10.6). Where no spare is left, the repair leaves the slice without usable rows,
and it is lost (R321; notes/assumptions/59.md). -/
def State.remap (s : State) (c : Nat) (column : Bool) (n cause : Nat) : State :=
  let u := MemUnit.slice c
  let used := if column then (s.scrubOf u).colsUsed else (s.scrubOf u).rowsUsed
  match s.physOf c with
  | none => s
  | some ph =>
    if used.contains n then s
    else if (if column then 16 else 64) ≤ used.length then s.markLost c
    else
      let s := s.modScrub u fun x => if column then { x with colsUsed := x.colsUsed ++ [n] } else { x with rowsUsed := x.rowsUsed ++ [n] }
      (s.repair (if column then 0x0B else 0x0A) cause [c / 8, ph, n % 256, n / 256 % 256]).count 0x01 c 4 1

/-- A symbol corrected by scrub: counted, and held against the thresholds of Table 10.6. -/
def State.scrubCorrected (s : State) (u : MemUnit) (line pos row : Nat) : State :=
  let pc := match u with
    | .stack _ => pcOf line
    | _ => 0
  let sp : Spot := { pc, row, pos }
  let x := s.scrubOf u
  let s := s.modScrub u fun x => { x with
    now_ := if x.now_.contains sp then x.now_ else x.now_ ++ [sp]
    marks := if x.marks.contains sp then x.marks else x.marks ++ [sp] }
  let rowTwice := x.last.any fun m => m.pc == pc && m.row == row
  let many := decide (16 ≤ (s.scrubOf u).rowsAt pc pos)
  let s := s.countSymbol (s.region line) pos
  match u with
  | .slice c =>
    let s := if rowTwice then s.remap c false row 1 else s
    if !rowTwice && x.last.any (fun m => m.pos == pos) then s.remap c true pos 1 else s
  | .stack h =>
    let s := if rowTwice then s.mendRow u pc row 1 else s
    if many then s.sparePc h pc 1 else s
  | .chan d =>
    let s := if rowTwice then s.mendRow u 0 row 1 else s
    if many && !x.device.contains pos then (s.modScrub u fun x => { x with device := x.device ++ [pos] }).repair 0x09 1 [d, pos] else s

/-- An uncorrectable line found by scrub: poisoned, and reported to PF0 alone (R330, R333); a DRAM row is repaired (R337). -/
def State.scrubBad (s : State) (u : MemUnit) (line row : Nat) : State :=
  if s.tiers.poison.contains line then s
  else
    let r := s.region line
    let s := s.poisonLine r line
    let s := (s.record 0 (s.memRecord { (tierErr r line 1) with row := if (match u with
      | .slice _ => true
      | _ => false) then 0 else row } 0xFFFF 0 0)).event 3
    match u with
    | .slice _ => s
    | .stack _ => s.mendRow u (pcOf line) row 2
    | .chan _ => s.mendRow u 0 row 2

/-- The pointer of a pass moved on; at its end the errors of this pass become those of the last one. The errors that a stack corrected
inside itself are read then; how many, the manual does not fix. -/
def State.scrubOn (s : State) (u : MemUnit) : State :=
  let x := s.scrubOf u
  if x.next + 1 < s.unitLines u then s.modScrub u fun x => { x with next := x.next + 1 }
  else
    let s := (s.modScrub u fun x => { x with next := 0, last := x.now_, now_ := [] }).count 0x0B (unitGallery u) 0x12 1
    match u with
    | .stack h =>
      let (e, s) := s.draw
      s.count 0x02 h 3 (Config.freeNat e)
    | _ => s

/-- The corrected codewords of a line written back (R334). -/
def State.scrubSoft (s : State) (u : MemUnit) (line : Nat) : State :=
  let l := s.tiers.soft.filter fun b => b.line == line
  l.foldl (fun s b => s.scrubCorrected u line b.pos b.row)
    { s with tiers := { s.tiers with soft := s.tiers.soft.filter fun b => b.line != line } }

/-- One line scrubbed. Scrub is stopped by GAL_SCRUB_CFG.enable, and pauses in U3 (R336, R469). -/
def State.scrubLine (s : State) (u : MemUnit) (find : LineFind) : State :=
  let g := unitGallery u
  let x := s.scrubOf u
  let asleep := decide ((s.gal g).power = 3) && (match u with
    | .chan _ => false
    | _ => true)
  if !bit (s.word 0 (galBase g + 8)) 24 || asleep || s.unitLines u == 0 then s
  else
    let line := s.lineOf u (x.next % s.unitLines u)
    let found := if s.tiers.bad.any fun b => b.1 == line then LineFind.uncorrectable (Config.rowOf line) else find
    let s := match found with
      | .clean => s
      | .corrected pos row => if s.tiers.poison.contains line then s else s.scrubCorrected u line pos row
      | .uncorrectable row => s.scrubBad u line row
      | .portFault => (match u with
        | .slice c => s.retire c 2
        | _ => s)
    (s.scrubSoft u line).scrubOn u

/-- SCRUB (R334). -/
def execScrub (unit : MemUnit) (find : LineFind) (s : State) : Host.Outcome State Fault Refusal :=
  if unit.ok then .next (if s.live then s.scrubLine unit find else s) else .next s

/-- A symbol error come up in a line: a codeword with two symbols in error is uncorrectable (R328). In a poisoned line it changes nothing. -/
def State.decay (s : State) (u : MemUnit) (d : Decay) : State :=
  let line := s.lineOf u d.line
  let size := codeSize (s.region line)
  let code := d.code / size * size
  let here := fun (b : Soft) => b.line == line && b.code == code
  let t := s.tiers
  if s.unitLines u ≤ d.line ∨ t.poison.contains line ∨ t.bad.contains (line, code) then s
  else match d.pos with
    | some p =>
      if t.soft.any fun b => here b && b.pos == p then s
      else if t.soft.any here then { s with tiers := { t with soft := t.soft.filter fun b => !here b, bad := (line, code) :: t.bad } }
      else { s with tiers := { t with soft := { line, code, pos := p, row := d.row } :: t.soft } }
    | none => { s with tiers := { t with soft := t.soft.filter fun b => !here b, bad := (line, code) :: t.bad } }

/-- REFRESH (R334): of DRAM; a slice of tier A has none. With it come the symbol errors that have appeared at the port since the last one. -/
def execRefresh (unit : Refreshed) (s : State) : Host.Outcome State Fault Refusal :=
  if unit.unit.ok && unit.decays.all fun d => decide (d.code < 64) then
    .next (if s.live && s.unitLines unit.unit != 0 then
      let s := unit.decays.foldl (fun s d => s.decay unit.unit d) s
      match unit.unit with
      | .slice _ => s
      | _ => s.modScrub unit.unit fun x => { x with refreshes := x.refreshes + 1 }
    else s)
  else .next s

/-- A row's address switches to its spare: the entry is written, with its hard repair pending; the rank of a DDR5 row is not fixed by the
model. A pseudo-channel with 64 repaired rows, or a bank whose repair resources this repair has exhausted, is spared. -/
def State.rowDone (s : State) (u : MemUnit) (row : Nat) (exhausted : Bool) : State :=
  match (s.scrubOf u).rows.find? fun m => m.to_ == row with
  | none => s
  | some m =>
    let s := s.modScrub u fun x => { x with
      rows := x.rows.filter fun y => !(y.pc == m.pc && y.to_ == row)
      fixed := if x.fixed.contains (m.pc, row) then x.fixed else x.fixed ++ [(m.pc, row)] }
    let bytes := [row % 256, row / 256 % 256, row / 65536 % 256, row / 16777216 % 256]
    match u with
    | .slice _ => s
    | .stack h =>
      let s := s.repair 0x05 (m.cause + 16) ([h, m.pc] ++ bytes)
      if exhausted ∨ 64 ≤ ((s.scrubOf u).fixed.filter fun e => e.1 == m.pc).length then s.sparePc h m.pc m.cause else s
    | .chan d =>
      let (e, s) := s.draw
      s.repair 0x08 (m.cause + 16) ([d, Config.freeNat e % 256] ++ bytes)

/-- ROW_REPAIR_COMPLETE (R338). -/
def execRowRepairComplete (unit : MemUnit) (row : Repaired) (s : State) : Host.Outcome State Fault Refusal :=
  if unit.ok then .next (if s.live then s.rowDone unit row.row row.exhausted else s) else .next s

/-- The copy pointers moved on by one line in a tick, but where a conservation cycle holds the MAINT slots (R339). -/
def State.copyTick (s : State) : State :=
  if s.scrubs.all fun e => e.2.copies.isEmpty then s
  else
    let go := fun (k : Nat) (x : Scrub) =>
      if x.copies.isEmpty ∨ (s.gal ((k - 64) / 4)).cons.busy then x
      else { x with copies := x.copies.map fun m => { m with line := Nat.min (2 ^ 24) (m.line + 1) } }
    { s with scrubs := s.scrubs.map fun e => (e.1, go e.1 e.2) }

/-- A pseudo-channel's copy ends, its pointer at the end, and it switches to the spare; while a conservation cycle runs in the gallery the copy pauses (R339). -/
def State.pcSwitch (s : State) (h pc : Nat) : State :=
  match (s.scrubOf (.stack h)).copies.find? fun m => m.pc == pc with
  | none => s
  | some m =>
    if (s.gal (h / 4)).cons.busy ∨ m.line < 2 ^ 24 then s
    else
      let s := s.modScrub (.stack h) fun x => { x with
        copies := x.copies.filter fun y => y.pc != pc
        spared := x.spared ++ [(pc, m.to_)]
        fixed := x.fixed.filter fun e => e.1 != pc
        marks := x.marks.filter fun e => e.pc != pc }
      s.repair 0x06 m.cause [h, pc, m.to_]

/-- PC_SPARE_COMPLETE (R339). -/
def execPcSpareComplete (h pc : Nat) (s : State) : Host.Outcome State Fault Refusal :=
  if decide (h ≤ 23) && decide (pc ≤ 63) then .next (if s.live then s.pcSwitch h pc else s) else .next s

/-! ### The firmware image copies (R320, R322) -/

/-- A firmware copy's place in the slice of a cluster. -/
def fwPlace (c : Nat) : Nat := c * 0x1800000 + 0x800000

/-- The place of an image in a firmware copy: 2 MiB each, in the order of their targets, SEC left out. -/
def imagePlace (target : Nat) : Nat := (if target = 8 then 7 else target) * 0x200000

/-- The package's own access to its memory, through no segment. -/
def ownVia : Via := { f := 0, ctx := 4096, seg := 16 }

/-- n bytes that the package reads for itself; none where a line of them is uncorrectable (R331). -/
def State.readOwn (s : State) (a n : Nat) : State × Option (List Byte) :=
  match s.readVia ownVia a n with
  | (s, l, none) => (s, some l)
  | (s, _, some _) => (s, none)

/-- An image read from the firmware copy of a gallery; none where the copy is lost, a line of it is uncorrectable, or it has not its digest (R439). -/
def State.loadImage (s : State) (g : Nat) (x : Image) : State × Option (List Byte) :=
  match (s.gal g).fwHome with
  | some c =>
    if (s.gal g).fwLost || !s.present c then (s, none)
    else
      match s.readOwn (fwPlace c + imagePlace x.target) x.length with
      | (s, some l) => (s, if sha384 l == x.digest then some l else none)
      | (s, none) => (s, none)
  | none => (s, none)

/-- Every image of a copy read and checked; none where one fails. -/
def State.loadImages (s : State) (g : Nat) : List Image → State × Option (List (Image × List Byte))
  | [] => (s, some [])
  | x :: r =>
    match s.loadImage g x with
    | (s, none) => (s, none)
    | (s, some l) =>
      match State.loadImages s g r with
      | (s, m) => (s, m.map fun m => (x, l) :: m)

/-- The images of the bundle that a firmware copy holds: all but SEC's (R320). -/
def Bundle.copied (b : Bundle) : List Image := b.images.filter fun x => x.target != 7

/-- Images written to the firmware copy in the slice of a cluster, whose place is written whole, and counted at its port (R480). -/
def State.putImages (s : State) (c : Nat) (l : List (Image × List Byte)) : State :=
  let t := s.tiers.clean fun a => decide (fwPlace c ≤ a ∧ a < fwPlace c + 0x1000000)
  let mem := l.foldl (fun (m : Mem) x => m.write (fwPlace c + imagePlace x.1.target) x.2) (t.mem.clear (fwPlace c) 0x1000000)
  State.count { s with tiers := { t with mem } } 0x01 c 1 (sum (l.map fun x => x.2.length))

/-- Whether a cluster can take a firmware copy: no tenant's grant and no segment lies over the place. -/
def State.fwRoom (s : State) (c : Nat) : Bool :=
  s.present c && (s.fns.all fun e => e.2.grant.ranges.all fun r => !overlaps r.1 r.2 (fwPlace c) 0x1000000) &&
  s.ctxs.all fun e => e.2.segs.all fun g => !g.2.covers (fwPlace c, 0x1000000)

/-- The cluster to which a lost copy is rebuilt. -/
def State.fwTarget (s : State) (g : Nat) : Option Nat :=
  match (s.gal g).fwHome with
  | none => none
  | some c => if s.present c then some c else ((List.range 7).map fun i => 8 * g + (c % 8 + 1 + i) % 8).find? s.fwRoom

/-- The device event on a firmware copy: its new address, or that none was rebuilt (R322; notes/assumptions/60.md). -/
def State.copyEvent (s : State) (addr : Option Nat) : State :=
  let (e, s) := s.draw
  s.deviceEvent ((List.range 32).map (Config.fwCopyByte e addr))

/-- A lost firmware copy rebuilt from the other one, where there is a place for it and every image there has the digest of the manifest; the
manager is told. -/
def State.rebuildCopy (s : State) (g : Nat) : State :=
  if !(s.gal g).fwLost || (s.gal g).fwHome.isNone then s
  else
    match s.fwTarget g with
    | some c =>
      match s.loadImages (3 - g) (s.boot.running.elim [] Bundle.copied) with
      | (s, none) => s.copyEvent none
      | (s, some l) =>
        ((s.modGal g fun x => { x with fwHome := some c, fwLost := false }).putImages c l).copyEvent (some (s.node * 2 ^ 48 + fwPlace c))
    | none => (s.modGal g fun x => { x with fwHome := none }).copyEvent none

/-- FW_COPY_REBUILD (R322). -/
def execFwCopyRebuild (g : Nat) (s : State) : Host.Outcome State Fault Refusal :=
  if galOk g then .next (if s.live then s.rebuildCopy g else s) else .next s

end Sys2Proof.Machine
end

