-- ==== Sys2Proof/Machine/Functions.lean ====
section
/-! DEFINITION. Functions: the manager's commands, quiescing, function-level resets, the host ports and their events, the mailbox and
dirty-page logging (R363–R369, R379–R391, R445). -/

namespace Sys2Proof.Machine

/-! ### Records and results (R384, R388) -/

/-- The function-state record of Table 12.19. -/
def State.fnRecord (s : State) (f event fenced : Nat) : List Byte :=
  leBytes 1 0x14 ++ leBytes 1 1 ++ leBytes 1 event ++ leBytes 1 (s.fn f).result ++ leBytes 2 f ++ leBytes 2 0 ++ leBytes 4 fenced ++
  List.replicate 16 0 ++ leBytes 4 s.time

/-- An event of a function reported to the manager. -/
def State.fnEvent (s : State) (f event fenced : Nat) : State := s.deviceEvent (s.fnRecord f event fenced)

/-- A function that is there: HPn's, only where HPn is not off. -/
def State.fnPresent (s : State) (f : Nat) : Bool := fnOk f && (decide (f < 256) || (s.hp (fnPort f)).mode != 0)

/-- A manager command ends with OK. Its record is written too (R384); Table 12.19 has no event for it, so that byte is free
(notes/assumptions/82.md). -/
def State.fnDone (s : State) (f : Nat) : State :=
  let (e, s) := s.draw
  (s.modFn f fun x => { x with busy := false, result := 0 }).fnEvent f (Config.freeNat e % 256) 0

/-- A manager command ends with another result: event 6. -/
def State.fnRefused (s : State) (f result : Nat) : State := (s.modFn f fun x => { x with busy := false, result }).fnEvent f 6 0

/-- A write of HUB_FN_CTRL: ignored while a command is busy; a function that is not there, and PF0, have results of their own. -/
def State.fnCommand (s : State) (act : State → Nat → State) : State :=
  let f := s.fnSel
  if !s.served || s.fns.any (fun e => e.2.busy) then s
  else if !s.fnPresent f then s.fnRefused f 4
  else if f = 0 then s.fnRefused f 2
  else act s f

/-! ### Function-level resets (R385, R386, R445) -/

/-- The generations of a function's ACTIVE segments incremented (R445). -/
def State.bumpFn (s : State) (f : Nat) : State :=
  s.ctxs.foldl (fun (s : State) c =>
    if c.2.owner = f then
      c.2.segs.foldl (fun (s : State) g => if g.2.state = .active then s.bumpGen c.1 g.1 else s) s
    else s) s

/-- A function-level reset begins: `from_` says what asked for it, `mute` whether CQEs are not written. What has arrived for the function's QPs
takes effect first (R183). -/
def State.beginFnReset (s : State) (f from_ : Nat) (mute : Bool) : State :=
  (((s.latchFn f).modFn f fun x => { x with state := .resetting, resetFrom := from_, fenced := 0, mute }).bumpFn f).beginFence (.function f)

/-- A manager command under way for a function ends with STATE: a forced reset takes precedence (R387). -/
def State.endCommand (s : State) (f : Nat) : State := if (s.fn f).busy then s.fnRefused f 2 else s

/-- A forced reset of a function that is not DISABLED, which ends ACTIVE (R386, R387). -/
def State.forceReset (s : State) (f : Nat) (mute : Bool) : State :=
  let st := (s.fn f).state
  if st = .disabled then s
  else
    let busy := (s.fn f).busy
    let s := (s.endCommand f).fnEvent f 3 0
    if st = .resetting then s.modFn f fun x => { x with mute := x.mute || mute, resetFrom := if busy then 2 else x.resetFrom }
    else s.beginFnReset f 2 mute

/-- A VF in any state is reset and disabled, without the manager (Table 12.18). -/
def State.disableVf (s : State) (f : Nat) : State :=
  let st := (s.fn f).state
  let s := s.endCommand f
  if st = .resetting then s.modFn f fun x => { x with resetFrom := 4 } else s.beginFnReset f 4 false

/-- Functions of a table that satisfy a condition, in ascending order. -/
def State.fnsWith (s : State) (p : Nat → Bool) : List Nat := (s.fns.map (·.1)).filter p

/-- Everything that a function owns destroyed (R445, R385, R500). -/
def State.destroyFn (s : State) (f : Nat) : State :=
  let s := ((s.groups.filter fun e => e.2.f == f).map (·.1)).foldl (fun (s : State) gid => s.dropGroup gid) s
  let s := ((s.qps.filter fun e => e.1 != 0 && e.2.f == f).map (·.1)).foldl (fun (s : State) q => s.dropQp q) s
  let s := ((s.ctxs.filter fun e => e.2.owner == f).map (·.1)).foldl (fun (s : State) c => s.dropCtx c) s
  let other := fun (k : Nat) => k / 65536 != f
  let s := { s with
    sqs := s.sqs.filter fun (e : Nat × Sq) => other e.1
    cqs := s.cqs.filter fun (e : Nat × Cq) => other e.1
    eqs := s.eqs.filter fun (e : Nat × Cq) => e.1 != f
    spent := s.spent.filter fun o => o.job.f != f
    msixPend := s.msixPend.filter fun x => x.1 != f
    armed := s.armed.filter fun a => a.job.f != f }
  ((s.modFn f fun x => { x with
    halted := false, haltCause := 0, haltQueue := 0, admin := {}, neg := .none, tolerance := none, wakes := [], mgrFull := false,
    tenFull := false, mute := false }).resetRegs f 0x1000 0x2000).resetRegs f (msixBase f) (msixBase f + 16 * vectorsOf f)

/-- The end of a function-level reset: ACTIVE again, or DISABLED with its grant zero. -/
def State.fnResetDone (s : State) (f : Nat) : State :=
  match s.recov.fences.find? fun x => x.domain == .function f && x.ended with
  | none => s
  | some _ =>
    let x := s.fn f
    let s := (s.destroyFn f).modRecov fun r => { r with fences := r.fences.filter fun y => y.domain != .function f }
    let off := decide (3 ≤ x.resetFrom)
    let s := s.modFn f fun y => { y with
      state := if off then .disabled else .active
      grant := if off then {} else y.grant
      dirty := if x.resetFrom = 3 then { y.dirty with enable := false } else y.dirty
      resetFrom := 0, fenced := 0, busy := false
      result := if x.busy then 0 else y.result }
    (((s.fnEvent f (if off then 5 else 2) x.fenced).advanceAll).armHeld).checkStop

/-- FUNCTION_RESET_COMPLETE (R445). -/
def execFunctionResetComplete (f : Nat) (s : State) : Host.Outcome State Fault Refusal :=
  if fnOk f then .next (if s.live then s.fnResetDone f else s) else .next s

/-! ### The manager's commands (R384–R387) -/

def State.fnEnable (s : State) (f : Nat) : State :=
  if (s.fn f).state = .disabled then (s.modFn f fun x => { x with state := .active, grant := {} }).fnDone f else s.fnRefused f 2

/-- FUNCTION_ENABLE (R386). -/
def execFunctionEnable (s : State) : Host.Outcome State Fault Refusal := .next (s.fnCommand State.fnEnable)

/-- A reset by a manager command, busy until it completes. -/
def State.fnManaged (s : State) (f from_ : Nat) : State :=
  (s.modFn f fun x => { x with busy := true }).beginFnReset f from_ false

def State.fnDisable (s : State) (f : Nat) : State :=
  match (s.fn f).state with
  | .quiesced => s.fnManaged f 3
  | .active | .quiescing => s.fnRefused f 1
  | .disabled | .resetting => s.fnRefused f 2

/-- FUNCTION_DISABLE (R386). -/
def execFunctionDisable (s : State) : Host.Outcome State Fault Refusal := .next (s.fnCommand State.fnDisable)

def State.fnQuiesce (s : State) (f : Nat) : State :=
  if (s.fn f).state = .active then (s.modFn f fun x => { x with state := .quiescing, quiesceAt := s.tclk }).fnDone f else s.fnRefused f 2

/-- QUIESCE (R385). -/
def execQuiesce (s : State) : Host.Outcome State Fault Refusal := .next (s.fnCommand State.fnQuiesce)

/-- A quiescing function with nothing in flight becomes QUIESCED. -/
def State.fnQuiesced (s : State) (f : Nat) : State :=
  if (s.fn f).state = .quiescing ∧ s.inFlight f = 0 then (s.modFn f fun x => { x with state := .quiesced }).fnEvent f 1 0 else s

/-- QUIESCED (R385). -/
def execQuiesced (f : Nat) (s : State) : Host.Outcome State Fault Refusal :=
  if fnOk f then .next (if s.live then s.fnQuiesced f else s) else .next s

/-- Every doorbell record of a function read: of its SQs, its CQs and its error queue (R385). CQEs that are held are written as H allows. -/
def State.readDoors (s : State) (f : Nat) : State :=
  let s := s.sqs.foldl (fun (s : State) e =>
    if e.1 / 65536 = f ∧ s.serving f then
      match s.sq f (e.1 % 65536) with
      | some x => ((s.readDoor f (e.1 % 65536) x).1).fetch f (e.1 % 65536)
      | none => s
    else s) s
  let s := s.cqs.foldl (fun (s : State) e =>
    if e.1 / 65536 = f ∧ s.serving f then
      State.drainGo e.2.held.length (s.readHead f (e.1 % 65536)) f (e.1 % 65536)
    else s) s
  if s.serving f then s.readEqHead f else s

/-- The held triggered jobs of a function whose conditions hold take their turn in the order in which they were armed. -/
def State.reorderArmed (s : State) (f : Nat) : State :=
  State.markDue { s with armed := updAll (fun a => a.job.f == f) (fun a => { a with due := none }) s.armed }

def State.fnResume (s : State) (f : Nat) : State :=
  if (s.fn f).state = .quiesced then
    let s := (s.modFn f fun x => { x with state := .active }).reorderArmed f
    (((s.readDoors f).actWakes f).armHeld).fnDone f
  else s.fnRefused f 2

/-- FUNCTION_RESUME (R385). -/
def execFunctionResume (s : State) : Host.Outcome State Fault Refusal := .next (s.fnCommand State.fnResume)

def State.fnReset (force : Bool) (s : State) (f : Nat) : State :=
  let x := s.fn f
  match x.state with
  | .quiesced => s.fnManaged f 1
  | .active => s.fnRefused f 1
  | .quiescing =>
    if !force then s.fnRefused f 1 else if s.tclk < x.quiesceAt + 10000000 then s.fnRefused f 3 else s.fnManaged f 1
  | .disabled | .resetting => s.fnRefused f 2

/-- FUNCTION_RESET (R385). -/
def execFunctionReset (force : Bool) (s : State) : Host.Outcome State Fault Refusal := .next (s.fnCommand (State.fnReset force))

/-! ### PCIe events of functions (R365, R386) -/

/-- Every VF reset and disabled, one that has never been enabled included (the last row of Table 12.18). -/
def State.disableVfs (s : State) : State := ((List.range 255).map (· + 1)).foldl (fun (s : State) n => s.disableVf n) s

/-- A PCIe FLR; that of PF0 disables the VFs. -/
def State.flr (s : State) (f : Nat) : State :=
  let s := if f = 0 then s.disableVfs else s
  s.forceReset f false

/-- VFs 1 to count enabled where they are DISABLED. -/
def State.vfsOn (s : State) (count : Nat) : State :=
  ((List.range (Nat.min count 255)).map (· + 1)).foldl (fun (s : State) f =>
    if (s.fn f).state = .disabled then s.modFn f fun x => { x with state := .active, grant := {} } else s) s

/-- BARs placed from an address upwards, each aligned to its size; none where one does not fit below 2^44. -/
def placeBars : List Nat → Nat → Option (List (Nat × Nat))
  | [], _ => some []
  | n :: r, at_ =>
    let a := if n = 0 then at_ else roundUp at_ n
    if 2 ^ 44 < a + n then none else (placeBars r (a + n)).map fun l => (a, n) :: l

/-- The accelerator in root-port mode enumerated (R369). -/
def State.enumerate (s : State) (hp : Nat) (sizes : List Nat) : State :=
  match placeBars sizes 0x100000000 with
  | some l => s.modHp hp fun x => { x with up := true, bars := l, disabled := false }
  | none => (s.modHp hp fun x => { x with up := true, bars := [], disabled := true }).openEvent

def State.hostUp (s : State) (hp : Nat) (sizes : List Nat) : State :=
  if hp = 0 then
    let s := s.modHp 0 fun x => { x with up := true }
    (List.range 32).foldl (fun (s : State) n => if (s.peer n).valid then s.probe n else s) s
  else if (s.hp hp).mode = 2 then s.enumerate hp sizes
  else if (s.hp hp).mode = 1 then s.modHp hp fun x => { x with up := true }
  else s

/-- Every function of an endpoint port reset under R367. -/
def State.portFunctions (s : State) (hp : Nat) : State :=
  let s := s.modHp hp fun x => { x with up := false }
  (s.fnsWith fun f => fnPort f == hp).foldl (fun (s : State) f => s.forceReset f true) s

def State.isEndpoint (s : State) (hp : Nat) : Bool := hp == 0 || (s.hp hp).mode == 1

/-- What a host event does. PERST and a hot reset are ignored in root-port mode; there a port whose link went down is enumerated again once it
is up (R369). -/
def State.hostActs (s : State) (e : HostEvent) : State :=
  match e with
  | .flr f => s.flr f
  | .vfSet n => s.vfsOn n
  | .vfClear => s.disableVfs
  | .aer f => if s.fnPresent f then s.fnEvent f 4 0 else s
  | .reset hp => if s.isEndpoint hp then s.portFunctions hp else s
  | .down hp => if s.isEndpoint hp then s.portFunctions hp else s.modHp hp fun x => { x with up := false, bars := [], disabled := false }
  | .up hp bars => s.hostUp hp bars
  | .ltr hp v => if hp ≠ 0 ∧ (s.hp hp).mode = 2 then (s.modFn (256 + hp) fun x => { x with ltr := some v }).wakeDeep else s

/-- A host event: acted on at once, or, in an inventory stop, at the resume (R490; notes/assumptions/12.md). -/
def State.atHost (s : State) (e : HostEvent) : State :=
  if s.live then s.hostActs e
  else if s.activity = .running then s.modDbg fun d => { d with kept := d.kept ++ [e] }
  else s

/-- PCIE_FLR (R386). -/
def execPcieFlr (f : Nat) (s : State) : Host.Outcome State Fault Refusal :=
  if fnOk f then .next (s.atHost (.flr f)) else .next s

/-- VF_ENABLE_SET (R386). -/
def execVfEnableSet (count : Nat) (s : State) : Host.Outcome State Fault Refusal := .next (s.atHost (.vfSet count))

/-- VF_ENABLE_CLEAR (R386). -/
def execVfEnableClear (s : State) : Host.Outcome State Fault Refusal :=
  .next (s.atHost .vfClear)

/-- AER_UNCORRECTABLE_ERROR (R365, R388). -/
def execAerUncorrectableError (f : Nat) (s : State) : Host.Outcome State Fault Refusal :=
  if fnOk f then .next (s.atHost (.aer f)) else .next s

/-! ### Host ports (R363–R369, R155) -/

/-- The modes of HP1–HP3 in a value of HUB_HP_MODE; the reserved one is off. -/
def hpMode (value n : Nat) : Nat :=
  let m := bits value (2 * n - 1) (2 * n - 2)
  if m = 3 then 0 else m

/-- The first write of HUB_HP_MODE; later ones are ignored. -/
def State.setHpModes (s : State) (value : Nat) : State :=
  if (tget s.regs (regKey 0 0x010000)).isSome then s
  else
    let s := s.setWord 0 0x010000 (value % 64)
    [1, 2, 3].foldl (fun (s : State) n => s.modHp n fun x => { x with mode := hpMode value n }) s

/-- HP_MODE_WRITE (R364). -/
def execHpModeWrite (value : W32) (s : State) : Host.Outcome State Fault Refusal :=
  .next (if s.served then s.setHpModes value.toNat else s)

/-- HOST_LINK_UP (R369, R155). -/
def execHostLinkUp (hp : Nat) (bars : List Nat) (s : State) : Host.Outcome State Fault Refusal :=
  if hpOk hp then .next (s.atHost (.up hp bars)) else .next s

/-- PERST_ASSERT (R367); ignored in root-port mode (R369). -/
def execPerstAssert (hp : Nat) (s : State) : Host.Outcome State Fault Refusal :=
  if hpOk hp then .next (s.atHost (.reset hp)) else .next s

/-- HOT_RESET (R367). -/
def execHotReset (hp : Nat) (s : State) : Host.Outcome State Fault Refusal :=
  if hpOk hp then .next (s.atHost (.reset hp)) else .next s

/-- HOST_LINK_DOWN (R367); in root-port mode the port is enumerated again once the link is up (R369). -/
def execHostLinkDown (hp : Nat) (s : State) : Host.Outcome State Fault Refusal :=
  if hpOk hp then .next (s.atHost (.down hp)) else .next s

/-- The tolerance of an LTR message: the smaller of its values, a missing one being no requirement (R368). -/
def ltrValue (snoop noSnoop : Option Nat) : Option Nat :=
  match snoop, noSnoop with
  | some a, some b => some (Nat.min a b)
  | some a, none => some a
  | none, x => x

/-- LTR_MESSAGE (R368). -/
def execLtrMessage (hp : Nat) (snoop noSnoop : Option Nat) (s : State) : Host.Outcome State Fault Refusal :=
  if hpOk hp then .next (s.atHost (.ltr hp (ltrValue snoop noSnoop))) else .next s

/-! ### The mailbox (R380, R381) -/

/-- Whether a tenant's side of its mailbox is served: a DISABLED function's set-up registers are not (R386). -/
def State.boxServed (s : State) (f : Nat) : Bool := s.served && f != 0 && decide ((s.fn f).state ≠ .disabled)

/-- MBOX_SEND_TO_MGR (R381). -/
def execMboxSendToMgr (f : Nat) (s : State) : Host.Outcome State Fault Refusal :=
  if fnOk f then
    .next (if s.boxServed f && !(s.fn f).mgrFull then
      State.interrupt { (s.modFn f fun x => { x with mgrFull := true }) with mboxPend := addNew f s.mboxPend } 0 1
    else s)
  else .next s

/-- TEN_ACK (R381). An ack of an empty buffer releases nothing. -/
def execTenAck (f : Nat) (s : State) : Host.Outcome State Fault Refusal :=
  if fnOk f then
    .next (if s.boxServed f && (s.fn f).tenFull then (s.modFn f fun x => { x with tenFull := false }).interrupt 0 1 else s)
  else .next s

/-- Whether the manager's side of a function's mailbox is served: it lies in PF0's BAR, whatever the state of the function. -/
def State.mgrServed (s : State) (f : Nat) : Bool := s.served && f != 0

/-- MBOX_SEND_TO_TEN (R381). -/
def execMboxSendToTen (f : Nat) (s : State) : Host.Outcome State Fault Refusal :=
  if fnOk f then
    .next (if s.mgrServed f && !(s.fn f).tenFull then (s.modFn f fun x => { x with tenFull := true }).interrupt f 1 else s)
  else .next s

/-- MGR_ACK (R381). -/
def execMgrAck (f : Nat) (s : State) : Host.Outcome State Fault Refusal :=
  if fnOk f then
    .next (if s.mgrServed f && (s.fn f).mgrFull then (s.modFn f fun x => { x with mgrFull := false }).interrupt f 1 else s)
  else .next s

/-! ### Dirty-page logging (R389–R391) -/

/-- A write of HUB_DIRTY_CFG for the selected VF. -/
def State.dirtyWrite (s : State) (g : Dirty → Dirty) : State :=
  if s.served && decide (1 ≤ s.fnSel ∧ s.fnSel ≤ 255) then s.modFn s.fnSel fun x => { x with dirty := g x.dirty } else s

/-- Whether the six registers are as R389 requires. -/
def Dirty.ok (d : Dirty) : Bool :=
  [d.hostBase, d.hostLen, d.hostMap0, d.hostMap1, d.devMap0, d.devMap1].all (fun v => v.toNat % 4096 == 0) && decide (d.hostLen.toNat ≤ 2 ^ 44)

/-- VFs that log. -/
def State.loggers (s : State) : Nat := (s.fns.filter fun e => e.2.dirty.enable).length

/-- DIRTY_ENABLE (R389). -/
def execDirtyEnable (s : State) : Host.Outcome State Fault Refusal :=
  .next (s.dirtyWrite fun d =>
    if d.enable then d
    else if d.ok && decide (s.loggers < 16) then { d with enable := true, active := false, busy := false, cfgError := false }
    else { d with cfgError := true })

/-- DIRTY_DISABLE (R391). -/
def execDirtyDisable (s : State) : Host.Outcome State Fault Refusal := .next (s.dirtyWrite fun d => { d with enable := false })

/-- SWAP (R391). -/
def execSwap (s : State) : Host.Outcome State Fault Refusal :=
  .next (s.dirtyWrite fun d => if d.enable && !d.busy then { d with active := !d.active, busy := true } else d)

/-- SWAP_COMPLETE (R391). -/
def execSwapComplete (f : Nat) (s : State) : Host.Outcome State Fault Refusal :=
  if fnOk f then .next (if s.live then s.modFn f fun x => { x with dirty := { x.dirty with busy := false } } else s)
  else .next s

end Sys2Proof.Machine
end

