-- ==== Sys2Proof/Machine/Security.lean ====
section
/-! DEFINITION. The security island: attestation, the key exchange, key slots, the fuses, cipher parity, entropy and tamper
(chapter 13; R40, R57). -/

namespace Sys2Proof.Machine

/-! ### Attestation over DOE (R397–R400) -/

/-- The 16 bytes of measurement 3 and of SEC_FUSE_STATE: the fused minimum, the revocation bits, the bundle's key index and version. -/
def Fuses.measure (u : Fuses) (b : Bundle) : List Byte :=
  leBytes 4 u.minSvn ++ leBytes 4 u.revoked.toNat ++ leBytes 4 b.keyIndex ++ leBytes 4 b.svn

/-- The measurements of Table 13.3: those of the ROM and of the catalogue as the ROM has taken them at boot, and those of the bundle now that
it has been verified. -/
def State.measurements (s : State) (b : Bundle) : List (Nat × List Byte) :=
  let boot := fun (k : Nat) => s.sec.measures.filter fun m => m.1 == k
  boot 1 ++ [(2, b.digest), (3, s.fuses.measure b)] ++ boot 4 ++ [(5, leBytes 8 b.id.toNat)]

/-- The request codes of the requests that SEC supports, in the order in which R399 lists them (SPDM, DSP0274; notes/assumptions/66.md). -/
def spdmCodes : List Nat := [0x84, 0xE1, 0xE3, 0x81, 0x82, 0x83, 0xE0]

/-- The SPDM versions that SEC serves, 1.2 and 1.3, as SPDM writes them. -/
def spdmVersions : List Byte := [0x12, 0x13]

/-- Whether the bytes of a request are a request of a kind that SEC supports, in a version that it serves; GET_VERSION itself bears version 1.0 (DSP0274). -/
def spdmSupported (k : Nat) (request : List Byte) : Bool :=
  fld request 1 1 == spdmCodes.getD k 0 && (if k = 0 then fld request 0 1 == 0x10 else spdmVersions.contains (request.getD 0 0))

/-- ERROR, UnsupportedRequest, naming the request (DSP0274). -/
def spdmError (request : List Byte) : List Byte := [request.getD 0 0, 0x7F, 0x07, request.getD 1 0]

/-- What GET_CAPABILITIES is answered with: certificates, the challenge and signed measurements; no secure session, no mutual authentication and
no provisioning of certificates (R399; the bits of DSP0274). -/
def spdmCapabilities : List Byte := leBytes 4 (2 ^ 1 + 2 ^ 2 + 2 * 2 ^ 3)

/-- What NEGOTIATE_ALGORITHMS is answered with: TPM_ALG_ECDSA_ECC_NIST_P384 and TPM_ALG_SHA_384 (R399; the bits of DSP0274). -/
def spdmAlgorithms : List Byte := leBytes 4 (2 ^ 7) ++ leBytes 4 (2 ^ 1)

/-- An SPDM request answered by SEC over the DOE mailbox of PF0: requests are numbered in the order in which R399 lists them, ERROR is 7. `extra`
is what the response carries that the manual gives. -/
def State.spdm (s : State) (k : Nat) (request extra : List Byte) : State :=
  if !s.served then s
  else if !spdmSupported k request then s.modSec fun x => { x with answers := (7, spdmError request) :: x.answers, requests := x.requests + 1 }
  else
    let (d, s) := s.draw
    s.modSec fun x => { x with answers := (k, Config.spdmBody k (request ++ extra) d) :: x.answers, requests := x.requests + 1 }

/-- GET_VERSION (R399). -/
def execGetVersion (request : List Byte) (s : State) : Host.Outcome State Fault Refusal := .next (s.spdm 0 request spdmVersions)

/-- GET_CAPABILITIES (R399). -/
def execGetCapabilities (request : List Byte) (s : State) : Host.Outcome State Fault Refusal := .next (s.spdm 1 request spdmCapabilities)

/-- NEGOTIATE_ALGORITHMS (R399). -/
def execNegotiateAlgorithms (request : List Byte) (s : State) : Host.Outcome State Fault Refusal := .next (s.spdm 2 request spdmAlgorithms)

/-- GET_DIGESTS: the response carries the digest of the chain of slot 0 (R398, R399). -/
def execGetDigests (request : List Byte) (s : State) : Host.Outcome State Fault Refusal := .next (s.spdm 3 request (sha384 Config.certChain))

/-- GET_CERTIFICATE: the response carries the chain of slot 0 (R398). -/
def execGetCertificate (request : List Byte) (s : State) : Host.Outcome State Fault Refusal := .next (s.spdm 4 request Config.certChain)

/-- CHALLENGE: the response carries the identity key's signature over the request (R397, R399). -/
def execChallenge (request : List Byte) (s : State) : Host.Outcome State Fault Refusal :=
  .next (s.spdm 5 request (identitySign s.free request))

/-- The measurements of Table 13.3 as an answer carries them. -/
def Sec.measured (x : Sec) : List Byte := x.measures.flatMap fun m => leBytes 1 m.1 ++ m.2

/-- GET_MEASUREMENTS: the response carries the measurements, and the identity key's signature over the request and them (R397, R400). -/
def execGetMeasurements (request : List Byte) (s : State) : Host.Outcome State Fault Refusal :=
  .next (s.spdm 6 request (s.sec.measured ++ identitySign s.free (request ++ s.sec.measured)))

/-! ### The key exchange (R401, R416) -/

/-- The challenge and the manager's public key as SEC_KEX_CHAL and SEC_KEX_HOST hold them. -/
def State.kexChal (s : State) : List Byte := s.regBytes 0 0x110040 48
def State.kexHost (s : State) : List Byte := s.regBytes 0 0x110180 96

/-- Step 2 of R401. -/
def State.kexSign (s : State) : State :=
  if s.sec.entropyBad then s.modSec fun x => { x with kexResult := 3 }
  else
    let (d, s) := s.draw
    let (e, s) := s.draw
    let dev := ephemeralKey d
    let sig := identitySign e (dev ++ s.kexChal)
    s.modSec fun x => { x with pair := some d, kexDev := dev, kexSig := sig, kexResult := 0 }

/-- SIGN (R401). -/
def execSign (s : State) : Host.Outcome State Fault Refusal := .next (if s.served then s.kexSign else s)

/-- Step 4 of R401. A pair serves one agree. -/
def State.kexAgree (s : State) : State :=
  if s.sec.entropyBad then s.modSec fun x => { x with kexResult := 3 }
  else match s.sec.pair with
    | none => s.modSec fun x => { x with kexResult := 2 }
    | some d =>
      if p384Point s.kexHost then
        s.modSec fun x => { x with kek := some (deriveKek d s.kexHost), pair := none, kexResult := 0 }
      else s.modSec fun x => { x with kexResult := 1 }

/-- AGREE (R401). -/
def execAgree (s : State) : Host.Outcome State Fault Refusal := .next (if s.served then s.kexAgree else s)

/-! ### Key slots (R402, R413, R416) -/

/-- The selected slot and the wrapped key. -/
def State.slotSel (s : State) : Nat := bits (s.word 0 0x110200) 15 0
def State.slotWrap (s : State) : List Byte := s.regBytes 0 0x110240 40

/-- A QP or a group is bound to a slot. -/
def State.slotBound (s : State) (i : Nat) : Bool :=
  s.qps.any (fun e => e.2.encrypted && e.2.slot == i) || s.groups.any fun e => e.2.encrypted && e.2.slot == i

def State.slotResult (s : State) (n : Nat) : State := s.modSec fun x => { x with slotResult := n }

/-- LOAD into the selected slot. -/
def State.slotLoad (s : State) (epoch ctx : Nat) : State :=
  let i := s.slotSel
  if s.sec.entropyBad then s.slotResult 5
  else if s.slotBound i then s.slotResult 2
  else match s.sec.kek with
    | none => s.slotResult 3
    | some kek =>
      if (tget s.ctxs ctx).isNone then s.slotResult 4
      else match unwrapKey kek s.slotWrap with
        | none => s.slotResult 1
        | some key => (s.modKey i fun _ => { state := .loaded, key, epoch, ctx, n := 0 }).slotResult 0

/-- SLOT_LOAD (R402). -/
def execSlotLoad (word : W64) (s : State) : Host.Outcome State Fault Refusal :=
  .next (if s.served then s.slotLoad (bits word.toNat 31 16) (bits word.toNat 43 32) else s)

/-- ERASE of the selected slot. -/
def State.slotErase (s : State) : State :=
  let i := s.slotSel
  if s.slotBound i then s.slotResult 2
  else (s.modSec fun x => { x with slots := tdel x.slots i }).slotResult 0

/-- SLOT_ERASE (R402). The epoch and the context of the word are not used. -/
def execSlotErase (_word : W64) (s : State) : Host.Outcome State Fault Refusal := .next (if s.served then s.slotErase else s)

/-- A packet sent (or received) under a key slot: a QP bound to the slot has sent it (or is to receive it). -/
def State.underSlot (s : State) (slot : Nat) (sent : Bool) (p : Packet) : Bool :=
  p.encrypted && if sent then p.src == s.node && s.qps.any fun e => e.2.encrypted && e.2.slot == slot &&
      e.2.ends.any fun n => n.1 == p.dst && n.2.remoteQp == p.qp
    else (tget s.qps p.qp).any fun x => x.encrypted && x.slot == slot

/-- The packet that a port's cipher engine is at work on under a slot: the first frame of this node's own that waits to be sent there, or else
the first packet received there. -/
def TxFrame.sealed (test : Packet → Bool) (x : TxFrame) : Bool :=
  match x.kind with
  | .zft p _ => test p
  | _ => false

def dropOne {α : Type} (p : α → Bool) (l : List α) : List α := (takeFirst p l).elim l (·.2)

/-- A frame that waits to be sent taken away; on a direct port the credit that it has spent is its own again. -/
def State.unqueue (s : State) (p sub : Nat) (out : TxFrame → Bool) : State :=
  match takeFirst out (s.sub p sub).queue with
  | none => s
  | some (f, l) =>
    let s := s.modSub p sub fun x => { x with queue := l }
    match f.kind with
    | .zft k _ =>
      if s.portSwitched p then s
      else s.modPort p fun x => { x with spent := tmodD x.spent (poolOf k.vc k.epoch) 0 fun v => (v + 2 ^ 32 - k.credits) % 2 ^ 32 }
    | _ => s

def State.dropInProcess (s : State) (p slot : Nat) : State :=
  let out := TxFrame.sealed (s.underSlot slot true)
  match (s.port p).subs.find? fun e => e.2.queue.any out with
  | some e => s.unqueue p e.1 out
  | none =>
    match takeFirst (fun a => a.port == p && s.underSlot slot false a.pkt) s.arrived with
    | some (a, l) => if a.buffered then State.freeCredit { s with arrived := l } p a.pkt else { s with arrived := l }
    | none => s

/-- The packets that took a value from a slot in this cycle, which their timestamps tell, and are not yet sent: on whatever port they wait, they are
not sent either (R413). -/
def State.dropSameCycle (s : State) (slot : Nat) : State :=
  let late := fun (k : Packet) => s.underSlot slot true k && k.ts == BitVec.ofNat 32 s.time
  let s := (List.range 16).foldl (fun (s : State) p =>
    (s.port p).subs.foldl (fun (s : State) e => (List.range e.2.queue.length).foldl (fun (s : State) _ => s.unqueue p e.1 (TxFrame.sealed late)) s) s) s
  ((s.local_.filter fun w => late w.pkt).map fun w => poolOf w.pkt.vc w.pkt.epoch).foldl (fun (s : State) pool =>
    let l := dropOne (fun (w : Waiting) => late w.pkt && poolOf w.pkt.vc w.pkt.epoch == pool) s.local_
    let rec head : List Waiting → List Waiting
      | [] => []
      | x :: r => if poolOf x.pkt.vc x.pkt.epoch == pool then { x with headAt := some (x.headAt.getD s.tclk) } :: r else x :: head r
    { s with local_ := head l }) s

/-- A parity fault of a cipher engine with a slot in use. -/
def State.parityFault (s : State) (p slot : Nat) : State :=
  let s := ((s.count 0x09 p 3 1).dropInProcess p slot).dropSameCycle slot
  if (s.keySlot slot).state = .loaded then s.slotLost slot .invalid 4 p else s

/-- CIPHER_PARITY_FAULT (R413). -/
def execCipherParityFault (p slot : Nat) (s : State) : Host.Outcome State Fault Refusal :=
  if portOk p then .next (if s.live then s.parityFault p slot else s) else .next s

/-! ### Fuses (R396) -/

/-- COMMIT_SVN (R396). -/
def execCommitSvn (s : State) : Host.Outcome State Fault Refusal :=
  .next (if s.served then
    match s.boot.running with
    | some b => { s with fuses := { s.fuses with minSvn := Nat.max s.fuses.minSvn b.svn } }
    | none => s
  else s)

/-- Whether the running bundle was signed under an unrevoked index greater than k. -/
def State.mayRevoke (s : State) (k : Nat) : Bool :=
  s.boot.running.any fun b => decide (k < b.keyIndex) && !s.fuses.revoked.getLsbD b.keyIndex

/-- REVOKE (R396). -/
def execRevoke (k : Nat) (s : State) : Host.Outcome State Fault Refusal :=
  if k ≤ 3 then
    .next (if s.served && s.mayRevoke k then { s with fuses := { s.fuses with revoked := s.fuses.revoked ||| (1#4 <<< k) } } else s)
  else .next s

/-! ### Entropy, tamper, clock and temperature (R40, R57, R416–R418) -/

/-- ENTROPY_FAILURE (R416). -/
def execEntropyFailure (s : State) : Host.Outcome State Fault Refusal :=
  .next (if s.live then (s.modSec fun x => { x with entropyBad := true }).openEvent else s)

/-- Every key and what SEC worked on zeroed (R418 step 1). -/
def Sec.erased (x : Sec) : Sec := { x with slots := [], kek := none, pair := none, kexDev := [], kexSig := [] }

/-- The package is powered and out of reset, so that the island's sensors work. -/
def State.sensing (s : State) : Bool := decide (s.activity = .running ∨ s.activity = .stopped)

/-- Tamper conditions, by their bits in Table 14.9. Conditions that follow one another without a PORST_N between them share a record. -/
def State.tamper (s : State) (sources : BitVec 4) : State :=
  if !s.sensing || sources == 0 then s
  else
    let first := !s.lands.alarm
    let s := s.modJournal fun n => { n with
      tamper := if first then sources else n.tamper ||| sources
      tamperAt := if first then s.time else n.tamperAt
      tamperNew := true }
    { s with sec := s.sec.erased, lands := { s.lands with alarm := true }, activity := .stopped }

/-- TAMPER (R418). -/
def execTamper (sources : BitVec 4) (s : State) : Host.Outcome State Fault Refusal := .next (s.tamper sources)

/-- CLOCK_LOSS (R40): the island takes it as the clock condition. -/
def execClockLoss (s : State) : Host.Outcome State Fault Refusal := .next (s.tamper 2)

/-- THERMAL_TRIP (R57). -/
def execThermalTrip (die : Nat) (reading : W32) (s : State) : Host.Outcome State Fault Refusal :=
  if die ≤ 2 then
    .next (if s.sensing then
      { (s.modJournal fun n => { n with trip := some (die, reading) }) with lands := { s.lands with thermtrip := true }, activity := .stopped }
    else s)
  else .next s

end Sys2Proof.Machine
end

