-- ==== Sys2Proof/Machine/Boot.lean ====
section
/-! DEFINITION. The start of the package, the firmware bundle, the boot report, failed starts and service, processor restarts, PORST_N and
the removal of power (R419–R443, R476). -/

namespace Sys2Proof.Machine

/-! ### PORST_N and power (R419, R420, R444, R476) -/

/-- Deassertion of PORST_N: the node ID is sampled, the reset is entered in its log, and Table 14.1 runs. -/
def State.startPackage (s : State) : State :=
  let l := s.lands
  let node := if l.i3cValid then l.i3cNode else l.straps
  let first := s.nor.firstReset
  let was := s.nor.outOfSvc
  let s := (s.modBoot fun b => { b with node, source := if l.i3cValid then 1 else 0 }).countReset
  State.outOfServiceEvent (State.startUp { s.wiped with lands := { l with porst := false } } (if first then 1 else 2)) was

/-- PACKAGE_START (R419). From the unpowered state, power is applied first (R476). -/
def execPackageStart (s : State) : Host.Outcome State Fault Refusal :=
  .next (if s.activity = .held ∨ s.activity = .unpowered then s.startPackage else s)

/-- Assertion of PORST_N: the outputs it clears, and everything that a package reset clears. -/
def State.porstHold (s : State) : State :=
  let s := if s.activity = .running then s.stampPowered else s
  { s.wiped with
    activity := .held
    lands := { s.lands with porst := true, alarm := false, thermtrip := false, stopOut := false, i3cValid := false } }

/-- PORST_N_ASSERT (R444). -/
def execPorstNAssert (s : State) : Host.Outcome State Fault Refusal :=
  .next (if s.activity = .running ∨ s.activity = .stopped then s.porstHold else s)

/-- I3C_NODE_WRITE (R420). -/
def execI3cNodeWrite (valid : Bool) (node : BitVec 16) (s : State) : Host.Outcome State Fault Refusal :=
  .next (if s.activity = .held ∨ s.activity = .unpowered then { s with lands := { s.lands with i3cValid := valid, i3cNode := node } } else s)

/-- Power removed: what is pending is written to the NOR during the hold time of VDD_AUX, and all else is lost. -/
def State.powerOff (s : State) : State :=
  let s := s.nor.unwritten.foldl (fun (s : State) e => s.rewriteField (addEntry s.nor.field e).1) s
  let n := ({ s.nor with unwritten := [], firstReset := true, cycled := s.nor.cycled || s.nor.outOfSvc } : Nor).journaled
  let t := s.wiped
  { t with
    activity := .unpowered, nor := n, boot := { t.boot with node := 0, source := 0 }
    lands := { s.lands with porst := true, alarm := false, thermtrip := false, stopOut := false, i3cValid := false, i3cNode := 0 } }

/-- POWER_REMOVAL (R476). -/
def execPowerRemoval (s : State) : Host.Outcome State Fault Refusal := .next s.powerOff

/-! ### HUB_LOAD_CTRL (R425) -/

/-- Whether a write of HUB_LOAD_CTRL is acted on: it lies in the hardware core, which an inventory stop leaves served (R425, R490). -/
def State.loadServed (s : State) : Bool := decide (s.activity = .running) && !s.boot.busy

def State.loadResult (s : State) (n : Nat) : State := s.modBoot fun b => { b with result := n }

/-- The staging area: the first 16 MiB of the plan store. -/
def staging : Nat := 0x117FE0000000

/-- The stack of G5 in which a line of the staging area lies is counted, as every byte is at its port (R480). -/
def State.countStaged (s : State) (a n : Nat) : State :=
  (List.range (n / 64)).foldl (fun (s : State) i =>
    let r := s.region (a + 64 * i)
    s.count (tierCounter r).1 (tierCounter r).2 1 64) s

/-- The window's 512 KiB copied into the staging area. -/
def State.stageBlock (s : State) (n : Nat) : State :=
  let dst := staging + n % 32 * 0x80000
  let cells := s.boot.window.cells.filter fun c => decide (c.1 < 0x80000)
  let t := s.tiers.clean fun a => decide (dst ≤ a ∧ a < dst + 0x80000)
  State.countStaged { s with tiers := { t with mem := cells.foldl (fun (m : Mem) c => m.put (dst + c.1) c.2) (t.mem.clear dst 0x80000) } } dst 0x80000

/-- BLOCK (R425). -/
def execBlock (n : Nat) (s : State) : Host.Outcome State Fault Refusal :=
  .next (if s.loadServed then (if s.boot.stage = 1 then (s.stageBlock n).loadResult 0 else s.loadResult 1) else s)

/-! ### The bundle (R426, R427) -/

/-- The image table of a bundle. -/
def bundleImages (l : List Byte) : List Image :=
  (List.range 9).map fun i =>
    let o := 64 + 64 * i
    { target := fld l o 1, offset := fld l (o + 4) 4, length := fld l (o + 8) 4, digest := slice l (o + 16) 48 }

/-- Tables 14.4, 14.5 and 14.7, and every image within the bundle. -/
def manifestOk (l : List Byte) : Bool :=
  let im := bundleImages l
  decide (fld l 0 4 = 0x4C444E42 ∧ fld l 4 1 = 1 ∧ fld l 5 1 = 9) && zeroAt l 6 2 && decide (fld l 16 2 < 4) &&
  decide (fld l 18 1 ≤ fld l 19 1) && decide (fld l 24 16 < 32) && zeroAt l 40 24 && zeroAt l 640 3456 &&
  (List.range 9).all (fun t => im.any fun x => x.target == t) &&
  (List.range 9).all (fun i => zeroAt l (65 + 64 * i) 3 && zeroAt l (76 + 64 * i) 4) &&
  im.all fun x => x.offset % 4096 == 0 && decide (1 ≤ x.length ∧ x.length ≤ (if x.target = 7 then 0x100000 else 0x200000)) &&
    decide (x.offset + x.length ≤ l.length)

def readBundle (l : List Byte) : Bundle :=
  let b := l.drop (l.length - 3072)
  { id := BitVec.ofNat 64 (fld l 8 8), keyIndex := fld b 2 1, svn := fld b 4 4, lowMajor := fld l 18 1, highMajor := fld l 19 1,
    minor := fld l 20 2, zft := BitVec.ofNat 16 (fld l 22 2), features := BitVec.ofNat 128 (fld l 24 16), digest := sha384 l,
    images := bundleImages l }

/-- The first check of R427 that a bundle fails: its cause and detail. -/
def State.bundleRefused (s : State) (l : List Byte) : Option (Nat × Nat) :=
  match s.fuses.refuses l with
  | some n => some (2, n)
  | none =>
    if !manifestOk l then some (3, 0)
    else if !bit (fld l 16 2) Config.stepping.toNat then some (4, 0)
    else if (bundleImages l).any fun x => sha384 (slice l x.offset x.length) != x.digest then some (5, 0)
    else none

/-- A start refused: the processors are stopped, and the ROM agent runs on, unless the package enters vestibule mode (R427, R433). -/
def State.startFails (s : State) (cause unit detail : Nat) : State :=
  let s := s.modBoot fun b => { b with stage := 1, busy := false, result := 3, running := none }
  State.failedStart { s with procs := [] } 6 cause unit detail

/-- The images of a bundle written to a gallery's firmware copy. -/
def State.writeCopy (s : State) (b : Bundle) (l : List Byte) (g : Nat) : State :=
  match (s.gal g).fwHome with
  | none => s
  | some c => s.putImages c (b.copied.map fun x => (x, slice l x.offset x.length))

/-- A target's image in a bundle. -/
def Bundle.imageOf (b : Bundle) (l : List Byte) (target : Nat) : List Byte :=
  (b.images.find? fun x => x.target == target).elim [] fun x => slice l x.offset x.length

/-- An accepted bundle, of which l are the bytes, loaded and the processors released (R427 step 5). -/
def State.release (s : State) (b : Bundle) (l : List Byte) : State :=
  let s := (s.writeCopy b l 0).writeCopy b l 3
  let s := (s.modSec fun x => { x with measures := s.measurements b, retained := b.imageOf l 7 }).bootEvent 5 0 0 0
  let s := s.modBoot fun x => { x with stage := 2, busy := true, running := some b, startBy := s.tclk + 500000000 }
  { s with procs := (List.range 8).map fun p => (p, ({ released := true, image := b.imageOf l p } : Proc)) }

/-- START over the staged bundle of len pages. Of a bundle with an uncorrectable line no byte of that line is delivered (R331), so that its
signatures cannot verify: it is refused as at check 5 of R394 (notes/assumptions/69.md). -/
def State.startBundle (s : State) (len : Nat) : State :=
  if s.boot.stage ≠ 1 then s.loadResult 1
  else if len = 0 ∨ 4096 < len then s.loadResult 2
  else if !s.boot.romOk then s.loadResult 3
  else
    match s.readOwn staging (len * 4096) with
    | (s, none) => s.startFails 2 0 5
    | (s, some l) =>
      match s.bundleRefused l with
      | some (cause, detail) => s.startFails cause 0 detail
      | none => s.release (readBundle l) l

/-- START (R427). -/
def execStart (len : Nat) (s : State) : Host.Outcome State Fault Refusal := .next (if s.loadServed then s.startBundle len else s)

def State.proc (s : State) (p : Nat) : Proc := tgetD s.procs p {}
def State.modProc (s : State) (p : Nat) (g : Proc → Proc) : State := { s with procs := tmodD s.procs p {} g }

/-- Every processor has reported: stage 3 (R427 step 7), from which the galleries' conservation cycles count (R466). -/
def State.running3 (s : State) (b : Bundle) : State :=
  let s := (s.modBoot fun x => { x with stage := 3, busy := false, result := 0, ifMajor := b.highMajor }).bootEvent 7 0 0 0
  let now := s.poweredNow
  (List.range 6).foldl (fun (s : State) g => s.modGal g fun x => { x with cons := { x.cons with due := now + g * 14400000 } }) s

/-- A processor reports ready with the bundle ID that it holds (R427 step 6). -/
def State.procReady (s : State) (p : Nat) (id : W64) : State :=
  match s.boot.running with
  | none => s
  | some b =>
    if s.boot.stage ≠ 2 ∨ !(s.proc p).released ∨ (s.proc p).ready then s
    else if id ≠ b.id then s.startFails 5 p 0
    else
      let s := s.modProc p fun x => { x with ready := true }
      if s.procs.all fun e => e.2.ready then s.running3 b else s

/-- PROCESSOR_READY (R427). -/
def execProcessorReady (proc : Nat) (bundle : W64) (s : State) : Host.Outcome State Fault Refusal :=
  if proc ≤ 7 then .next (if s.live then s.procReady proc bundle else s) else .next s

/-- START_TIMEOUT (R427). -/
def execStartTimeout (s : State) : Host.Outcome State Fault Refusal :=
  .next (if s.live && s.boot.stage == 2 && decide (s.boot.startBy ≤ s.tclk) then
    s.startFails 6 ((s.procs.find? fun e => !e.2.ready).elim 0 (·.1)) 0
  else s)

/-! ### The boot report (R437) -/

def BootEvent.bytes (e : BootEvent) : List Byte :=
  leBytes 8 e.at_ ++ leBytes 1 e.event ++ leBytes 1 e.cause ++ leBytes 2 e.unit ++ leBytes 4 e.detail

/-- Bytes 0–63 of the boot report. -/
def State.reportHead (s : State) : List Byte :=
  let b := s.boot
  let n := s.nor
  leBytes 1 0x70 ++ leBytes 1 1 ++ leBytes 1 b.stage ++ leBytes 1 b.cause ++ leBytes 2 b.node.toNat ++ leBytes 1 0 ++ leBytes 1 b.source ++
  leBytes 8 (b.running.elim 0 (·.id.toNat)) ++ leBytes 1 s.failedStarts ++ leBytes 1 s.resetCount ++ leBytes 1 (ofBool b.romOk) ++
  leBytes 1 (ofBool n.vestibule + 2 * ofBool n.outOfSvc + 4 * b.second.toNat) ++ leBytes 1 n.tamper.toNat ++ leBytes 3 0 ++
  leBytes 8 n.tamperAt ++ leBytes 8 s.poweredNow ++ List.replicate 24 0

/-- The 4,096 bytes of Table 14.9. -/
def State.bootReport (s : State) : List Byte :=
  let l := s.reportHead ++ (s.boot.events.take 16).flatMap BootEvent.bytes
  l ++ List.replicate (4096 - l.length) 0

/-- BOOT_REPORT (R437). -/
def execBootReport (s : State) : Host.Outcome State Fault Refusal :=
  .next (if s.loadServed then (s.modBoot fun b => { b with window := b.window.write 0 s.bootReport }).loadResult 0 else s)

/-! ### Vestibule mode, service and the commanded reset (R433–R436, R444) -/

/-- CLEAR_FAILURES (R435). -/
def execClearFailures (s : State) : Host.Outcome State Fault Refusal :=
  .next (if s.loadServed then
    if s.boot.stage = 4 then
      ((s.modJournal fun n => { n with failed := [], vestibule := false }).packageReset true).bootEvent 12 0 0 0
    else s.loadResult 1
  else s)

/-- CLEAR_SERVICE (R436). -/
def execClearService (s : State) : Host.Outcome State Fault Refusal :=
  .next (if s.loadServed then
    if s.boot.stage ≠ 5 then s.loadResult 1
    else if !s.nor.cycled then s.loadResult 4
    else ((s.modJournal fun n => { n with resets := [], outOfSvc := false, cycled := false }).packageReset false).bootEvent 12 0 0 0
  else s)

/-- PACKAGE_RESET (R444). -/
def execPackageReset (s : State) : Host.Outcome State Fault Refusal := .next (if s.loadServed then s.fencePackage 0 0 else s)

/-- POWERED_TIME_UPDATE (R432). -/
def execPoweredTimeUpdate (s : State) : Host.Outcome State Fault Refusal :=
  .next (if s.live && decide (s.nor.poweredAt + 60000000000 ≤ s.time) then s.stampPowered else s)

/-! ### Processor restarts (R438–R443) -/

/-- The copy that a processor restarts from, 0 G0, 1 G3, 2 the island's, and its image from there (R439). -/
def State.reload (s : State) (b : Bundle) (p : Nat) : State × Option (Nat × List Byte) :=
  if p = 7 then (s, some (2, s.sec.retained))
  else match b.images.find? fun x => x.target == p with
    | none => (s, none)
    | some x =>
      match s.loadImage 0 x with
      | (s, some l) => (s, some (0, l))
      | (s, none) =>
        match s.loadImage 3 x with
        | (s, some l) => (s, some (1, l))
        | (s, none) => (s, none)

/-- The restart record. The dispatch pause of an SP is a free value of at most 20 µs. -/
def State.restartRecord (s : State) (p cause copy crashes : Nat) : List Byte × State :=
  let (d, s) := s.draw
  let pause := if 1 ≤ p ∧ p ≤ 4 then Config.freeNat d % 20001 else 0
  (leBytes 1 0x76 ++ leBytes 1 1 ++ leBytes 1 p ++ leBytes 1 cause ++ leBytes 1 copy ++ leBytes 1 crashes ++ leBytes 2 0 ++
   leBytes 4 pause ++ List.replicate 16 0 ++ leBytes 4 s.time, s)

/-- A processor's watchdog fires. The fourth crash within 1 s fences the package; with no good copy of the image the package is reset. -/
def State.crash (s : State) (p cause : Nat) : State :=
  match s.boot.running with
  | none => s
  | some b =>
    if !(s.proc p).released then s
    else
      let s := s.modProc p fun x => { x with crashes := s.tclk :: x.crashes.filter fun t => decide (s.tclk ≤ t + 1000000000) }
      let n := (s.proc p).crashes.length
      if 4 ≤ n then s.fencePackage 1 p
      else match s.reload b p with
        | (s, none) => s.fencePackage 2 p
        | (s, some (copy, image)) =>
          let s := s.modProc p fun x => { x with image := image }
          let (l, s) := (s.bootEvent 8 0 p cause).restartRecord p cause copy n
          let s := if p = 7 then s.modSec fun x => { x with pair := none } else s
          (s.record 0 l).event 5

/-- WATCHDOG_FIRE (R438): 1 timeout, 2 trap, 3 memory error. -/
def execWatchdogFire (proc cause : Nat) (s : State) : Host.Outcome State Fault Refusal :=
  if proc ≤ 7 then .next (if s.live && decide (1 ≤ cause ∧ cause ≤ 3) then s.crash proc cause else s) else .next s

/-- IPC_MESSAGE (R440). A message with the right bundle ID is the firmware's own concern. -/
def execIpcMessage (sender : Nat) (bundle : W64) (s : State) : Host.Outcome State Fault Refusal :=
  if sender ≤ 7 then
    .next (if s.live && s.boot.running.any (fun b => b.id != bundle) then s.crash sender 4 else s)
  else .next s

end Sys2Proof.Machine
end

