-- ==== Sys2Proof/Machine/Observe.lean ====
section
/-! DEFINITION. Logs, counters, snapshots and the inventory stop (R451, R478–R496). -/

namespace Sys2Proof.Machine

/-! ### Logs (R451) -/

/-- The graph records with one built now, where the command asks for it: its root is the function's admin queue. -/
def State.graphNow (s : State) (j : Job) : State := if bit (j.arg 18 1) 0 then s.keepGraph 3 (s.queueNode j.f 0) else s

def State.doGetLog (s : State) (j : Job) : State × Answer :=
  let log := j.arg 16 1
  let i := j.arg 17 1
  let out := fun (s : State) (l : List Byte) => s.adminWrite j (s.firstCtx j.f) (j.arg 24 8) l (.ok 0)
  if 1 < j.arg 18 1 then (s, .refuse .argument)
  else if log = 1 then
    if j.f ≠ 0 then (s, .refuse .permission) else if i ≠ 0 then (s, .refuse .unknown) else out s s.bootReport
  else if log = 2 then
    let s := s.graphNow j
    match s.recov.graphs[i]? with
    | none => (s, .refuse .unknown)
    | some l => out s (graphFor j.f l)
  else (s, .refuse .argument)

/-- GET_LOG (R451). -/
def execGetLog (f : Nat) (s : State) : Host.Outcome State Fault Refusal :=
  if fnOk f then .next (s.admin f 0x2C none [(16, 3), (24, 8)] fun s j => s.doGetLog j) else .next s

/-! ### Counters (R478–R483) -/

/-- The counters of the sub-ports, by counter ID. -/
def State.macCounters (s : State) : Tab W64 :=
  s.ports.flatMap fun p => p.2.subs.flatMap fun x => x.2.stats.map fun c => (counterId 0x0A (p.1 * 8 + x.1) c.1, c.2)

/-- Every counter that has counted, in ascending ID. -/
def State.allCounters (s : State) : Tab W64 := s.macCounters.foldl (fun (t : Tab W64) c => tset t c.1 c.2) s.counters

/-- Counters of what the model does not carry out: bytes on the die-to-die links and flits corrected there, accesses by host processors,
timetable slots used. A sample of one is a free value. -/
def uncounted (id : Nat) : Bool :=
  let i := id % 2 ^ 12
  match id / 2 ^ 24 with
  | 0x04 => i == 0 || i == 1 || i == 3
  | 0x06 => i == 2 || i == 5
  | 0x0B => decide (i < 16)
  | _ => false

/-- The values of n counters from an ID on, taken from a table. -/
def State.sampleCounters (s : State) (t : Tab W64) (id n : Nat) : List W64 × State :=
  let (d, s) := s.draw
  ((List.range n).map fun k => if uncounted (id + k) then BitVec.ofNat 64 (Config.freeNat d / 2 ^ (64 * k)) else tgetD t (id + k) 0, s)

/-- The counters from an ID on cleared. -/
def State.clearCounters (s : State) (id n : Nat) : State :=
  let out := fun (k : Nat) => !decide (id ≤ k ∧ k < id + n)
  { s with
    counters := s.counters.filter fun (c : Nat × W64) => out c.1
    ports := s.ports.map fun (p : Nat × Port) => (p.1, { p.2 with
      subs := p.2.subs.map fun (x : Nat × SubPort) => (x.1, { x.2 with
        stats := x.2.stats.filter fun (c : Nat × W64) => out (counterId 0x0A (p.1 * 8 + x.1) c.1) }) }) }

def State.doReadCounters (s : State) (j : Job) : State × Answer :=
  let id := j.arg 16 4
  let n := j.arg 20 2
  let fl := j.arg 22 1
  if 2 < fl ∨ n = 0 ∨ 512 < n ∨ 4096 < id % 4096 + n then (s, .refuse .argument)
  else if j.f ≠ 0 ∧ (id / 2 ^ 24 ≠ 0x07 ∨ id / 2 ^ 12 % 2 ^ 12 ≠ j.f) then (s, .refuse .permission)
  else
    let shadow := bit fl 0
    let (l, s) := s.sampleCounters (if shadow then s.dbg.shadow else s.allCounters) id n
    let result := if shadow then s.dbg.snapSeq else s.time
    match s.adminBuf j.f (s.firstCtx j.f) (j.arg 24 8) (8 * n) .write with
    | .error a => (s, a)
    | .ok _ =>
      let s := if bit fl 1 then s.clearCounters id n else s
      s.adminWrite j (s.firstCtx j.f) (j.arg 24 8) (l.flatMap fun v => leBytes 8 v.toNat) (.ok result)

/-- READ_COUNTERS (R482). -/
def execReadCounters (f : Nat) (s : State) : Host.Outcome State Fault Refusal :=
  if fnOk f then .next (s.admin f 0x2D none [(16, 7), (24, 8)] fun s j => s.doReadCounters j) else .next s

/-! ### Snapshots (R484, R485, R492) -/

/-- The DBG_ registers are served: by MP firmware, and by hub logic in an inventory stop (R490, R499). -/
def State.dbgServed (s : State) : Bool := decide (s.activity = .running) && s.boot.stage == 3

/-- SNAPSHOT_TAKE (R484). -/
def execSnapshotTake (s : State) : Host.Outcome State Fault Refusal := .next (if s.dbgServed then s.snapTrigger 1 else s)

/-- SNAPSHOT_RELEASE (R485). -/
def execSnapshotRelease (s : State) : Host.Outcome State Fault Refusal :=
  .next (if s.dbgServed then s.modDbg fun d => { d with held := false } else s)

/-- The snapshot timer, started by a write of the period. -/
def State.snapTimer (s : State) : State :=
  match s.dbg.timerAt with
  | some t => if t ≤ s.tclk then (s.modDbg fun d => { d with timerAt := some (t + s.snapPeriod * 1000000) }).snapTrigger 2 else s
  | none => s

/-- SNAPSHOT_TIMER (R484). -/
def execSnapshotTimer (s : State) : Host.Outcome State Fault Refusal := .next (if s.live then s.snapTimer else s)

/-- A record put before every gallery (Table 16.5). -/
def State.traceAll (s : State) (ty : Nat) (tail : List Byte) : State :=
  (List.range 6).foldl (fun (s : State) g => s.trace g ty 0xFFFF 0 0 0xFFFF tail) s

/-- The snapshot edge: every counter is copied into the shadow. -/
def State.snapEdge (s : State) : State :=
  match s.dbg.snapDue with
  | some t =>
    if s.time < t then s
    else
      let shadow := s.allCounters
      let seq := (s.dbg.snapSeq + 1) % 65536
      let mask := s.dbg.snapTrig
      let s := s.modDbg fun d => { d with snapDue := none, snapTrig := 0, shadow, snapSeq := seq, trigger := mask, held := s.snapHold }
      let s := if bit (s.word 0 0x120020) 3 then { s with lands := { s.lands with stopPulses := s.lands.stopPulses + 1 } } else s
      s.traceAll 0x0E (leBytes 2 seq ++ leBytes 1 mask ++ List.replicate 13 0)
  | none => s

/-- SNAPSHOT_EDGE (R484). -/
def execSnapshotEdge (s : State) : Host.Outcome State Fault Refusal := .next (if s.activity = .running then s.snapEdge else s)

/-! ### The inventory stop (R490–R494) -/

/-- STOP (R491). -/
def execStop (s : State) : Host.Outcome State Fault Refusal := .next (if s.dbgServed then s.stopTrigger 1 else s)

/-- STOP_IN: a rising edge (R484, R491). -/
def execStopIn (s : State) : Host.Outcome State Fault Refusal :=
  .next (if s.activity = .running then
    let s := if bit (s.word 0 0x120020) 0 then s.snapTrigger 4 else s
    if bit (s.word 0 0x120020) 1 then s.stopTrigger 2 else s
  else s)

/-- The STOP record: 0 stop, 1 resume. -/
def State.stopRecord (s : State) (event : Nat) : State :=
  s.traceAll 0x10 (leBytes 1 event ++ leBytes 1 s.dbg.cause ++ leBytes 1 (ofBool s.dbg.landed) ++ List.replicate 13 0)

/-- The halt edge. -/
def State.haltEdge (s : State) : State :=
  match s.dbg.haltDue with
  | some t =>
    if s.time < t ∨ s.dbg.stop ≠ .pending then s
    else
      let landed := s.tvesAtRest
      (s.modDbg fun d => { d with stop := .stopped, haltDue := none, landed, result := 0, scanned := 0, haltAt := s.time }).stopRecord 0
  | none => s

/-- STOP_HALT (R490). -/
def execStopHalt (s : State) : Host.Outcome State Fault Refusal := .next (if s.live then s.haltEdge else s)

/-- BOUNDARY_WAIT_EXPIRE (R493). -/
def execBoundaryWaitExpire (s : State) : Host.Outcome State Fault Refusal :=
  .next (if s.live && s.dbg.stop == .pending && s.dbg.boundBy.any (fun t => decide (t ≤ s.tclk)) then s.stopTaken else s)

/-! ### The scan (R494–R496) -/

def State.scanBase (s : State) : Nat := s.dword 0 0x120030 / 4096 * 4096
def State.scanLen (s : State) : Nat := s.dword 0 0x120038

/-- The present logical clusters. -/
def State.presents (s : State) : List Nat := (List.range 48).filter s.present

/-- The counter IDs of a block: instances 0 to n − 1, each with the same indices. -/
def blockIds (block n : Nat) (idx : List Nat) : List Nat := (List.range n).flatMap fun i => idx.map (counterId block i)

/-- k indices from one on. -/
def idxFrom (a k : Nat) : List Nat := (List.range k).map (a + ·)

/-- The indices of Table 11.12. -/
def macIdx : List Nat :=
  idxFrom 0 7 ++ idxFrom 0x08 8 ++ idxFrom 0x10 23 ++ idxFrom 0x40 6 ++ idxFrom 0x48 8 ++ idxFrom 0x50 12

/-- Every counter of Table 16.1. -/
def State.counterIds (s : State) : List Nat :=
  blockIds 0x01 48 (idxFrom 0 5) ++ blockIds 0x02 24 (idxFrom 0 5 ++ idxFrom 0x40 64) ++ blockIds 0x03 20 ([0, 1, 2, 4] ++ idxFrom 0x40 20) ++
  blockIds 0x04 3 (idxFrom 0 4) ++ blockIds 0x05 16 (idxFrom 0 10 ++ idxFrom 0x10 10 ++ idxFrom 0x20 10 ++ idxFrom 0x40 19) ++ blockIds 0x06 4 (idxFrom 0 6) ++
  ((List.range 256 ++ [257, 258, 259]).flatMap fun f => (idxFrom 0 12).map (counterId 0x07 f)) ++ blockIds 0x08 2 (idxFrom 0 5) ++
  blockIds 0x09 16 (idxFrom 0 4) ++ ((List.range 16).flatMap fun p => (List.range (s.subCount p)).flatMap fun i => macIdx.map (counterId 0x0A (p * 8 + i))) ++
  blockIds 0x0B 6 (idxFrom 0 21)

/-- The counters that a section of counters holds, with the values of a table: those that have counted and those whose value is free; then the
others, which are zero, as far as the 4,096 records of R496's example go (notes/assumptions/71.md). -/
def State.recordIds (s : State) (t : Tab W64) : List Nat :=
  let counted := fun (c : Nat) => uncounted c || tgetD t c 0 != 0
  let first := s.counterIds.filter counted
  first ++ (s.counterIds.filter fun c => !counted c).take (4096 - first.length)

/-- The length of a section of counters, in whole units of 4 KiB. -/
def State.counterBytes (s : State) (t : Tab W64) : Nat := ceilDiv (16 * (s.recordIds t).length) 4096 * 4096

/-- The sections of the image, as type and length, in the order of Table 16.12; the shadow while it is held (notes/assumptions/71.md). -/
def State.sections (s : State) : List (Nat × Nat) :=
  [(1, s.counterBytes s.allCounters)] ++ (if s.dbg.held then [(2, s.counterBytes s.dbg.shadow)] else []) ++ [(3, 48 * 1310720), (4, 48 * 279040)] ++
  (if bit (s.word 0 0x120020) 5 then [(5, s.presents.length * 0x1800000)] else []) ++ [(6, 6 * 65536), (7, 41943040)]

/-- DBG_SCAN_SIZE. -/
def State.scanSize (s : State) : Nat := 4096 + sum (s.sections.map (·.2))

/-- The section table from an offset on. -/
def sectionTable : List (Nat × Nat) → Nat → List Byte
  | [], _ => []
  | (ty, n) :: r, at_ => leBytes 1 ty ++ leBytes 1 1 ++ leBytes 2 0 ++ leBytes 4 (at_ / 4096) ++ leBytes 8 n ++ sectionTable r (at_ + n)

/-- The 4 KiB header. -/
def State.scanHeader (s : State) : List Byte :=
  let l := leBytes 4 0x4E414353 ++ leBytes 1 1 ++ leBytes 1 Config.stepping.toNat ++ leBytes 1 (ofBool s.dbg.landed) ++ leBytes 1 s.dbg.cause ++
    leBytes 8 (s.boot.running.elim 0 (·.id.toNat)) ++ leBytes 2 s.node ++ leBytes 1 0 ++ leBytes 1 s.sections.length ++ leBytes 4 0 ++
    leBytes 8 s.dbg.haltAt ++ List.replicate 32 0 ++ sectionTable s.sections 4096
  l ++ List.replicate (4096 - l.length) 0

/-- A section of counters; those of what the model does not carry out are free values. -/
def State.scanCounters (s : State) (t : Tab W64) (d : Nat) : List Byte :=
  (s.recordIds t).zipIdx.flatMap fun x =>
    leBytes 4 x.1 ++ leBytes 4 0 ++ leBytes 8 (if uncounted x.1 then Config.freeNat d / 2 ^ (64 * x.2) else (tgetD t x.1 0).toNat)

/-- A run of bytes put into an image that lies at an address of HP0. -/
def State.putImage (s : State) (base off : Nat) (l : List Byte) : State :=
  { s with host := s.host.write (hostKey 0 (base + off)) l }

/-- The accumulators of a fold that one of its units holds. -/
def Fold.held (f : Fold) (k : Nat) : List Byte := ((f.acc.drop (8192 * k)).take 8192).flatMap (leBytes 40)

/-- The place in the image of the file of a fold-unit slot. -/
def accPlace (off c u : Nat) : Nat := off + c * 1310720 + u * 327680

/-- The accumulator files: what chunks left in them, and what chunks hold in them now. Every other accumulator is zero (Table 8.5). -/
def State.scanFolds (s : State) (base off : Nat) : State :=
  let s := s.clusters.foldl (fun (s : State) c =>
    c.2.accs.foldl (fun (s : State) u => s.putImage base (accPlace off c.1 u.1) (u.2.flatMap (leBytes 40))) s) s
  (s.groups.flatMap fun g => g.2.cur.toList.flatMap (·.folds)).foldl (fun (s : State) f =>
    f.units.zipIdx.foldl (fun (s : State) u => s.putImage base (accPlace off f.cluster u.1) (f.held u.2)) s) s

/-- What a TVE holds of the plan it runs: registers, wait marks, plan and bundle, and tiles. Loop state is not laid out. -/
def State.scanMember (s : State) (base off : Nat) (r : PlanRun) (m : Member) : State :=
  let at_ := off + m.cluster * 279040
  let reg := fun (l : List Nat) (n i : Nat) => leBytes n (l.getD i 0)
  let s := s.putImage base at_ ((List.range 16).flatMap (reg m.a 8) ++ (List.range 16).flatMap (reg m.sreg 4) ++ (List.range 16).flatMap (reg m.marks 8))
  let s := s.putImage base (at_ + 384) (leBytes 2 r.plan ++ leBytes 2 m.pc ++ List.replicate 124 0)
  (List.range 64).foldl (fun (s : State) i =>
    let t := tgetD m.tiles i (0, 0)
    s.putImage base (at_ + 512 + 4352 * i) (leBytes 4096 t.1 ++ leBytes 256 t.2)) s

def State.scanPlans (s : State) (base off : Nat) : State :=
  (s.runs.filter (·.started)).foldl (fun (s : State) r => (r.members.filter fun m => !m.ended).foldl (fun (s : State) m => s.scanMember base off r m) s) s

/-- Tier A of the present clusters, in ascending order. Of a range whose contents are undefined, the image holds free bytes. -/
def State.scanTierA (s : State) (base off : Nat) : State :=
  s.presents.zipIdx.foldl (fun (s : State) c =>
    let src := c.1 * 0x1800000
    let dst := hostKey 0 (base + off + c.2 * 0x1800000)
    let (d, s) := s.draw
    let part := s.tiers.mem.undef.filter fun r => overlaps r.1 r.2.1 src 0x1800000
    let host := part.foldl (fun (m : Mem) r =>
      let lo := Nat.max r.1 src
      m.undefine (dst + (lo - src)) (Nat.min (r.1 + r.2.1) (src + 0x1800000) - lo) d) (s.host.clear dst 0x1800000)
    let cells := s.tiers.mem.cells.filter fun x => decide (src ≤ x.1 ∧ x.1 < src + 0x1800000)
    { s with host := cells.foldl (fun (m : Mem) x => m.put (dst + (x.1 - src)) x.2) host }) s

/-- The records in the staging buffers, 64 KiB to a gallery. -/
def State.scanStaged (s : State) (base off : Nat) : State :=
  s.gals.foldl (fun (s : State) g => s.putImage base (off + 65536 * g.1) g.2.trace.staged.flatten) s

/-- The image written to the host buffer: free bytes but for what the manual lays out, reserved fields among it (R8). After a stop that landed it
changes no state of the package, the counters among it (R496). -/
def State.writeImage (s : State) : State :=
  let base := s.scanBase
  let size := s.scanSize
  if s.hostRefuses 0 base size then s
  else
    let (d, s) := s.draw
    let shadow := 4096 + s.counterBytes s.allCounters
    let acc := shadow + if s.dbg.held then s.counterBytes s.dbg.shadow else 0
    let tve := acc + 48 * 1310720
    let tierA := tve + 48 * 279040
    let onA := bit (s.word 0 0x120020) 5
    let trace := tierA + if onA then s.presents.length * 0x1800000 else 0
    let host := ((s.host.undefine (hostKey 0 base) size d).clear (hostKey 0 base) tve).clear (hostKey 0 (base + trace)) 393216
    let host := (List.range 48).foldl (fun (m : Mem) c => m.clear (hostKey 0 (base + tve + c * 279040 + 388)) 124) host
    let (e, s) := s.draw
    let (k, s) := s.draw
    let out := State.putImage (State.putImage { s with host } base 0 s.scanHeader) base 4096 (s.scanCounters s.allCounters e)
    let s := if s.dbg.held then out.putImage base shadow (s.scanCounters s.dbg.shadow k) else out
    let s := ((s.scanFolds base acc).scanPlans base tve).scanStaged base trace
    let s := if onA then s.scanTierA base tierA else s
    if s.dbg.landed then s else s.count 0x06 0 0 size

/-- A write of scan. -/
def State.scanStart (s : State) : State :=
  if s.dbg.stop ≠ .stopped then s.modDbg fun d => { d with result := 1 }
  else if s.scanLen < s.scanSize then s.modDbg fun d => { d with result := 3 }
  else s.modDbg fun d => { d with stop := .scanning, result := 0, scanned := 0 }

/-- SCAN (R495). -/
def execScan (s : State) : Host.Outcome State Fault Refusal := .next (if s.dbgServed then s.scanStart else s)

/-- SCAN_COMPLETE (R495). -/
def execScanComplete (s : State) : Host.Outcome State Fault Refusal :=
  .next (if s.activity = .running ∧ s.dbg.stop = .scanning then
    let n := s.scanSize
    s.writeImage.modDbg fun d => { d with stop := .scanned, scanned := n }
  else s)

/-- A stop that may be resumed or released. -/
def State.stopped (s : State) : Bool := decide (s.dbg.stop = .stopped ∨ s.dbg.stop = .scanned)

/-- A write of resume: staged trace records go on into their buffers, and the FN_WAKE writes and the events of the hosts recorded meanwhile are acted on
(R490, R496). -/
def State.stopResume (s : State) : State :=
  if !s.stopped then s.modDbg fun d => { d with result := 1 }
  else if !s.dbg.landed then s.modDbg fun d => { d with result := 2 }
  else
    let s := State.stopRecord { s with lands := { s.lands with stopOut := false } } 1
    let s := s.modDbg fun d => { d with stop := .running, result := 0 }
    let s := (List.range 6).foldl (fun (s : State) g => if (s.gal g).cons.busy then s else s.traceDrain g) s
    let s := (s.fns.map (·.1)).foldl (fun (s : State) f => if (s.fn f).state = .active then s.actWakes f else s) s
    s.dbg.kept.foldl (fun (s : State) e => s.hostActs e) (s.modDbg fun d => { d with kept := [] })

/-- STOP_RESUME (R496). -/
def execStopResume (s : State) : Host.Outcome State Fault Refusal := .next (if s.dbgServed then s.stopResume else s)

/-- STOP_RELEASE (R496). -/
def execStopRelease (s : State) : Host.Outcome State Fault Refusal :=
  .next (if s.dbgServed then
    if s.stopped then s.packageReset true else s.modDbg fun d => { d with result := 1 }
  else s)

end Sys2Proof.Machine
end

