-- ==== Sys2Proof/Machine/Setup.lean ====
section
/-! DEFINITION. Plain writes of registers (R5, R371, R372, R375, R489, R497–R501): which region serves one, what it changes, and the few
effects that a field without a command of its own has. -/

namespace Sys2Proof.Machine

/-! ### The manager's registers -/

/-- HUB_DIRTY_HOST_BASE to HUB_DIRTY_DEV_MAP1 of the selected VF: one 32-bit word of one of the six (R389). -/
def Dirty.setWord (d : Dirty) (off v : Nat) : Dirty :=
  let put := fun (x : W64) => BitVec.ofNat 64 (if off % 8 = 0 then x.toNat / 2 ^ 32 * 2 ^ 32 + v else x.toNat % 2 ^ 32 + v * 2 ^ 32)
  if d.enable then d
  else match (off - 0x010188) / 8 with
    | 0 => { d with hostBase := put d.hostBase }
    | 1 => { d with hostLen := put d.hostLen }
    | 2 => { d with hostMap0 := put d.hostMap0 }
    | 3 => { d with hostMap1 := put d.hostMap1 }
    | 4 => { d with devMap0 := put d.devMap0 }
    | _ => { d with devMap1 := put d.devMap1 }

/-- The dirty-logging registers act on the selected function (R504). -/
def State.writeDirty (s : State) (off v : Nat) : State :=
  s.modFn s.fnSel fun x => { x with dirty :=
    if off = 0x010180 then (if bit v 4 then { x.dirty with overflow := false } else x.dirty) else x.dirty.setWord off v }

/-- Where a trace buffer may not lie: a granted range, the plan store, the QP context store (R489). -/
def State.traceClash (s : State) (base size : Nat) : Bool :=
  overlaps base size 0x117FE0000000 0x10000000 || (!s.qpcHost && overlaps base size s.qpcBase (s.qpcCount * 256)) ||
  s.fns.any fun e => e.2.grant.ranges.any fun r => overlaps base size r.1 r.2

/-- A write of GAL_TRACE_CFG or GAL_TRACE_BASE: a base or size that would overlap is not taken, and full is cleared (Table 16.8, R489). -/
def State.writeTrace (s : State) (g off v : Nat) : State :=
  let o := off - galBase g
  let t := s.writeWord 0 (s.fn 0) off v
  let clash := t.traceClash (t.traceBase g) (t.traceSize g)
  if o = 0x010 then
    let t := if clash then s.setWord 0 off (setBits (t.word 0 off) 22 16 (bits (s.word 0 off) 22 16)) else t
    t.modGal g fun x => { x with trace := { x.trace with full := false } }
  else if clash then s else t

/-- GAL_TRACE_BASE written whole: taken or ignored as one (R498, R489). -/
def State.writeTraceBase (s : State) (g off v : Nat) : State :=
  let t := (s.writeWord 0 (s.fn 0) off (v % 2 ^ 32)).writeWord 0 (s.fn 0) (off + 4) (v / 2 ^ 32)
  if t.traceClash (t.traceBase g) (t.traceSize g) then s else t

/-- What is metered over time brought up to date before the registers that meter it are written (R351, R358). -/
def State.beforePortWrite (s : State) (p o sub q : Nat) : State :=
  if 0x0600 ≤ o ∧ o < 0x0700 then s.policeTouch p ((o - 0x0600) / 16)
  else if 0x0800 ≤ o ∧ 0x400 ≤ q ∧ q < 0x440 then s.chargeShapers p sub 8 0
  else s

/-- A write to a port's registers: a W1C of PORT_STAT_OVF (R362), the commit and enable bits of a gate schedule (R359), or plain fields; a port
that is no longer enabled, or whose breakout changes, goes down, and a changed mode or breakout has its lanes chosen anew (R346). -/
def State.writePort (s : State) (off v : Nat) : State :=
  let p := (off - 0x040000) / 0x4000
  let o := (off - 0x040000) % 0x4000
  let sub := (o - 0x0800) / 0x700
  let q := (o - 0x0800) % 0x700
  if 0x0800 ≤ o ∧ 0x450 ≤ q ∧ q < 0x460 then
    if sub < s.subCount p then s.modSub p sub fun x => { x with ovf := x.ovf &&& ~~~(BitVec.ofNat 128 (v * 2 ^ (8 * (q - 0x450)))) } else s
  else if 0x0800 ≤ o ∧ q = 0x46C then
    if sub < s.subCount p then s.gateWrite p sub (v % 4 * 2 ^ 32) else s
  else
    let s := s.beforePortWrite p o sub q
    let t := s.writeWord 0 (s.fn 0) off v
    let t := if o = 0x0008 ∧ ((s.portEnabled p ∧ !t.portEnabled p) ∨ t.breakout p ≠ s.breakout p) then (s.allDown p).writeWord 0 (s.fn 0) off v else t
    let t := if 0x200 ≤ o ∧ o < 0x600 ∧ t.filterOn p then t.wakePort p else t
    if t.breakout p ≠ s.breakout p ∨ t.portSwitched p ≠ s.portSwitched p then t.laneRedo p else t

/-- The to_ten view in the manager's page of a function (R380, R515). -/
def State.writeView (s : State) (off v : Nat) : State :=
  let f := (off - 0x200000) / 0x1000
  let o := (off - 0x200000) % 0x1000
  if s.mgrServed f && fnOk f && !(s.fn f).tenFull && decide (0x200 ≤ o ∧ o < 0x300) then s.setWord f (0x1000 + o) v else s

/-- HUB_MBOX_PENDING0–4: a word of pending bits cleared (R381). -/
def State.clearPending (s : State) (off v : Nat) : State :=
  let lo := (off - 0x010140) * 8
  { s with mboxPend := s.mboxPend.filter fun f => !(decide (lo ≤ f ∧ f < lo + 32) && bit v (f - lo)) }

/-- One 32-bit word of PF0's emulated registers. -/
def State.writeHub (s : State) (off v : Nat) : State :=
  if 0x010140 ≤ off ∧ off < 0x010168 then s.clearPending off v
  else if off = 0x010180 ∨ (0x010188 ≤ off ∧ off < 0x0101B8) then s.writeDirty off v
  else if 0x040000 ≤ off ∧ off < 0x080000 then s.writePort off v
  else if 0x100000 ≤ off ∧ off < 0x10C000 ∧ 0x010 ≤ (off - 0x100000) % 0x2000 ∧ (off - 0x100000) % 0x2000 < 0x020 then
    s.writeTrace ((off - 0x100000) / 0x2000) off v
  else if 0x200000 ≤ off then s.writeView off v
  else
    let t := s.writeWord 0 (s.fn 0) off v
    if off = 0x010448 then t.wakeDeep
    else if off = 0x120000 then
      t.modDbg fun d => { d with timerAt := if t.snapPeriod = 0 then none else if t.snapPeriod = s.snapPeriod then d.timerAt else some (t.tclk + t.snapPeriod * 1000000) }
    else t

/-! ### REGISTER_WRITE -/

/-- One 32-bit word, to the region that serves it (Tables 12.5, 17.1). -/
def State.writeReg (s : State) (f off v : Nat) : State :=
  if off < 0x1000 then s
  else if off < 0x2000 then
    if s.served && decide ((s.fn f).state ≠ .disabled) then s.writeWord f (s.fn f) off v else s
  else if off < 0x4000 ∨ (0x180000 ≤ off ∧ off < 0x1C0100) then
    if s.live && decide ((s.fn f).state ≠ .disabled) then (s.writeWord f (s.fn f) off v).unmask f off else s
  else if f ≠ 0 then s
  else if 0x080000 ≤ off ∧ off < 0x100000 then
    if s.live then s.modBoot fun b => { b with window := b.window.write (off - 0x080000) (leBytes 4 v) } else s
  else if 0x120000 ≤ off ∧ off < 0x130000 then (if s.dbgServed then s.writeHub off v else s)
  else if s.served then s.writeHub off v else s

/-- The gallery whose GAL_TRACE_BASE lies at an offset. -/
def traceBaseOf (off : Nat) : Option Nat := (List.range 6).find? fun g => off == galBase g + 0x018

/-- A BAR write of 4 or 8 bytes, the lower word first; any other is no write (R372). -/
def State.registerWrite (s : State) (f off width v : Nat) : State :=
  if width = 4 ∧ off % 4 = 0 then s.writeReg f off (v % 2 ^ 32)
  else if width = 8 ∧ off % 8 = 0 then
    match traceBaseOf off with
    | some g => if f = 0 ∧ s.served then s.writeTraceBase g off (v % 2 ^ 64) else s
    | none => (s.writeReg f off (v % 2 ^ 32)).writeReg f (off + 4) (v / 2 ^ 32)
  else s

/-- REGISTER_WRITE (R5). -/
def execRegisterWrite (f off width : Nat) (value : W64) (s : State) : Host.Outcome State Fault Refusal :=
  if fnOk f then .next (s.registerWrite f off width value.toNat) else .next s

end Sys2Proof.Machine
end

