-- ==== Sys2Proof/Machine/Dispatch.lean ====
section
/-! DEFINITION. One arm for each command of the opcode table: what it does to everything but the queue. -/

namespace Sys2Proof.Machine

def exec (i : Instr) (s : State) : Host.Outcome State Fault Refusal :=
  match i with
  | .registerWrite f off width value => Sys2Proof.Machine.execRegisterWrite f off width value s
  | .packageStart => Sys2Proof.Machine.execPackageStart s
  | .ddrTrainingComplete dimms => Sys2Proof.Machine.execDdrTrainingComplete dimms s
  | .porstNAssert => Sys2Proof.Machine.execPorstNAssert s
  | .i3cNodeWrite valid node => Sys2Proof.Machine.execI3cNodeWrite valid node s
  | .clockLoss => Sys2Proof.Machine.execClockLoss s
  | .tamper sources => Sys2Proof.Machine.execTamper sources s
  | .thermalTrip die reading => Sys2Proof.Machine.execThermalTrip die reading s
  | .entropyFailure => Sys2Proof.Machine.execEntropyFailure s
  | .dividerChange g => Sys2Proof.Machine.execDividerChange g s
  | .flitReplay link dir again => Sys2Proof.Machine.execFlitReplay link dir again s
  | .sweepExpress stores => Sys2Proof.Machine.execSweepExpress stores s
  | .sweepRegular stores => Sys2Proof.Machine.execSweepRegular stores s
  | .sweepAdmin stores => Sys2Proof.Machine.execSweepAdmin stores s
  | .ownerReread f q stores => Sys2Proof.Machine.execOwnerReread f q stores s
  | .cqFullReread f q stores => Sys2Proof.Machine.execCqFullReread f q stores s
  | .stateRecordWrite f kind q => Sys2Proof.Machine.execStateRecordWrite f kind q s
  | .evcMirrorWrite c idx => Sys2Proof.Machine.execEvcMirrorWrite c idx s
  | .sqWake f q stores => Sys2Proof.Machine.execSqWake f q stores s
  | .cqArm f q stores => Sys2Proof.Machine.execCqArm f q stores s
  | .errorQueueArm f stores => Sys2Proof.Machine.execErrorQueueArm f stores s
  | .adminEnable f value => Sys2Proof.Machine.execAdminEnable f value s
  | .identify f => Sys2Proof.Machine.execIdentify f s
  | .negotiate f => Sys2Proof.Machine.execNegotiate f s
  | .createContext f => Sys2Proof.Machine.execCreateContext f s
  | .destroyContext f => Sys2Proof.Machine.execDestroyContext f s
  | .createCq f => Sys2Proof.Machine.execCreateCq f s
  | .destroyCq f => Sys2Proof.Machine.execDestroyCq f s
  | .createSq f => Sys2Proof.Machine.execCreateSq f s
  | .destroySq f => Sys2Proof.Machine.execDestroySq f s
  | .createErrorQueue f => Sys2Proof.Machine.execCreateErrorQueue f s
  | .createSegment f => Sys2Proof.Machine.execCreateSegment f s
  | .withdrawSegment f => Sys2Proof.Machine.execWithdrawSegment f s
  | .withdrawalComplete c seg => Sys2Proof.Machine.execWithdrawalComplete c seg s
  | .querySegment f => Sys2Proof.Machine.execQuerySegment f s
  | .createQp f => Sys2Proof.Machine.execCreateQp f s
  | .connect f => Sys2Proof.Machine.execConnect f s
  | .addPeers f => Sys2Proof.Machine.execAddPeers f s
  | .removePeer f => Sys2Proof.Machine.execRemovePeer f s
  | .setError f => Sys2Proof.Machine.execSetError f s
  | .modifyQpReset f => Sys2Proof.Machine.execModifyQpReset f s
  | .setTimers f => Sys2Proof.Machine.execSetTimers f s
  | .queryQp f => Sys2Proof.Machine.execQueryQp f s
  | .destroyQp f => Sys2Proof.Machine.execDestroyQp f s
  | .createGroup f => Sys2Proof.Machine.execCreateGroup f s
  | .destroyGroup f => Sys2Proof.Machine.execDestroyGroup f s
  | .loadPlan f => Sys2Proof.Machine.execLoadPlan f s
  | .unloadPlan f => Sys2Proof.Machine.execUnloadPlan f s
  | .setLatencyTolerance f => Sys2Proof.Machine.execSetLatencyTolerance f s
  | .getLog f => Sys2Proof.Machine.execGetLog f s
  | .readCounters f => Sys2Proof.Machine.execReadCounters f s
  | .loadTimetable f => Sys2Proof.Machine.execLoadTimetable f s
  | .timetableSwitch g => Sys2Proof.Machine.execTimetableSwitch g s
  | .timetableDrainTimeout g => Sys2Proof.Machine.execTimetableDrainTimeout g s
  | .setTimetableLimits f => Sys2Proof.Machine.execSetTimetableLimits f s
  | .setFunctionGrant f => Sys2Proof.Machine.execSetFunctionGrant f s
  | .fabricLocal f => Sys2Proof.Machine.execFabricLocal f s
  | .catalogueUpdate f => Sys2Proof.Machine.execCatalogueUpdate f s
  | .catalogueClear f => Sys2Proof.Machine.execCatalogueClear f s
  | .nop f q => Sys2Proof.Machine.execNop f q s
  | .put f q => Sys2Proof.Machine.execPut f q s
  | .get f q => Sys2Proof.Machine.execGet f q s
  | .putFinal f q => Sys2Proof.Machine.execPutFinal f q s
  | .atomic f q => Sys2Proof.Machine.execAtomic f q s
  | .foldPut f q => Sys2Proof.Machine.execFoldPut f q s
  | .send f q => Sys2Proof.Machine.execSend f q s
  | .recv f q => Sys2Proof.Machine.execRecv f q s
  | .planRun f q => Sys2Proof.Machine.execPlanRun f q s
  | .allReduce f q => Sys2Proof.Machine.execAllReduce f q s
  | .reduceScatter f q => Sys2Proof.Machine.execReduceScatter f q s
  | .allGather f q => Sys2Proof.Machine.execAllGather f q s
  | .broadcast f q => Sys2Proof.Machine.execBroadcast f q s
  | .reduce f q => Sys2Proof.Machine.execReduce f q s
  | .allToAll f q => Sys2Proof.Machine.execAllToAll f q s
  | .barrier f q => Sys2Proof.Machine.execBarrier f q s
  | .triggerFire => Sys2Proof.Machine.execTriggerFire s
  | .flushComplete n => Sys2Proof.Machine.execFlushComplete n s
  | .meTimerRun cluster me channel => Sys2Proof.Machine.execMeTimerRun cluster me channel s
  | .meRunStart cluster me => Sys2Proof.Machine.execMeRunStart cluster me s
  | .meRunComplete cluster me => Sys2Proof.Machine.execMeRunComplete cluster me s
  | .peerRegister n word => Sys2Proof.Machine.execPeerRegister n word s
  | .peerUnregister n word => Sys2Proof.Machine.execPeerUnregister n word s
  | .peerProbeRequest n word => Sys2Proof.Machine.execPeerProbeRequest n word s
  | .peerProbeRead n => Sys2Proof.Machine.execPeerProbeRead n s
  | .peerProbeDone n rtts => Sys2Proof.Machine.execPeerProbeDone n rtts s
  | .frameReceive p sub frame => Sys2Proof.Machine.execFrameReceive p sub frame s
  | .write => Sys2Proof.Machine.execWrite s
  | .readReq => Sys2Proof.Machine.execReadReq s
  | .atomicReq => Sys2Proof.Machine.execAtomicReq s
  | .fold => Sys2Proof.Machine.execFold s
  | .ack => Sys2Proof.Machine.execAck s
  | .readResp => Sys2Proof.Machine.execReadResp s
  | .atomicResp => Sys2Proof.Machine.execAtomicResp s
  | .contextFetchComplete qp node bad => Sys2Proof.Machine.execContextFetchComplete qp node bad s
  | .packetInject qp node => Sys2Proof.Machine.execPacketInject qp node s
  | .packetForward inport vc => Sys2Proof.Machine.execPacketForward inport vc s
  | .escapeWaitExpire inport vc => Sys2Proof.Machine.execEscapeWaitExpire inport vc s
  | .residenceExpire inport vc => Sys2Proof.Machine.execResidenceExpire inport vc s
  | .retransmitTimeout qp node => Sys2Proof.Machine.execRetransmitTimeout qp node s
  | .ackDelayExpire qp node => Sys2Proof.Machine.execAckDelayExpire qp node s
  | .portLinkDown p sub => Sys2Proof.Machine.execPortLinkDown p sub s
  | .portLinkUp p sub delay => Sys2Proof.Machine.execPortLinkUp p sub delay s
  | .creditFrameTimer p => Sys2Proof.Machine.execCreditFrameTimer p s
  | .credit p => Sys2Proof.Machine.execCredit p s
  | .routeBegin => Sys2Proof.Machine.execRouteBegin s
  | .routeWrite => Sys2Proof.Machine.execRouteWrite s
  | .routeSeal => Sys2Proof.Machine.execRouteSeal s
  | .inject => Sys2Proof.Machine.execInject s
  | .retire => Sys2Proof.Machine.execRetire s
  | .intermediates => Sys2Proof.Machine.execIntermediates s
  | .address => Sys2Proof.Machine.execAddress s
  | .reply => Sys2Proof.Machine.execReply s
  | .routeMessageRetry request => Sys2Proof.Machine.execRouteMessageRetry request s
  | .groupJoin => Sys2Proof.Machine.execGroupJoin s
  | .formationTimeout group => Sys2Proof.Machine.execFormationTimeout group s
  | .collData => Sys2Proof.Machine.execCollData s
  | .chunkFoldComplete group level chunk => Sys2Proof.Machine.execChunkFoldComplete group level chunk s
  | .enter => Sys2Proof.Machine.execEnter s
  | .first => Sys2Proof.Machine.execFirst s
  | .done => Sys2Proof.Machine.execDone s
  | .report => Sys2Proof.Machine.execReport s
  | .decision => Sys2Proof.Machine.execDecision s
  | .free => Sys2Proof.Machine.execFree s
  | .formed => Sys2Proof.Machine.execFormed s
  | .ready => Sys2Proof.Machine.execReady s
  | .allEntered => Sys2Proof.Machine.execAllEntered s
  | .entered => Sys2Proof.Machine.execEntered s
  | .groupTimeout group => Sys2Proof.Machine.execGroupTimeout group s
  | .decisionWaitTimeout group => Sys2Proof.Machine.execDecisionWaitTimeout group s
  | .fuScrubPass cluster unit corrected uncorrectable => Sys2Proof.Machine.execFuScrubPass cluster unit corrected uncorrectable s
  | .planStart run => Sys2Proof.Machine.execPlanStart run s
  | .bundleIssue run member => Sys2Proof.Machine.execBundleIssue run member s
  | .stageComplete run member stage => Sys2Proof.Machine.execStageComplete run member stage s
  | .waitRelease run => Sys2Proof.Machine.execWaitRelease run s
  | .planEnd run => Sys2Proof.Machine.execPlanEnd run s
  | .planResume run => Sys2Proof.Machine.execPlanResume run s
  | .scrub unit find => Sys2Proof.Machine.execScrub unit find s
  | .refresh unit => Sys2Proof.Machine.execRefresh unit s
  | .rowRepairComplete unit row => Sys2Proof.Machine.execRowRepairComplete unit row s
  | .pcSpareComplete h pc => Sys2Proof.Machine.execPcSpareComplete h pc s
  | .fwCopyRebuild g => Sys2Proof.Machine.execFwCopyRebuild g s
  | .laneFail p lane => Sys2Proof.Machine.execLaneFail p lane s
  | .laneSwap p => Sys2Proof.Machine.execLaneSwap p s
  | .laneSwapDone p => Sys2Proof.Machine.execLaneSwapDone p s
  | .retrainComplete p => Sys2Proof.Machine.execRetrainComplete p s
  | .frameStart p sub => Sys2Proof.Machine.execFrameStart p sub s
  | .pauseFrame p sub => Sys2Proof.Machine.execPauseFrame p sub s
  | .pauseExpire p sub cls => Sys2Proof.Machine.execPauseExpire p sub cls s
  | .gateIntervalEnd p sub => Sys2Proof.Machine.execGateIntervalEnd p sub s
  | .gateBankSwitch p sub => Sys2Proof.Machine.execGateBankSwitch p sub s
  | .gateCommit p sub word => Sys2Proof.Machine.execGateCommit p sub word s
  | .gateEnable p sub word => Sys2Proof.Machine.execGateEnable p sub word s
  | .statHalfClear p sub word value => Sys2Proof.Machine.execStatHalfClear p sub word value s
  | .hpModeWrite value => Sys2Proof.Machine.execHpModeWrite value s
  | .hostLinkUp hp bars => Sys2Proof.Machine.execHostLinkUp hp bars s
  | .perstAssert hp => Sys2Proof.Machine.execPerstAssert hp s
  | .hotReset hp => Sys2Proof.Machine.execHotReset hp s
  | .hostLinkDown hp => Sys2Proof.Machine.execHostLinkDown hp s
  | .pcieFlr f => Sys2Proof.Machine.execPcieFlr f s
  | .ltrMessage hp snoop noSnoop => Sys2Proof.Machine.execLtrMessage hp snoop noSnoop s
  | .vfEnableSet count => Sys2Proof.Machine.execVfEnableSet count s
  | .vfEnableClear => Sys2Proof.Machine.execVfEnableClear s
  | .mboxSendToMgr f => Sys2Proof.Machine.execMboxSendToMgr f s
  | .tenAck f => Sys2Proof.Machine.execTenAck f s
  | .mboxSendToTen f => Sys2Proof.Machine.execMboxSendToTen f s
  | .mgrAck f => Sys2Proof.Machine.execMgrAck f s
  | .functionEnable => Sys2Proof.Machine.execFunctionEnable s
  | .functionDisable => Sys2Proof.Machine.execFunctionDisable s
  | .quiesce => Sys2Proof.Machine.execQuiesce s
  | .quiesced f => Sys2Proof.Machine.execQuiesced f s
  | .functionResume => Sys2Proof.Machine.execFunctionResume s
  | .functionReset force => Sys2Proof.Machine.execFunctionReset force s
  | .fenceDrainEnd domain => Sys2Proof.Machine.execFenceDrainEnd domain s
  | .functionResetComplete f => Sys2Proof.Machine.execFunctionResetComplete f s
  | .dirtyEnable => Sys2Proof.Machine.execDirtyEnable s
  | .dirtyDisable => Sys2Proof.Machine.execDirtyDisable s
  | .swap => Sys2Proof.Machine.execSwap s
  | .swapComplete f => Sys2Proof.Machine.execSwapComplete f s
  | .getVersion request => Sys2Proof.Machine.execGetVersion request s
  | .getCapabilities request => Sys2Proof.Machine.execGetCapabilities request s
  | .negotiateAlgorithms request => Sys2Proof.Machine.execNegotiateAlgorithms request s
  | .getDigests request => Sys2Proof.Machine.execGetDigests request s
  | .getCertificate request => Sys2Proof.Machine.execGetCertificate request s
  | .challenge request => Sys2Proof.Machine.execChallenge request s
  | .getMeasurements request => Sys2Proof.Machine.execGetMeasurements request s
  | .sign => Sys2Proof.Machine.execSign s
  | .agree => Sys2Proof.Machine.execAgree s
  | .slotLoad word => Sys2Proof.Machine.execSlotLoad word s
  | .slotErase word => Sys2Proof.Machine.execSlotErase word s
  | .commitSvn => Sys2Proof.Machine.execCommitSvn s
  | .revoke k => Sys2Proof.Machine.execRevoke k s
  | .cipherParityFault p slot => Sys2Proof.Machine.execCipherParityFault p slot s
  | .lldpTransmit p sub => Sys2Proof.Machine.execLldpTransmit p sub s
  | .lldpReceive p => Sys2Proof.Machine.execLldpReceive p s
  | .tree => Sys2Proof.Machine.execTree s
  | .treeTimer => Sys2Proof.Machine.execTreeTimer s
  | .treeStable => Sys2Proof.Machine.execTreeStable s
  | .subtree => Sys2Proof.Machine.execSubtree s
  | .agentRouteRetire => Sys2Proof.Machine.execAgentRouteRetire s
  | .hello p => Sys2Proof.Machine.execHello p s
  | .helloAck p => Sys2Proof.Machine.execHelloAck p s
  | .helloRetry p => Sys2Proof.Machine.execHelloRetry p s
  | .park p => Sys2Proof.Machine.execPark p s
  | .portWake p => Sys2Proof.Machine.execPortWake p s
  | .block n => Sys2Proof.Machine.execBlock n s
  | .start len => Sys2Proof.Machine.execStart len s
  | .processorReady proc bundle => Sys2Proof.Machine.execProcessorReady proc bundle s
  | .startTimeout => Sys2Proof.Machine.execStartTimeout s
  | .bootReport => Sys2Proof.Machine.execBootReport s
  | .clearFailures => Sys2Proof.Machine.execClearFailures s
  | .clearService => Sys2Proof.Machine.execClearService s
  | .packageReset => Sys2Proof.Machine.execPackageReset s
  | .poweredTimeUpdate => Sys2Proof.Machine.execPoweredTimeUpdate s
  | .watchdogFire proc cause => Sys2Proof.Machine.execWatchdogFire proc cause s
  | .ipcMessage sender bundle => Sys2Proof.Machine.execIpcMessage sender bundle s
  | .portReset p => Sys2Proof.Machine.execPortReset p s
  | .clusterReset cluster => Sys2Proof.Machine.execClusterReset cluster s
  | .galleryReset g => Sys2Proof.Machine.execGalleryReset g s
  | .engineHang engine => Sys2Proof.Machine.execEngineHang engine s
  | .longWait waiter => Sys2Proof.Machine.execLongWait waiter s
  | .replayTimeout cluster => Sys2Proof.Machine.execReplayTimeout cluster s
  | .replayComplete cluster => Sys2Proof.Machine.execReplayComplete cluster s
  | .fuRetire cluster unit => Sys2Proof.Machine.execFuRetire cluster unit s
  | .catalogueWrite => Sys2Proof.Machine.execCatalogueWrite s
  | .conservationCycle g slack => Sys2Proof.Machine.execConservationCycle g slack s
  | .conservationRun g => Sys2Proof.Machine.execConservationRun g s
  | .temperatureCheck g reading => Sys2Proof.Machine.execTemperatureCheck g reading s
  | .voltageSettled g slack => Sys2Proof.Machine.execVoltageSettled g slack s
  | .powerStateEntry g => Sys2Proof.Machine.execPowerStateEntry g s
  | .galleryWake g => Sys2Proof.Machine.execGalleryWake g s
  | .powerMeasure watts galleries => Sys2Proof.Machine.execPowerMeasure watts galleries s
  | .ladderStep hottest => Sys2Proof.Machine.execLadderStep hottest s
  | .snapshotTake => Sys2Proof.Machine.execSnapshotTake s
  | .snapshotRelease => Sys2Proof.Machine.execSnapshotRelease s
  | .snapshotTimer => Sys2Proof.Machine.execSnapshotTimer s
  | .snapshotEdge => Sys2Proof.Machine.execSnapshotEdge s
  | .stop => Sys2Proof.Machine.execStop s
  | .stopIn => Sys2Proof.Machine.execStopIn s
  | .stopHalt => Sys2Proof.Machine.execStopHalt s
  | .boundaryWaitExpire => Sys2Proof.Machine.execBoundaryWaitExpire s
  | .scan => Sys2Proof.Machine.execScan s
  | .scanComplete => Sys2Proof.Machine.execScanComplete s
  | .stopResume => Sys2Proof.Machine.execStopResume s
  | .stopRelease => Sys2Proof.Machine.execStopRelease s
  | .gapClear g mask => Sys2Proof.Machine.execGapClear g mask s
  | .event => Sys2Proof.Machine.execEvent s
  | .gateCycleStart p sub => Sys2Proof.Machine.execGateCycleStart p sub s
  | .powerRemoval => Sys2Proof.Machine.execPowerRemoval s
  | .aerUncorrectableError f => Sys2Proof.Machine.execAerUncorrectableError f s
  | .memoryPortFailure g => Sys2Proof.Machine.execMemoryPortFailure g s
  | .domainResetComplete domain => Sys2Proof.Machine.execDomainResetComplete domain s
  | .suspectReplayComplete cluster => Sys2Proof.Machine.execSuspectReplayComplete cluster s

end Sys2Proof.Machine
end

