-- ==== Sys2Proof/Machine/Step.lean ====
section
/-! DEFINITION. One step of the block: the command at the front of the queue, or a tick of TCLK on an empty queue. -/

namespace Sys2Proof.Machine

/-- What an empty queue does: TCLK counts on by 1 ns while the package is powered and out of reset (R32; DESIGN CHOICE,
notes/assumptions/1.md). In an inventory stop no timer measures it (R494). -/
def State.tick (s : State) : State :=
  if s.activity ≠ .running then s
  else if s.live then State.copyTick { s with tclk := s.tclk + 1 }
  else { s with dbg := { s.dbg with stopTime := s.dbg.stopTime + 1 } }

/-- One step. -/
def step (s : State) : Host.Outcome State Fault Refusal :=
  match s.pending with
  | [] => .next s.tick
  | c :: r => exec c { s with pending := r }

/-- The state with the command that a word spells put at the front of its queue. -/
def State.withFetchWord (s : State) (nbits w : Nat) : State :=
  match decodeTableWord nbits w with
  | some c => { s with pending := c :: s.pending }
  | none => s

end Sys2Proof.Machine
end

