-- ==== Sys2Proof/Safety.lean ====
section
/-! DEFINITION. What counts as a safe run, and the terms in which the statements speak of a command's effect. -/

namespace Sys2Proof

/-- Every command that waits is well formed. -/
def Machine.State.queueOk (s : Machine.State) : Bool := s.pending.all Instr.wf

/-- A run of n steps ends without a fault or a refusal. -/
def safeRun (n : Nat) (s : Machine.State) : Prop := ∃ t, core.run n s = .next t

/-- Every memory has its canonical form (notes/assumptions/10.md). -/
def Machine.State.memOk (s : Machine.State) : Bool := s.tiers.mem.wf && s.host.wf && s.boot.window.wf

/-- The package waits to be started: nothing in it runs, no PACKAGE_START waits in its queue, and its memories have their form. -/
def Machine.State.waiting (s : Machine.State) : Prop :=
  s.activity ≠ .running ∧ Instr.packageStart ∉ s.pending ∧ s.memOk = true

/-- The package stands in an inventory stop (R490). -/
def Machine.State.standing (s : Machine.State) : Prop :=
  s.activity = .running ∧ (s.dbg.stop = .stopped ∨ s.dbg.stop = .scanning ∨ s.dbg.stop = .scanned)

/-- A command answers a next state, of which a property holds. -/
def Machine.yields (c : Instr) (s : Machine.State) (P : Machine.State → Prop) : Prop := ∃ t, Machine.exec c s = .next t ∧ P t

/-- The state once an admin command has been taken from those fetched for a function, `r` being the others. -/
def Machine.State.adminRest (s : Machine.State) (f : Nat) (r : List Machine.Job) : Machine.State :=
  s.modSq f 0 fun y => { y with fetched := r }

/-- An admin command j with an opcode is the oldest one fetched for a function that need not wait for an earlier one, r being the others, and
nothing common to all admin commands refuses it (R116, R117, R120, R428, R429). -/
structure Machine.State.adminReady (s : Machine.State) (f op : Nat) (used : List (Nat × Nat)) (j : Machine.Job) (r : List Machine.Job) : Prop where
  exists_ : fnOk f = true
  live    : s.live = true
  oldest  : (s.sq f 0).bind (fun x => Machine.takeFirst (fun j => !s.adminWaits j) x.fetched) = some (j, r)
  opcode  : j.opcode = op
  gate    : s.adminGate f op = none
  clean   : j.excess used = false
  owner   : j.f = f

/-- The state once a job has been taken from its SQ for dispatch, its RESET_SIGNAL applied and the galleries that it needs roused (R135, Table 4.2,
R469). -/
def Machine.State.dispatched (s : Machine.State) (f q : Nat) (j : Machine.Job) : Machine.State :=
  ((s.modSq f q fun x => { x with fetched := x.fetched.drop 1, moved := s.tclk }).resetSignal j).rouseJob j

/-- A job with an opcode is the next of its SQ, a place in flight is free for it, and no fence meets it (R135, R445). -/
structure Machine.State.jobReady (s : Machine.State) (f q op : Nat) (j : Machine.Job) : Prop where
  exists_ : fnOk f = true
  number  : q ≤ 65535
  next    : s.nextJob f q op = some j
  open_   : s.jobFenced j = false

/-- The first arrived packet that a command takes passes the checks of arrival: the state then, and what the checks found (R161, R189). -/
def Machine.State.packetReady (s : Machine.State) (test : Machine.Packet → Bool) (t : Machine.State) (i : Machine.Inbound) : Prop :=
  s.live = true ∧ ∃ a u, s.takeArrived test = some (a, u) ∧ u.arrive a = (t, some i)

/-- The same for a request whose PSN is new; the state then is the one with the PSN accepted (R179). -/
def Machine.State.requestReady (s : Machine.State) (test : Machine.Packet → Bool) (u : Machine.State) (i : Machine.Inbound) : Prop :=
  ∃ t, s.packetReady test t i ∧ i.e.judge i.pkt.psn = .new ∧ u = t.modEnd i.q i.n fun e => e.accept i.pkt.psn

/-- The first FABRIC message that a command takes: the state without it, and the message (R166, R214). -/
def Machine.State.fabricReady (s : Machine.State) (test : List Byte → Bool) (u : Machine.State) (a : Machine.Arrival) : Prop :=
  s.live = true ∧ s.takeArrived (fun p => p.ty == 0x21 && test p.body) = some (a, u)

/-- The first LINK message of an opcode from a port: the state without it, and its packet (R217). -/
def Machine.State.linkReady (s : Machine.State) (p op : Nat) (u : Machine.State) (k : Machine.Packet) : Prop :=
  s.live = true ∧ ∃ a l, Machine.takeFirst (fun (a : Machine.Arrival) => a.port == p && a.pkt.ty == 0x20 && fld a.pkt.body 0 1 == op) s.arrived = some (a, l) ∧
    k = a.pkt ∧ u = { s with arrived := l }

/-- The same for a control record of a kind, which has landed in the member's region: the state, and the group, the neighbour, the number and
the 64 bytes that it carries (R232, Table 7.12). -/
def Machine.State.controlReady (s : Machine.State) (kind : Nat) (u : Machine.State) (i : Machine.Inbound) (gid : Nat) (g : Machine.Group)
    (n : Machine.Neighbour) (seq : W32) (l : List Byte) : Prop :=
  ∃ t, s.requestReady (fun p => p.ty == 8 && s.kindOf p == some kind) t i ∧ t.controlOf i kind = some (gid, g, n, l) ∧
    u = ((t.landRecord g n (localOf i.pkt.raddr) l).modNbr gid n.idx fun n => { n with moved := t.tclk }) ∧ seq = BitVec.ofNat 32 (fld i.pkt.body 4 4)

end Sys2Proof
end

