-- ==== Sys2Proof/Certificates/Slice0/Obligations.lean ====
section
/-! DEFINITION. The statements for the provers. -/

open Sys2Proof Sys2Proof.Machine

/-! ### The machine as a whole -/

/-- A step is the command at the front of the queue, over the state with the rest of the queue. -/
def Obligations.StepRunsFront : Prop :=
  ∀ (c : Instr) (r : List Instr) (s : State), step { s with pending := c :: r } = exec c { s with pending := r }

/-- A step on an empty queue is a tick of TCLK (the model's choice): time counts on by 1 ns, the copy pointer of every pseudo-channel that is being copied to its spare
moves on by one line unless a conservation cycle holds its gallery's MAINT slots (R339), and nothing else changes; in an inventory stop no timer measures it (R494).
The model's own choices, no rules of the spec: notes/assumptions/1. -/
def Obligations.EmptyQueueTicks : Prop :=
  ∀ s : State, s.pending = [] →
    (s.activity ≠ .running → step s = .next s) ∧
    (s.live = true → ∃ t, step s = .next t ∧ t.tclk = s.tclk + 1 ∧ { t with tclk := s.tclk, scrubs := s.scrubs } = s ∧
      ∀ h < 24, t.scrubOf (.stack h) = { s.scrubOf (.stack h) with
        copies := if (s.gal (h / 4)).cons.busy then (s.scrubOf (.stack h)).copies
          else (s.scrubOf (.stack h)).copies.map fun m => { m with line := Nat.min (2 ^ 24) (m.line + 1) } }) ∧
    (s.activity = .running → s.live = false → step s = .next { s with dbg := { s.dbg with stopTime := s.dbg.stopTime + 1 } })

/-- Every command answers a next state in every state: none faults and none is refused, and so no step ever stops. One that names what does not exist changes nothing.
The model's own choices, no rules of the spec: notes/assumptions/11. -/
def Obligations.WellFormedCommandsAnswer : Prop :=
  (∀ (c : Instr) (s : State), (∃ t, exec c s = .next t) ∧ (c.wf = false → exec c s = .next s)) ∧ (∀ s : State, ∃ t, step s = .next t)

/-- A stopped package resumes only through PORST_N (R40): no command but PORST_N_ASSERT and the removal of power changes anything but the memories of its commanders,
what the security island and the trip sensors record, and its lands (R57, R418). The model's own choices, no rules of the spec: notes/assumptions/6, 12. -/
def Obligations.StoppedPackageStaysStopped : Prop :=
  ∀ (c : Instr) (s t : State), s.activity = .stopped → c ≠ .porstNAssert → c ≠ .powerRemoval → exec c s = .next t →
    t.activity = .stopped ∧ { t with host := s.host, nor := s.nor, lands := s.lands, sec := s.sec } = s

/-- An inventory stop halts all activity (R490): until resume, release or a reset, no command moves a timer, an operation, a queue, an error queue, a channel, a queue
pair, a packet, a route, a request to an agent, a peer, a collective, a plan, an engine, a port, a cluster, a link, a fence or the power. What commands may still
change, besides the memories of their commanders, the lands, the NOR, the keys, the DBG registers, the snapshots and counters: the FN_WAKE writes kept for the
resume, the trace records staged in a gallery, and the load window with what HUB_LOAD_CTRL, which the hardware core serves, does; only its START reaches the start of
the package, the processors and the memory ports. The model's own choices, no rules of the spec: notes/assumptions/12. -/
def Obligations.InventoryStopFreezes : Prop :=
  ∀ (c : Instr) (s t : State), s.standing →
    c ∉ [Instr.porstNAssert, .powerRemoval, .stopResume, .stopRelease, .packageReset, .clearFailures, .clearService] → exec c s = .next t →
    { t with
      activity := s.activity, lands := s.lands, nor := s.nor, boot := s.boot, procs := s.procs, regs := s.regs, fns := s.fns, tiers := s.tiers, host := s.host
      gals := s.gals, scrubs := s.scrubs, sec := s.sec, dbg := s.dbg, counters := s.counters, free := s.free } = s ∧
    (∀ f, { t.fn f with wakes := (s.fn f).wakes } = s.fn f) ∧
    ((∀ n, c ≠ .start n) → t.procs = s.procs ∧ t.scrubs = s.scrubs ∧ { t.boot with window := s.boot.window, result := s.boot.result } = s.boot ∧
      ∀ g, { t.gal g with trace := (s.gal g).trace } = s.gal g)

/-- A package that waits to be started goes on waiting, whatever command it takes: nothing runs before PACKAGE_START (R419), and every memory keeps its canonical form.
The model's own choices, no rules of the spec: notes/assumptions/12, 68. -/
def Obligations.UnstartedPackageWaits : Prop :=
  ∀ s t : State, s.waiting → step s = .next t → t.waiting

/-- The machine right after reset: no command, operation, queue, queue pair, group or plan, no vector raised and no counter counted, PF0 ACTIVE and every other function
DISABLED and without a grant (R379, R386), no route, no time passed (R419), each memory in its form, and the package waits to be started. That PORST_N is held then
is the model's choice. The model's own choices, no rules of the spec: notes/assumptions/2. -/
def Obligations.ResetLeaves : Prop :=
  let s := State.reset
  s.waiting ∧ s.activity = .held ∧ s.pending = [] ∧ s.tclk = 0 ∧ s.ops = [] ∧ s.sqs = [] ∧ s.cqs = [] ∧ s.eqs = [] ∧ s.qps = [] ∧ s.groups = [] ∧ s.plans = [] ∧
    s.runs = [] ∧ s.slots = [] ∧ s.irqs = [] ∧ s.counters = [] ∧ (s.fn 0).state = .active ∧ (s.fn 0).halted = false ∧
    (∀ f, f ≠ 0 → (s.fn f).state = .disabled ∧ (s.fn f).grant = {})

/-! ### Registers and memories -/

/-- The registers at reset (Tables 17.2 to 17.10, R503): those of HUB_, of every port and gallery, and of DBG_ hold the values of their tables, as 32-bit words; the FN_
set-up block is zero. PORT_MAC_ADDR is the fused base plus 8 for each port (R348). The model's own choices, no rules of the spec: notes/assumptions/3. -/
def Obligations.RegistersReset : Prop :=
  let r := State.reset.word
  (∀ e ∈ [(0x010000, 0), (0x010008, 0xF0000000), (0x01000C, 0x117F), (0x010010, 0x00100000), (0x010020, 0x00100800), (0x010024, 0), (0x010028, 0),
      (0x010080, 0), (0x010084, 0), (0x010100, 0), (0x010400, 0), (0x010408, 0x00010A64), (0x010440, 0x48), (0x010448, 0xFFF),
      (0x120000, 0x100), (0x120004, 0), (0x120020, 0xA00), (0x120030, 0), (0x120038, 0)], r 0 e.1 = e.2) ∧
  (∀ t < 8, r 0 (0x010040 + 8 * t) = 0x001010CD ∧ r 0 (0x010044 + 8 * t) = 0x10040040) ∧
  (∀ p < 16, let b := 0x040000 + p * 0x4000
    (∀ e ∈ [(0, 0xB8A60008), (8, 0x240014E4), (0xC, 0xFFFF), (0x18, 0x10000000), (0x20, 0x00010805), (0x28, 0x3DCADD92), (0x30, 0x20610200), (0x34, 0xE30A),
        (0x200, 0), (0x600, 0)], r 0 (b + e.1) = e.2) ∧
      State.reset.macAddr p 0 = (Config.macBase.toNat + 8 * p) % 2 ^ 48 ∧
      (∀ v < 12, r 0 (b + 0x40 + 4 * v) = if v < 6 then 0x800 else if v < 10 then 0x400 else 0) ∧
      (∀ q < 8, ∀ t < 8, r 0 (b + 0x0C00 + 0x700 * q + 8 * t) = (if t = 7 then 0x64 else 0) ∧ r 0 (b + 0x0C04 + 0x700 * q + 8 * t) = 0x4001) ∧
      ∀ q < 8, r 0 (b + 0x0C68 + 0x700 * q) = 1000000) ∧
  (∀ g < 6, r 0 (0x100008 + g * 0x2000) = 0x0118180A ∧ r 0 (0x100010 + g * 0x2000) = 0xFF02 ∧ r 0 (0x100014 + g * 0x2000) = 0) ∧
  (∀ f off, 0x1000 ≤ off → off < 0x2000 → r f off = 0)

/-- GAL_TRACE_BASE at reset (R511): the values of Table 17.8; in G0 to G4 the gallery's top tier-B address − 64 MiB + 1, and in G5 below the plan store. -/
def Obligations.TraceBasesAtReset : Prop :=
  (List.range 6).map State.reset.traceBase =
    [0x103FFC000000, 0x107FFC000000, 0x10BFFC000000, 0x10FFFC000000, 0x113FFC000000, 0x117FDC000000] ∧
  (∀ g < 5, State.reset.traceBase g = 0x100000000000 + (g + 1) * 0x4000000000 - 1 - 64 * 2 ^ 20 + 1) ∧
  State.reset.traceBase 5 + 64 * 2 ^ 20 ≤ 0x117FE0000000

/-- A register word written is the one read, and every other word of every function keeps its value (R5); the write changes no other part of the state. The model's own
choices, no rules of the spec: notes/assumptions/13. -/
def Obligations.WordReadsBack : Prop :=
  ∀ (s : State) (f off v g o : Nat), off < 2 ^ 23 → o < 2 ^ 23 → v < 2 ^ 32 →
    (s.setWord f off v).word g o = (if g = f ∧ o = off then v else s.word g o) ∧ { s.setWord f off v with regs := s.regs } = s

/-- Memory reads back (R4): n bytes written are the ones read, in their order, every other byte is as it was, a range cleared reads as zero, one made undefined reads as
free bytes, and a write, a clearing and a making undefined each keep the canonical form. The model's own choices, no rules of the spec: notes/assumptions/4, 10. -/
def Obligations.MemoryReadsBack : Prop :=
  ∀ (m : Mem) (a : Nat) (l : List Byte), m.wf = true →
    (m.write a l).read a l.length = l ∧ (∀ c, c < a ∨ a + l.length ≤ c → (m.write a l).get c = m.get c) ∧
    (∀ n c, (m.clear a n).get c = if a ≤ c ∧ c < a + n then 0 else m.get c) ∧
    (∀ n e c, (m.undefine a n e).get c = if a ≤ c ∧ c < a + n then Config.freeByte e c else m.get c) ∧
    (m.write a l).wf = true ∧ (∀ n, (m.clear a n).wf = true) ∧ ∀ n e, (m.undefine a n e).wf = true

/-- A write through a segment to memory (R331, R390) leaves every byte of the device's own memory alone outside the bytes that it names, whatever it reaches and however
it ends; the memory keeps its form. The model's own choices, no rules of the spec: notes/assumptions/14. -/
def Obligations.SegmentWritesStayInside : Prop :=
  ∀ (s t : State) (v : Via) (a : Nat) (l : List Byte) (e : Option MemErr), s.tiers.mem.wf = true → s.writeVia v a l = (t, e) →
    t.tiers.mem.wf = true ∧ ∀ b, b < a ∨ a + l.length ≤ b → t.tiers.mem.get b = s.tiers.mem.get b

/-! ### Arithmetic -/

/-- Folds of integers (R273): SUM on INT32 and INT64 is two's-complement addition modulo 2^32 and 2^64, AND, OR and XOR act on every bit of the element, and all of these
are associative and commutative. -/
def Obligations.IntegerFolds : Prop :=
  (∀ a b : BitVec 32, foldElem 0 0 a.toNat b.toNat = (a + b).toNat) ∧
  (∀ a b : BitVec 64, foldElem 1 0 a.toNat b.toNat = (a + b).toNat) ∧
  (∀ ty a b i, (foldElem ty 3 a b).testBit i = (a.testBit i && b.testBit i) ∧ (foldElem ty 4 a b).testBit i = (a.testBit i || b.testBit i) ∧
    (foldElem ty 5 a b).testBit i = (a.testBit i ^^ b.testBit i)) ∧
  (∀ ty red a b c, ty ≤ 1 → red ∈ [0, 3, 4, 5] → foldElem ty red a b = foldElem ty red b a ∧
    foldElem ty red (foldElem ty red a b) c = foldElem ty red a (foldElem ty red b c))

/-! ### Queues -/

/-- A sweep of a list, or of the admin SQs, gives every SQ in existence its turn, in ascending order; those that are not on the list, and those of functions that are not
served, are passed over (R105, R106). In its turn an SQ's doorbell record is read, alone, or with its 64-byte line where another SQ of the function on the list lies
in it, which the other's turn then does not read again (R106). Where P has moved it is taken over, the idle time starts again and entries are fetched; where it has
not, the idle time grows by one sweep, what is left of an earlier fetch is fetched, and an SQ whose idle time reaches its threshold is parked (R107). Hence with one
SQ in existence, on the list of the sweep, P is taken over and entries are fetched. Re-reads: an entry whose ownership bit was wrong is fetched once it is right,
waits 250 ns more up to three times, and after the fourth re-read is malformed with cause OWNER: its job takes its place in the SQ and in its batch, as long as its
head says, and the function halts (R99); one that cannot be read halts the function with cause ACCESS (R93). A full CQ takes over H from its doorbell record and its
held CQEs are written as H allows (R91); a record that cannot be read, or whose reserved bytes are not zero, halts the function (R112). Before the 250 ns are over,
and for a CQ that holds nothing, nothing happens. The model's own choices, no rules of the spec: notes/assumptions/6, 76. -/
def Obligations.SweepsAndRereads : Prop :=
  ((∀ (l : List HostStore) (s : State), s.live = true →
    exec (.sweepExpress l) s = .next ((s.withStores l).sqs.foldl (State.sweepOne .express) (s.withStores l, [])).1 ∧
      exec (.sweepRegular l) s = .next ((s.withStores l).sqs.foldl (State.sweepOne .regular) (s.withStores l, [])).1 ∧
      exec (.sweepAdmin l) s = .next ((s.withStores l).sqs.foldl State.sweepAdmin (s.withStores l))) ∧
  (∀ (pl : Place) (s : State) (c : Lines) (f q : Nat) (x y : Sq), q ≤ 65535 → s.sq f q = some x →
    (q = 0 ∨ y.place ≠ pl ∨ s.serving f = false → State.sweepOne pl (s, c) (qKey f q, y) = (s, c)) ∧
      (q ≠ 0 ∨ s.serving f = false → s.sweepAdmin (qKey f q, y) = s) ∧
      (q ≠ 0 → y.place = pl → s.serving f = true → ∀ u d r, s.sweepRead pl c f q x = (u, d, r) →
        State.sweepOne pl (s, c) (qKey f q, y) = (State.sweepSq f q x (u, r), d)) ∧
      (q = 0 → s.serving f = true → s.sweepAdmin (qKey f q, y) = State.sweepSq f 0 x (s.qRead f x.ctx 0 x.door 16)) ∧
      (∀ e, (c.find? fun e => e.1 == (f, x.door / 64)) = some e → s.sweepRead pl c f q x = (s, c, e.2.map fun b => slice b (x.door % 64) 16)) ∧
      ((c.find? fun e => e.1 == (f, x.door / 64)) = none → ∀ u r,
        (s.sharesLine pl f q x = true → s.qRead f x.ctx q (x.door / 64 * 64) 64 = (u, r) →
            s.sweepRead pl c f q x = (u, ((f, x.door / 64), r) :: c, r.map fun b => slice b (x.door % 64) 16)) ∧
          (s.sharesLine pl f q x = false → s.qRead f x.ctx q x.door 16 = (u, r) → s.sweepRead pl c f q x = (u, c, r)))) ∧
  (∀ (s : State) (f q : Nat) (x : Sq) (b : List Byte), gap32 (BitVec.ofNat 32 (fld b 0 4)) x.c ≤ 2 ^ x.log2 → zeroAt b 4 4 = true →
    let t := s.modSq f q fun y => { y with p := BitVec.ofNat 32 (fld b 0 4) }
    let u := (t.modSq f q fun y => { y with idle := y.idle + 1 }).fetch f q
    (BitVec.ofNat 32 (fld b 0 4) ≠ x.p → State.sweepSq f q x (s, some b) = (t.modSq f q fun y => { y with idle := 0 }).fetch f q) ∧
      (BitVec.ofNat 32 (fld b 0 4) = x.p → (∀ k y, x.threshold = some k → u.sq f q = some y → y.idle < k) →
        State.sweepSq f q x (s, some b) = u) ∧
      (BitVec.ofNat 32 (fld b 0 4) = x.p → q ≠ 0 → u.serving f = true → ∀ k y, x.threshold = some k → u.sq f q = some y → k ≤ y.idle →
        State.sweepSq f q x (s, some b) = u.parkSq f q)) ∧
  (∀ (l : List HostStore) (s t : State) (f q : Nat) (x : Sq) (b : List Byte),
    s.live = true → (s.withStores l).sqs = [(qKey f q, x)] → q ≤ 65535 → s.serving f = true →
    (s.withStores l).qRead f x.ctx q x.door 16 = (t, some b) →
    gap32 (BitVec.ofNat 32 (fld b 0 4)) x.c ≤ 2 ^ x.log2 → zeroAt b 4 4 = true → BitVec.ofNat 32 (fld b 0 4) ≠ x.p →
    let u := ((t.modSq f q fun y => { y with p := BitVec.ofNat 32 (fld b 0 4) }).modSq f q fun y => { y with idle := 0 }).fetch f q
    (q ≠ 0 → x.place = .express → exec (.sweepExpress l) s = .next u) ∧
      (q ≠ 0 → x.place = .regular → exec (.sweepRegular l) s = .next u) ∧ (q = 0 → exec (.sweepAdmin l) s = .next u))) ∧
  ((∀ (l : List HostStore) (s : State) (f q : Nat) (x : Sq) (n : W32) (k due : Nat),
    fnOk f = true → q ≤ 65535 → s.live = true → s.sq f q = some x → x.reread = some (n, k, due) → s.serving f = true →
    (s.tclk < due → exec (.ownerReread f q l) s = .next (s.withStores l)) ∧
    (due ≤ s.tclk → ∀ (t : State) (r : Option (List Byte)), (s.withStores l).readEntry f q x n = (t, r) →
      (r = none → exec (.ownerReread f q l) s = .next (t.halt f q causeAccess n none [])) ∧
      ∀ b, r = some b →
        (entOwner b = ownerSense n x.log2 →
            exec (.ownerReread f q l) s = .next ((t.modSq f q fun y => { y with reread := none }).fetch f q)) ∧
          (entOwner b ≠ ownerSense n x.log2 → k < 3 →
            exec (.ownerReread f q l) s = .next (t.modSq f q fun y => { y with reread := some (n, k + 1, t.tclk + 250) })) ∧
          (entOwner b ≠ ownerSense n x.log2 → ¬ k < 3 → ∀ (u v : State) (h : Option (List Byte)) (d : Bool),
            (if n = x.c then (t, some b) else t.readEntry f q x x.c) = (u, h) →
            let m := entNcont (h.getD [])
            let j := badJob f q x n (h.getD [])
            u.jobCmpl f q x m = (v, d) →
            exec (.ownerReread f q l) s =
              .next (((v.passBad f q causeOwner j (if m ≤ 4 ∧ 1 + m ≤ gap32 x.p x.c then 1 + m else 1) d).halt f q causeOwner n (some j) b).echoSq f q)))) ∧
  (∀ (l : List HostStore) (s t : State) (f q : Nat) (c : Cq) (r : Option (List Byte)),
    fnOk f = true → q ≤ 65535 → s.live = true → s.cq f q = some c → s.serving f = true →
    (c.held = [] → exec (.cqFullReread f q l) s = .next (s.withStores l)) ∧
    (c.held ≠ [] → (s.withStores l).qRead f c.ctx q c.door 16 = (t, r) →
      (∀ h, headOf r = .ok h →
        exec (.cqFullReread f q l) s = .next (State.drainGo c.held.length (t.modCq f q fun x => { x with h }) f q)) ∧
      (∀ e, headOf r = .error e →
        exec (.cqFullReread f q l) s = .next (State.drainGo c.held.length (t.haltCq f q e c.w) f q))) ∧
    (headOf none = .error causeAccess ∧
      ∀ b, headOf (some b) = if zeroAt b 4 4 then .ok (BitVec.ofNat 32 (fld b 0 4)) else .error causeRsvd)))

/-- State records and mirrors that are behind are written, and are then up to date (R104, R139); the record of a CQ and of an error queue goes with the echo of W.
FN_WAKE (R109–R111): for an ACTIVE function an SQ's doorbell record is read, every entry from C up to P is fetched and a parked queue returned to its list where a
place is free; for a CQ the held CQEs are written as H allows; a CQ and the error queue raise their vector where entries wait then, and are armed where none does. A
function that quiesces records the wake (R385), and a halted one ignores it. The model's own choices, no rules of the spec: notes/assumptions/5, 6, 35, 76. -/
def Obligations.RecordsWakesArms : Prop :=
  ((∀ (s : State) (f q : Nat) (x : Sq), fnOk f = true → q ≤ 65535 → s.live = true → s.sq f q = some x → x.stale = true →
    exec (.stateRecordWrite f .sq q) s =
      .next ((s.qWrite f x.ctx q x.srec (stateRecord x.c x.k x.cause x.haltSeq.toNat s.time)).modSq f q fun y => { y with stale := false })) ∧
  (∀ (s : State) (f q : Nat) (x : Cq), fnOk f = true → q ≤ 65535 → s.live = true → s.cq f q = some x → x.stale = true →
    exec (.stateRecordWrite f .cq q) s =
      .next (((s.qWrite f x.ctx q x.srec (stateRecord x.w 0 x.cause x.haltSeq.toNat s.time)).modCq f q fun y => { y with stale := false }).echoCq f q)) ∧
  (∀ (s : State) (f q : Nat) (x : Cq), fnOk f = true → q ≤ 65535 → s.live = true → tget s.eqs f = some x → x.stale = true →
    exec (.stateRecordWrite f .eq q) s =
      .next (((s.qWrite f x.ctx 1 x.srec (stateRecord x.w 0 x.cause x.haltSeq.toNat s.time)).modEq f fun y => { y with stale := false }).echoEq f)) ∧
  (∀ (s : State) (c n : Nat) (x : Context), c ≤ 4095 → n ≤ 255 → s.live = true → tget s.ctxs c = some x → n ∈ x.dirty →
    s.mirrored x.owner = true →
    exec (.evcMirrorWrite c n) s =
      .next ((s.modCtx c fun y => { y with dirty := y.dirty.filter (· != n) }).writeHost x.owner (fnPort x.owner)
        (s.mirrorBase x.owner + c * 2048 + n * 8) (leBytes 8 (s.evc c n).toNat)).1)) ∧
  ((∀ (l : List HostStore) (s t : State) (f q : Nat) (x : Sq) (b : List Byte),
    fnOk f = true → q ≤ 65535 → s.live = true → s.serving f = true → s.sq f q = some x →
    (s.withStores l).qRead f x.ctx q x.door 16 = (t, some b) → gap32 (BitVec.ofNat 32 (fld b 0 4)) x.c ≤ 2 ^ x.log2 → zeroAt b 4 4 = true →
    let v := t.modSq f q fun y => { y with p := BitVec.ofNat 32 (fld b 0 4) }
    let u := v.fetchUpTo f q ((v.sq f q).elim 0 fun y => gap32 y.p y.c)
    (u.serving f = true → x.place = .parked → u.listFree f x.home = true →
        exec (.sqWake f q l) s = .next ((u.modSq f q fun y => { y with place := y.home, idle := 0 }).echoSq f q)) ∧
      (u.serving f = true → (x.place ≠ .parked ∨ u.listFree f x.home = false) → exec (.sqWake f q l) s = .next (u.echoSq f q)) ∧
      (u.serving f = false → exec (.sqWake f q l) s = .next u)) ∧
  (∀ (l : List HostStore) (s t : State) (f q v : Nat) (c d : Cq) (b : List Byte),
    fnOk f = true → q ≤ 65535 → s.live = true → s.serving f = true → s.cq f q = some c → c.vector = some v →
    (s.withStores l).qRead f c.ctx q c.door 16 = (t, some b) → zeroAt b 4 4 = true → t.serving f = true →
    let u := State.drainGo c.held.length (t.modCq f q fun x => { x with h := BitVec.ofNat 32 (fld b 0 4) }) f q
    u.cq f q = some d →
    (d.h ≠ d.w → exec (.cqArm f q l) s = .next (u.interrupt f v)) ∧
      (d.h = d.w → exec (.cqArm f q l) s = .next (u.modCq f q fun x => { x with armed := true }))) ∧
  (∀ (l : List HostStore) (s t : State) (f v : Nat) (c d : Cq) (b : List Byte),
    fnOk f = true → s.live = true → s.serving f = true → tget s.eqs f = some c → c.vector = some v →
    (s.withStores l).qRead f c.ctx 1 c.door 16 = (t, some b) → zeroAt b 4 4 = true → t.serving f = true →
    let u := t.modEq f fun x => { x with h := BitVec.ofNat 32 (fld b 0 4) }
    tget u.eqs f = some d →
    (d.h ≠ d.w → exec (.errorQueueArm f l) s = .next (u.interrupt f v)) ∧
      (d.h = d.w → exec (.errorQueueArm f l) s = .next (u.modEq f fun x => { x with armed := true }))) ∧
  (∀ (l : List HostStore) (s : State) (f q : Nat), s.activity = .running → fnOk f = true → q ≤ 65535 →
    (s.fn f).halted = false → (s.fn f).state = .quiescing ∨ (s.fn f).state = .quiesced →
    exec (.sqWake f q l) s = .next ((s.withStores l).modFn f fun x => { x with wakes := x.wakes ++ [BitVec.ofNat 32 q] }) ∧
      exec (.cqArm f q l) s = .next ((s.withStores l).modFn f fun x => { x with wakes := x.wakes ++ [BitVec.ofNat 32 (q + 65536)] }) ∧
      exec (.errorQueueArm f l) s = .next ((s.withStores l).modFn f fun x => { x with wakes := x.wakes ++ [BitVec.ofNat 32 131072] })) ∧
  (∀ (l : List HostStore) (s : State) (f q : Nat), fnOk f = true → q ≤ 65535 → (s.fn f).halted = true →
    exec (.sqWake f q l) s = .next (s.withStores l) ∧ exec (.cqArm f q l) s = .next (s.withStores l) ∧
      exec (.errorQueueArm f l) s = .next (s.withStores l)))

/-- Setting FN_ADMIN_CFG.enable starts the admin pair with queue number 0 and the register's bases, its state records written, where the fields are legal and the
device's limits of 65,536 SQs and CQs allow it, and sets cfg_error where not (R83, R85); a write with enable 0, and any write once enable is set, changes nothing but
plain fields. The model's own choices, no rules of the spec: notes/assumptions/13, 76. -/
def Obligations.AdminPairStarts : Prop :=
  (∀ (s : State) (f : Nat) (value : W32), fnOk f = true → s.served = true → (s.fn f).state ≠ .disabled →
    (s.fn f).admin.enable = true ∨ bit value.toNat 16 = false → exec (.adminEnable f value) s = .next (s.writeWord f (s.fn f) 0x1000 value.toNat)) ∧
  ∀ (s : State) (f : Nat) (value : W32), fnOk f = true → s.served = true → (s.fn f).state ≠ .disabled → (s.fn f).admin.enable = false →
    bit value.toNat 16 = true →
    let u := s.writeWord f (s.fn f) 0x1000 value.toNat
    let a := bits (u.word f 0x1000) 4 0
    let b := bits (u.word f 0x1000) 12 8
    let legal := u.sqs.length < 65536 ∧ u.cqs.length < 65536 ∧ 6 ≤ a ∧ a ≤ 12 ∧ 6 ≤ b ∧ b ≤ 12 ∧ u.dword f 0x1008 % 4096 = 0 ∧ u.dword f 0x1010 % 4096 = 0 ∧
      u.dword f 0x1018 % 16 = 0 ∧ u.dword f 0x1020 % 32 = 0
    (legal → exec (.adminEnable f value) s =
      .next ((({ (u.modFn f fun x => { x with admin := { enable := true, ready := true } }) with
        sqs := tset u.sqs (qKey f 0) { log2 := a, ring := u.dword f 0x1008, door := u.dword f 0x1018, srec := u.dword f 0x1020, park := 65535 }
        cqs := tset u.cqs (qKey f 0) { log2 := b, ring := u.dword f 0x1010, door := u.dword f 0x1018 + 16, srec := u.dword f 0x1020 + 32,
                                       vector := some 0 } } : State).writeSqRecord f 0).writeCqRecord f 0)) ∧
      (¬ legal → exec (.adminEnable f value) s =
        .next (u.modFn f fun x => { x with admin := { enable := true, cfgError := true } }))

/-- A plain write of a word of the FN_ block, of HUB_, of the plain words of PORT_, GAL_ and SEC_, of DBG_ or of an MSI-X table changes that word and nothing else (R5,
R497, R499): the fields that software can write take the new value, the others keep theirs; HUB_POWER_CFG may wake galleries besides (R471), and the vector control
of an MSI-X table may send a pending message. The firmware load window takes what is written. Reserved words, the hardware core and what is not a tenant's keep what
they hold (R372, R497), and a write that is neither 4 nor 8 bytes long or not aligned to its length changes nothing (R372). One of 8 bytes writes its lower word and
then its higher (R498), but GAL_TRACE_BASE is taken or ignored as a whole (R489). The model's own choices, no rules of the spec: notes/assumptions/13. -/
def Obligations.RegisterWriteKeepsTheRest : Prop :=
  (∀ (s : State) (f off : Nat) (v : W64), fnOk f = true → s.served = true → (s.fn f).state ≠ .disabled → 0x1000 ≤ off → off < 0x2000 →
    off % 4 = 0 → (fnFields s f (s.fn f) off).isEmpty = false →
    exec (.registerWrite f off 4 v) s =
      .next { s with
        regs := tset s.regs (regKey f off) (BitVec.ofNat 32 (mergeFields (s.word f off) (v.toNat % 2 ^ 32) (fnFields s f (s.fn f) off))) }) ∧
  (∀ (s : State) (f off : Nat) (v : W64), fnOk f = true → s.served = true → (s.fn f).state ≠ .disabled → 0x1000 ≤ off → off < 0x2000 →
    off % 4 = 0 → (fnFields s f (s.fn f) off).isEmpty = true → exec (.registerWrite f off 4 v) s = .next s) ∧
  (∀ (s : State) (off : Nat) (v : W64), off % 4 = 0 →
    let t := if (pfFields s off).isEmpty then s else
      { s with regs := tset s.regs (regKey 0 off) (BitVec.ofNat 32 (mergeFields (s.word 0 off) (v.toNat % 2 ^ 32) (pfFields s off))) }
    (s.served = true → (0x010000 ≤ off ∧ off < 0x010140) ∨ (0x010168 ≤ off ∧ off < 0x010180) ∨ (0x0101B8 ≤ off ∧ off < 0x010448) ∨ (0x110000 ≤ off ∧ off < 0x120000) →
        exec (.registerWrite 0 off 4 v) s = .next t) ∧
      (s.served = true → off = 0x010448 → exec (.registerWrite 0 off 4 v) s = .next t.wakeDeep) ∧
      (s.served = true → ∀ p < 16, portBase p + 0x000C ≤ off → off < portBase p + 0x0200 → exec (.registerWrite 0 off 4 v) s = .next t) ∧
      (s.served = true → ∀ g < 6, (galBase g ≤ off ∧ off < galBase g + 0x010) ∨ (galBase g + 0x020 ≤ off ∧ off < galBase g + 0x2000) →
        exec (.registerWrite 0 off 4 v) s = .next t) ∧
      (s.dbgServed = true → 0x120004 ≤ off → off < 0x130000 → exec (.registerWrite 0 off 4 v) s = .next t) ∧
      (s.live = true → (s.fn 0).state ≠ .disabled → 0x180000 ≤ off → off < 0x188000 → exec (.registerWrite 0 off 4 v) s = .next (t.unmask 0 off))) ∧
  (∀ (s : State) (f off width : Nat) (v : W64), fnOk f = true → off < 0x1000 ∨ (f ≠ 0 ∧ 0x3000 ≤ off) → exec (.registerWrite f off width v) s = .next s) ∧
  (∀ (s : State) (f off : Nat) (v : W64), fnOk f = true → off % 8 = 0 → (∀ g < 6, off ≠ galBase g + 0x018) →
    ∃ t, exec (.registerWrite f off 4 v) s = .next t ∧ exec (.registerWrite f off 8 v) s = exec (.registerWrite f (off + 4) 4 (v >>> 32)) t) ∧
  (∀ (s : State) (g : Nat) (v : W64), g < 6 → s.served = true →
    let off := galBase g + 0x018
    let t := (s.writeWord 0 (s.fn 0) off (v.toNat % 2 ^ 32)).writeWord 0 (s.fn 0) (off + 4) (v.toNat / 2 ^ 32)
    exec (.registerWrite 0 off 8 v) s = .next (if t.traceClash (t.traceBase g) (t.traceSize g) then s else t)) ∧
  (∀ (s : State) (off : Nat) (v : W64), s.live = true → 0x080000 ≤ off → off < 0x100000 → off % 4 = 0 →
    exec (.registerWrite 0 off 4 v) s =
      .next { s with boot := { s.boot with window := s.boot.window.write (off - 0x080000) (leBytes 4 (v.toNat % 2 ^ 32)) } }) ∧
  (∀ (s : State) (f off width : Nat) (v : W64), fnOk f = true → ¬ (width = 4 ∧ off % 4 = 0) → ¬ (width = 8 ∧ off % 8 = 0) →
    exec (.registerWrite f off width v) s = .next s)

/-! ### Admin commands -/

/-- Admin commands that create and destroy contexts, completion queues and the error queue (R84, R117, R118): each takes the lowest free number or removes what it names,
writes a new queue's state record, and answers with the number or 0. Segments (R65, R66, R78, R79, R471): a new segment is ACTIVE under the generation its index has,
and galleries in a deeper state than it allows wake, a withdrawal increments the generation and ends at once where nothing refers to the segment under its old
generation, and otherwise when nothing does any more. The model's own choices, no rules of the spec: notes/assumptions/7, 22, 37, 45, 76, 78. -/
def Obligations.ContextsAndSegments : Prop :=
  (∀ (s : State) (f : Nat) (j : Job) (r : List Job), let t := s.adminRest f r
    (s.adminReady f 0x04 [] j r → tfree s.ctxs 0 ≤ 4095 → (f = 0 ∨ s.ctxsOf f < (s.fn f).grant.contexts) →
      exec (.createContext f) s =
        .next (({ t with ctxs := tset s.ctxs (tfree s.ctxs 0) { owner := f } }).answer j (.ok (tfree s.ctxs 0)))) ∧
    (s.adminReady f 0x05 [(16, 2)] j r → t.ownsCtx f (j.arg 16 2) = true → t.ctxInUse (j.arg 16 2) = false →
      exec (.destroyContext f) s = .next ((t.dropCtx (j.arg 16 2)).answer j (.ok 0))) ∧
    (∀ ring door srec refs, s.adminReady f 0x08 [(16, 27), (44, 2)] j r → s.queueArgs j = none → vectorOk f (j.arg 44 2) = true →
      s.queueParts j 32 [.write] = .ok (ring, door, srec, refs) → s.cqs.length < 65536 → freeQueue s.cqs f ≤ 65535 →
      (f = 0 ∨ queuesOf s.cqs f < (s.fn f).grant.cqs) →
      let c : Cq := { ctx := j.arg 40 2, log2 := j.arg 42 1, ring := ring, door := door, srec := srec, refs := refs,
                      vector := if j.arg 44 2 = 0xFFFF then none else some (j.arg 44 2) }
      exec (.createCq f) s =
        .next ((({ t with cqs := tset s.cqs (qKey f (freeQueue s.cqs f)) c }).writeCqRecord f (freeQueue s.cqs f)).answer j
          (.ok (freeQueue s.cqs f)))) ∧
    (∀ c d, s.adminReady f 0x09 [(16, 2)] j r → s.cq f (j.arg 16 2) = some c → j.arg 16 2 ≠ 0 →
      (t.sqs.any fun e => decide (e.1 / 65536 = f ∧ e.1 % 65536 ≠ 0) && e.2.cq == j.arg 16 2) = false → c.held = [] →
      let u := if t.serving f then t.readHead f (j.arg 16 2) else t
      u.cq f (j.arg 16 2) = some d → d.h = d.w →
      exec (.destroyCq f) s = .next (({ u with cqs := tdel u.cqs (qKey f (j.arg 16 2)) }).answer j (.ok 0))) ∧
    (∀ ring door srec refs, s.adminReady f 0x0C [(16, 27), (44, 2)] j r → s.queueArgs j = none → tget s.eqs f = none →
      vectorOk f (j.arg 44 2) = true → s.queueParts j 32 [.write] = .ok (ring, door, srec, refs) →
      let c : Cq := { ctx := j.arg 40 2, log2 := j.arg 42 1, ring := ring, door := door, srec := srec, refs := refs,
                      vector := if j.arg 44 2 = 0xFFFF then none else some (j.arg 44 2) }
      exec (.createErrorQueue f) s = .next ((({ t with eqs := tset s.eqs f c }).writeEqRecord f).answer j (.ok 0)))) ∧
  (∀ (s : State) (f : Nat) (j : Job) (r : List Job), let t := s.adminRest f r; let c := j.arg 16 2; let n := j.arg 18 1
    (∀ g, s.adminReady f 0x10 [(16, 3), (24, 32)] j r → n ≤ 15 → s.ownsCtx f c = true → (s.segment c n).state = .free →
      Segment.read? (slice j.head 24 32) = some g → t.segmentOk f g = true →
      exec (.createSegment f) s = .next ((t.modSeg c n fun _ => g).wakeDeep.answer j (.ok (s.segGen c n)))) ∧
    (s.adminReady f 0x11 [(16, 3)] j r → n ≤ 15 → s.ownsCtx f c = true → (s.segment c n).state = .active → (t.bumpGen c n).referred c n (s.segGen c n) = false →
      exec (.withdrawSegment f) s = .next (((t.bumpGen c n).freeSeg c n).answer j (.ok ((s.segGen c n + 1) % 16)))) ∧
    (s.adminReady f 0x11 [(16, 3)] j r → n ≤ 15 → s.ownsCtx f c = true → (s.segment c n).state = .active → (t.bumpGen c n).referred c n (s.segGen c n) = true →
      exec (.withdrawSegment f) s =
        .next ((t.bumpGen c n).modSeg c n fun g => { g with state := .withdrawing, ticket := some j, askedAt := s.tclk })) ∧
    (∀ c n, c ≤ 4095 → n ≤ 15 → s.live = true → (s.segment c n).state = .withdrawing → s.referred c n ((s.segGen c n + 15) % 16) = false → (s.segment c n).ticket = some j →
      exec (.withdrawalComplete c n) s = .next ((s.freeSeg c n).answer j (.ok (s.segGen c n)))) ∧
    (∀ u, s.adminReady f 0x12 [(16, 3), (24, 8)] j r → n ≤ 15 → s.ownsCtx f c = true →
      t.adminWrite j (t.firstCtx f) (j.arg 24 8) ((s.segment c n).bytes (s.segGen c n)) (.ok 0) = (u, .ok 0) →
      exec (.querySegment f) s = .next (u.answer j (.ok 0))))

/-- SQs, IDENTIFY, NEGOTIATE and grants (R117, R118, R377, R378, R428, R429): a new SQ is placed on its home list where a place is free and parked otherwise, and its
state record and echo are written; an SQ goes when K, C and P are equal; a grant that holds is stored, and jobs that waited for a place in the trigger table are
armed; NEGOTIATE agrees the greatest common major version and the features both sides have, or fails, for want of a common version or of a feature that is needed.
Where the parts of the identity page stand is free (notes/assumptions/4.md). The model's own choices, no rules of the spec: notes/assumptions/4, 7. -/
def Obligations.SqsVersionsGrants : Prop :=
  ∀ (s : State) (f : Nat) (j : Job) (r : List Job), let t := s.adminRest f r
    (∀ ring door srec refs, s.adminReady f 0x0A [(16, 31), (48, 2)] j r → s.queueArgs j = none → j.arg 43 1 % 4 ≤ 1 → j.arg 43 1 / 8 = 0 →
      j.arg 46 1 ≤ 2 → j.arg 44 2 ≠ 0 → (s.cq f (j.arg 44 2)).isNone = false → s.queueParts j 64 [.read] = .ok (ring, door, srec, refs) →
      t.sqs.length < 65536 → freeQueue t.sqs f ≤ 65535 → (f = 0 ∨ queuesOf t.sqs f < (s.fn f).grant.sqs) →
      let home : Place := if j.arg 46 1 = 0 then .express else .regular
      let place : Place := if j.arg 46 1 ≠ 2 ∧ t.listFree f home then home else .parked
      let q : Sq := { ctx := j.arg 40 2, cq := j.arg 44 2, log2 := j.arg 42 1, ring := ring, door := door, srec := srec, refs := refs,
                      raw := bit (j.arg 43 1) 0, flushOff := bit (j.arg 43 1) 2, home := home, place := place, park := j.arg 48 2 }
      exec (.createSq f) s =
        .next (((({ t with sqs := tset t.sqs (qKey f (freeQueue t.sqs f)) q }).writeSqRecord f (freeQueue t.sqs f)).echoSq f
          (freeQueue t.sqs f)).answer j (.ok (freeQueue t.sqs f + 65536 * match place with | .express => 0 | .regular => 1 | .parked => 2)))) ∧
    (∀ x y, s.adminReady f 0x0B [(16, 2)] j r → t.sq f (j.arg 16 2) = some x → j.arg 16 2 ≠ 0 →
      let u := if t.serving f then (t.readDoor f (j.arg 16 2) x).1 else t
      u.sq f (j.arg 16 2) = some y → y.k = y.c → y.c = y.p →
      exec (.destroySq f) s = .next (({ u with sqs := tdel u.sqs (qKey f (j.arg 16 2)) }).answer j (.ok 0))) ∧
    (s.adminReady f 0x01 [(16, 8)] j r → j.arg 16 8 % 4096 = 0 →
      exec (.identify f) s =
        .next ((({ t with free := t.free + 1 }).writeHost f (fnPort f) (j.arg 16 8)
          (t.identityPage f t.free)).1.answer j (.ok 0))) ∧
    (∀ b : Bundle, s.boot.running = some b → s.adminReady f 0x02 [(16, 4), (24, 32)] j r → (s.fn f).neg = .none →
      let need := BitVec.ofNat 128 (j.arg 40 16)
      let req := BitVec.ofNat 128 (j.arg 24 16)
      let major := Nat.min (j.arg 17 1) b.highMajor
      let minor := if major = b.highMajor then b.minor else 0
      j.arg 16 1 ≠ 0 → j.arg 16 1 ≤ j.arg 17 1 → need &&& req = need →
      (major < j.arg 16 1 ∨ major < b.lowMajor →
        exec (.negotiate f) s =
          .next (((t.modFn f fun x => { x with neg := .failed }).record 0
            (negRecord 1 f (j.arg 16 1) (j.arg 17 1) b.lowMajor b.highMajor t.time)).answer j (.fail .devNegFailed 1))) ∧
      (j.arg 16 1 ≤ major → b.lowMajor ≤ major → need &&& b.features = need →
        exec (.negotiate f) s =
          .next ((t.modFn f fun x => { x with neg := .agreed major minor (req &&& b.features) }).answer j (.ok (major + 256 * minor)))) ∧
      (j.arg 16 1 ≤ major → b.lowMajor ≤ major → need &&& b.features ≠ need →
        exec (.negotiate f) s =
          .next (((t.modFn f fun x => { x with neg := .failed }).record 0
            (negRecord 2 f (j.arg 16 1) (j.arg 17 1) b.lowMajor b.highMajor t.time)).answer j (.fail .devNegFailed 2)))) ∧
    (∀ u b g, s.adminReady f 0x38 [(16, 2), (24, 8)] j r → t.adminRead j (t.firstCtx 0) (j.arg 24 8) 128 = (u, .ok b) →
      j.arg 16 2 ≠ 0 → fnOk (j.arg 16 2) = true → (u.fn (j.arg 16 2)).state ≠ .disabled → Grant.read? b = some g →
      g.ranges.all (u.rangeOk (j.arg 16 2)) = true →
      u.placesGranted .express - (u.fn (j.arg 16 2)).grant.express + g.express ≤ 240 →
      u.placesGranted .regular - (u.fn (j.arg 16 2)).grant.regular + g.regular ≤ 1920 → u.within (j.arg 16 2) g = true →
      exec (.setFunctionGrant f) s = .next ((State.armHeld (u.modFn (j.arg 16 2) fun x => { x with grant := g })).answer j (.ok 0)))

/-! ### QPs -/

/-- CREATE_QP and the changes of an idle or READY QP (R175, R185, R186): a QP of either type takes the lowest free number and has no end yet: a point-to-point QP is
IDLE, an omnibus QP READY with no peer entries; for the others, what has arrived for the QP acts first (R183), and then CONNECT makes it READY with the remote node,
the remote QP and both PSNs; ADD_PEERS adds every entry of its array; REMOVE_PEER removes an entry with nothing in flight; SET_TIMERS changes the retry limit and the
two timeouts and nothing else. SET_ERROR, RESET, QUERY_QP and DESTROY_QP (R183, R187, R189): what has arrived for the QP acts first; then SET_ERROR ends what is
outstanding with XPORT_QP_ERROR, RESET makes an RC QP IDLE and removes a peer entry; QUERY_QP writes the 64-byte record of an end, of an omnibus QP's entry that the
command names, or of an RC QP that has no end yet; DESTROY_QP removes a QP with nothing in flight, and a job fetched before that names it runs on no later QP of its
number. The model's own choices, no rules of the spec: notes/assumptions/7, 38, 79. -/
def Obligations.QpCommands : Prop :=
  (∀ (s : State) (f : Nat) (j : Job) (r : List Job), let t := s.adminRest f r; let q := j.arg 12 3; let n := j.arg 20 2; let v := t.latchQp q
    (∀ P tm, s.adminReady f 0x18 [(16, 11), (28, 11)] j r → payloadOf (j.arg 22 1) = some P → timersOf (j.arg 23 1) (j.arg 28 2) (j.arg 30 2) = some tm →
      let omni := j.arg 18 1 == 1
      let enc := bit (j.arg 19 1) 2
      s.ownsCtx f (j.arg 16 2) = true → j.arg 18 1 ≤ 1 → j.arg 19 1 / 8 = 0 → j.arg 16 2 ≤ 4095 → j.arg 23 1 ≤ 15 → j.arg 26 1 ≤ 7 →
      j.arg 38 1 ≤ 64 → badRef (j.arg 36 2) = false → (if omni then 1 ≤ j.arg 32 4 ∧ j.arg 32 4 ≤ 65536 else j.arg 32 4 = 0) →
      (enc = true → omni = false ∧ (s.fn f).feature 1 = true ∧ s.slotGrants (j.arg 20 2) (j.arg 16 2) = true) → (enc = false → j.arg 20 2 = 0) →
      (j.arg 24 2 = 0xFFFF ∨ s.present (j.arg 24 2) = true) →
      let x : Qp := { ctx := j.arg 16 2, f := f, omnibus := omni, pinned := bit (j.arg 19 1) 0, wide := bit (j.arg 19 1) 1, encrypted := enc,
                      slot := j.arg 20 2, payload := P, retry := tm.1,
                      home := j.arg 24 2, tc := j.arg 26 1, rtoMin := tm.2.1, rtoMax := tm.2.2, capacity := j.arg 32 4, arrival := j.arg 36 2,
                      ackDelay := if j.arg 38 1 = 0 then 8 else j.arg 38 1 }
      t.qpRoom f x.contexts (bit (j.arg 19 1) 0) = none → tfree s.qps 1 ≤ 0xFFFFF →
      exec (.createQp f) s = .next ((t.addQp x).1.answer j (.ok (tfree s.qps 1)))) ∧
    (∀ x, s.adminReady f 0x19 [(12, 3), (16, 1), (20, 2), (24, 3), (28, 8)] j r → j.arg 16 1 = 1 → qpNumOk (j.arg 24 3) = true →
      v.namedQp j = .ok x → x.omnibus = false → x.ends = [] → (x.encrypted = true → (v.keySlot x.slot).state = .loaded) →
      exec (.connect f) s =
        .next ((v.modQp q fun x => { x with
          node := n
          ends := [(n, v.freshEnd x (j.arg 24 3) (BitVec.ofNat 32 (j.arg 28 4)) (BitVec.ofNat 32 (j.arg 32 4)))] }).answer j (.ok 0))) ∧
    (∀ x u b ends, s.adminReady f 0x19 [(12, 3), (16, 1), (24, 12)] j r → j.arg 16 1 = 2 → v.namedQp j = .ok x → x.omnibus = true →
      x.ends.length + j.arg 32 4 ≤ x.capacity → v.adminRead j x.ctx (j.arg 24 8) (16 * j.arg 32 4) = (u, .ok b) →
      u.peersGo x ((List.range (j.arg 32 4)).map fun k => slice b (16 * k) 16) x.ends = some ends →
      exec (.addPeers f) s = .next ((u.modQp q fun x => { x with ends := ends }).answer j (.ok 0))) ∧
    (∀ x e, s.adminReady f 0x19 [(12, 3), (16, 1), (20, 2)] j r → j.arg 16 1 = 3 → v.namedQp j = .ok x → x.omnibus = true →
      tget x.ends n = some e → v.opsOn q n = [] →
      exec (.removePeer f) s = .next ((v.dropPeer q n).answer j (.ok 0))) ∧
    (∀ x tm, s.adminReady f 0x19 [(12, 3), (16, 1), (23, 1), (28, 4)] j r → j.arg 16 1 = 6 → timersOf (j.arg 23 1) (j.arg 28 2) (j.arg 30 2) = some tm →
      v.namedQp j = .ok x →
      exec (.setTimers f) s =
        .next ((v.modQp q fun x => { x with retry := tm.1, rtoMin := tm.2.1, rtoMax := tm.2.2 }).answer j (.ok 0)))) ∧
  (∀ (s : State) (f : Nat) (j : Job) (r : List Job), let t := s.adminRest f r; let q := j.arg 12 3; let v := t.latchQp q
    (∀ x e, s.adminReady f 0x19 [(12, 3), (16, 1), (20, 2)] j r → j.arg 16 1 = 4 → v.namedEnd j .ready = .ok (x, e) →
      exec (.setError f) s = .next ((v.qpError q (x.named j) .xportQpError).answer j (.ok 0))) ∧
    (∀ x e, s.adminReady f 0x19 [(12, 3), (16, 1), (20, 2)] j r → j.arg 16 1 = 5 → v.namedEnd j .error = .ok (x, e) → v.opsOn q (x.named j) = [] →
      exec (.modifyQpReset f) s =
        .next ((if x.omnibus then v.dropPeer q (x.named j) else v.modQp q fun x => { x with ends := [], node := 0 }).answer j (.ok 0))) ∧
    (∀ x e u, s.adminReady f 0x1A [(12, 3), (16, 2), (24, 8)] j r → tget s.qps q = some x → q ≠ 0 → x.f = f →
      (x.omnibus = false → j.arg 16 2 = 0) → let n := if x.omnibus then j.arg 16 2 else x.node
      (tget x.ends n = some e ∨ (x.omnibus = false ∧ tget x.ends n = none ∧ e = {})) →
      t.adminWrite j x.ctx (j.arg 24 8) (t.qpStatus q n x e) (.ok 0) = (u, .ok 0) →
      exec (.queryQp f) s = .next (u.answer j (.ok 0))) ∧
    (∀ x, s.adminReady f 0x1B [(12, 3)] j r → s.namedQp j = .ok x → ((s.ops ++ s.spent).any fun o => o.qp == q) = false →
      exec (.destroyQp f) s = .next (((t.orphanJobs q).dropQp q).answer j (.ok 0))))

/-- LOAD_PLAN of a family and of a signed container, UNLOAD_PLAN, CREATE_GROUP and DESTROY_GROUP (R237, R238, R285–R288): a plan that passes takes the lowest free
number, a container's key becoming its context's, and one whose signature fails is refused; a plan that no job dispatched names goes; CREATE_GROUP leaves its region
undefined and begins to form the group, its answer coming with READY; DESTROY_GROUP removes a group with nothing in flight or armed, with its QPs. The model's own
choices, no rules of the spec: notes/assumptions/4, 7, 36, 46, 77. -/
def Obligations.PlansAndGroupsMade : Prop :=
  ∀ (s : State) (f : Nat) (j : Job) (r : List Job), let t := s.adminRest f r; let c := j.arg 16 2
    (s.adminReady f 0x24 [(16, 3), (24, 12)] j r → c ≤ 4095 → s.ownsCtx f c = true → 1 ≤ j.arg 18 1 → j.arg 18 1 ≤ 3 →
      (s.fn f).feature 2 = true → j.arg 24 8 = 0 → j.arg 32 4 = 0 → s.plans.length < 1024 → s.storeUsed + 65536 ≤ 0x10000000 →
      (f = 0 ∨ s.plansOf f < (s.fn f).grant.plans) →
      exec (.loadPlan f) s =
        .next (({ t with plans := tset s.plans (tfree s.plans 0) { ctx := c, family := j.arg 18 1 } }).answer j (.ok (tfree s.plans 0)))) ∧
    (∀ u b x, s.adminReady f 0x24 [(16, 3), (24, 12)] j r → c ≤ 4095 → s.ownsCtx f c = true → j.arg 18 1 = 0 →
      528 ≤ j.arg 32 4 → j.arg 32 4 ≤ 2 ^ 21 → t.adminBuf f c (j.arg 24 8) (j.arg 32 4) .planExec = .ok x →
      t.adminRead j c (j.arg 24 8) (j.arg 32 4) = (u, .ok b) → containerFault b = none →
      let mixed := ((tget u.ctxs c).bind (·.planKey)).any (fun k => k != keyDigest b)
      u.plans.length < 1024 → u.storeUsed + roundUp (j.arg 32 4) 65536 ≤ 0x10000000 → (f = 0 ∨ u.plansOf f < (u.fn f).grant.plans) →
      let p : Plan := { ctx := c, addr := j.arg 24 8, bytes := b, size := roundUp (j.arg 32 4) 65536 }
      (signedOk b = true → mixed = false → exec (.loadPlan f) s =
        .next ((({ u with plans := tset u.plans (tfree u.plans 0) p }).modCtx c fun x => { x with planKey := some (keyDigest b) }).answer j
          (.ok (tfree u.plans 0)))) ∧
      (signedOk b = false ∨ mixed = true → exec (.loadPlan f) s = .next (u.answer j (.fail .locPlanSignature 0)))) ∧
    (s.adminReady f 0x25 [(16, 4)] j r → s.ownsCtx f c = true → ((tget s.plans (j.arg 18 2)).any fun p => p.ctx == c) = true →
      ((s.ops ++ s.spent).any fun o => o.job.runsPlan (j.arg 18 2)) = false →
      exec (.unloadPlan f) s = .next (({ t with plans := tdel s.plans (j.arg 18 2) }).answer j (.ok 0))) ∧
    (∀ u g g' b members, s.adminReady f 0x20 [(16, 44)] j r → t.groupArgs j = some g → s.ownsCtx f g.ctx = true →
      (g.encrypted = true → s.slotGrants g.slot g.ctx = true) →
      t.adminRead j g.ctx (j.arg 24 8) (8 * j.arg 20 4) = (u, .ok b) → u.memberList b (j.arg 20 4) = some members → u.groupMemory j g = .ok g' →
      let me := members.idxOf u.node
      let nb := (neighbourList g'.sizes me).length
      landingBytes g' nb ≤ g'.regionLen → u.regionOk g'.serving g'.region g'.regionLen = true → tget u.groups (j.arg 18 2) = none →
      u.groups.length < 4096 → (f = 0 ∨ u.groupsOf f < (u.fn f).grant.groups) → u.qpRoom f nb false = none →
      let crc := crc32c (leBytes 2 (j.arg 18 2) ++ slice j.head 20 4 ++ slice j.head 32 8 ++ slice j.head 40 4 ++ slice j.head 46 2 ++
        slice (j.conts.headD []) 12 3 ++ b)
      exec (.createGroup f) s =
        .next (((u.undefineRange f g'.region g'.regionLen).startForming (j.arg 18 2)
          { g' with members := members, me := me, crc := BitVec.ofNat 32 crc }).tryFormed (j.arg 18 2))) ∧
    (∀ g, s.adminReady f 0x21 [(16, 4)] j r → c ≤ 4095 → tget s.groups (j.arg 18 2) = some g → g.ctx = c → g.f = f → g.state ≠ .forming →
      s.groupBusy (j.arg 18 2) g = false →
      exec (.destroyGroup f) s = .next (((t.dropGroup (j.arg 18 2)).advanceAll).answer j (.ok 0)))

/-- The admin commands over galleries, logs, counters, routes and the catalogue (R50, R51, R451, R452, R461, R471, R482): limits and tolerances are stored; a checked
timetable becomes the shadow and holds the gallery's dispatch; the boot report or a graph's records are written; the counters asked for are written, live or as the
last snapshot took them, and cleared where that is asked; a FABRIC_LOCAL message answers what the same message from the fabric would; a verified update waits for the
next reset, and one that fails a check is refused; a port's lane entries go, and the port is reset unless a reset of it is under way. The model's own choices, no
rules of the spec: notes/assumptions/7, 50, 58, 70. -/
def Obligations.AdminOverTheDevice : Prop :=
  ∀ (s : State) (f : Nat) (j : Job) (r : List Job), let t := s.adminRest f r; let g := j.arg 16 1
    (s.adminReady f 0x28 [(16, 4)] j r →
      exec (.setLatencyTolerance f) s =
        .next (((t.modFn f fun x => { x with tolerance := some (if j.arg 16 4 = 0xFFFFFFFF then none else some (j.arg 16 4)) }).wakeDeep).answer j
          (.ok 0))) ∧
    (s.adminReady f 0x31 [(16, 1), (24, 32)] j r → g ≤ 5 →
      exec (.setTimetableLimits f) s =
        .next ((t.modGal g fun x => { x with
          limits := (List.range 8).map fun k => (k + 1, (j.arg (24 + 4 * k) 2, j.arg (26 + 4 * k) 2)) }).answer j (.ok 0))) ∧
    (∀ u b, s.adminReady f 0x30 [(16, 1), (20, 2), (24, 8)] j r → g ≤ 5 →
      (bitsSet 16 (j.arg 20 2)).any (fun k => !s.hasWindow g k) = false →
      t.adminRead j (t.firstCtx f) (j.arg 24 8) (256 * (bitsSet 16 (j.arg 20 2)).length) = (u, .ok b) →
      let ks := bitsSet 16 (j.arg 20 2)
      let new : List (Nat × List Byte) := (ks.zip (List.range ks.length)).map fun x => (x.1, slice b (256 * x.2) 256)
      new.any (fun e => !(u.gal g).accepts e.1 e.2) = false →
      let shadows : Tab Timetable :=
        new.foldl (fun t e => tmodD t e.1 { live := defaultTable } fun y => { y with shadow := some e.2 }) (u.gal g).tables
      exec (.loadTimetable f) s = .next (u.modGal g fun x => { x with tables := shadows, hold := some (u.tclk, j) })) ∧
    (∀ u, s.adminReady f 0x2C [(16, 3), (24, 8)] j r → f = 0 → g = 1 → j.arg 17 1 = 0 → j.arg 18 1 = 0 →
      t.adminWrite j (t.firstCtx f) (j.arg 24 8) t.bootReport (.ok 0) = (u, .ok 0) → exec (.getLog f) s = .next (u.answer j (.ok 0))) ∧
    (∀ u l, s.adminReady f 0x2C [(16, 3), (24, 8)] j r → g = 2 → j.arg 18 1 ≤ 1 → (t.graphNow j).recov.graphs[j.arg 17 1]? = some l →
      (t.graphNow j).adminWrite j ((t.graphNow j).firstCtx f) (j.arg 24 8) (graphFor f l) (.ok 0) = (u, .ok 0) →
      exec (.getLog f) s = .next (u.answer j (.ok 0))) ∧
    (∀ u x, s.adminReady f 0x2D [(16, 7), (24, 8)] j r → j.arg 22 1 ≤ 2 → 1 ≤ j.arg 20 2 → j.arg 20 2 ≤ 512 → j.arg 16 4 % 4096 + j.arg 20 2 ≤ 4096 →
      (f = 0 ∨ (j.arg 16 4 / 2 ^ 24 = 7 ∧ j.arg 16 4 / 2 ^ 12 % 2 ^ 12 = f)) → t.adminBuf f (t.firstCtx f) (j.arg 24 8) (8 * j.arg 20 2) .write = .ok x →
      let old := bit (j.arg 22 1) 0
      let d := t.sampleCounters (if old then t.dbg.shadow else t.allCounters) (j.arg 16 4) (j.arg 20 2)
      let v := if bit (j.arg 22 1) 1 then d.2.clearCounters (j.arg 16 4) (j.arg 20 2) else d.2
      let res := if old then d.2.dbg.snapSeq else d.2.time
      v.adminWrite j (v.firstCtx f) (j.arg 24 8) (d.1.flatMap fun v => leBytes 8 v.toNat) (.ok res) = (u, .ok res) →
      exec (.readCounters f) s = .next (u.answer j (.ok res))) ∧
    (∀ u b, s.adminReady f 0x3C [(16, 2), (24, 8)] j r → 4 ≤ j.arg 16 2 → j.arg 16 2 ≤ 1024 →
      t.adminRead j (t.firstCtx f) (j.arg 24 8) (j.arg 16 2) = (u, .ok b) → 1 ≤ fld b 0 1 → fld b 0 1 ≤ 7 →
      let y := u.routeOnce 65536 b
      exec (.fabricLocal f) s = .next (State.answer { y.1 with agent := { y.1.agent with acted := true } } j (.ok y.2))) ∧
    (∀ u b, s.adminReady f 0x3D [(16, 4), (24, 8)] j r → t.adminRead j (t.firstCtx f) (j.arg 24 8) (j.arg 16 4) = (u, .ok b) →
      (u.fuses.refuses b = none → exec (.catalogueUpdate f) s = .next ((u.modNor fun n => { n with updates := n.updates ++ [b] }).answer j (.ok 0))) ∧
      (u.fuses.refuses b ≠ none → exec (.catalogueUpdate f) s = .next (u.answer j (.refuse .argument)))) ∧
    (s.adminReady f 0x3E [(16, 1)] j r → g ≤ 15 →
      let keep := fun (e : CatEntry) => !(decide (e.ty = 3 ∨ e.ty = 4) && e.at 2 == g)
      let u := (t.rewriteField (t.nor.field.filter keep)).modNor fun n => { n with unwritten := n.unwritten.filter keep }
      let y := u.nor.portOf (u.portSwitched g) g
      let v := (u.allDown g).modPort g fun x => { x with
        failed := y.failed, peerFailed := 0, width := y.width, lanes := y.lanes, spareFor := y.spareFor, swapping := none, retrain := false }
      exec (.catalogueClear f) s = .next ((if v.resetting (.port g) then v else v.beginReset (.port g)).answer j (.ok 0)))

/-! ### Operations dispatched -/

/-- NOP, PUT, PUT_FINAL, GET, ATOMIC and FOLD_PUT of a job that passes the checks of R518 (R123, R126–R132, R148, R170): a NOP completes with OK; each other is put in
flight with its translated addresses, handles and references, and its packets are queued as messages on its QP's end. A job that fails step 1 completes with the
status of that step, without an operation. The model's own choices, no rules of the spec: notes/assumptions/8, 36, 80, 81. -/
def Obligations.OperationsStart : Prop :=
  ∀ (s : State) (f q : Nat) (j : Job), let t := s.dispatched f q j; let m := fld j.head 40 1
    (s.jobReady f q 0 j → exec (.nop f q) s = .next (t.endJob none j {} [] 0)) ∧
    (∀ c x, s.jobReady f q 1 j → t.checkAddresses j (if j.inline then 0 else j.len) .read j.len .write false = .ok c →
      c.near.any (fun a => t.cutOff j.f a j.len) = false → t.cutOff (t.farFn j) c.far j.len = false → c.flag = none → t.checkEnd j c (packetsFor j.len) = .ok x →
      exec (.put f q) s = .next (t.startOp (c.op j (.push (packetsFor j.len x.payload) 0 0)) .write (packetsFor j.len x.payload)).1) ∧
    (∀ c x fl, s.jobReady f q 3 j → t.checkAddresses j (if j.inline then 0 else j.len) .read j.len .write true = .ok c →
      c.near.any (fun a => t.cutOff j.f a j.len) = false → t.cutOff (t.farFn j) c.far j.len = false → c.flag = some fl → t.cutOff (t.farFn j) fl 8 = false →
      overlaps fl.addr 8 c.far.addr j.len = false → t.checkEnd j c (packetsFor j.len) = .ok x →
      exec (.putFinal f q) s = .next (t.startOp (c.op j (.push (packetsFor j.len x.payload) 0 1)) .write (packetsFor j.len x.payload)).1) ∧
    (∀ c x, s.jobReady f q 2 j → t.checkAddresses j j.len .write j.len .read false = .ok c →
      c.near.any (fun a => t.cutOff j.f a j.len) = false → t.cutOff (t.farFn j) c.far j.len = false →
      t.checkEnd j c (fun p => packetsFor (ceilDiv j.len (Nat.max 1 p)) 64) = .ok x →
      let n := ceilDiv j.len (Nat.max 1 x.payload)
      exec (.get f q) s = .next (t.startOp (c.op j (.get n 0)) .readReq n).1) ∧
    (∀ c x, s.jobReady f q 4 j → j.len = atomicWidth m → t.checkAddresses j (if j.near = 0 then 0 else j.len) .write j.len .atomic false = .ok c →
      c.near.any (fun a => t.cutOff j.f a j.len) = false → t.cutOff (t.farFn j) c.far j.len = false → c.far.addr % j.len = 0 →
      c.near.any (fun a => a.addr % j.len != 0) = false → t.checkEnd j c (fun _ => 1) = .ok x →
      exec (.atomic f q) s = .next (t.startOp (c.op j .atomic) .atomic 1).1) ∧
    (∀ c x, s.jobReady f q 5 j → t.checkAddresses j j.len .read (foldSpan m j.len) .fold false = .ok c →
      c.near.any (fun a => t.cutOff j.f a j.len) = false → t.cutOff (t.farFn j) c.far (foldSpan m j.len) = false →
      j.len % Nat.max 1 (elemSize (m % 16)) = 0 → bits m 6 4 ≠ 6 → t.checkEnd j c (packetsFor j.len) = .ok x →
      let n := packetsFor j.len x.payload
      let r := t.startOp (c.op j (.push n 0 0)) .fold n
      exec (.foldPut f q) s = .next (r.1.modOp r.2 fun o => { o with kind := .push n 0 o.msgs })) ∧
    (∀ e, s.jobReady f q 1 j → t.checkAddresses j (if j.inline then 0 else j.len) .read j.len .write false = .error e →
      exec (.put f q) s = .next (t.failJob j e)) ∧
    (∀ e, s.jobReady f q 2 j → t.checkAddresses j j.len .write j.len .read false = .error e → exec (.get f q) s = .next (t.failJob j e)) ∧
    (∀ e, s.jobReady f q 3 j → t.checkAddresses j (if j.inline then 0 else j.len) .read j.len .write true = .error e →
      exec (.putFinal f q) s = .next (t.failJob j e)) ∧
    (∀ e, s.jobReady f q 4 j → t.checkAddresses j (if j.near = 0 then 0 else atomicWidth m) .write j.len .atomic false = .error e →
      exec (.atomic f q) s = .next (t.failJob j e)) ∧
    (∀ e, s.jobReady f q 5 j → t.checkAddresses j j.len .read (foldSpan m j.len) .fold false = .error e → exec (.foldPut f q) s = .next (t.failJob j e))

/-- SEND, RECV and PLAN_RUN (R133, R290, R352): the frame of the job, its inline bytes or what its buffer holds, joins the class queue of raw frames of its sub-port,
padded to 60 bytes; a buffer is posted behind those of its queue; a plan run, of a family plan or of a container, joins those that wait for their gangs, before those
that were dispatched at the same time by functions or queues of higher numbers (R294). The model's own choices, no rules of the spec: notes/assumptions/8, 80. -/
def Obligations.FramesBuffersPlans : Prop :=
  ∀ (s : State) (f q : Nat) (j : Job), let t := s.dispatched f q j; let p := fld j.head 40 1 % 16
    (∀ (a : Option Machine.Trans) (u : State) (l : List Byte), s.jobReady f q 6 j →
      (if j.inline then a = none ∧ u = t ∧ l = j.payload
        else ∃ x, a = some x ∧ t.translateLocal j.f j.ctx j.near j.len .read = .ok x ∧ t.cutOff j.f x j.len = false ∧
          t.readVia x.via (localOf x.addr) j.len = (u, l, none)) →
      14 ≤ j.len → j.len ≤ 9212 → u.sendRefused j.f p l = false →
      let sub := (u.subOf p l).getD 0
      (u.port p).parked = true ∨ (u.sub p sub).up = true →
      let o : Op := { id := u.nextOp, job := j, kind := .send, near := a.elim 0 fun x => localOf x.addr, seg := a.elim 16 fun x => x.via.seg,
                      refs := a.toList.map (·.ref), bytes := j.len }
      let v := { u with ops := u.ops ++ [o], nextOp := u.nextOp + 1 }
      exec (.send f q) s =
        .next ((v.wakePort p).modSub p sub fun x => { x with
          queue := x.queue ++ [({ cls := u.rawTc p, kind := .raw u.nextOp, bytes := l ++ List.replicate (60 - l.length) 0, at_ := u.tclk } : TxFrame)] })) ∧
    (∀ a, s.jobReady f q 7 j → t.translateLocal j.f j.ctx j.near j.len .write = .ok a → t.cutOff j.f a j.len = false → 64 ≤ j.len →
      let o : Op := { id := t.nextOp, job := j, kind := .recv (localOf a.addr) j.len, near := localOf a.addr, seg := a.via.seg, refs := [a.ref] }
      exec (.recv f q) s =
        .next (({ t with ops := t.ops ++ [o], nextOp := t.nextOp + 1 }).modSq j.f j.q fun x => { x with recvs := x.recvs ++ [t.nextOp] })) ∧
    (∀ p a (box : Option Machine.Trans), s.jobReady f q 8 j → tget t.plans (fld j.head 48 2) = some p → p.ctx = j.ctx → p.addr = j.far →
      (if p.family = 0 then ∃ x, box = some x ∧ t.translateLocal j.f j.ctx j.far p.bytes.length .planExec = .ok x else box = none) →
      t.translateLocal j.f j.ctx j.near 512 .read = .ok a → j.len = 512 → t.cutOff j.f a 512 = false → box.any (fun b => t.cutOff j.f b p.bytes.length) = false →
      let o : Op := { id := t.nextOp, job := j, kind := .plan t.nextRun, near := localOf a.addr, seg := a.via.seg, refs := a.ref :: box.toList.map (·.ref) }
      let run : PlanRun := { id := t.nextRun, op := t.nextOp, plan := fld j.head 48 2, ctx := j.ctx, f := j.f, gang := t.jobClusters j, q := j.q, at_ := t.tclk }
      exec (.planRun f q) s =
        .next { t with ops := t.ops ++ [o], nextOp := t.nextOp + 1, runs := queueRun run t.runs, nextRun := t.nextRun + 1 })

/-- The seven collectives (R240–R244, R251, R253): with no other collective of the group under way at this member, a job takes the group's next number. Where the group
is READY and its buffers translated it enters: ENTER goes to every neighbour, FIRST to the leader, whose timer starts, and this member's contributions are set on
their way, unless an ENTER that came before differs, in which case the collective ends at once. A job whose buffers are not translated ends with the status of that
check and this member reports it; one for whose number a decision is kept ends with the decision's status; one of a group that is down ends with COLL_GROUP_DOWN. The
model's own choices, no rules of the spec: notes/assumptions/8, 24, 43. -/
def Obligations.CollectivesEnter : Prop :=
  ∀ (s : State) (f q op : Nat) (i : Instr) (j : Job) (g : Group), let t := s.dispatched f q j; let gid := fld j.head 56 2
    (i, op) ∈ [(Instr.allReduce f q, 0x10), (.reduceScatter f q, 0x11), (.allGather f q, 0x12), (.broadcast f q, 0x13), (.reduce f q, 0x14),
      (.allToAll f q, 0x15), (.barrier f q, 0x16)] →
    s.jobReady f q op j → tget s.groups gid = some g → g.ctx = j.ctx → g.cur = none →
    let kept := g.decisions.find? fun d => d.1 == g.next
    let u := t.modGroup gid fun g' => { g' with next := g.next + 1, enters := g'.enters.filter fun e => decide (gap32 e.seq g.next < 2 ^ 31) }
    let began := fun (v : State) (c : Coll) => (v.sendEnters gid g c).sendFirst gid g.next g.me
    (kept = none → g.state ≠ .ready → exec i s = .next (t.failJob j .collGroupDown)) ∧
    (∀ d, kept = some d → let v := t.modGroup gid fun g' => { g' with next := g.next + 1 }
      (d.2.1 = .ok → exec i s = .next (v.failJob j .ok)) ∧
      (d.2.1 ≠ .ok → ∀ c refs, v.collBuffers g j (collOf g j t.tclk) = .ok (c, refs) →
        let w := (v.undefineRange g.f c.result c.rlen).failJob j d.2.1
        exec i s = .next ((w.freeHeld gid g.next).abortAt gid g { seq := g.next, sig := 0, layer := j.layer, oper := j.oper, at_ := w.time } d.2.1 d.2.2)) ∧
      (d.2.1 ≠ .ok → ∀ e, v.collBuffers g j (collOf g j t.tclk) = .error e →
        let w := v.failJob j d.2.1
        exec i s = .next ((w.freeHeld gid g.next).abortAt gid g { seq := g.next, sig := 0, layer := j.layer, oper := j.oper, at_ := w.time } d.2.1 d.2.2))) ∧
    (∀ e, kept = none → g.state = .ready → u.collBuffers g j (collOf g j t.tclk) = .error e →
      let c := { collOf g j t.tclk with fault := some e, overAt := u.time }
      let w := began ((u.failJob j e).modGroup gid fun g => { g with cur := some c }) c
      exec i s = .next ((((if g.leader then w.startTimer gid g.next else w).compareEnters gid g c).reportUp gid g.next 4 g.me).takeHeld gid g.next)) ∧
    (∀ c refs, kept = none → g.state = .ready → u.collBuffers g j (collOf g j t.tclk) = .ok (c, refs) →
      let owed := ((List.range (chunksOf g c)).filter fun k => (placeOf g c g.me k).isSome).length
      let c' := { c with op := u.nextOp, owed := owed }
      let o : Op := { id := u.nextOp, job := j, kind := .coll gid, near := c.result, seg := c.resSeg, refs := refs }
      let w := began (({ u with ops := u.ops ++ [o], nextOp := u.nextOp + 1 }).modGroup gid fun g => { g with cur := some c' }) c'
      let x := (if g.leader then w.startTimer gid g.next else w.modRound gid g.next fun r => { r with lastIn := g.me }).compareEnters gid g c'
      let ended := ((tget x.groups gid).bind (·.cur)).all (·.seq != g.next)
      (ended = true → exec i s = .next x.advanceAll) ∧
        (ended = false →
          let y := ((x.contribute gid g c').takeHeld gid g.next).tryEntered gid g.next
          exec i s = .next (((y.checkPlaced gid).advance gid).decideNow gid g.next)))

/-! ### Packets at their target and at their initiator -/

/-- A new WRITE that the remote check admits is placed at its address, counted and traced, and its message settled (R73, R149, R150); a FINAL extension whose flag passes
the check too is held until its message is complete, whether or not the packet carries a payload; where the target answers a memory error the message is refused with
it; a refused WRITE writes the record and is acknowledged as REFUSED, and writes nothing, and no more does a later packet of a refused message. A duplicate is
acknowledged as one, and what lies beyond the window is discarded with reason 0x4F (R179). The model's own choices, no rules of the spec: notes/assumptions/9, 80. -/
def Obligations.WritesPlaced : Prop :=
  ∀ (s u : State) (i : Inbound), let v := u.noteRx i; let p := i.pkt; let a := localOf p.raddr
    (s.requestReady (fun p => p.ty == 1) u i → (v.rxOf i).refused = none →
      (∀ r h, v.remoteCheck i.x.ctx p.handle p.raddr p.plen .write = .ok r → v.checkFinal i = .ok h →
        let y := match h with
          | some f => v.setRx i { v.rxOf i with final := some f }
          | none => v
        (p.plen = 0 → exec .write s = .next ((y.settleAll i).afterAccept i)) ∧
        (∀ w, p.plen ≠ 0 → y.writeVia (i.via p.handle) a p.payload = (w, none) →
          exec .write s = .next ((((((w.wrote i (w.pathOf i.x.f a)).countFn i.x.f 2 p.plen).traceTarget i p.plen).settleAll i)).afterAccept i)) ∧
        (∀ w e, p.plen ≠ 0 → y.writeVia (i.via p.handle) a p.payload = (w, some e) →
          exec .write s = .next (((w.refuseUnc i e).settleAll i).afterAccept i))) ∧
      (∀ r st c, v.remoteCheck i.x.ctx p.handle p.raddr p.plen .write = .ok r → v.checkFinal i = .error (st, c) →
        exec .write s = .next (((((v.noteRefusal i st c (fld p.body 16 2)).refuse i st c).settleAll i)).afterAccept i)) ∧
      (∀ st c, v.remoteCheck i.x.ctx p.handle p.raddr p.plen .write = .error (st, c) →
        exec .write s = .next (((((v.noteRefusal i st c p.handle).refuse i st c).settleAll i)).afterAccept i))) ∧
    (s.requestReady (fun p => p.ty == 1) u i → (v.rxOf i).refused ≠ none → exec .write s = .next ((v.settleAll i).afterAccept i)) ∧
    (s.packetReady (fun p => p.ty == 1) u i →
      (i.e.judge p.psn = .duplicate → exec .write s = .next (u.owe i.q i.n ackDuplicate 0 0 0 p.ts)) ∧
      (i.e.judge p.psn = .beyond → exec .write s = .next (u.discard i.port 0x4F)))

/-- READ_REQ, ATOMIC_REQ and FOLD, new and admitted by the remote check: the responses asked for are owed and the request traced; the target word is replaced by the
result of Table 4.4 and its old value is owed and kept (R131, R182); the payload is folded into the bytes at the address, counted and traced (R278). One that asks
for no packets, or folds no bytes, does nothing more. One that the check refuses writes the record and is acknowledged as REFUSED, and reads, writes and answers
nothing; no more does one of a message that is refused already. The model's own choices, no rules of the spec: notes/assumptions/9, 39. -/
def Obligations.RequestsServed : Prop :=
  ∀ (s u : State) (i : Inbound), let v := u.noteRx i; let p := i.pkt; let a := localOf p.raddr; let via := i.via p.handle
    (s.requestReady (fun p => p.ty == 2) u i →
      let len := fld p.body 8 4; let first := fld p.body 12 2; let n := fld p.body 14 2; let asked := askedBytes i.x.payload len first n
      (∀ r, (v.rxOf i).refused = none → v.remoteCheck i.x.ctx p.handle p.raddr asked .read = .ok r →
        (n ≠ 0 → exec .readReq s = .next ((((v.traceTarget i asked).modEnd i.q i.n fun e => { e with replies := e.replies ++
          [.read p.psn p.ts p.msg p.layer p.oper a (fld p.body 0 8) first (first + n) len 0 r.ctx r.seg r.gen] }).settleAll i).afterAccept i)) ∧
        (n = 0 → exec .readReq s = .next (((v.traceTarget i asked).settleAll i).afterAccept i))) ∧
      (∀ st c, (v.rxOf i).refused = none → v.remoteCheck i.x.ctx p.handle p.raddr asked .read = .error (st, c) →
        exec .readReq s = .next (((((v.noteRefusal i st c p.handle).refuse i st c)).settleAll i).afterAccept i)) ∧
      (∀ st c, (v.rxOf i).refused = some (st, c) → exec .readReq s = .next (((v.turnDown i (statusOf st) c).settleAll i).afterAccept i))) ∧
    (s.requestReady (fun p => p.ty == 3) u i →
      let m := fld p.body 0 1
      (∀ r w old, (v.rxOf i).refused = none →
        v.remoteCheck i.x.ctx p.handle p.raddr (atomicWidth m) .atomic = .ok r → v.readVia via a (atomicWidth m) = (w, old, none) →
        let l := if fld p.body 24 8 = 0 then [] else old
        (∀ x res, atomicResult m (leNat old) (fld p.body 8 8) (fld p.body 16 8) = some res →
          w.writeVia via a (leBytes (atomicWidth m) res) = (x, none) →
          exec .atomicReq s = .next (((((x.keepAtomic i (.word l)).answerAtomic i l r).traceTarget i (atomicWidth m)).settleAll i).afterAccept i)) ∧
        (atomicResult m (leNat old) (fld p.body 8 8) (fld p.body 16 8) = none →
          exec .atomicReq s = .next (((((w.keepAtomic i (.word l)).answerAtomic i l r).traceTarget i (atomicWidth m)).settleAll i).afterAccept i))) ∧
      (∀ st c, (v.rxOf i).refused = none → v.remoteCheck i.x.ctx p.handle p.raddr (atomicWidth m) .atomic = .error (st, c) →
        exec .atomicReq s = .next (((((v.noteRefusal i st c p.handle).refuse i st c).keepAtomic i (.refused st.code c)).settleAll i).afterAccept i)) ∧
      ((v.rxOf i).refused ≠ none → exec .atomicReq s = .next ((v.settleAll i).afterAccept i))) ∧
    (s.requestReady s.foldNext u i →
      let m := fld p.body 0 1; let y := v.setRx i { v.rxOf i with fold := true }
      (∀ r, (y.rxOf i).refused = none → y.remoteCheck i.x.ctx p.handle p.raddr (foldSpan m p.plen) .fold = .ok r →
        (∀ w x old, p.plen ≠ 0 → y.readVia via a (foldSpan m p.plen) = (w, old, none) → w.writeVia via a (foldBytes m old p.payload) = (x, none) →
          exec .fold s = .next (((((x.wrote i (x.pathOf i.x.f a)).countFn i.x.f 4 (p.plen / Nat.max 1 (elemSize (m % 16)))).traceTarget i p.plen).settleAll i).afterAccept i)) ∧
        (p.plen = 0 → exec .fold s = .next ((y.settleAll i).afterAccept i))) ∧
      (∀ st c, (y.rxOf i).refused = none → y.remoteCheck i.x.ctx p.handle p.raddr (foldSpan m p.plen) .fold = .error (st, c) →
        exec .fold s = .next (((((y.noteRefusal i st c p.handle).refuse i st c)).settleAll i).afterAccept i)) ∧
      ((y.rxOf i).refused ≠ none → exec .fold s = .next ((y.settleAll i).afterAccept i)))

/-- READ_RESP and ATOMIC_RESP: the response of an outstanding request, in its range, of its length and at its initiator address, is placed there where it brings no bytes
or an ME of the QP's home cluster is free, the first of a READ_REQ giving a round trip; the last of a GET's, and that of an ATOMIC, ends the operation with status 0;
one that is placed already changes nothing (R172). A response that fits no request, or fits one in its PSN only, is discarded with reason 0x50. Where neither ME is
free, one whose PSN is outstanding is consumed all the same: a run of a dispatch channel behind the others carries it (R145, R220). The model's own choices, no rules
of the spec: notes/assumptions/9. -/
def Obligations.ResponsesPlaced : Prop :=
  ∀ (s t u : State) (i : Inbound) (e : Outstanding) (o : Op), let p := i.pkt
    (s.packetReady (fun p => p.ty == 0x11) t i → p.plen = 0 ∨ t.meFree i.x.home = true →
      let found := i.e.out.find? fun o => o.psn == p.psn && o.pkt.ty == 2
      let fits := e.first ≤ p.idx ∧ p.idx < e.first + e.n ∧ p.raddr = (fld e.pkt.body 0 8 + p.idx * i.x.payload) % 2 ^ 64 ∧
        p.plen = Nat.min i.x.payload (fld e.pkt.body 8 4 - p.idx * i.x.payload)
      (∀ total placed, found = some e → fits → e.placed.contains p.idx = false →
        t.op e.op = some o → o.kind = .get total placed → t.placeNear o p.raddr p.payload = (u, true) →
        let v := (u.countFn o.job.f 1 p.plen).modOut i.q i.n p.psn fun x => { x with placed := p.idx :: x.placed, sampled := true }
        let v := if e.sampled then v else v.modEnd i.q i.n fun y => v.sample i.x y ((v.tclk - e.sentAt) * 8) p.plen
        let w := (v.modEnd i.q i.n Endpoint.settle).modOp o.id fun x => { x with kind := .get total (placed + 1) }
        exec .readResp s = .next (if placed + 1 = total then w.endQpOp o.id {} else w)) ∧
      (found = some e → fits → e.placed.contains p.idx = true → exec .readResp s = .next t) ∧
      (found = some e → fits → e.placed.contains p.idx = false → t.op e.op = some o → t.placeNear o p.raddr p.payload = (u, false) →
        exec .readResp s = .next u) ∧
      (found = some e → ¬ fits → exec .readResp s = .next (t.discard i.port 0x50)) ∧
      (found = none → exec .readResp s = .next (t.discard i.port 0x50))) ∧
    (s.packetReady (fun p => p.ty == 0x12) t i → p.plen = 0 ∨ t.meFree i.x.home = true →
      let found := i.e.out.find? fun o => o.psn == p.psn && o.pkt.ty == 3 && o.answer
      let fits := p.idx = 0 ∧ p.raddr = fld e.pkt.body 24 8 ∧ p.plen = (if p.raddr = 0 then 0 else atomicWidth (fld e.pkt.body 0 1))
      (found = some e → fits → t.op e.op = some o → t.placeNear o p.raddr p.payload = (u, true) →
        exec .atomicResp s = .next (((u.modOut i.q i.n p.psn fun x => { x with answer := false }).modEnd i.q i.n Endpoint.settle).endQpOp o.id {})) ∧
      (found = some e → fits → t.op e.op = some o → t.placeNear o p.raddr p.payload = (u, false) → exec .atomicResp s = .next u) ∧
      (found = some e → ¬ fits → exec .atomicResp s = .next (t.discard i.port 0x50)) ∧
      (found = none → exec .atomicResp s = .next (t.discard i.port 0x50))) ∧
    (p.plen ≠ 0 → t.meFree i.x.home = false → i.e.out.find? (fun o => o.psn == p.psn) = some e →
      let w := t.serveLater i.x.home e.op (some (i.q, i.n, { port := i.port, pkt := p }))
      (s.packetReady (fun p => p.ty == 0x11) t i → exec .readResp s = .next w) ∧
      (s.packetReady (fun p => p.ty == 0x12) t i → exec .atomicResp s = .next w))

/-- ACK (R182): what its ePSN and bitmap cover is acknowledged, its first cover of an outstanding packet giving a round trip, an ePSN further on restarts the timer and
clears the retries, and what the bitmap shows missing eight places back is sent again; the operations whose packets are newly covered go on; kind REFUSED ends the
operation it names with the status it carries, and kind COMPLETE is the end of the message it names (R151); an ACK that names no message, or one that no operation
has, does no more. The model's own choices, no rules of the spec: notes/assumptions/9, 39. -/
def Obligations.AcksCover : Prop :=
  ∀ (s t : State) (i : Inbound), s.packetReady (fun p => p.ty == 0x10) t i →
    let p := i.pkt; let e := i.e; let bm := BitVec.ofNat 512 (fld p.body 16 64); let kind := fld p.body 4 1
    let fresh := e.out.filter fun o => !o.acked && covers32 p.psn bm o.psn
    let ahead := gap32 p.psn e.peerEpsn < 2 ^ 31
    let n := sum ((fresh.filter fun o => o.pkt.ty != 2).map (·.bytes))
    let e1 := if fresh.isEmpty then e else t.sample i.x e (gap32 (BitVec.ofNat 32 t.time) (BitVec.ofNat 32 (fld p.body 0 4)) * 8) n
    let e2 : Endpoint := { e1 with out := updAll (fun o => covers32 p.psn bm o.psn) (fun o => { o with acked := true }) e1.out }
    let e3 : Endpoint := if ahead then { e2 with peerEpsn := p.psn, peerSack := bm } else e2
    let e4 : Endpoint := if ahead ∧ p.psn ≠ e.peerEpsn then { e3 with retries := 0, timer := some (t.tclk + rtoBase i.x e3) } else e3
    let moved := if fresh.isEmpty then e4.moved else t.tclk
    let early := fun (o : Outstanding) => !o.acked && decide (8 ≤ laterAccepted p.psn bm o.psn) && decide (e4.srtt ≤ (t.tclk - o.sentAt) * 8)
    let u := t.modEnd i.q i.n fun _ => ({ e4 with out := updAll early Outstanding.redo e4.out, moved } : Endpoint).settle
    let go := fun (s : State) => fresh.foldl (fun s o => s.packetAcked o.op) s
    (kind % 4 = 0 ∨ u.opOfMsg i.q i.n p.msg = none → exec .ack s = .next (go u)) ∧
    (∀ o, kind % 4 ≠ 0 → bit kind 1 = false → u.opOfMsg i.q i.n p.msg = some o → exec .ack s = .next ((go u).messageDone o.id)) ∧
    (∀ o, bit kind 1 = true → kind % 4 ≠ 0 → u.opOfMsg i.q i.n p.msg = some o →
      exec .ack s = .next (go (u.endQpOp o.id { status := statusOf (fld p.body 5 1), detail := fld p.body 6 1 })))

/-! ### Timers, injection and forwarding of packets -/

/-- The retransmission timer and the acknowledgement delay of an end (R180, R182): an expiry halves the window, sends again and doubles the timer; one more than the QP's
retry count allows moves the QP to ERROR with XPORT_RETRY_EXCEEDED; a delay that has run owes an ACK that echoes the first packet's timestamp. Before their time, and
without a timer, nothing happens. What has arrived for the end acts before its timer is compared (R183). PACKET_INJECT (R169, R178, R200, R223, R225): an end that is
ready sends what it owes first; then, where the pacer lets it, what is to be sent again; then the next packet of its first message, with the next PSN, where the
window and the pacer let it go; a packet whose data cannot be read ends its operation with MEM_UNCORRECTABLE (R331). What is sent for an operation that gathers goes
at once where an ME of the QP's cluster is free, and else waits for a run of a dispatch channel behind the others (R145); an end that has nothing to send, or may not
send it yet, changes nothing. The model's own choices, no rules of the spec: notes/assumptions/5, 15, 16. -/
def Obligations.EndsSendAndExpire : Prop :=
  (∀ (s : State) (q n d : Nat) (x : Qp) (e : Endpoint), s.live = true → q < 16777216 → n ≤ 65535 →
    (let u := State.latchResponses s.arrived.length s q n
     tget u.qps q = some x → u.endpoint q n = some e → e.state = .ready →
      (e.timer = some d → d ≤ u.tclk → e.out ≠ [] → e.retries < x.retry →
        let e' := u.shrink x { e.redoAll with retries := e.retries + 1 }
        exec (.retransmitTimeout q n) s = .next (u.modEnd q n fun _ => { e' with timer := some (u.tclk + rtoNow x e') })) ∧
      (e.timer = some d → d ≤ u.tclk → e.out ≠ [] → x.retry ≤ e.retries → exec (.retransmitTimeout q n) s = .next (u.qpError q n .xportRetryExceeded)) ∧
      ((e.timer = none ∨ e.out = [] ∨ ∃ k, e.timer = some k ∧ u.tclk < k) → exec (.retransmitTimeout q n) s = .next u)) ∧
    (∀ i, (s.arrived.any fun a => a.pkt.qp == q && decide (0x10 ≤ a.pkt.ty ∧ a.pkt.ty ≤ 0x12) && (tget s.qps q).any fun x => x.peer a.pkt == n) = false →
      State.latchResponses i s q n = s) ∧
    (tget s.qps q = some x → s.endpoint q n = some e → e.state = .ready → e.ackDue = some d → d ≤ s.tclk → exec (.ackDelayExpire q n) s = .next (s.owe q n 0 0 0 0 e.ackEcho)) ∧
    (tget s.qps q = some x → s.endpoint q n = some e → (e.ackDue = none ∨ e.state ≠ .ready ∨ ∃ k, e.ackDue = some k ∧ s.tclk < k) →
      exec (.ackDelayExpire q n) s = .next s)) ∧
  (∀ (s : State) (q n : Nat) (x : Qp) (e : Endpoint), s.live = true → q < 16777216 → n ≤ 65535 → tget s.qps q = some x → s.endpoint q n = some e → e.state = .ready →
    let waits := (e.gathers x).bind (s.gatherWaits x.home)
    let again := e.out.find? fun o => !o.again.isEmpty
    (∀ r l, e.replies = r :: l → exec (.packetInject q n) s = .next (s.sendReply x q n e r)) ∧
    (∀ t, e.replies = [] → waits = some t → exec (.packetInject q n) s = .next t) ∧
    (e.gathers x = none ∨ s.meFree x.home = true → waits = none) ∧
    (∀ id, e.gathers x = some id → s.meFree x.home = false → s.meServes x.home id = false →
      ((mesOf x.home).any fun u => (tgetD s.mes u {}).ready.any fun r => r.serves == some id && r.pkt.isNone) = false →
      waits = some (s.serveLater x.home id none)) ∧
    (∀ o, e.replies = [] → waits = none → again = some o →
      exec (.packetInject q n) s = .next (if e.paced (o.countAgain x.payload) s.tclk then s.sendAgain x q n o else s)) ∧
    (e.replies = [] → waits = none → again = none → e.queue = [] → exec (.packetInject q n) s = .next s) ∧
    (∀ m rest, e.replies = [] → waits = none → again = none → e.queue = m :: rest → let o := s.opFor m
      (e.mayStart m o = false → exec (.packetInject q n) s = .next s) ∧
      (∀ t b, e.mayStart m o = true → s.build x m o = (t, .ok b) → e.packets + 1 + b.n ≤ 512 → e.admits b.bytes s.tclk = true →
        let p := { b.pkt with psn := e.psn, ackreq := b.pkt.last || (e.sinceReq + 1) % 64 == 0 }
        let d := t.drawFor n x.tc p.idx m.inter
        let m' := { m with next := m.next + b.step, inter := d.2 }
        let entry : Outstanding := { psn := e.psn, op := m.op, pkt := p, bytes := b.bytes, first := b.first, n := b.n, answer := p.ty == 3, sentAt := d.1.tclk }
        let u := d.1.modEnd q n fun y => { y with
          psn := y.psn + 1, sinceReq := e.sinceReq + 1, out := y.out ++ [entry], tLast := d.1.tclk
          timer := if y.out.isEmpty then some (d.1.tclk + rtoBase x y) else y.timer
          queue := if m'.count ≤ m'.next then rest else m' :: rest }
        let v := if p.ty = 1 ∨ p.ty = 4 ∨ m'.carriesData then u.countFn x.f 0 p.plen else u
        exec (.packetInject q n) s = .next ((v.noteNonce x n m').sendCopy x q n p d.2)) ∧
      (∀ t b, e.mayStart m o = true → s.build x m o = (t, .ok b) → (512 < e.packets + 1 + b.n ∨ e.admits b.bytes s.tclk = false) →
        exec (.packetInject q n) s = .next s) ∧
      (∀ t err, e.mayStart m o = true → s.build x m o = (t, .error err) →
        exec (.packetInject q n) s = .next ((t.endedBy err o.job.f o.job.layer o.job.oper).endQpOp o.id { status := .memUncorrectable }))))

/-- PACKET_FORWARD, ESCAPE_WAIT_EXPIRE and RESIDENCE_EXPIRE (R202, R203, R211, R331): of a VC's pools, the first whose head is granted a port or is to be discarded is
served: the head leaves its buffer for the port granted, where its payload fits that port, or is discarded with the reason that the lookup gives, and where none is,
nothing changes; a head with an uncorrectable flit is discarded with reason 0x4D; heads that have waited escape_wait may take the escape; a head whose residence has
reached hop_residence is discarded with reason 0x49, and at input 16, where the package's own messages begin, so is one of the class that waits for credit at a port.
The model's own choices, no rules of the spec: notes/assumptions/5, 19. -/
def Obligations.HeadsForwarded : Prop :=
  ∀ (s : State) (inport vc : Nat), s.live = true → inOk inport = true → vc ≤ 11 →
    let headOf := fun (u : State) pool => (u.inputOf inport).find? fun w => poolOf w.pkt.vc w.pkt.epoch == pool
    let stays := fun pool => headOf s pool = none ∨ ∃ w, headOf s pool = some w ∧ s.grant inport w = .wait
    (∀ before pool after w, poolsOf vc = before ++ pool :: after → (∀ x ∈ before, stays x) → headOf s pool = some w →
      let b := s.unbuffer inport pool
      (∀ p k via, s.grant inport w = .go p k via → k.plen ≤ b.portPayload p →
        let q := (b.modPort inport fun x => { x with lastPick := 2 * p + ofBool (k.phase == 3) }).queueOut p inport w.tc k via
        let c := if inport = 16 then q else q.count 0x05 p (0x20 + k.vc) 1
        exec (.packetForward inport ⟨vc, false⟩) s = .next (c.traceHop inport p k (c.tclk - w.entered))) ∧
      (∀ p k via, s.grant inport w = .go p k via → b.portPayload p < k.plen → exec (.packetForward inport ⟨vc, false⟩) s = .next (b.discard inport 0x43)) ∧
      (∀ i, s.grant inport w = .discard i → exec (.packetForward inport ⟨vc, false⟩) s = .next (b.discard inport i))) ∧
    ((∀ x ∈ poolsOf vc, stays x) → exec (.packetForward inport ⟨vc, false⟩) s = .next s) ∧
    (∀ before pool after w, poolsOf vc = before ++ pool :: after → (∀ x ∈ before, headOf s x = none) → headOf s pool = some w →
      exec (.packetForward inport ⟨vc, true⟩) s = .next ((s.unbuffer inport pool).discard inport 0x4D)) ∧
    ((∀ x ∈ poolsOf vc, headOf s x = none) → exec (.packetForward inport ⟨vc, true⟩) s = .next s) ∧
    exec (.escapeWaitExpire inport vc) s = .next (s.setInput inport (updAll
      (fun w => w.pkt.vc == vc && w.headAt.any fun t => decide (t + s.escapeWait ≤ s.tclk)) (fun w => { w with escape := true }) (s.inputOf inport))) ∧
    exec (.residenceExpire inport vc) s = .next ((poolsOf vc).foldl (fun u pool =>
      if (headOf u pool).any fun w => decide (w.entered + u.hopResidence ≤ u.tclk) then (u.unbuffer inport pool).discard inport 0x49 else u) (if inport = 16 then (List.range 16).foldl (fun u p => u.nearExpire p vc) s else s))

/-- FRAME_RECEIVE (R159, R349): octets and FEC codewords are counted on a sub-port that is up, and on one that is down nothing is; a frame that is short, long or fails
its FCS is counted as that and nothing else; a good MAC control frame goes to the control sublayer; one of EtherType 0x88B5 for the port's address gives its packet
to the checks of packets, one for another address is discarded with reason 0x44, and one on a switched port is dropped; a ZFT datagram for this node gives its packet
where its checksum is good, and is discarded with reason 0x45 where it is not; each of these but the one dropped counts as a ZFT frame, whatever becomes of it
(R361); an LLDP frame is kept for the agent; any other frame is steered. The model's own choices, no rules of the spec: notes/assumptions/9, 34, 86. -/
def Obligations.FramesTaken : Prop :=
  ∀ (s : State) (p sub : Nat) (x : Frame), s.live = true → portOk p = true → subOk sub = true →
    let n := x.bytes.length + 4; let l := x.bytes
    let u := (((s.abortOut p x).mac p sub 0x20 x.fixed).mac p sub 0x21 x.lost).mac p sub 0x01 n
    let v := u.macFrame p sub 0x00 0x02 0x10 n l; let ty := beNat (slice l 12 2); let z := v.mac p sub 0x19 1
    (s.subCount p ≤ sub ∨ (s.sub p sub).up = false → exec (.frameReceive p sub x) s = .next s) ∧
    (sub < s.subCount p → (s.sub p sub).up = true →
      (n < 64 → exec (.frameReceive p sub x) s = .next (u.mac p sub (if x.fcsOk then 0x1C else 0x1D) 1)) ∧
      (64 ≤ n → u.maxFrame p < n → exec (.frameReceive p sub x) s = .next (u.mac p sub (if x.fcsOk then 0x1E else 0x1F) 1)) ∧
      (64 ≤ n → n ≤ u.maxFrame p → x.fcsOk = false → exec (.frameReceive p sub x) s = .next (u.mac p sub 0x1B 1)) ∧
      (64 ≤ n → n ≤ u.maxFrame p → x.fcsOk = true →
        (ty = 0x8808 → exec (.frameReceive p sub x) s = .next ((v.macControl p sub l).pfcCheck p)) ∧
        (ty = 0x88B5 → v.portSwitched p = true → exec (.frameReceive p sub x) s = .next ((v.mac p sub 0x26 1).pfcCheck p)) ∧
        (ty = 0x88B5 → v.portSwitched p = false → dmacOf l = v.macAddr p 0 → exec (.frameReceive p sub x) s = .next ((z.zftIn p (l.drop 14)).pfcCheck p)) ∧
        (ty = 0x88B5 → v.portSwitched p = false → dmacOf l ≠ v.macAddr p 0 →
          exec (.frameReceive p sub x) s = .next (((z.mac p sub 0x26 1).discard p 0x44).pfcCheck p)) ∧
        (∀ src dst udp, ty ≠ 0x8808 → ty ≠ 0x88B5 → v.zftDatagram p l = some (src, dst, udp) →
          let good := beNat (slice udp 6 2) = 0 ∨ fold16 8 (onesGo (src ++ dst ++ beBytes 4 udp.length ++ beBytes 4 17 ++ udp) 0) = 65535
          (good → exec (.frameReceive p sub x) s = .next ((z.zftIn p (udp.drop 8)).pfcCheck p)) ∧
          (¬ good → exec (.frameReceive p sub x) s = .next ((z.discard p 0x45).pfcCheck p))) ∧
        (ty = 0x88CC → dmacOf l = 0x0180C200000E → v.zftDatagram p l = none →
          exec (.frameReceive p sub x) s = .next ((v.modPort p fun y => { y with lldpIn := y.lldpIn ++ [(sub, l)] }).pfcCheck p)) ∧
        (ty ≠ 0x8808 → ty ≠ 0x88B5 → v.zftDatagram p l = none → ¬(ty = 0x88CC ∧ dmacOf l = 0x0180C200000E) →
          exec (.frameReceive p sub x) s = .next ((v.steer p sub l (dmacOf l == v.macAddr p sub || destKind l != 0)).pfcCheck p))))

/-- TRIGGER_FIRE, FLUSH_COMPLETE and CONTEXT_FETCH_COMPLETE (R140, R141, R152, R153, R177, R189): the first armed job whose condition holds leaves the table, and what
waited for its place is armed; it applies its RESET_SIGNAL and runs, or ends with LOC_TRIGGER_ABORTED where its condition came by the error mark or its counter
carries the mark, or with DEV_FENCED in a fenced domain; what waited for its paths is announced; the packets of a context leave the sidings and are acted on in
order, and a context that meets uncorrectable data ends its QP. With nothing that may fire, no such wait and no such packet, nothing changes. The model's own
choices, no rules of the spec: notes/assumptions/5, 49, 83. -/
def Obligations.WaitsEnd : Prop :=
  ∀ s : State, s.live = true →
    (s.nextArmed = none → exec .triggerFire s = .next s) ∧
    (∀ a, s.nextArmed = some a → let j := a.job
      let t := State.armHeld { s with armed := s.armed.filter fun b => !(b.job.f == j.f && b.job.q == j.q && b.job.seq == j.seq) }
      let marked := a.marked || evcMarked (s.evc j.ctx j.trigCounter)
      (marked = true → exec .triggerFire s = .next (t.failJob j .locTriggerAborted)) ∧
      (marked = false → t.jobFenced j = true → exec .triggerFire s = .next (t.failJob j .devFenced)) ∧
      (marked = false → t.jobFenced j = false → exec .triggerFire s = .next (((t.resetSignal j).rouseJob j).runJob j))) ∧
    (∀ n, (s.flags.find? fun p => p.id == n) = none → exec (.flushComplete n) s = .next s) ∧
    (∀ n p, (s.flags.find? fun p => p.id == n) = some p →
      let t := { s with flags := s.flags.filter fun x => x.id != n }
      (∀ op j r, p.flag = .job op j r → exec (.flushComplete n) s = .next (t.finishJob op j r ((op.bind t.op).elim 0 (·.bytes)))) ∧
      (∀ r j c k a, p.flag = .signal r j c k a → exec (.flushComplete n) s = .next (t.addEvc c k a)) ∧
      (∀ q m msg addr value c sg g l o echo, p.flag = .final q m msg addr value c sg g l o echo →
        exec (.flushComplete n) s = .next (t.writeFinal q m msg addr value c sg l o echo)) ∧
      (∀ q m msg echo x e, p.flag = .folded q m msg echo → tget t.qps q = some x → t.endpoint q m = some e →
        exec (.flushComplete n) s = .next (if e.state = .ready then t.finalEffect q m x msg echo else t)) ∧
      (∀ gid seq, p.flag = .collDone gid seq → exec (.flushComplete n) s = .next ((t.collFlushed gid seq).advanceAll)) ∧
      (∀ key st moved, p.flag = .meRun key st moved → exec (.flushComplete n) s = .next (t.finishMe key st moved))) ∧
    (∀ q n, q < 16777216 → n ≤ 65535 →
      (∀ bad, tget s.qps q = none → exec (.contextFetchComplete q n bad) s = .next s) ∧
      (∀ x, tget s.qps q = some x → let u0 := s.unside 0 q x n; let u1 := u0.2.unside 1 q x n
        (u0.1 ++ u1.1 ≠ [] → exec (.contextFetchComplete q n false) s = .next ((u0.1 ++ u1.1).foldl (fun s a => s.fromSiding a) (u1.2.touch q x n))) ∧
        (u0.1 ++ u1.1 = [] → exec (.contextFetchComplete q n false) s = .next u1.2) ∧
        exec (.contextFetchComplete q n true) s =
          .next ((u1.2.fetchError.2.endedBy u1.2.fetchError.1 x.f 0 0).qpError q (if x.omnibus then n else x.node) .memUncorrectable)))

/-- COLL_DATA and CHUNK_FOLD_COMPLETE (R248–R250, R262): a packet of a data message joins its message, which is acted on once it is whole; a packet that fits no message
is discarded with reason 0x51, and so is the first of one for an earlier collective, whose slot is freed; a chunk whose folding is complete goes to the owner at the
next level, as EPF records where its accumulators are exact, or at the top level, rounded, to this member's result and on down; before that nothing changes, and a
fold that finds its file uncorrectable reports FAULT, and the cluster of the file begins a reset (R444). The model's own choices, no rules of the spec:
notes/assumptions/24, 43, 77. -/
def Obligations.ChunksMove : Prop :=
  (∀ (s u : State) (i : Inbound), s.requestReady (fun p => p.ty == 8 && (s.kindOf p).isNone) u i →
    let heard := fun (gid : Nat) (n : Neighbour) => u.modNbr gid n.idx fun n => { n with moved := u.tclk }
    (u.sender i = none → exec .collData s = .next ((u.discard i.port 0x51).afterAccept i)) ∧
    (∀ gid g n, u.sender i = some (gid, g, n) → 0xFFFFFF00 ≤ i.pkt.chunk → exec .collData s = .next (((heard gid n).discard i.port 0x51).afterAccept i)) ∧
    (∀ gid g n, u.sender i = some (gid, g, n) → i.pkt.chunk < 0xFFFFFF00 →
      let p := i.pkt
      let mine := fun (m : CollMsg) => m.src == n.idx && m.msg == p.msg && !m.whole
      let fresh : CollMsg := { src := n.idx, msg := p.msg, level := n.level, chunk := p.chunk, seq := BitVec.ofNat 32 (fld p.body 4 4),
                               sig := BitVec.ofNat 32 (fld p.body 8 4), addr := localOf p.raddr - p.idx * i.x.payload, landing := false }
      let m0 := (g.msgs.find? mine).getD fresh
      let m := { m0 with parts := tset m0.parts p.idx p.payload, lastIdx := (if p.last then some p.idx else m0.lastIdx), landing := landsIn g n m0.addr 1 }
      let seen := g.msgs.any mine
      let stale := fun (x : CollMsg) => !seen && x.dead && x.src == n.idx && x.landing && m.landing && g.slotAt n x.addr == g.slotAt n m.addr
      let v := (heard gid n).modGroup gid fun g => { g with msgs := g.msgs.filter fun x => !mine x && !stale x }
      let d := v.discard i.port 0x51
      let e := if m.landing then d.freeSlot gid n.idx (g.slotAt n m.addr) else d
      (¬(seen = false ∧ g.past m.seq = true) →
        (m.whole = false → exec .collData s = .next (((v.modGroup gid fun g => { g with msgs := g.msgs ++ [m] }).advanceAll).afterAccept i)) ∧
        (m.whole = true → m.dead = true → exec .collData s = .next (v.advanceAll.afterAccept i)) ∧
        (m.whole = true → m.dead = false → exec .collData s = .next (((v.takeMsg gid m (some i.port)).advanceAll).afterAccept i))) ∧
      (seen = false → g.past m.seq = true →
        (m.whole = false → exec .collData s = .next (((e.modGroup gid fun g => { g with msgs := g.msgs ++ [{ m with dead := true }] }).advanceAll).afterAccept i)) ∧
        (m.whole = true → exec .collData s = .next (e.advanceAll.afterAccept i))))) ∧
  (∀ (s : State) (gid level chunk : Nat) (g : Group) (c : Coll) (f : Fold), s.live = true → tget s.groups gid = some g → g.cur = some c →
    (c.folds.find? fun f => f.level == level && f.chunk == chunk) = some f →
    (c.fault.isSome ∨ f.got.length < g.sizes.getD level 1 → exec (.chunkFoldComplete gid level ⟨chunk, none⟩) s = .next s) ∧
    (c.fault = none → g.sizes.getD level 1 ≤ f.got.length →
      let t := ((s.trace (f.cluster / 8) 0x04 f.cluster c.job.layer c.job.oper g.f
        (leBytes 2 gid ++ leBytes 1 level ++ leBytes 1 0 ++ leBytes 4 c.seq.toNat ++ leBytes 4 chunk ++ leBytes 4 f.got.length)).modCur gid fun c =>
          { c with folds := c.folds.filter fun x => !(x.level == level && x.chunk == chunk) }).keepAccs f
      let j := ownerFrom g.sizes g.me chunk (level + 1)
      let records := f.acc.map fun a => (Acc.ofNat a).epf
      (level + 1 ≠ g.sizes.length → j ≠ g.me →
        let parts := if c.exact then pieces records (2 ^ g.chunkLog - 8) else [elemBytes c.es f.acc]
        exec (.chunkFoldComplete gid level ⟨chunk, none⟩) s =
          .next (parts.foldl (fun s l => s.outMsg gid j { level := level + 1, chunk, what := .bytes l, up := true }) t).advanceAll) ∧
      (level + 1 ≠ g.sizes.length → j = g.me →
        let l := if c.exact then (pieces records (sum (records.map (·.length)))).headD [] else elemBytes c.es f.acc
        exec (.chunkFoldComplete gid level ⟨chunk, none⟩) s =
          .next (t.giveFold gid { level := level + 1, chunk, pos := posOf g.sizes g.me (level + 1), what := .bytes l }).advanceAll) ∧
      (level + 1 = g.sizes.length →
        let vals := if c.exact then f.acc.map fun a => ((elemFmt c.elem).elim 0 fun t => (Acc.ofNat a).round t) else f.acc
        let l := elemBytes c.es vals
        (∀ u off, placeOf g c g.me chunk = some off → t.collStore gid g c off l = (u, true) →
          exec (.chunkFoldComplete gid level ⟨chunk, none⟩) s = .next ((u.collPlaced gid).handOn gid g c chunk g.sizes.length (.bytes l)).advanceAll) ∧
        (∀ u off, placeOf g c g.me chunk = some off → t.collStore gid g c off l = (u, false) →
          exec (.chunkFoldComplete gid level ⟨chunk, none⟩) s = .next (u.handOn gid g c chunk g.sizes.length (.bytes l)).advanceAll) ∧
        (placeOf g c g.me chunk = none →
          exec (.chunkFoldComplete gid level ⟨chunk, none⟩) s = .next (t.handOn gid g c chunk g.sizes.length (.bytes l)).advanceAll))) ∧
    (∀ k, k ≤ 3 → exec (.chunkFoldComplete gid level ⟨chunk, some k⟩) s =
      .next (if f.units.contains k then
        ((s.draw.2.badAccs f.cluster k (Config.freeNat s.draw.1)).collFault gid .memUncorrectable).innerError f.cluster else s)))

/-! ### Control records of collectives -/

/-- ENTER, FIRST, DONE, REPORT, DECISION, FREE, ENTERED and ALL_ENTERED (R233, R251–R254, R257), each a control record of this member's group: an ENTER is kept, sets off
FIRST, and is compared where a control child sent it; a FIRST starts the leader's timer; a DONE joins the round's; after both, DONE goes up or the leader decides, as
far as the round allows; a REPORT goes up unchanged, or is latched at the leader; a DECISION of the parent goes down and is acted on; a FREE moves the count of freed
slots forward; ENTERED and ALL_ENTERED drive laggard mode. A DECISION or an ALL_ENTERED of another member, and a DECISION of no status that one carries, do nothing;
a record that is none of the group's is discarded with reason 0x51. The model's own choices, no rules of the spec: notes/assumptions/24, 25, 43, 77. -/
def Obligations.ControlRecordsActed : Prop :=
  (∀ (s u : State) (i : Inbound) (gid : Nat) (g : Group) (n : Neighbour) (seq : W32) (l : List Byte),
    (s.controlReady 0x01 u i gid g n seq l →
      let e : Entered := { idx := n.idx, seq, sig := BitVec.ofNat 32 (fld l 8 4), addr := fld l 16 8, len := fld l 24 4, flags := fld l 2 1 }
      let v := (u.modGroup gid fun g => { g with enters := (g.enters.filter fun x => !(x.idx == n.idx && x.seq == seq)) ++ [e] }).sendFirst gid seq n.idx
      let differs := g.cur.any fun c => c.seq == seq && c.sig != e.sig
      let w := if differs && g.children.contains n.idx then v.reportUp gid seq 1 n.idx else v
      exec .enter s = .next ((((w.tryDone gid seq).decideNow gid seq).advanceAll).afterAccept i)) ∧
    (s.controlReady 0x02 u i gid g n seq l →
      let v := u.sendFirst gid seq (fld l 6 2)
      exec .first s = .next ((if g.leader then v.startTimer gid seq else v).afterAccept i)) ∧
    (s.controlReady 0x03 u i gid g n seq l →
      let v := u.modRound gid seq fun r => { r with done := addNew n.idx r.done, slowest := fld l 6 2 }
      exec .done s = .next ((((v.tryDone gid seq).decideNow gid seq).advanceAll).afterAccept i)) ∧
    (s.controlReady 0x04 u i gid g n seq l →
      (∀ p, g.parent = some p → exec .report s = .next ((u.sendRecord gid p 0x04 seq l).afterAccept i)) ∧
      (g.parent = none → exec .report s = .next (((u.reportUp gid seq (fld l 2 1) (fld l 6 2)).advanceAll).afterAccept i))) ∧
    (s.controlReady 0x05 u i gid g n seq l →
      (∀ st, g.parent = some n.idx → decisionOf (fld l 3 1) = some st →
        exec .decision s = .next ((((u.sendAll gid g.children 0x05 st.code seq (fld l 6 2)).act gid seq st (fld l 6 2)).advanceAll).afterAccept i)) ∧
      (g.parent ≠ some n.idx ∨ decisionOf (fld l 3 1) = none → exec .decision s = .next (u.afterAccept i))) ∧
    (s.controlReady 0x06 u i gid g n seq l →
      exec .free s = .next (((u.modNbr gid n.idx fun n =>
        if gap32 (BitVec.ofNat 32 (fld l 8 4)) (BitVec.ofNat 32 n.freedBy) < 2 ^ 31 then { n with freedBy := fld l 8 4 } else n).advanceAll).afterAccept i)) ∧
    (s.controlReady 0x0A u i gid g n seq l →
      exec .entered s =
        .next (((u.modRound gid seq fun r => { r with entered := addNew n.idx r.entered, lastIn := fld l 6 2 }).tryEntered gid seq).afterAccept i)) ∧
    (s.controlReady 0x09 u i gid g n seq l →
      (g.parent = some n.idx → let v := u.sendAll gid g.children 0x09 0 seq 0
        exec .allEntered s = .next ((if g.cur.any fun c => c.seq == seq then v.addWait gid else v).afterAccept i)) ∧
      (g.parent ≠ some n.idx → exec .allEntered s = .next (u.afterAccept i)))) ∧
  (∀ (s u : State) (i : Inbound) (c : Instr) (kind : Nat),
    (c, kind) ∈ [(Instr.enter, 1), (.first, 2), (.done, 3), (.report, 4), (.decision, 5), (.free, 6), (.formed, 7), (.ready, 8), (.allEntered, 9), (.entered, 10)] →
    s.requestReady (fun p => p.ty == 8 && s.kindOf p == some kind) u i → u.controlOf i kind = none →
    exec c s = .next ((u.discard i.port 0x51).afterAccept i))

/-- GROUP_JOIN, REPLY, ROUTE_MESSAGE_RETRY and EVENT (R205, R213, R237): a GROUP_JOIN is answered by what the group knows: ARGUMENT where its form is wrong, STATE
without the group, CRC where its CRC differs, IN_USE from outside the group, and OK with the neighbour's QP and landing area kept; the request a REPLY answers is
done, its OK to a GROUP_JOIN connects a QP, its STATE asks again under a new request ID, and any other status fails the forming; a REPLY to a message of a change of
routes goes on with that change; a REPLY to nothing does nothing; a request unanswered for 100 µs is sent again; an EVENT is passed on and answered with OK. What
comes from the manager's node is answered once (R213). The forming of groups and the timers of groups (R237, R253, R255): a FORMED is noted and, once all have
formed, goes up; a READY of the parent makes a forming group READY and completes its CREATE_GROUP, and any other does nothing; a group still forming at its deadline
is dropped and CREATE_GROUP ends with COLL_FORM_FAILED; a leader whose timer has run decides COLL_ABORT_TIMEOUT, where rules 1 to 4 do not decide first; a member
without a decision for twice the timeout ends with COLL_MEMBER_LOST and the group fails. Before their time, and for groups that they are not for, the timers do
nothing. The model's own choices, no rules of the spec: notes/assumptions/5, 20, 42, 77. -/
def Obligations.GroupsForm : Prop :=
  (∀ (s u : State) (a : Arrival), let l := a.pkt.body; let src := a.pkt.src; let gid := fld l 4 2; let j := fld l 12 2
    let good := l.length = 32 ∧ zeroAt l 1 1 = true ∧ zeroAt l 6 2 = true ∧ zeroAt l 14 2 = true ∧ zeroAt l 19 1 = true ∧ zeroAt l 28 4 = true
    let kept := u.answered.find? fun a => a.src == src && a.id == fld l 2 2
    let keep := fun (t : State) (st : Nat) => if u.managedBy src then { t with
      answered := ({ src, id := fld l 2 2, status := st } : Answered) :: (List.take 255 (List.filter (fun (b : Answered) => b.src == src) t.answered) ++
        List.filter (fun (b : Answered) => b.src != src) t.answered) } else t
    (s.fabricReady (fun l => fld l 0 1 == 0x20) u a →
      (∀ k, u.managedBy src = true → kept = some k → exec .groupJoin s = .next (u.replyFabric src l k.status)) ∧
      (u.managedBy src = false ∨ kept = none →
        let done := fun (t : State) (st : Nat) => exec .groupJoin s = .next ((keep t st).replyFabric src l st)
        (¬ good → done u 4) ∧
        (good → tget u.groups gid = none → done u 1) ∧
        (∀ g, good → tget u.groups gid = some g → BitVec.ofNat 32 (fld l 8 4) ≠ g.crc → done u 2) ∧
        (∀ g, good → tget u.groups gid = some g → BitVec.ofNat 32 (fld l 8 4) = g.crc → (∀ n, g.nbr j = some n → n.node ≠ src) → done u 3) ∧
        (∀ g n, good → tget u.groups gid = some g → BitVec.ofNat 32 (fld l 8 4) = g.crc → g.nbr j = some n → n.node = src →
          done ((u.modNbr gid j fun n => { n with remoteQp := some (n.remoteQp.getD (fld l 16 3)), remote := fld l 20 8 }).tryConnect gid j) 0))) ∧
    (s.fabricReady (fun l => fld l 0 1 == 0x80) u a →
      let asked := u.requests.find? fun r => r.id == fld l 2 2 && r.dst == src
      (asked = none → exec .reply s = .next u) ∧
      (∀ r, asked = some r → let v := { u with requests := u.requests.filter fun x => x != r }; let id := v.nextReq % 65536
        (r.qpOf = none → exec .reply s = .next (v.changeReply r.id (fld l 4 1))) ∧
        (∀ g k, r.qpOf = some (g, k) →
          (fld l 4 1 = 0 → exec .reply s = .next ((v.modNbr g k fun n => { n with okSeen := true }).tryConnect g k)) ∧
          (fld l 4 1 = 1 → exec .reply s = .next { v with
            nextReq := (id + 1) % 65536, requests := v.requests ++ [{ r with id, data := splice r.data 2 (leBytes 2 id), at_ := v.tclk }] }) ∧
          (fld l 4 1 = 2 → exec .reply s = .next (v.formFail g 2)) ∧
          (3 ≤ fld l 4 1 → exec .reply s = .next (v.formFail g 3))))) ∧
    (s.live = true → ∀ q, let asked := s.requests.find? fun r => r.id == q
      (asked = none ∨ (∃ r, asked = some r ∧ s.tclk < r.at_ + 100000) → exec (.routeMessageRetry q) s = .next s) ∧
      (∀ r, asked = some r → r.at_ + 100000 ≤ s.tclk →
        let v := { s with requests := updAll (fun x => x == r) (fun x => { x with at_ := s.tclk }) s.requests }
        exec (.routeMessageRetry q) s = .next (match r.port with | some p => v.sendNear p r.data | none => v.sendFabric r.dst r.data))) ∧
    (s.fabricReady (fun l => fld l 0 1 == 0x10) u a →
      let m : Passed := { src, data := l }
      (∀ k, u.managedBy src = true → kept = some k → exec .event s = .next (u.replyFabric src l k.status)) ∧
      (u.managedBy src = false ∨ kept = none → exec .event s = .next ((keep { u with passed := u.passed ++ [m] } 0).replyFabric src l 0)))) ∧
  ((∀ (s u : State) (i : Inbound) (gid : Nat) (g : Group) (n : Neighbour) (seq : W32) (l : List Byte),
    (s.controlReady 0x07 u i gid g n seq l →
      exec .formed s = .next (((u.modNbr gid n.idx fun n => { n with formed := true }).tryFormed gid).afterAccept i)) ∧
    (s.controlReady 0x08 u i gid g n seq l →
      (∀ h, g.parent = some n.idx → tget u.groups gid = some h → h.state = .forming →
        let v := (u.sendAll gid h.children 0x08 0 0 0).modGroup gid fun g => { g with state := .ready, ticket := none }
        (∀ j, h.ticket = some j → exec .ready s = .next ((v.answer j (.ok (landingBytes h h.nbrs.length + 2 ^ 32 * h.nbrs.length))).afterAccept i)) ∧
        (h.ticket = none → exec .ready s = .next (v.afterAccept i))) ∧
      (g.parent ≠ some n.idx ∨ (∀ h, tget u.groups gid = some h → h.state ≠ .forming) → exec .ready s = .next (u.afterAccept i)))) ∧
  (∀ (s : State) (gid : Nat) (g : Group), s.live = true → tget s.groups gid = some g →
    (g.formBy ≤ s.tclk → g.state = .forming →
      (∀ j, g.ticket = some j → exec (.formationTimeout gid) s = .next ((s.dropGroup gid).answer j (.fail .collFormFailed 1))) ∧
      (g.ticket = none → exec (.formationTimeout gid) s = .next (s.dropGroup gid))) ∧
    (s.tclk < g.formBy ∨ g.state ≠ .forming → exec (.formationTimeout gid) s = .next s) ∧
    (g.leader = true → g.laggard = false → g.state = .ready →
      let due := g.rounds.filter fun r => r.decided.isNone && r.timerAt.any fun t => decide (t + g.timeout * 1000000 ≤ s.tclk)
      exec (.groupTimeout gid) s = .next ((due.foldl (fun s r => (s.decideNow gid r.seq).decideAs gid r.seq .collAbortTimeout 0) s).advanceAll)) ∧
    (g.leader = false ∨ g.laggard = true ∨ g.state ≠ .ready → exec (.groupTimeout gid) s = .next s) ∧
    (∀ c, g.cur = some c → g.laggard = false → c.startAt + 2 * g.timeout * 1000000 ≤ s.tclk →
      exec (.decisionWaitTimeout gid) s = .next (((s.collEndEarly gid).modGroup gid fun g => { g with state := .failed }).advanceAll)) ∧
    (g.cur = none ∨ g.laggard = true ∨ (∃ c, g.cur = some c ∧ s.tclk < c.startAt + 2 * g.timeout * 1000000) →
      exec (.decisionWaitTimeout gid) s = .next s)) ∧
  (∀ (s : State) (gid : Nat), tget s.groups gid = none →
    exec (.formationTimeout gid) s = .next s ∧ exec (.groupTimeout gid) s = .next s ∧ exec (.decisionWaitTimeout gid) s = .next s))

/-- The seven route messages (R209, R212–R214): one of the manager's node, of the form that Table 6.5 gives it, whose request ID is not among those kept of its source,
has its effect where the slot's state allows it, is kept, and is answered with its status, STATE where the slot's state does not; one of any other node is discarded
with reason 0x4C; one answered before is answered alike, and has no effect. While no manager is named and none has acted, the messages of the root node, whose fabric
processors act for it, are taken as the manager's are. The model's own choices, no rules of the spec: notes/assumptions/23, 45. -/
def Obligations.RouteMessagesApply : Prop :=
  ∀ (s u : State) (a : Arrival) (i : Instr) (op : Nat),
    (i, op) ∈ [(Instr.routeBegin, 1), (.routeWrite, 2), (.routeSeal, 3), (.inject, 4), (.retire, 5), (.intermediates, 6), (.address, 7)] →
    s.fabricReady (fun l => fld l 0 1 == op) u a →
    let l := a.pkt.body; let src := a.pkt.src; let e := fld l 1 1 % 2; let r := u.slot e; let count := fld l 8 2
    let acts := fun (t : State) => { t with agent := { t.agent with acted := t.agent.acted || u.fmNode.isSome } }
    let keep := fun (t : State) (st : Nat) => { t with
      answered := ({ src, id := fld l 2 2, status := st } : Answered) :: (List.take 255 (List.filter (fun (b : Answered) => b.src == src) t.answered) ++
        List.filter (fun (b : Answered) => b.src != src) t.answered) }
    let done := fun (t : State) (st : Nat) => exec i s = .next ((acts (keep t st)).replyFabric src l st)
    (u.managedBy src = false → exec i s = .next (u.discard a.port 0x4C)) ∧
    (∀ n, u.fmNode = some n → (u.managedBy src = true ↔ src = n)) ∧
    (u.fmNode = none → (u.managedBy src = true ↔ u.agent.acted = false ∧ src = u.agent.root ∧ src ≠ u.node)) ∧
    (∀ k, u.managedBy src = true → (u.answered.find? fun a => a.src == src && a.id == fld l 2 2) = some k → exec i s = .next ((acts u).replyFabric src l k.status)) ∧
    (u.managedBy src = true → (u.answered.find? fun a => a.src == src && a.id == fld l 2 2) = none → fld l 0 1 = op →
      (routeForm r l = false → done u replyArgument) ∧
      (routeForm r l = true →
        (op = 1 → r.state ≠ .sealed_ → done (u.modSlot e fun _ => { state := .loading }) replyOk) ∧
        (op = 1 → r.state = .sealed_ → done u replyState) ∧
        ((op = 2 ∨ op = 6 ∨ op = 7) → r.state ≠ .loading → done u replyState) ∧
        (op = 3 → r.state ≠ .loading → r.state ≠ .sealed_ → done u replyState) ∧
        ((op = 4 ∨ op = 5) → r.state ≠ .sealed_ → done u replyState) ∧
        (op = 3 → r.state = .sealed_ → done u (if r.crc = fld l 8 4 then replyOk else replyCrc)) ∧
        (op = 2 → r.state = .loading →
          done (u.modSlot e fun r => { r with table := putFrom {} r.table (fld l 4 2) ((readAll 16 RouteEntry.read? l count).getD []) }) replyOk) ∧
        (op = 3 → r.state = .loading → r.crc = fld l 8 4 → done ((u.modSlot e fun r => { r with state := .sealed_ }).wakeNamed.greet e) replyOk) ∧
        (op = 3 → r.state = .loading → r.crc ≠ fld l 8 4 → done u replyCrc) ∧
        (op = 4 → r.state = .sealed_ → done { u with epoch := e } replyOk) ∧
        (op = 5 → r.state = .sealed_ → u.epoch ≠ e → done (u.modSlot e fun _ => {}) replyOk) ∧
        (op = 5 → r.state = .sealed_ → u.epoch = e → done u replyInUse) ∧
        (op = 6 → r.state = .loading →
          done (u.modSlot e fun r => { r with inter := putInter r.inter (fld l 10 2) ((List.range count).map fun i => fld l (16 + 4 * i) 2) }) replyOk) ∧
        (op = 7 → r.state = .loading →
          done (u.modSlot e fun r => { r with addrs := putFrom {} r.addrs (fld l 4 2) ((readAll 32 AddrEntry.read? l count).getD []) }) replyOk)))

/-! ### Links, credits and peers -/

/-- PORT_LINK_DOWN, PORT_LINK_UP, CREDIT_FRAME_TIMER and CREDIT (R205, R217, R343): a sub-port is down, or, where the port may come up, up with the version exchange and
LLDP begun afresh; a change of the port is reported, and what waited on a port that goes down is given up; a CREDIT frame leaves a direct port that is up every 4 µs,
or 128 ns after credits were freed, under the next sequence number, and at no other time; of two cumulative counts of a pool the later holds, and what waited for
credit is sent. LANE_FAIL, LANE_SWAP, LANE_SWAP_DONE, RETRAIN_COMPLETE, PARK and PORT_WAKE (R344–R346, R472): the first failed lane of a direct port at full width is
swapped for L8; any later one in use, or one of a switched port, retrains the port on what Table 11.2 leaves; one not in use is only entered as a repair, and one of
a broken-out port takes its sub-port down; an end for which L8 has failed, or that itself is to replace another failed lane, answers a swap by retraining; a port
parks once it may at both ends, a switched one on its own check, and wakes 12 µs from the cause on. The model's own choices, no rules of the spec:
notes/assumptions/5, 20, 28, 32, 86. -/
def Obligations.LinksAndLanes : Prop :=
  (∀ (s : State) (p sub d : Nat), s.live = true → portOk p = true → subOk sub = true →
    let x := s.port p
    let down := (s.modSub p sub fun x => { x with up := false }).portState p
    let broken := s.subCount p ≠ 1 ∧ ∃ k < 8 / s.subCount p, x.failed.getLsbD (sub * (8 / s.subCount p) + k) = true
    let may := s.portEnabled p = true ∧ sub < s.subCount p ∧ s.portsHeld = false ∧ x.retrain = false ∧ x.width ≠ .down ∧ ¬ broken
    let due := s.portSwitched p = false ∧ x.up = true ∧ (x.creditAt + 4000 ≤ s.tclk ∨ (x.creditNew = true ∧ x.creditAt + 128 ≤ s.tclk))
    exec (.portLinkDown p sub) s = .next (if (down.port p).up then down else
      State.modPort { down with requests := down.requests.filter fun r => r.port != some p } p fun x => { x with near := [] }) ∧
    (may → exec (.portLinkUp p sub d) s = .next (((s.modPort p fun x => { x with
        delay := d, blocked := 0, version := 1, helloDone := false, helloSeen := false, helloNext := s.tclk, parked := false, waking := none }).modSub p sub fun x =>
          { x with up := true, lldpNext := s.tclk, lldpSent := 0 }).portState p)) ∧
    (¬ may → exec (.portLinkUp p sub d) s = .next s) ∧
    (due → exec (.creditFrameTimer p) s = .next ((s.sendCtrl p x.creditBytes).modPort p fun x =>
          { x with creditSeq := (x.creditSeq + 1) % 65536, creditAt := s.tclk, creditNew := false })) ∧
    (¬ due → exec (.creditFrameTimer p) s = .next s) ∧
    (∀ u k, s.linkReady p 0x80 u k →
      let v := u.modPort p fun x => { x with freedBy := (List.range 13).foldl (fun t i =>
        let v := fld k.body (16 + 4 * i) 4
        if gap32 (BitVec.ofNat 32 v) (BitVec.ofNat 32 (tgetD t i 0)) < 2 ^ 31 then tset t i v else t) x.freedBy }
      exec (.credit p) s = .next (State.sendWaiting (v.port p).near.length v p))) ∧
  (∀ (s : State) (p m : Nat), s.live = true → portOk p = true → let x := s.port p
    (m ≤ 8 →
      let known := x.failed.getLsbD m = true ∨ (s.portSwitched p = true ∧ m = 8)
      let u := s.modPort p fun y => { y with failed := y.failed ||| (1#9 <<< m) }
      let idle := x.width = .down ∨ (x.lanes.contains m = false ∧ ¬(m = 8 ∧ x.swapping.isSome = true))
      let first := x.width = .full ∧ x.swapping = none ∧ u.portSwitched p = false ∧ x.allFailed.getLsbD 8 = false ∧ x.peerFailed = 0 ∧ x.failed = 0
      (known → exec (.laneFail p m) s = .next s) ∧
      (¬ known → u.subCount p ≠ 1 → exec (.laneFail p m) s = .next ((u.repair 0x04 7 [p, m]).linkDown p (m / (8 / u.subCount p)))) ∧
      (¬ known → u.subCount p = 1 → idle → exec (.laneFail p m) s = .next (u.repair 0x04 7 [p, m])) ∧
      (¬ known → u.subCount p = 1 → ¬ idle → first → exec (.laneFail p m) s =
        .next ((u.modPort p fun y => { y with swapping := some m }).sendCtrl p (leBytes 1 0x81 ++ leBytes 1 0 ++ leBytes 1 m))) ∧
      (¬ known → u.subCount p = 1 → ¬ idle → ¬ first → exec (.laneFail p m) s = .next ((u.repair 0x04 7 [p, m]).retrainOn p))) ∧
    (∀ u k, s.linkReady p 0x81 u k → let y := u.port p; let m := fld k.body 2 1
      let taken := m ≤ 7 ∧ y.width = .full ∧ u.portSwitched p = false
      let v := u.modPort p fun y => { y with peerFailed := y.peerFailed ||| (1#9 <<< m) }
      let beside := ∃ j < 9, j ≠ m ∧ y.allFailed.getLsbD j = true
      (¬ taken → exec (.laneSwap p) s = .next u) ∧
      (taken → beside → exec (.laneSwap p) s = .next ((v.repair 0x04 7 [p, m]).retrainOn p)) ∧
      (taken → ¬ beside → exec (.laneSwap p) s =
        .next ((u.modPort p fun y => { y with peerFailed := y.peerFailed ||| (1#9 <<< m), swapping := some m }).takeSpare p m))) ∧
    (∀ u k, s.linkReady p 0x82 u k →
      ((u.port p).swapping = none → exec (.laneSwapDone p) s = .next u) ∧
      (∀ m, (u.port p).swapping = some m → exec (.laneSwapDone p) s =
        .next ((if (u.port p).lanes.contains m then u.takeSpare p m else u).modPort p fun y => { y with swapping := none }))) ∧
    (x.retrain = true → exec (.retrainComplete p) s = .next ((s.modPort p fun y => { y with retrain := false }).linkUp p 0 x.delay)) ∧
    (x.retrain = false → exec (.retrainComplete p) s = .next s) ∧
    (∀ t heard, (let said := takeFirst (fun (a : Arrival) => a.port == p && a.pkt.ty == 0x20 && fld a.pkt.body 0 1 == 0x83) s.arrived
        (said = none ∧ t = s ∧ heard = false) ∨ (∃ a l, said = some (a, l) ∧ t = { s with arrived := l } ∧ heard = true)) →
      let y := t.port p
      (y.parked = true ∨ y.up = false → exec (.park p) s = .next t) ∧
      (y.parked = false → y.up = true →
        (t.mayPark p = false → exec (.park p) s = .next (t.modPort p fun x => { x with parkSeen := x.parkSeen || heard, parkSent := false })) ∧
        (t.mayPark p = true → t.portSwitched p = true → exec (.park p) s = .next (t.parkNow p)) ∧
        (t.mayPark p = true → t.portSwitched p = false →
          let u := if heard || y.parkSeen then t.modPort p fun x => { x with parkSeen := true } else t
          let v := if y.parkSent then u else
            (u.sendOn p (u.linkPacket p (leBytes 1 0x83 ++ List.replicate 3 0))).modPort p fun x => { x with parkSent := true }
          exec (.park p) s = .next (if (v.port p).parkSeen && (v.sub p 0).queue.isEmpty then v.parkNow p else v)))) ∧
    (x.parked = false → exec (.portWake p) s = .next s) ∧
    (x.parked = true →
      (x.waking = none → exec (.portWake p) s = .next (s.modPort p fun x => { x with waking := some (s.tclk + 12000) })) ∧
      (∀ t, x.waking = some t → t ≤ s.tclk →
        exec (.portWake p) s = .next (s.modPort p fun x => { x with parked := false, waking := none, helloNext := s.tclk })) ∧
      (∀ t, x.waking = some t → s.tclk < t → exec (.portWake p) s = .next s)))

/-- Peers of HP0 (R155, R156, R383): a write that makes a range valid apart from every other valid range registers the peer and begins a probe, and one whose range
overlaps another's is ignored; valid written 0 removes a peer; probe written 1 probes it again; a write that makes nothing valid is a write of the size alone. A
probe issues 16 reads 1 µs apart, and ends REACHABLE only if all 16 came back within 50 µs; with a read that did not come back it ends UNREACHABLE, its median a free
value. The model's own choices, no rules of the spec: notes/assumptions/5, 30. -/
def Obligations.PeersProbed : Prop :=
  ∀ (s : State) (n : Nat) (w : W64), n ≤ 31 → let x := s.peer n; let v := w.toNat
    (s.served = true → ∀ c ∈ [Instr.peerRegister n w, .peerUnregister n w, .peerProbeRequest n w],
      let meets := s.peers.any fun e => e.1 != n && e.2.valid && overlaps (s.peerBase e.1) (s.peerSize e.1) (s.peerBase n) (v % 2 ^ 32 * 4096)
      let sized := s.setWord 0 (0x010200 + 16 * n + 8) (v % 2 ^ 32)
      (x.valid = false → bit v 32 = true → meets = false → exec c s = .next ((sized.modPeer n fun _ => { valid := true }).probe n)) ∧
      (x.valid = false → bit v 32 = true → meets = true → exec c s = .next s) ∧
      (x.valid = false → bit v 32 = false → exec c s = .next sized) ∧
      (x.valid = true → bit v 32 = false → exec c s = .next (s.modPeer n fun _ => {})) ∧
      (x.valid = true → bit v 32 = true → exec c s = .next (if bit v 33 then s.probe n else s))) ∧
    (s.live = true →
      (x.probing = true → x.issued < 16 → x.nextAt ≤ s.tclk →
        exec (.peerProbeRead n) s = .next (s.modPeer n fun y => { y with issued := y.issued + 1, nextAt := s.tclk + 1000 })) ∧
      (x.probing = false ∨ 16 ≤ x.issued ∨ s.tclk < x.nextAt → exec (.peerProbeRead n) s = .next s) ∧
      (∀ ts, x.probing = true → x.issued = 16 → ts.length = 16 →
        exec (.peerProbeDone n (ts.map some)) s = .next (s.modPeer n fun y => { y with
          probing := false, state := (if ts.all fun t => decide (t ≤ 50000) then 1 else 2), rtt := Nat.min 0xFFFF (median16 ts / 10) })) ∧
      (∀ ts, x.probing = true → x.issued = 16 → (ts.filterMap id).length ≠ 16 →
        ∃ st, (ts.length = 16 → st = 2) ∧ exec (.peerProbeDone n ts) s = .next (s.draw.2.modPeer n fun y => { y with
          probing := false, state := st, rtt := Config.freeNat s.draw.1 % 65536 })) ∧
      (∀ ts, x.probing = false ∨ x.issued ≠ 16 → exec (.peerProbeDone n ts) s = .next s))

/-! ### The ROM agent -/

/-- LLDP_TRANSMIT, LLDP_RECEIVE, HELLO, HELLO_ACK and HELLO_RETRY (R421, R422, R431): an LLDP frame of this node's leaves on a sub-port that is up, four times 25 ms
apart and then once a second; a received one names the neighbour, and a port that leads back to this node is held out of every candidate set, while one that names no
node, or comes to a parked port, has no effect; HELLO is answered by HELLO_ACK, which ends the sending of HELLO; once both have come, they settle the version of a
direct link, the lower of the two ends' highest, and until then the version stays as it is; a HELLO_ACK alone settles that of a node beyond switches; one whose byte
6 is not zero does nothing; HELLO is sent again every 1 ms until it is answered. The model's own choices, no rules of the spec: notes/assumptions/28, 29. -/
def Obligations.NeighboursGreeted : Prop :=
  ∀ (s : State) (p sub : Nat), s.live = true → portOk p = true → subOk sub = true → let x := s.port p
    let hail := fun (t : State) (dst subtype port : Nat) =>
      t.launch (t.stamp { ty := 0x20, dst, plen := 16, body := t.helloBytes subtype port, first := true, last := true } 0) 7
    let lldp := (s.sub p sub).up = true ∧ x.parked = false ∧ (s.sub p sub).lldpNext ≤ s.tclk ∧ s.agent.running = true
    let again := x.up = true ∧ x.parked = false ∧ x.helloNext ≤ s.tclk ∧ s.agent.running = true
    (lldp → exec (.lldpTransmit p sub) s = .next (s.modSub p sub fun x => { x with
        queue := x.queue ++ [({ cls := 7, kind := .lldp, bytes := s.lldpFrame p sub ++ List.replicate (60 - (s.lldpFrame p sub).length) 0, at_ := s.tclk } : TxFrame)]
        lldpSent := x.lldpSent + 1, lldpNext := s.tclk + if x.lldpSent < 3 then 25000000 else 1000000000 })) ∧
    (¬ lldp → exec (.lldpTransmit p sub) s = .next s) ∧
    (x.lldpIn = [] → exec (.lldpReceive p) s = .next s) ∧
    (∀ k l rest, x.lldpIn = (k, l) :: rest → let u := s.modPort p fun x => { x with lldpIn := rest }
      ((u.port p).parked = true ∨ lldpNode l = none → exec (.lldpReceive p) s = .next u) ∧
      (∀ n, (u.port p).parked = false → lldpNode l = some n →
        exec (.lldpReceive p) s = .next ((u.modPort p fun x => { x with peerNode := n, peerMac := slice l 6 6 }).hold p 0 8 (n == u.node)))) ∧
    (∀ u k, s.linkReady p 1 u k →
      ((u.port p).parked = true ∨ helloForm k.body = false → exec (.hello p) s = .next u) ∧
      ((u.port p).parked = false → helloForm k.body = true →
        (u.portSwitched p = false → let v := u.modPort p fun x => { x with helloSeen := true }
          let w := if !v.portSwitched p && (v.port p).helloDone then v.versionSet p k k.body else v
          (w.portSwitched p = false → exec (.hello p) s = .next (w.sendOn p (w.linkPacket p (w.helloBytes 0x02 p))))) ∧
        (u.portSwitched p = true → exec (.hello p) s = .next (hail u k.src 0x02 p)))) ∧
    (∀ u k, s.linkReady p 2 u k →
      (helloForm k.body = false → exec (.helloAck p) s = .next u) ∧
      (helloForm k.body = true → let v := u.versionSet p k k.body
        (u.portSwitched p = false → let w := u.modPort p fun x => { x with helloDone := true }
          exec (.helloAck p) s = .next (if (w.port p).helloSeen then w.versionSet p k k.body else w)) ∧
        (u.portSwitched p = true → exec (.helloAck p) s = .next { v with agent := { v.agent with greeted := v.agent.greeted.filter (· != k.src) } }))) ∧
    (¬ again → exec (.helloRetry p) s = .next s) ∧
    (again → let u := s.modPort p fun x => { x with helloNext := s.tclk + 1000000 }
      (u.portSwitched p = false →
        exec (.helloRetry p) s = .next (if x.helloDone then u else u.sendOn p (u.linkPacket p (u.helloBytes 0x01 p)))) ∧
      (u.portSwitched p = true → exec (.helloRetry p) s = .next (u.agent.greeted.foldl (fun t n => hail t n 0x01 0) u)))

/-- TREE, TREE_TIMER, TREE_STABLE, SUBTREE and AGENT_ROUTE_RETIRE (R207, R210, R213, R423): what a neighbour says of its root and distance is kept, the root, distance
and parent follow from it, and it is answered; the nodes of a child's SUBTREE stand in the subtree of its port from the position that it names, and none behind them:
nodes that are only added are told on once the tree is stable, and any other difference makes it unstable; it is answered; a message of another form, or from a port
that is not direct, is answered with ARGUMENT, and one answered before is answered alike; every 10 ms TREE goes to every neighbour; a tree unchanged for 20 ms is
stable: the subtree is told to the parent and the routes are settled: loaded by each node's own agent before stage 3 and where none are in force, changed for the
whole fabric by the root node from then on; the old slot is retired once no packet of its epoch has come for the drain time, and a change that waits for the end of
the drain goes on. Before their time the timers do nothing. The model's own choices, no rules of the spec: notes/assumptions/28, 29. -/
def Obligations.TreeFormed : Prop :=
  (∀ (s u : State) (a : Arrival), let l := a.pkt.body; let src := a.pkt.src; let n := fld l 8 2
    let reply := fun (t : State) (st : Nat) => t.sendNear a.port (leBytes 1 0x80 ++ leBytes 1 0 ++ slice l 2 2 ++ leBytes 1 st)
    let answered := fun (t : State) (st : Nat) => reply { t with
      answered := ({ src, id := fld l 2 2, status := st } : Answered) :: (List.take 255 (List.filter (fun (b : Answered) => b.src == src) t.answered) ++
        List.filter (fun (b : Answered) => b.src != src) t.answered) } st
    let kept := u.answered.find? fun x => x.src == src && x.id == fld l 2 2
    let near := u.portSwitched a.port = false ∧ a.port ≤ 15
    let treeForm := 9 ≤ l.length ∧ fld l 1 1 ≤ 1 ∧ zeroAt l 6 1 = true
    let subForm := l.length = 16 + 4 * n ∧ n ≤ 240 ∧ fld l 1 1 ≤ 1 ∧ zeroAt l 4 4 = true ∧ zeroAt l 12 4 = true ∧ ((List.range n).all fun i => zeroAt l (18 + 4 * i) 2) = true
    (s.fabricReady (fun l => fld l 0 1 == 8) u a →
      (∀ k, kept = some k → exec .tree s = .next (reply u k.status)) ∧
      (kept = none → ¬(treeForm ∧ near) → exec .tree s = .next (answered u 4)) ∧
      (kept = none → treeForm → near →
        let v := u.modPort a.port fun x => { x with peerNode := src }
        let now := (src, fld l 4 2, fld l 8 1)
        (tget v.agent.heard a.port = some now → exec .tree s = .next (answered v 0)) ∧
        (tget v.agent.heard a.port ≠ some now →
          exec .tree s = .next (answered (State.treeUpdate { v with agent := { v.agent with heard := tset v.agent.heard a.port now } }) 0)))) ∧
    (s.fabricReady (fun l => fld l 0 1 == 9) u a →
      let had := tgetD u.agent.subtree a.port []
      let all := had.take (fld l 10 2) ++ (List.range n).map fun i => fld l (16 + 4 * i) 2
      (∀ k, kept = some k → exec .subtree s = .next (reply u k.status)) ∧
      (kept = none → ¬(subForm ∧ near) → exec .subtree s = .next (answered u 4)) ∧
      (kept = none → subForm → near → (all = had ∨ u.agent.parent = some a.port) → exec .subtree s = .next (answered u 0)) ∧
      (kept = none → subForm → near → all ≠ had → u.agent.parent ≠ some a.port →
        let v := { u with agent := { u.agent with subtree := tset u.agent.subtree a.port all } }
        (v.agent.stable = false ∨ v.agentOn = false → exec .subtree s = .next (answered v 0)) ∧
        (v.agent.stable = true → v.agentOn = true → had.isPrefixOf all = true → v.boot.stage ≠ 3 →
          exec .subtree s = .next (answered v.sendSubtree.agentAdd 0)) ∧
        (v.agent.stable = true → v.agentOn = true → (had.isPrefixOf all = false ∨ v.boot.stage = 3) →
          exec .subtree s = .next (answered { v with agent := { v.agent with changed := v.tclk, stable := false } } 0))))) ∧
  (∀ s : State, s.live = true →
    (s.agentOn = true → s.agent.nextTree ≤ s.tclk →
      exec .treeTimer s = .next (State.treeUpdate { s with agent := { s.agent with nextTree := s.tclk + 10000000 } }).sendTree) ∧
    (s.agentOn = false ∨ s.tclk < s.agent.nextTree → exec .treeTimer s = .next s) ∧
    (s.agentOn = true → s.agent.stable = false → s.agent.changed + 20000000 ≤ s.tclk →
      let u := State.sendSubtree { s with agent := { s.agent with stable := true } }
      (u.boot.stage ≠ 3 ∨ (u.slot u.epoch).state ≠ .sealed_ → exec .treeStable s = .next u.agentLoad) ∧
      (u.boot.stage = 3 → (u.slot u.epoch).state = .sealed_ → u.agent.root = u.node → exec .treeStable s = .next u.changeBegin) ∧
      (u.boot.stage = 3 → (u.slot u.epoch).state = .sealed_ → u.agent.root ≠ u.node → exec .treeStable s = .next u)) ∧
    (s.agentOn = false ∨ s.agent.stable = true ∨ s.tclk < s.agent.changed + 20000000 → exec .treeStable s = .next s) ∧
    (let u := if s.agentOn then State.changeGo 6 s else s;
      (∀ t, u.agent.retireAt = some t → t ≤ u.tclk → u.agent.lastOld + u.drainTime ≤ u.tclk →
        exec .agentRouteRetire s = .next { (u.modSlot (1 - u.epoch) fun _ => {}) with agent := { u.agent with retireAt := none } }) ∧
      (u.agent.retireAt = none ∨ (∃ t, u.agent.retireAt = some t ∧ u.tclk < t) ∨ u.tclk < u.agent.lastOld + u.drainTime →
        exec .agentRouteRetire s = .next u)) ∧
    (s.agent.change = none → State.changeGo 6 s = s) ∧
    (∀ c, s.agent.change = some c → s.changeWaits c = true → State.changeGo 6 s = s))

/-! ### What leaves a port -/

/-- The gate lists of a sub-port (R359): a write of PORT_GATE_CFG's second word takes up the cycle time, and where it sets enable or commit, from the first cycle start
not yet past, the list or the other bank; a sub-port that the port does not have ignores it; the bank switches at its instant; the list begins at its first cycle
start and again at each one after it, and its entries follow one another through the cycle. Before their time the gates stay. FRAME_START, PAUSE_FRAME, PAUSE_EXPIRE
and STAT_HALF_CLEAR (R358, R360, R362): at a frame start a sub-port sends its first control frame, else the head frame of the highest eligible strict class, unless
15 have gone before it while a weighted class waited, else one of the weighted classes; a pause names how long each class waits, and its end frees the class; writing
1 to a half flag clears it and bit 39 of its counter, unless the port does not have the sub-port (R506). A sub-port that is down, parked or not there, and one with
nothing eligible, sends nothing. The model's own choices, no rules of the spec: notes/assumptions/27, 86. -/
def Obligations.GatesAndFrames : Prop :=
  (∀ (s : State) (p sub : Nat) (w : W64), portOk p = true → subOk sub = true → let x := s.sub p sub
    (s.served = true → sub < s.subCount p → ∀ c ∈ [Instr.gateCommit p sub w, .gateEnable p sub w],
      let o := subBase p sub
      let u := (if 256 ≤ w.toNat % 2 ^ 32 then s.setWord 0 (o + 0x468) (w.toNat % 2 ^ 32) else s).setWord 0 (o + 0x46C) (ofBool (bit w.toNat 32))
      let cycle := u.word 0 (o + 0x468)
      let first := firstStart (u.dword 0 (o + 0x460)) cycle u.gateTime
      let v := if bit w.toNat 32 = true ∧ s.gateEnabled p sub = false then
        u.modSub p sub fun x => { x with gateBase := first, gateCycle := cycle, gateOn := false, gates := 0xFF } else u
      (bit w.toNat 33 = true → exec c s = .next (v.modSub p sub fun x => { x with nextCycle := cycle, pending := true, commitAt := first })) ∧
      (bit w.toNat 33 = false → exec c s = .next v)) ∧
    (s.subCount p ≤ sub → exec (.gateCommit p sub w) s = .next s ∧ exec (.gateEnable p sub w) s = .next s) ∧
    (s.live = true →
      (x.pending = true → (x.commitAt : Int) ≤ s.gateTime →
        let g := s.gateStart p sub (1 - x.bank) x.commitAt x.nextCycle
        exec (.gateBankSwitch p sub) s = .next (s.modSub p sub fun y => { y.at g with pending := false, gateBase := y.commitAt, gateOn := true })) ∧
      ((x.pending = false ∨ s.gateTime < x.commitAt) → exec (.gateBankSwitch p sub) s = .next s) ∧
      (let due := if x.gateOn then x.cycleAt + x.gateCycle else x.gateBase
        let start := due + (s.gateTime.toNat - due) / Nat.max 1 x.gateCycle * Nat.max 1 x.gateCycle;
        (s.gateEnabled p sub = true → (due : Int) ≤ s.gateTime → exec (.gateCycleStart p sub) s =
          .next (s.modSub p sub fun y => { y.at (s.gateStart p sub x.bank start x.gateCycle) with gateOn := true })) ∧
        (s.gateEnabled p sub = false ∨ s.gateTime < due → exec (.gateCycleStart p sub) s = .next s)) ∧
      (let due := s.gateEnabled p sub = true ∧ x.gateOn = true ∧ ((x.entryEnd : Nat) : Int) ≤ s.gateTime ∧ x.entryEnd < x.cycleAt + x.gateCycle;
        (due → exec (.gateIntervalEnd p sub) s =
          .next (s.modSub p sub fun y => y.at (gateEntry (s.gateList p sub y.bank) y.bank y.cycleAt y.gateCycle (y.entry + 1) y.entryEnd))) ∧
        (¬ due → exec (.gateIntervalEnd p sub) s = .next s)))) ∧
  (∀ (s : State) (p sub : Nat), portOk p = true → subOk sub = true → let t := s.pfcCheck p; let x := t.sub p sub
    let may := sub < t.subCount p ∧ x.up = true ∧ (t.port p).parked = false
    let weighted := (List.range 6).any fun k => t.eligible p sub k
    (s.live = true →
      (¬ may → exec (.frameStart p sub) s = .next t) ∧
      (∀ l rest, may → x.ctrl = l :: rest →
        exec (.frameStart p sub) s = .next ((t.modSub p sub fun x => { x with ctrl := rest }).transmit p sub l none)) ∧
      (∀ c, may → x.ctrl = [] → (c = 7 ∨ (c = 6 ∧ t.eligible p sub 7 = false)) → t.eligible p sub c = true →
        (weighted = true → 15 ≤ x.strict → exec (.frameStart p sub) s = .next (t.sendWeighted p sub)) ∧
        (¬(weighted = true ∧ 15 ≤ x.strict) →
          exec (.frameStart p sub) s = .next ((t.modSub p sub fun x => { x with strict := if weighted then x.strict + 1 else 0 }).sendClass p sub c))) ∧
      (may → x.ctrl = [] → t.eligible p sub 7 = false → t.eligible p sub 6 = false →
        exec (.frameStart p sub) s = .next (if weighted then t.sendWeighted p sub else t))) ∧
    (s.live = true →
      ((s.sub p sub).pauses = [] → exec (.pauseFrame p sub) s = .next s) ∧
      (∀ l rest, (s.sub p sub).pauses = l :: rest →
        let upd := fun (t : Tab Nat) (e : Nat × Option Nat) => match e.2 with
          | some until_ => tset t e.1 until_
          | none => tdel t e.1
        exec (.pauseFrame p sub) s = .next (s.modSub p sub fun x => { x with pauses := rest, pausedTo := l.foldl upd x.pausedTo })) ∧
      (∀ c ≤ 7, s.paused p sub c = false →
        exec (.pauseExpire p sub c) s = .next (s.modSub p sub fun x => { x with pausedTo := tdel x.pausedTo c })) ∧
      (∀ c ≤ 7, s.paused p sub c = true → exec (.pauseExpire p sub c) s = .next s)) ∧
    (∀ word (v : W64), word ≤ 1 → s.served = true → s.subCount p ≤ sub → exec (.statHalfClear p sub word v) s = .next s) ∧
    (∀ word (v : W64), word ≤ 1 → s.served = true → sub < s.subCount p → exec (.statHalfClear p sub word v) s =
      .next (s.modSub p sub fun x => (bitsSet 64 v.toNat).foldl (fun (x : SubPort) i => { x with
        half := x.half &&& ~~~(1#128 <<< (64 * word + i))
        stats := tset x.stats (64 * word + i) (BitVec.ofNat 64 ((tgetD x.stats (64 * word + i) 0).toNat % 2 ^ 39)) }) x)))

/-! ### Lanes, the gang and the movement engines -/

/-- PLAN_START, BUNDLE_ISSUE, STAGE_COMPLETE, WAIT_RELEASE, PLAN_RESUME and PLAN_END (R258, R292, R298, R300, R306–R311): a run starts once its gang is free, or ends at
once where its argument block cannot be read, breaks R292, or names a segment that is not ACTIVE; a member that is past its boundary, and whose turn it is, issues
its bundle, a family's member its family, and an access of it that fails, or a tile that it reads and that is uncorrectable, fails the plan at the lower of the slots
that fail, and the cluster of such a tile begins a reset; a member at its plan's last bundle ends; a STAGE that is done is carried out, releases the SIGNALs that
waited and adds 1 to its counter, and one that fails marks its counter and fails the plan; when every member waits and every counter has reached its mark, all go on,
and a marked one fails the plan; a paused run resumes once its clusters have left collective service; a run whose members have ended and of which nothing is
outstanding ends with its status. The model's own choices, no rules of the spec: notes/assumptions/47, 48, 81, 84, 88. -/
def Obligations.PlanStepsTaken : Prop :=
  ∀ (s : State) (id i : Nat) (r : PlanRun), s.live = true → s.run id = some r →
    (r.started = true ∨ s.gangFree r = false → exec (.planStart id) s = .next s) ∧
    (∀ p o, r.started = false → s.gangFree r = true → tget s.plans r.plan = some p → s.op r.op = some o →
      let read := s.readVia { f := r.f, ctx := r.ctx, seg := o.seg } o.near 512
      (∀ t l e, read = (t, l, some e) →
        exec (.planStart id) s = .next ((t.endedBy e r.f o.job.layer o.job.oper).endRun r { status := .memUncorrectable })) ∧
      (∀ t l, read = (t, l, none) →
        let active := fun i => decide ((t.segment r.ctx i).state = .active)
        let members := gangMembers r.gang l; let segs := startSegs (argMask l) members p.moves
        let good := argsBad p l = false ∧ ((bitsSet 16 (argMask l)).all fun k => active (argA l k / 2 ^ 60 % 16)) = true
        (¬ good → exec (.planStart id) s = .next (t.endRun r { status := .locPlanArgs })) ∧
        (good → segs.all active = false → exec (.planStart id) s = .next (t.endRun r { status := .locSeg })) ∧
        (good → segs.all active = true →
          let refs := segs.map fun i => ({ ctx := r.ctx, seg := i, gen := t.segGen r.ctx i } : Ref)
          let slots := (List.range 16).map fun k => if bit p.mask k then some (argRef l k % 256) else none
          let u := t.modRun r.id fun r => { r with
            started := true, startAt := t.tclk, startCycle := t.aclkNow (r.gang.headD 0 / 8), members, slots, mask := argMask l, segs, refs }
          let chans : List (Nat × Channel) :=
            (members.zip (List.range members.length)).flatMap fun x => memberChannels u.tclk r.id r.ctx x.2 x.1 p.moves
          exec (.planStart id) s =
            .next (State.tracePlans { u with channels := chans.foldl (fun t e => tset t e.1 e.2) u.channels } r 0 0).countersChanged))) ∧
    (∀ p m, tget s.plans r.plan = some p → r.members[i]? = some m →
      let idle := r.paused = true ∨ r.failed.isSome = true ∨ m.ended = true ∨ m.waiting.isSome = true ∨ s.runHeld id = true
      let b := p.bundleAt m.pc; let atBound := (m.pc = 0 ∨ bBoundary b = true) ∧ m.passed = false
      (idle → exec (.bundleIssue id ⟨i, none⟩) s = .next s) ∧
      (¬ idle → p.length ≤ m.pc → exec (.bundleIssue id ⟨i, none⟩) s = .next (s.modMember id i fun m => { m with ended := true }).checkStop) ∧
      (¬ idle → m.pc < p.length → atBound →
        let t := (if m.atBound then s else s.reachBoundary r i m).passBoundary id
        (∀ r' m', t.run id = some r' → r'.members[i]? = some m' →
          exec (.bundleIssue id ⟨i, none⟩) s = .next (if m'.passed then t.issueTurn r' p i m' else t))) ∧
      (¬ idle → m.pc < p.length → ¬ atBound → r.turn i m = false → exec (.bundleIssue id ⟨i, none⟩) s = .next s) ∧
      (¬ idle → m.pc < p.length → ¬ atBound → r.turn i m = true →
        (p.family ≠ 0 → exec (.bundleIssue id ⟨i, none⟩) s = .next (s.issueFamily r p i m)) ∧
        (p.family = 0 →
          let st := stageOf m b r.nextStage (s.outDst r)
          let staged := (s.modRun r.id fun r => { r.clashAll (s.stageDst r st) with nextStage := r.nextStage + 1 }).modMember r.id i fun m =>
            { m with stages := m.stages ++ [st] }
          let got := if bLop b = 0 then (s, .ok []) else if bLop b ≤ 3 then s.tileAccess r i m b else (staged, .ok [])
          (s.stageWaits r m b = true → exec (.bundleIssue id ⟨i, none⟩) s = .next s) ∧
          (∀ t e dev, s.stageWaits r m b = false → got = (t, .error (e, dev)) →
            exec (.bundleIssue id ⟨i, none⟩) s = .next (t.failRun r.id e 0 m.cluster m.pc dev)) ∧
          (∀ t loaded, s.stageWaits r m b = false → got = (t, .ok loaded) →
            let step := if bLp b = true ∧ 1 ≤ bLop b ∧ bLop b ≤ 3 then (if bLop b = 3 then 256 else 4096) else 0
            let v := t.modMember r.id i fun x => Member.control { x with
              tiles := (loaded ++ computed m b).foldl (fun t e => tset t e.1 e.2) m.tiles, passed := false, issued := x.issued + 1, moved := t.tclk
              a := x.a.set (bLa b) ((x.a.getD (bLa b) 0 + step) % 2 ^ 64) } p.bundles b
            exec (.bundleIssue id ⟨i, none⟩) s = .next (if bCop b = 5 then v.signalOut r i b else v.checkStop)))) ∧
      (s.stageWaits r m b = true ↔ (4 ≤ bLop b ∧ bLop b ≤ 6) ∧ (32 ≤ m.stages.length ∨ s.stageHeld r m (stageOf m b r.nextStage []) = true)) ∧
      (∀ k, k ≤ 4 →
        let issues := ¬ idle ∧ m.pc < p.length ∧ ¬ atBound ∧ r.turn i m = true ∧ slotReads p b k = true ∧ s.stageWaits r m b = false
        let read := fun (t : State) => t.draw.2.endedBy { source := 3, tier := 0, unit := m.cluster, position := 0, addr := Config.freeNat t.draw.1 }
          r.f (t.draw.2.jobOf r).layer (t.draw.2.jobOf r).oper
        let fails := fun (t : State) (e : Status) (slot dev : Nat) => let w := (read t).failRun id e slot m.cluster m.pc dev
          exec (.bundleIssue id ⟨i, some k⟩) s = .next (if (w.run id).any (·.failed.isSome) then w.innerError m.cluster else w)
        (∀ e, issues → k = 0 → p.family = 0 → s.tileCheck r (tileAddr m b) b = .error e → fails s e 0 (tileAddr m b)) ∧
        (issues → k = 0 → (p.family ≠ 0 ∨ ∃ a, s.tileCheck r (tileAddr m b) b = .ok a) → fails s .memUncorrectable 0 0) ∧
        (∀ t e dev, issues → k ≠ 0 → s.loadStore r i m b = (t, .error (e, dev)) → fails t e 0 dev) ∧
        (∀ t l, issues → k ≠ 0 → s.loadStore r i m b = (t, .ok l) → fails t .memUncorrectable k 0) ∧
        (¬ issues → exec (.bundleIssue id ⟨i, some k⟩) s = .next s))) ∧
    (∀ n m st, r.members[i]? = some m → (m.stages.find? fun x => x.id == n) = some st →
      (∀ t, s.copyStage r st = (t, .ok ()) →
        let u := t.modMember id i fun m => { m with
          stages := m.stages.filter fun x => x.id != n
          signals := m.signals.map fun x => (x.1, x.2.1, x.2.2.filter (· != n))
          stored := if st.op = 5 ∧ st.len * st.rows ≠ 0 then addPath (t.pathOf r.f (t.planLocal r st.far)) m.stored else m.stored }
        let v := (u.countFn r.f 11 (st.rows * st.len)).releaseSignals r i
        exec (.stageComplete id i n) s = .next ((r.slots.getD st.slot none).elim v fun c => v.addEvc r.ctx c 1)) ∧
      (∀ t e dev, s.copyStage r st = (t, .error (e, dev)) →
        let u := t.modMember id i fun m => { m with
          stages := m.stages.filter fun x => x.id != n
          signals := m.signals.filter fun x => !x.2.2.contains n }
        exec (.stageComplete id i n) s =
          .next (((r.slots.getD st.slot none).elim u fun c => u.markEvc r.ctx c).failRun id e 4 m.cluster st.bundle dev))) ∧
    (let held := r.members.filter fun m => !m.ended
      let all := held ≠ [] ∧ r.failed = none ∧ held.all (·.waiting.isSome) = true
      let marked := held.find? fun m => m.waiting.any fun w => (r.slots.getD w.1 none).any fun c => evcMarked (s.evc r.ctx c);
      (¬ all → exec (.waitRelease id) s = .next s) ∧
      (∀ m, all → marked = some m → exec (.waitRelease id) s = .next (s.failRun id .locTriggerAborted 3 m.cluster (m.pc - 1) 0)) ∧
      (all → marked = none → exec (.waitRelease id) s = .next (if held.all fun m => m.waiting.all (s.waitOver r) then
        s.modRun id fun r => { r with members := r.members.map fun m => { m with waiting := none } } else s))) ∧
    (let may := r.paused = true ∧ s.stopWaits = false ∧ (r.gang.any fun c => s.inService c || s.wantsCluster c) = false;
      (may → exec (.planResume id) s = .next ((s.modRun id fun r => { r with
        paused := false
        members := r.members.map fun m => if m.ended then m else { m with atBound := false, passed := true } }).tracePlans r 3
          (r.members.headD { cluster := 0 }).pc)) ∧
      (¬ may → exec (.planResume id) s = .next s)) ∧
    (let finished := r.started = true ∧ (r.failed.isSome || r.members.all (·.ended)) = true ∧ s.runQuiet r = true ∧ s.runHeld id = false;
      (finished → exec (.planEnd id) s = .next ((s.tracePlans r 4 (r.members.headD { cluster := 0 }).pc).endRun r { status := r.failed.getD .ok })) ∧
      (¬ finished → exec (.planEnd id) s = .next s))

/-- ME_TIMER_RUN, ME_RUN_START and ME_RUN_COMPLETE (R144–R146, R153, R154): each period of a TIMER channel makes a run ready, or is an overrun where one is under way, up
to its run limit; an ME that is free, of a cluster that is neither fenced nor replaying and whose gallery is awake, takes its oldest ready run and checks its rows,
and a run that the error mark made ready, or one of whose rows fails its checks, will end with that status; a run of ME1 lets that of ME0 that the same completion
made ready start first, and one that uses memory held for a change of timetables waits; the run's rows are moved in order, and it ends once its paths are flushed, or
at once where the channel says so. A run of a dispatch channel serves an operation of an SQE: it places the response that it carries as it ends. The model's own
choices, no rules of the spec: notes/assumptions/49, 81, 84. -/
def Obligations.EngineRuns : Prop :=
  ∀ (s : State) (k e ch : Nat), s.live = true → k < 48 → e < 2 → ch < 16 → let key := k * 32 + e * 16 + ch; let u := k * 2 + e
    (∀ c, tget s.channels key = some c →
      let due := c.armed = true ∧ c.start = 0 ∧ c.armedAt + (c.started + 1) * c.period ≤ s.tclk ∧ (c.limit = 0 ∨ c.started + 1 ≤ c.limit)
      (¬ due → exec (.meTimerRun k e ch) s = .next s) ∧
      (due → s.chanBusy key = false → exec (.meTimerRun k e ch) s = .next (s.ready key 1)) ∧
      (due → s.chanBusy key = true → exec (.meTimerRun k e ch) s = .next { (s.countFn (s.chanFn c) 10 1) with
        channels := tset s.channels key { c with started := c.started + 1, overruns := c.overruns + 1 } })) ∧
    (let m := tgetD s.mes u {}
      let held := m.running.isSome = true ∨ s.clusterFenced k = true ∨ s.replaying k = true ∨ s.awake (k / 8) = false;
      (held ∨ m.ready = [] → exec (.meRunStart k e) s = .next s) ∧
      (∀ r m', ¬ held → m.take = some (r, m') → tget s.channels r.chan = none →
        ((r.serves.any fun id => (s.op id).isSome) = true →
          exec (.meRunStart k e) s = .next (s.modMe u fun _ => { m' with running := some r, lastMove := s.tclk })) ∧
        ((r.serves.any fun id => (s.op id).isSome) = false → exec (.meRunStart k e) s = .next (s.modMe u fun _ => m'))) ∧
      (∀ r m' c, ¬ held → m.take = some (r, m') → tget s.channels r.chan = some c → (s.laterMe u r = true ∨ s.chanHeld u c = true) →
        exec (.meRunStart k e) s = .next s) ∧
      (∀ r m' c, ¬ held → m.take = some (r, m') → tget s.channels r.chan = some c → s.laterMe u r = false → s.chanHeld u c = false →
        let fenced := s.recov.fences.any fun x => x.domain == .function (s.chanFn c)
        let runs := fun (x : MeRun) => exec (.meRunStart k e) s = .next (s.modMe u fun _ => { m' with running := some x, lastMove := s.tclk })
        (fenced = true → exec (.meRunStart k e) s = .next s) ∧
        (fenced = false → r.marked = true → runs { chan := r.chan, k := r.k, marked := r.marked, status := some .locTriggerAborted }) ∧
        (∀ refs, fenced = false → r.marked = false → s.rowChecks c c.pairs [] = .ok refs →
          runs { chan := r.chan, k := r.k, marked := r.marked, refs := refs }) ∧
        (∀ st dev, fenced = false → r.marked = false → s.rowChecks c c.pairs [] = .error (st, dev) →
          runs { chan := r.chan, k := r.k, marked := r.marked, status := some st, dev := dev }))) ∧
    ((tgetD s.mes u {}).running = none → exec (.meRunComplete k e) s = .next s) ∧
    (∀ r, (tgetD s.mes u {}).running = some r → tget s.channels r.chan = none →
      let t := s.modMe u fun m => { m with running := none, lastMove := s.tclk }
      (r.pkt = none → exec (.meRunComplete k e) s = .next t) ∧
      (∀ q n a, r.pkt = some (q, n, a) → exec (.meRunComplete k e) s = .next (t.scatterNow q n a))) ∧
    (∀ r c, (tgetD s.mes u {}).running = some r → tget s.channels r.chan = some c →
      let waits := s.flags.any fun p => match p.flag with | .meRun k _ _ => k == r.chan | _ => false
      (waits = true → exec (.meRunComplete k e) s = .next s) ∧
      (∀ st, waits = false → r.status = some st → exec (.meRunComplete k e) s = .next (s.finishMe r.chan st 0)) ∧
      (∀ t st dev n paths, waits = false → r.status = none → s.moveRows c (s.chanOpen c r.chan r.k) c.pairs 0 [] = (t, st, dev, n, paths) →
        let need := if bit c.options 1 then [] else toFlush paths (t.chanFlags (s.chanFn c) c)
        let v := t.modMe u fun m => { m with running := some { r with moved := n, paths, dev } }
        (need = [] → exec (.meRunComplete k e) s = .next (v.finishMe r.chan st n)) ∧
        (need ≠ [] → exec (.meRunComplete k e) s = .next (v.addFlag (s.chanFn c) need (.meRun r.chan st n)))))

/-! ### Galleries: timetables, power and the cycle of conservation -/

/-- TIMETABLE_SWITCH, TIMETABLE_DRAIN_TIMEOUT, DIVIDER_CHANGE, GAP_CLEAR, POWER_STATE_ENTRY and GALLERY_WAKE (R35, R36, R42, R51, R52, R469, R508): a change of
timetables ends with the new ones once the gallery is drained, or with DEV_DRAIN_TIMEOUT and the old ones 1 ms after it began, and with no change under way neither
does anything; a divider becomes the larger of floor and demand, is counted when it changes, and ACLK goes on from where it stood after a time that is open; the plan
gaps of the clusters named are cleared, once firmware serves; a gallery whose clusters and memory hold no work and for which none waits, idle for the time of the
deepest state it may take, enters that state, U3 losing tier A, and stays as it is before; below U0 it wakes in that state's time. What counts as drained is the
model's choice (log 50). The model's own choices, no rules of the spec: notes/assumptions/50, 51. -/
def Obligations.GalleriesChange : Prop :=
  ∀ (s : State) (g : Nat), galOk g = true → s.live = true → let x := s.gal g
    (∀ t j, x.hold = some (t, j) →
      (s.drained g = true → exec (.timetableSwitch g) s = .next ((s.modGal g fun x => x.endHold true).answer j (.ok 0))) ∧
      (s.drained g = false → exec (.timetableSwitch g) s = .next s) ∧
      (s.drained g = false → t + 1000000 ≤ s.tclk →
        exec (.timetableDrainTimeout g) s = .next ((s.modGal g fun x => x.endHold false).answer j (.fail .devDrainTimeout 0))) ∧
      (s.drained g = true ∨ s.tclk < t + 1000000 → exec (.timetableDrainTimeout g) s = .next s)) ∧
    (x.hold = none → exec (.timetableSwitch g) s = .next s ∧ exec (.timetableDrainTimeout g) s = .next s) ∧
    (x.divider ≠ Nat.max x.floor x.demand →
      exec (.dividerChange g) s = .next ((s.draw.2.modGal g fun y => { y with
        divider := Nat.max x.floor x.demand, aclk := s.draw.2.aclkNow g, aclkAt := s.tclk + Config.freeNat s.draw.1 % 257 }).count 0x0B g 0x11 1)) ∧
    (x.divider = Nat.max x.floor x.demand → exec (.dividerChange g) s = .next s) ∧
    (∀ m, (s.boot.stage = 3 → exec (.gapClear g m) s = .next (s.modGal g fun x => { x with gaps := x.gaps.filter fun e => !m.getLsbD e.1 })) ∧
      (s.boot.stage ≠ 3 → exec (.gapClear g m) s = .next s)) ∧
    (let d := s.deepest g
     let due := x.power < d ∧ s.quiet g false = true ∧ s.awaited g = false ∧ (∀ t, x.waking = some t → t ≤ s.tclk) ∧ x.idleAt + idleTime d ≤ s.tclk
     let u := s.modGal g fun y => { y with power := d, waking := none };
      (due → d ≠ 3 → exec (.powerStateEntry g) s = .next u) ∧
      (due → d = 3 → exec (.powerStateEntry g) s =
        .next { u.draw.2 with tiers := { u.draw.2.tiers with mem := u.draw.2.tiers.mem.undefine (galTierA g).1 (galTierA g).2 u.draw.1 } }) ∧
      (¬due → exec (.powerStateEntry g) s = .next s)) ∧
    exec (.galleryWake g) s = .next (s.modGal g fun x =>
      if x.power = 0 then { x with idleAt := s.tclk } else { x with idleAt := s.tclk, power := 0, waking := some (s.tclk + wakeTime x.power) })

/-- POWER_MEASURE and LADDER_STEP (R473, R474, Table 15.9): a measurement is kept, with the time since when it has stood more than 50 W below the cap; at 105 °C, or
above the cap, the next rung is applied to the gallery that uses most, and with every rung applied PF0 is told, above the cap; 1 ms below the cap the last rung is
taken back, where one is applied; otherwise nothing moves. The bytes of that event are free (log 53). CONSERVATION_CYCLE, VOLTAGE_SETTLED, CONSERVATION_RUN and
TEMPERATURE_CHECK (R53, R465–R467, Tables 15.5, 15.6): a cycle that is due begins, after the retirement of a worn cluster and of slow fold units, with the first row
of the gallery that matches: a least slack below 40 raises an offset below +50 mV, entered in the catalogue, to be measured again 0.5 ms later; at +50 mV it raises
the floor divider, or at ÷8 records that it stays; a slack of 90 lowers an offset above −30 mV; and otherwise the cycle just ends. The second measurement ends the
cycle, but at +50 mV with a least slack below 40 it raises the floor or records that it stays as the first does; before the voltage has settled there is none. A
cycle's end keeps the slack, the time and the temperature. One that is not due does not begin. Software, and a change of 20 °C, ask for a cycle. The model's own
choices, no rules of the spec: notes/assumptions/52, 53, 62. -/
def Obligations.PowerAndConservation : Prop :=
  (∀ (s : State), s.live = true →
    (∀ w l, exec (.powerMeasure w l) s = .next { s with power := { s.power with
      watts := w, byGal := l, below := if w + 50 < s.powerCap then some (s.power.below.getD s.tclk) else none } }) ∧
    (∀ h : Int, let hot := decide (105 ≤ h); let t := { s with power := { s.power with thermal := hot } }
      let down := 105 ≤ h ∨ s.powerCap < s.power.watts
      let due := ∃ b, s.power.below = some b ∧ b + 1000000 ≤ s.tclk
      (∀ st g, down → t.nextRung = some (st, g) →
        let u := t.modGal g fun x => x.setRung st (x.rung st + 1)
        exec (.ladderStep h) s = .next { u with power := { u.power with rungs := (st, g) :: u.power.rungs } }) ∧
      (t.nextRung = none → s.powerCap < s.power.watts → exec (.ladderStep h) s = .next (t.draw.2.deviceEvent ((List.range 32).map fun i => Config.freeByte t.draw.1 i))) ∧
      (t.nextRung = none → 105 ≤ h → s.power.watts ≤ s.powerCap → exec (.ladderStep h) s = .next t) ∧
      (∀ st g r, ¬down → due → s.power.rungs = (st, g) :: r →
        let u := t.modGal g fun x => x.setRung st (x.rung st - 1)
        exec (.ladderStep h) s = .next { u with power := { u.power with rungs := r, below := some u.tclk } }) ∧
      (¬down → (due → s.power.rungs = []) → exec (.ladderStep h) s = .next t))) ∧
  (∀ (s : State) (g : Nat) (l : Slack), galOk g = true → s.live = true → let x := s.gal g
    let due := s.boot.stage = 3 ∧ x.cons.busy = false ∧ x.hold = none ∧ x.power ≠ 3 ∧ (x.cons.again = true ∨ x.cons.due ≤ s.poweredNow)
    let t := s.modCons g fun c => { c with busy := true, again := false, due := if decide (x.cons.due ≤ s.poweredNow) then c.due + 86400000 else c.due }
    let u := ((t.modCons g fun c => { c with noc := l.noc }).retireWorn g l).retireSlow g l
    let y := u.gal g
    let m := y.least l
    let up : Int := y.offset + ceilDiv (40 - m) 4
    let new : Int := if up < 10 then up else 10
    (¬due → exec (.conservationCycle g l) s = .next s) ∧
    (due → m < 40 → y.offset < 10 → exec (.conservationCycle g l) s = .next
      (((u.modGal g fun y => { y with offset := new }).repair 0x0C 4 [g, ofSigned 8 new]).modCons g fun c => { c with settling := true, settleAt := u.tclk })) ∧
    (due → m < 40 → y.offset = 10 → y.floor < 3 → exec (.conservationCycle g l) s = .next
      (((u.modGal g fun y => { y with floor := y.floor + 1 }).repair 0x0D 4 [g, y.floor + 1]).endCycle g m)) ∧
    (due → m < 40 → y.offset = 10 → 3 ≤ y.floor → exec (.conservationCycle g l) s = .next
      ((u.record 0 (repairRecord false { ty := 0x0D, cause := 4, loc := locBytes [g, 3], time := u.poweredNow } u.time)).endCycle g m)) ∧
    (due → 90 ≤ m → -6 < y.offset → exec (.conservationCycle g l) s = .next
      (((u.modGal g fun y => { y with offset := y.offset - 1 }).repair 0x0C 4 [g, ofSigned 8 (y.offset - 1)]).endCycle g m)) ∧
    (due → 40 ≤ m → (90 ≤ m → y.offset ≤ -6) → exec (.conservationCycle g l) s = .next (u.endCycle g m)) ∧
    (let again := x.cons.settling = true ∧ x.cons.settleAt + 500000 ≤ s.tclk; let m := x.least l;
      (again → (40 ≤ m ∨ x.offset ≠ 10) → exec (.voltageSettled g l) s = .next (s.endCycle g m)) ∧
      (again → m < 40 → x.offset = 10 → x.floor < 3 → exec (.voltageSettled g l) s = .next
        (((s.modGal g fun y => { y with floor := y.floor + 1 }).repair 0x0D 4 [g, x.floor + 1]).endCycle g m)) ∧
      (again → m < 40 → x.offset = 10 → 3 ≤ x.floor → exec (.voltageSettled g l) s = .next
        ((s.record 0 (repairRecord false { ty := 0x0D, cause := 4, loc := locBytes [g, 3], time := s.poweredNow } s.time)).endCycle g m)) ∧
      (¬again → exec (.voltageSettled g l) s = .next s)) ∧
    (s.boot.stage = 3 → exec (.conservationRun g) s = .next (s.modCons g fun c => { c with again := true })) ∧
    (∀ r : Int, exec (.temperatureCheck g r) s = .next (s.modCons g fun c => { c with
      temp := some r, again := c.again || c.lastTemp.any fun t => decide (20 ≤ r - t ∨ 20 ≤ t - r) })))

/-- FU_SCRUB_PASS, FU_RETIRE, CATALOGUE_WRITE, SCRUB, REFRESH, ROW_REPAIR_COMPLETE, PC_SPARE_COMPLETE, FW_COPY_REBUILD and DDR_TRAINING_COMPLETE (R261, R262, R322, R326,
R327, R334–R340, R457–R460, R464): a pass that is due takes the accumulators that no chunk holds, an uncorrectable one or a symbol corrected twice running marking
the unit, and a marked unit that no chunk holds gives way to the spare, or takes its cluster with it; one entry is written at a time; one line is scrubbed, with what
was found there, and the pointer moves, and a slice whose port has failed is retired with its cluster; symbol errors come up with a refresh (the model's choice, log
88); a repaired row and a copied pseudo-channel switch, with their entries; a lost firmware copy is made anew from the other, where each of its images has its
digest, and PF0 is told of the place, or that there is none; a DIMM left out is a boot event. Where there is nothing to do, nothing changes. The model's own choices,
no rules of the spec: notes/assumptions/4, 52, 59, 88. -/
def Obligations.MemoryMended : Prop :=
  ∀ (s : State), s.live = true →
    (∀ c u cor, clusterOk c = true → fuOk u = true →
      let due := s.present c = true ∧ tgetD (s.cluster c).scrubDue u 0 ≤ s.tclk
      let cor' := cor.filter fun i => decide (s.heldAccs c u ≤ i)
      let t := s.modCluster c fun x => { x with
        scrubDue := tset x.scrubDue u ((tget (s.cluster c).scrubDue u).getD s.tclk + 600000000000), lastCorr := tset x.lastCorr u cor' }
      (due → exec (.fuScrubPass c u cor true) s = .next ((t.draw.2.badAccs c u (Config.freeNat t.draw.1)).innerError c)) ∧
      (due → exec (.fuScrubPass c u cor false) s =
        .next (if cor'.any (tgetD (s.cluster c).lastCorr u []).contains then t.failFu c u 1 else t)) ∧
      (¬due → ∀ b, exec (.fuScrubPass c u cor b) s = .next s)) ∧
    (∀ c u, clusterOk c = true → fuOk u = true → let x := s.cluster c
      (∀ cause ph, tget x.badFu u = some cause → s.physOf c = some ph → (s.unitsHeld c).contains u = false →
        (x.spareFu = true → exec (.fuRetire c u) s = .next (((s.modCluster c fun x => { x with
          badFu := tdel x.badFu u, unitMap := x.unitMap.set u 4, spareFu := false, scrubDue := tdel x.scrubDue u, lastCorr := tdel x.lastCorr u, accs := tdel x.accs u
          }).repair 0x02 cause [c / 8, ph, x.unitMap.getD u u]).advanceAll)) ∧
        (x.spareFu = false → exec (.fuRetire c u) s = .next (s.retire c cause))) ∧
      (tget x.badFu u = none ∨ s.physOf c = none ∨ (s.unitsHeld c).contains u = true → exec (.fuRetire c u) s = .next s)) ∧
    (∀ e r, s.nor.unwritten = e :: r → let x := addEntry s.nor.field e
      exec .catalogueWrite s = .next (((s.rewriteField x.1).modNor fun n => { n with unwritten := r }).record 0 (repairRecord x.2 e s.time))) ∧
    (s.nor.unwritten = [] → exec .catalogueWrite s = .next s) ∧
    (∀ d, (s.boot.romOk = true → s.boot.ddrDone = false → exec (.ddrTrainingComplete d) s =
        .next ((ddrOf d).left.foldl (fun (s : State) c => s.bootEvent (Config.dimmLeftOut % 256) 0 c 0)
          (({ s with tiers := { s.tiers with ddr := ddrOf d } }).modBoot fun b => { b with ddrDone := true }))) ∧
      (s.boot.romOk = false ∨ s.boot.ddrDone = true → exec (.ddrTrainingComplete d) s = .next s)) ∧
    (∀ u find, MemUnit.ok u = true →
      let g := unitGallery u
      let line := s.lineOf u ((s.scrubOf u).next % s.unitLines u)
      let runs := bit (s.word 0 (galBase g + 8)) 24 = true ∧ ((s.gal g).power = 3 → ∃ d, u = .chan d) ∧ s.unitLines u ≠ 0
      let bad := s.tiers.bad.any fun b => b.1 == line
      (runs → bad = false → exec (.scrub u .clean) s = .next ((s.scrubSoft u line).scrubOn u)) ∧
      (∀ p r, runs → bad = false → s.tiers.poison.contains line = false →
        exec (.scrub u (.corrected p r)) s = .next (((s.scrubCorrected u line p r).scrubSoft u line).scrubOn u)) ∧
      (∀ p r, runs → bad = false → s.tiers.poison.contains line = true →
        exec (.scrub u (.corrected p r)) s = .next ((s.scrubSoft u line).scrubOn u)) ∧
      (∀ r, runs → bad = false → exec (.scrub u (.uncorrectable r)) s = .next (((s.scrubBad u line r).scrubSoft u line).scrubOn u)) ∧
      (∀ c, runs → bad = false → u = .slice c → exec (.scrub u .portFault) s = .next (((s.retire c 2).scrubSoft u line).scrubOn u)) ∧
      ((∀ c, u ≠ .slice c) → runs → bad = false → exec (.scrub u .portFault) s = .next ((s.scrubSoft u line).scrubOn u)) ∧
      (runs → bad = true → exec (.scrub u find) s = .next (((s.scrubBad u line (Config.rowOf line)).scrubSoft u line).scrubOn u)) ∧
      (¬runs → exec (.scrub u find) s = .next s)) ∧
    (∀ u l, MemUnit.ok u = true → (∀ d ∈ l, d.code < 64) → let t := l.foldl (fun (s : State) d => s.decay u d) s
      ((∀ c, u ≠ .slice c) → s.unitLines u ≠ 0 → exec (.refresh ⟨u, l⟩) s = .next (t.modScrub u fun x => { x with refreshes := x.refreshes + 1 })) ∧
      (∀ c, u = .slice c → s.unitLines u ≠ 0 → exec (.refresh ⟨u, l⟩) s = .next t) ∧
      (s.unitLines u = 0 → exec (.refresh ⟨u, l⟩) s = .next s)) ∧
    (∀ u row b, MemUnit.ok u = true →
      (∀ m, ((s.scrubOf u).rows.find? fun m => m.to_ == row) = some m →
        let t := s.modScrub u fun x => { x with
          rows := x.rows.filter fun y => !(y.pc == m.pc && y.to_ == row)
          fixed := if x.fixed.contains (m.pc, row) then x.fixed else x.fixed ++ [(m.pc, row)] }
        let bytes := [row % 256, row / 256 % 256, row / 65536 % 256, row / 16777216 % 256]
        (∀ h, u = .stack h → let v := t.repair 0x05 (m.cause + 16) ([h, m.pc] ++ bytes)
          exec (.rowRepairComplete u ⟨row, b⟩) s =
            .next (if b = true ∨ 64 ≤ ((v.scrubOf (.stack h)).fixed.filter fun e => e.1 == m.pc).length then v.sparePc h m.pc m.cause else v)) ∧
        (∀ d, u = .chan d →
          exec (.rowRepairComplete u ⟨row, b⟩) s = .next (t.draw.2.repair 0x08 (m.cause + 16) ([d, Config.freeNat t.draw.1 % 256] ++ bytes))) ∧
        (∀ c, u = .slice c → exec (.rowRepairComplete u ⟨row, b⟩) s = .next t)) ∧
      (((s.scrubOf u).rows.find? fun m => m.to_ == row) = none → exec (.rowRepairComplete u ⟨row, b⟩) s = .next s)) ∧
    (∀ h pc, h ≤ 23 → pc ≤ 63 → let copy := (s.scrubOf (.stack h)).copies.find? fun m => m.pc == pc
      (∀ m, copy = some m → (s.gal (h / 4)).cons.busy = false → 2 ^ 24 ≤ m.line → exec (.pcSpareComplete h pc) s = .next ((s.modScrub (.stack h) fun x => { x with
        copies := x.copies.filter fun y => y.pc != pc
        spared := x.spared ++ [(pc, m.to_)]
        fixed := x.fixed.filter fun e => e.1 != pc
        marks := x.marks.filter fun e => e.pc != pc }).repair 0x06 m.cause [h, pc, m.to_])) ∧
      (copy = none ∨ (s.gal (h / 4)).cons.busy = true ∨ (∃ m, copy = some m ∧ m.line < 2 ^ 24) → exec (.pcSpareComplete h pc) s = .next s)) ∧
    (∀ g, galOk g = true →
      let lost := (s.gal g).fwLost = true ∧ (s.gal g).fwHome.isSome = true
      let tell := fun (t : State) (a : Option Nat) => t.draw.2.deviceEvent ((List.range 32).map (Config.fwCopyByte t.draw.1 a))
      let found := s.loadImages (3 - g) (s.boot.running.elim [] Bundle.copied)
      (∀ c t l, lost → s.fwTarget g = some c → found = (t, some l) →
        exec (.fwCopyRebuild g) s =
          .next (tell ((t.modGal g fun x => { x with fwHome := some c, fwLost := false }).putImages c l) (some (t.node * 2 ^ 48 + fwPlace c)))) ∧
      (∀ c t, lost → s.fwTarget g = some c → found = (t, none) → exec (.fwCopyRebuild g) s = .next (tell t none)) ∧
      (lost → s.fwTarget g = none → exec (.fwCopyRebuild g) s = .next (tell (s.modGal g fun x => { x with fwHome := none }) none)) ∧
      (¬lost → exec (.fwCopyRebuild g) s = .next s))

/-! ### Snapshots, inventory stops, fences and replays -/

/-- SNAPSHOT_TAKE, SNAPSHOT_RELEASE, SNAPSHOT_TIMER and SNAPSHOT_EDGE (R484, R485, R492): a trigger is taken while the registers are served; release ends the hold; the
timer's period runs on from its own end; at the edge every counter is copied into the shadow under the next sequence number, STOP_OUT pulses where that is on, and a
SNAPSHOT record goes to every gallery; before its time, or with no trigger, there is no edge. The inventory stop (R490–R496): STOP and STOP_IN are its triggers; at
the halt edge, and not before, the machine stands, with a STOP record in every gallery's trace; the wait for plan boundaries ends after its time, and not before; an
edge of STOP_IN triggers a snapshot, a stop, or both, as in_action says; SCAN answers with result STATE or BUFFER, or begins, and its end leaves the image written; a
stop that landed resumes, with the trace records staged, the wakes and what the hosts did meanwhile acted on, and one that is released resets the package. The
model's own choices, no rules of the spec: notes/assumptions/71, 72. -/
def Obligations.SnapshotsAndStops : Prop :=
  (∀ s : State,
    (s.dbgServed = true → exec .snapshotTake s = .next (s.snapTrigger 1) ∧ exec .snapshotRelease s = .next (s.modDbg fun d => { d with held := false })) ∧
    (∀ t, s.live = true → s.dbg.timerAt = some t →
      (t ≤ s.tclk → exec .snapshotTimer s = .next ((s.modDbg fun d => { d with timerAt := some (t + s.snapPeriod * 1000000) }).snapTrigger 2)) ∧
      (s.tclk < t → exec .snapshotTimer s = .next s)) ∧
    (∀ t, s.activity = .running → s.dbg.snapDue = some t →
      let n := (s.dbg.snapSeq + 1) % 65536
      let u := s.modDbg fun d => { d with
        snapDue := none, snapTrig := 0, shadow := s.allCounters, snapSeq := n, trigger := s.dbg.snapTrig, held := s.snapHold }
      let l := leBytes 2 n ++ leBytes 1 s.dbg.snapTrig ++ List.replicate 13 0
      (t ≤ s.time → bit (s.word 0 0x120020) 3 = false → exec .snapshotEdge s = .next (u.traceAll 0x0E l)) ∧
      (t ≤ s.time → bit (s.word 0 0x120020) 3 = true → exec .snapshotEdge s =
        .next (State.traceAll { u with lands := { u.lands with stopPulses := u.lands.stopPulses + 1 } } 0x0E l)) ∧
      (s.time < t → exec .snapshotEdge s = .next s)) ∧
    (s.dbg.snapDue = none → exec .snapshotEdge s = .next s)) ∧
  (∀ s : State,
    (s.dbgServed = true → exec .stop s = .next (s.stopTrigger 1)) ∧
    (s.activity = .running →
      let u := if bit (s.word 0 0x120020) 0 then s.snapTrigger 4 else s
      (bit (s.word 0 0x120020) 1 = true → exec .stopIn s = .next (u.stopTrigger 2)) ∧ (bit (s.word 0 0x120020) 1 = false → exec .stopIn s = .next u)) ∧
    (∀ t, s.live = true → s.dbg.haltDue = some t → t ≤ s.time → s.dbg.stop = .pending →
      exec .stopHalt s = .next ((s.modDbg fun d => { d with
        stop := .stopped, haltDue := none, landed := s.tvesAtRest, result := 0, scanned := 0, haltAt := s.time }).stopRecord 0)) ∧
    ((∀ t, s.dbg.haltDue = some t → t ≤ s.time → s.dbg.stop ≠ .pending) → exec .stopHalt s = .next s) ∧
    (∀ t, s.live = true → s.dbg.stop = .pending → s.dbg.boundBy = some t →
      (t ≤ s.tclk → exec .boundaryWaitExpire s = .next s.stopTaken) ∧ (s.tclk < t → exec .boundaryWaitExpire s = .next s)) ∧
    (s.dbgServed = true →
      (s.dbg.stop ≠ .stopped → exec .scan s = .next (s.modDbg fun d => { d with result := 1 })) ∧
      (s.dbg.stop = .stopped → s.scanLen < s.scanSize → exec .scan s = .next (s.modDbg fun d => { d with result := 3 })) ∧
      (s.dbg.stop = .stopped → s.scanSize ≤ s.scanLen →
        exec .scan s = .next (s.modDbg fun d => { d with stop := .scanning, result := 0, scanned := 0 }))) ∧
    (s.activity = .running → s.dbg.stop = .scanning →
      exec .scanComplete s = .next (s.writeImage.modDbg fun d => { d with stop := .scanned, scanned := s.scanSize })) ∧
    (s.dbgServed = true →
      (s.stopped = true → s.dbg.landed = true →
        let u := (State.stopRecord { s with lands := { s.lands with stopOut := false } } 1).modDbg fun d => { d with stop := .running, result := 0 }
        let v := (List.range 6).foldl (fun (s : State) g => if (s.gal g).cons.busy then s else s.traceDrain g) u
        let w := (v.fns.map (·.1)).foldl (fun (s : State) f => if (s.fn f).state = .active then s.actWakes f else s) v
        exec .stopResume s = .next (w.dbg.kept.foldl (fun (s : State) e => s.hostActs e) (w.modDbg fun d => { d with kept := [] }))) ∧
      (s.stopped = true → s.dbg.landed = false → exec .stopResume s = .next (s.modDbg fun d => { d with result := 2 })) ∧
      (s.stopped = false → exec .stopResume s = .next (s.modDbg fun d => { d with result := 1 })) ∧
      (s.stopped = true → exec .stopRelease s = .next (s.packageReset true)) ∧
      (s.stopped = false → exec .stopRelease s = .next (s.modDbg fun d => { d with result := 1 }))))

/-- PORT_RESET, CLUSTER_RESET, GALLERY_RESET and MEMORY_PORT_FAILURE (R444–R447): with HUB_RESET_CTRL not busy, a present target that lies in no domain resetting is
fenced for 1 ms, the fences inside it absorbed; a target that is absent or outside its range, or is resetting, is answered with its result and vector 3; a memory
port's failure fences its gallery, unless that is resetting already. While a reset is busy a further write has no effect. The model's own choices, no rules of the
spec: notes/assumptions/56. -/
def Obligations.DomainsFenced : Prop :=
  ∀ (s : State) (i : Instr) (d : Domain),
    ((∃ p, i = .portReset p ∧ d = .port p ∧ p ≤ 63) ∨ (∃ c, i = .clusterReset c ∧ d = .cluster c ∧ c ≤ 63) ∨
      (∃ g, i = .galleryReset g ∧ d = .gallery g ∧ g ≤ 63)) →
    (∀ p, d = .port p → s.targetOk d = portOk p) ∧ (∀ c, d = .cluster c → s.targetOk d = s.present c) ∧ (∀ g, d = .gallery g → s.targetOk d = galOk g) ∧
    (s.served = true → s.recov.busy = false →
      (s.targetOk d = true → s.resetting d = false → exec i s = .next ((s.modRecov fun r => { r with busy := true, request := some d }).beginReset d)) ∧
      (s.targetOk d = true → s.resetting d = true → exec i s = .next ((s.modRecov fun r => { r with result := 2 }).interrupt 0 3)) ∧
      (s.targetOk d = false → exec i s = .next ((s.modRecov fun r => { r with result := 1 }).interrupt 0 3))) ∧
    (s.recov.busy = true → exec i s = .next s) ∧
    (∀ g, galOk g = true → s.live = true →
      exec (.memoryPortFailure g) s = .next (if s.resetting (.gallery g) = true then s else s.beginReset (.gallery g)))

/-- FENCE_DRAIN_END, DOMAIN_RESET_COMPLETE, ENGINE_HANG, LONG_WAIT and the replay of suspects (R442, R445, R446, R448–R453, R463): a fence's drain ends after 1 ms, or
when nothing is left, and not before: what is left is then answered, and the reset follows, of the package at once, and for a cluster that is to be retired its
replacement; the reset of a domain then completes, a cluster reset a third time in 10 minutes being retired, unless its suspects are to be replayed, and so are the
clusters whose retirement waited for it; an engine without progress for hang_timeout is reported with its wait-for graph and its domain reset, its suspects held
where replay is on, and none without that; a long wait is reported; each suspect in turn is cleared by progress or found guilty by its timeout, and after the last
one the replay ends. The model's own choices, no rules of the spec: notes/assumptions/57, 83. -/
def Obligations.HangsAndReplays : Prop :=
  ∀ s : State, s.live = true →
    let cleared := fun (d : Domain) => (s.modRecov fun r => { r with
      fences := r.fences.filter fun x => x.domain != d
      replays := updAll (fun x => (domClusters d).contains x.cluster) (fun x => { x with ready := true, startAt := s.tclk }) r.replays }).clearDomain d
    (∀ d x, Domain.ok d = true → (s.recov.fences.find? fun x => x.domain == d && !x.ended) = some x →
      ((x.drainBy ≤ s.tclk ∨ s.quietDomain d = true) →
        (d = .package → exec (.fenceDrainEnd d) s = .next s.packageEnd) ∧
        (∀ c k, d = .cluster c → x.retire = some k → exec (.fenceDrainEnd d) s = .next (s.retireEnd c k)) ∧
        (d ≠ .package → x.retire = none → exec (.fenceDrainEnd d) s =
          .next ((s.answerWork d).modRecov fun r => { r with fences := updAll (fun x => x.domain == d) (fun x => { x with ended := true }) r.fences }))) ∧
      (s.tclk < x.drainBy → s.quietDomain d = false → exec (.fenceDrainEnd d) s = .next s)) ∧
    (∀ p x, portOk p = true → (s.recov.fences.find? fun x => x.domain == .port p && x.ended) = some x →
      exec (.domainResetComplete (.port p)) s = .next ((((cleared (.port p)).retireLate (.port p)).endRequest (.port p) 0).advanceAll.checkStop)) ∧
    (∀ c x, clusterOk c = true → (s.recov.fences.find? fun x => x.domain == .cluster c && x.ended) = some x →
      let u := cleared (.cluster c)
      let v := if 3 ≤ ((u.cluster c).recent u.tclk).length ∧ u.replaying c = false then
          (u.modRecov fun r => { r with retires := r.retires.filter fun x => x.1 != c }).switchCluster c 3
        else u.retireLate (.cluster c)
      exec (.domainResetComplete (.cluster c)) s = .next ((v.endRequest (.cluster c) 0).advanceAll.checkStop)) ∧
    (∀ g x, galOk g = true → (s.recov.fences.find? fun x => x.domain == .gallery g && x.ended) = some x →
      exec (.domainResetComplete (.gallery g)) s = .next
        ((((cleared (.gallery g)).retireLate (.gallery g)).endRequest (.gallery g) 0).advanceAll.checkStop)) ∧
    (∀ d, Domain.ok d = true → (s.recov.fences.find? fun x => x.domain == d && x.ended) = none → exec (.domainResetComplete d) s = .next s) ∧
    (∀ e, Engine.ok e = true → s.hangs e = true → s.resetting (engineDomain e) = false →
      let u := (s.keepGraph 1 (s.engineNode e)).event 4
      exec (.engineHang e) s =
        .next ((if u.replayOn && !(domClusters (engineDomain e)).any s.replaying then u.holdSuspects e else u).beginReset (engineDomain e))) ∧
    (∀ e, s.hangs e = false ∨ s.resetting (engineDomain e) = true → exec (.engineHang e) s = .next s) ∧
    (∀ w, LongWaiter.ok w = true →
      (∀ n, s.longRoot w = some n → exec (.longWait w) s = .next (s.keepGraph 2 n)) ∧ (s.longRoot w = none → exec (.longWait w) s = .next s)) ∧
    (∀ c r x rest, clusterOk c = true → s.replayOf c = some r → r.todo = x :: rest → r.ready = true →
      (r.startAt + s.replayTimeout ≤ s.tclk → exec (.replayTimeout c) s = .next (s.modReplay c fun r => { r with
        todo := rest, startAt := s.tclk, guilty := r.guilty ++ [x] })) ∧
      (s.tclk < r.startAt + s.replayTimeout → exec (.replayTimeout c) s = .next s) ∧
      exec (.suspectReplayComplete c) s = .next (s.modReplay c fun r => { r with todo := rest, startAt := s.tclk, clean := r.clean ++ [x] })) ∧
    (∀ c r, clusterOk c = true → s.replayOf c = some r → r.ready = true → r.todo = [] →
      let all := r.clean.isEmpty && decide (2 ≤ r.guilty.length)
      let st := fun (k : Nat × Nat) => if all then some Status.devFenced else if r.guilty.contains k then some .devGuilty else none
      let t := s.modRecov fun x => { x with replays := x.replays.filter fun y => y.cluster != c }
      let u := r.runs.foldl (fun (s : State) x => s.releaseRun (fun y => st (s.runCtx y)) x) t
      let w := (r.plan.bind u.run).elim u fun p => u.releasePlan (st (p.f, p.ctx)) c p.id
      let v := w.keepGraph 4 (w.engineNode (.tve c)) r.guilty
      exec (.replayComplete c) s =
        .next (if all then v.retire c 3 else if 3 ≤ ((v.cluster c).recent v.tclk).length then v.retire c 3 else v).advanceAll.checkStop)

/-! ### The security island -/

/-- Attestation and the key exchange (R397–R401, R416): an SPDM request over DOE that is of its kind, in a version that SEC serves, is answered, GET_VERSION with
versions 1.2 and 1.3, GET_CAPABILITIES and NEGOTIATE_ALGORITHMS with what SEC supports, GET_DIGESTS and GET_CERTIFICATE with the chain of slot 0, CHALLENGE with the
identity key's signature, GET_MEASUREMENTS with the measurements and a signature over them (what is signed, and the bits and codes of DSP0274, are the model's, log
66); any other request is answered with ERROR, UnsupportedRequest; SIGN makes a new pair and signs it with the challenge; AGREE derives the KEK from the manager's
key, where it is a point of the curve and a pair is held; with the entropy source failed both answer ENTROPY. What the answers hold beyond that is a free value.
SLOT_LOAD, SLOT_ERASE and CIPHER_PARITY_FAULT (R402, R413, R416): a slot that is bound to nothing is loaded with the key that the KEK unwraps, or erased; each check
that fails has its result; a parity fault is counted, loses the packet at work, and makes the slot INVALID. The model's own choices, no rules of the spec:
notes/assumptions/3, 66, 67, 85. -/
def Obligations.KeysAndSlots : Prop :=
  (∀ (s : State) (r : List Byte), s.served = true → let d := s.draw.1; let t := s.draw.2
    let answer := fun k x => if spdmSupported k r = true then
        t.modSec fun y => { y with answers := (k, Config.spdmBody k (r ++ x) d) :: y.answers, requests := y.requests + 1 }
      else s.modSec fun y => { y with answers := (7, [r.getD 0 0, 0x7F, 0x07, r.getD 1 0]) :: y.answers, requests := y.requests + 1 }
    exec (.getVersion r) s = .next (answer 0 [0x12, 0x13]) ∧ exec (.getCapabilities r) s = .next (answer 1 spdmCapabilities) ∧
    exec (.negotiateAlgorithms r) s = .next (answer 2 spdmAlgorithms) ∧ exec (.getDigests r) s = .next (answer 3 (sha384 Config.certChain)) ∧
    exec (.getCertificate r) s = .next (answer 4 Config.certChain) ∧ exec (.challenge r) s = .next (answer 5 (identitySign s.free r)) ∧
    let m := s.sec.measures.flatMap fun m => leBytes 1 m.1 ++ m.2
    exec (.getMeasurements r) s = .next (answer 6 (m ++ identitySign s.free (r ++ m))) ∧
    (s.sec.entropyBad = true →
      exec .sign s = .next (s.modSec fun x => { x with kexResult := 3 }) ∧ exec .agree s = .next (s.modSec fun x => { x with kexResult := 3 })) ∧
    (s.sec.entropyBad = false →
      let u := t.draw.2; let dev := ephemeralKey d
      exec .sign s = .next (u.modSec fun x => { x with
        pair := some d, kexDev := dev, kexSig := identitySign t.draw.1 (dev ++ u.kexChal), kexResult := 0 }) ∧
      (s.sec.pair = none → exec .agree s = .next (s.modSec fun x => { x with kexResult := 2 })) ∧
      (∀ p, s.sec.pair = some p → p384Point s.kexHost = false → exec .agree s = .next (s.modSec fun x => { x with kexResult := 1 })) ∧
      (∀ p, s.sec.pair = some p → p384Point s.kexHost = true →
        exec .agree s = .next (s.modSec fun x => { x with kek := some (deriveKek p s.kexHost), pair := none, kexResult := 0 })))) ∧
  (∀ s : State, let i := s.slotSel
    (∀ w : W64, s.served = true → let epoch := bits w.toNat 31 16; let ctx := bits w.toNat 43 32
      (s.sec.entropyBad = true → exec (.slotLoad w) s = .next (s.slotResult 5)) ∧
      (s.sec.entropyBad = false → s.slotBound i = true → exec (.slotLoad w) s = .next (s.slotResult 2)) ∧
      (s.sec.entropyBad = false → s.slotBound i = false → s.sec.kek = none → exec (.slotLoad w) s = .next (s.slotResult 3)) ∧
      (∀ k, s.sec.entropyBad = false → s.slotBound i = false → s.sec.kek = some k → tget s.ctxs ctx = none → exec (.slotLoad w) s = .next (s.slotResult 4)) ∧
      (∀ k c, s.sec.entropyBad = false → s.slotBound i = false → s.sec.kek = some k → tget s.ctxs ctx = some c → unwrapKey k s.slotWrap = none →
        exec (.slotLoad w) s = .next (s.slotResult 1)) ∧
      (∀ k c key, s.sec.entropyBad = false → s.slotBound i = false → s.sec.kek = some k → tget s.ctxs ctx = some c → unwrapKey k s.slotWrap = some key →
        exec (.slotLoad w) s = .next ((s.modKey i fun _ => { state := .loaded, key, epoch, ctx, n := 0 }).slotResult 0)) ∧
      (s.slotBound i = true → exec (.slotErase w) s = .next (s.slotResult 2)) ∧
      (s.slotBound i = false → exec (.slotErase w) s = .next ((s.modSec fun x => { x with slots := tdel x.slots i }).slotResult 0))) ∧
    (∀ p k, s.live = true → portOk p = true → let t := ((s.count 0x09 p 3 1).dropInProcess p k).dropSameCycle k
      ((t.keySlot k).state = .loaded → exec (.cipherParityFault p k) s = .next (t.slotLost k .invalid 4 p)) ∧
      ((t.keySlot k).state ≠ .loaded → exec (.cipherParityFault p k) s = .next t)))

/-- COMMIT_SVN, REVOKE, ENTROPY_FAILURE, TAMPER, CLOCK_LOSS and THERMAL_TRIP (R40, R57, R396, R416, R418): the fused minimum rises to the running bundle's version; an
index is revoked by a running bundle signed under a higher one that is not revoked, and by no other; an entropy failure is kept and reported; a tamper condition or
the loss of the clock erases every key and stops the package; a thermal trip, no tamper condition, stops it too, its die and reading kept, and erases no key (R477).
The model's own choices, no rules of the spec: notes/assumptions/67. -/
def Obligations.IslandReacts : Prop :=
  ∀ s : State,
    (∀ b, s.served = true → s.boot.running = some b →
      exec .commitSvn s = .next { s with fuses := { s.fuses with minSvn := Nat.max s.fuses.minSvn b.svn } } ∧
      (∀ k, k ≤ 3 → k < b.keyIndex → s.fuses.revoked.getLsbD b.keyIndex = false →
        exec (.revoke k) s = .next { s with fuses := { s.fuses with revoked := s.fuses.revoked ||| (1#4 <<< k) } }) ∧
      (∀ k, k ≤ 3 → b.keyIndex ≤ k ∨ s.fuses.revoked.getLsbD b.keyIndex = true → exec (.revoke k) s = .next s)) ∧
    (s.boot.running = none → exec .commitSvn s = .next s ∧ ∀ k, k ≤ 3 → exec (.revoke k) s = .next s) ∧
    (s.live = true → exec .entropyFailure s = .next ((s.modSec fun x => { x with entropyBad := true }).openEvent)) ∧
    (s.activity = .running ∨ s.activity = .stopped →
      let stop := fun (m : BitVec 4) =>
        let first := !s.lands.alarm
        let u := s.modJournal fun n => { n with
          tamper := if first then m else n.tamper ||| m, tamperAt := if first then s.time else n.tamperAt, tamperNew := true }
        ({ u with sec := { u.sec with slots := [], kek := none, pair := none, kexDev := [], kexSig := [] }, lands := { u.lands with alarm := true }, activity := .stopped } : State)
      (∀ m, m ≠ 0 → exec (.tamper m) s = .next (stop m)) ∧ exec .clockLoss s = .next (stop 2) ∧
      (∀ die v, die ≤ 2 → exec (.thermalTrip die v) s =
        .next { (s.modJournal fun n => { n with trip := some (die, v) }) with lands := { s.lands with thermtrip := true }, activity := .stopped }))

/-! ### Start, power and processors -/

/-- PACKAGE_START, PORST_N_ASSERT, I3C_NODE_WRITE and POWER_REMOVAL (R396, R419, R420, R444, R458, R476): out of reset the node ID is sampled, from the I3C node where
that is valid and else from the straps, the start is entered in the reset log, Table 14.1 runs, and the package runs from time 0 with no queue, context or queue
pair, in the stage that the NOR calls for; in reset the outputs and all state but the NOR and the fuses are cleared, and in reset already nothing changes; the I3C
node is taken while PORST_N holds, and not otherwise; power that goes leaves the fuses, and the NOR with what was held for it written and the next start marked as
the first. What stands outside the package is kept by all four. The model's own choices, no rules of the spec: notes/assumptions/68. -/
def Obligations.PowerComesAndGoes : Prop :=
  ∀ s : State,
    (s.activity = .held ∨ s.activity = .unpowered →
      (let l := s.lands
       let node := if l.i3cValid then l.i3cNode else l.straps
       let source : Nat := if l.i3cValid then 1 else 0
       let u := (s.modBoot fun b => { b with node, source }).countReset
       let t := State.outOfServiceEvent (State.startUp { u.wiped with lands := { l with porst := false } } (if s.nor.firstReset then 1 else 2)) s.nor.outOfSvc
       exec .packageStart s = .next t ∧ t.activity = .running ∧ t.tclk = 0 ∧ t.lands.porst = false ∧ t.boot.node = node ∧ t.boot.source = source ∧
       t.boot.stage = (if t.nor.outOfSvc then 5 else if t.nor.vestibule then 4 else 1) ∧ t.fuses = s.fuses ∧ t.host = s.host ∧
       t.sqs = [] ∧ t.cqs = [] ∧ t.qps = [] ∧ t.ctxs = [] ∧ t.ops = [] ∧ t.regs = []) ∧
      exec .porstNAssert s = .next s ∧
      ∀ v n, exec (.i3cNodeWrite v n) s = .next { s with lands := { s.lands with i3cValid := v, i3cNode := n } }) ∧
    (s.activity = .running ∨ s.activity = .stopped →
      (let u := if s.activity = .running then s.stampPowered else s
       let t : State := { u.wiped with
         activity := .held
         lands := { u.lands with porst := true, alarm := false, thermtrip := false, stopOut := false, i3cValid := false } }
       exec .porstNAssert s = .next t ∧ t.nor = u.nor ∧ t.fuses = s.fuses ∧ t.host = s.host ∧
       t.sqs = [] ∧ t.cqs = [] ∧ t.qps = [] ∧ t.ctxs = [] ∧ t.ops = [] ∧ t.regs = []) ∧
      exec .packageStart s = .next s ∧ ∀ v n, exec (.i3cNodeWrite v n) s = .next s) ∧
    (let w := s.nor.unwritten.foldl (fun (s : State) e => s.rewriteField (addEntry s.nor.field e).1) s
     let t := w.wiped
     let z : State := { t with
      activity := .unpowered
      nor := ({ w.nor with unwritten := [], firstReset := true, cycled := w.nor.cycled || w.nor.outOfSvc } : Nor).journaled
      boot := { t.boot with node := 0, source := 0 }
      lands := { w.lands with porst := true, alarm := false, thermtrip := false, stopOut := false, i3cValid := false, i3cNode := 0 } }
     exec .powerRemoval s = .next z ∧ z.fuses = s.fuses ∧ z.host = s.host ∧ (s.nor.unwritten = [] → z.nor.field = s.nor.field) ∧
     z.sqs = [] ∧ z.cqs = [] ∧ z.qps = [] ∧ z.ctxs = [] ∧ z.ops = [] ∧ z.regs = [])

/-- HUB_LOAD_CTRL (R425–R427, R433–R437, R444): in stage 1 BLOCK copies the window into the staging area, and START refuses a bundle that fails a check, with its cause
and detail, or that has a line which does not read, or writes its copies and releases the processors each with its image, or answers that the ROM checks have failed;
BOOT_REPORT writes the report in the window; CLEAR_FAILURES in stage 4, CLEAR_SERVICE in stage 5 after a power cycle, reset the package, and PACKAGE_RESET fences it
for its reset; elsewhere the result says STATE. The model's own choices, no rules of the spec: notes/assumptions/31, 68, 69, 85. -/
def Obligations.BundleStarts : Prop :=
  ∀ (s : State) (n : Nat), s.loadServed = true →
    (s.boot.stage = 1 → exec (.block n) s = .next ((s.stageBlock n).loadResult 0)) ∧
    (s.boot.stage ≠ 1 → exec (.block n) s = .next (s.loadResult 1) ∧ exec (.start n) s = .next (s.loadResult 1)) ∧
    (s.boot.stage = 1 → (n = 0 ∨ 4096 < n) → exec (.start n) s = .next (s.loadResult 2)) ∧
    (s.boot.stage = 1 → 1 ≤ n → n ≤ 4096 → s.boot.romOk = true → let got := s.readOwn staging (n * 4096); let q := got.1
      let refused := fun c d => State.failedStart { (q.modBoot fun b => { b with stage := 1, busy := false, result := 3, running := none }) with procs := [] } 6 c 0 d
      (got.2 = none → exec (.start n) s = .next (refused 2 5)) ∧ ∀ l, got.2 = some l →
      (∀ c d, q.bundleRefused l = some (c, d) → exec (.start n) s = .next (refused c d)) ∧
      (q.bundleRefused l = none → let b := readBundle l; let t := (q.writeCopy b l 0).writeCopy b l 3
        let u := ((t.modSec fun x => { x with measures := t.measurements b, retained := b.imageOf l 7 }).bootEvent 5 0 0 0)
        exec (.start n) s = .next { (u.modBoot fun x => { x with stage := 2, busy := true, running := some b, startBy := u.tclk + 500000000 }) with
          procs := (List.range 8).map fun p => (p, ({ released := true, image := b.imageOf l p } : Proc)) })) ∧
    (s.boot.stage = 1 → 1 ≤ n → n ≤ 4096 → s.boot.romOk = false → exec (.start n) s = .next (s.loadResult 3)) ∧
    exec .bootReport s = .next ((s.modBoot fun b => { b with window := b.window.write 0 s.bootReport }).loadResult 0) ∧
    (s.boot.stage = 4 →
      exec .clearFailures s = .next (((s.modJournal fun n => { n with failed := [], vestibule := false }).packageReset true).bootEvent 12 0 0 0)) ∧
    (s.boot.stage ≠ 4 → exec .clearFailures s = .next (s.loadResult 1)) ∧
    (s.boot.stage = 5 →
      (s.nor.cycled = false → exec .clearService s = .next (s.loadResult 4)) ∧
      (s.nor.cycled = true → exec .clearService s =
        .next (((s.modJournal fun n => { n with resets := [], outOfSvc := false, cycled := false }).packageReset false).bootEvent 12 0 0 0))) ∧
    (s.boot.stage ≠ 5 → exec .clearService s = .next (s.loadResult 1)) ∧
    exec .packageReset s = .next (s.fencePackage 0 0)

/-- PROCESSOR_READY, START_TIMEOUT, POWERED_TIME_UPDATE, WATCHDOG_FIRE and IPC_MESSAGE (R427, R432, R438–R442): a released processor with the running bundle's ID is
ready, and the last makes stage 3; a wrong ID, and 500 ms without all of them, fail the start; the powered time is stamped each minute; a crash restarts its
processor from a good copy of its image, gallery 0's and then gallery 3's, SEC's from the island's own; the fourth within 1 s, and a crash with no good copy, fence
the package for its reset; a message under the running bundle's ID changes nothing here, and one under another crashes its sender. The model's own choices, no rules
of the spec: notes/assumptions/60. -/
def Obligations.ProcessorsRun : Prop :=
  ∀ (s : State) (p : Nat) (b : Bundle), s.live = true → p ≤ 7 → s.boot.running = some b →
    (s.boot.stage = 2 → (s.proc p).released = true → (s.proc p).ready = false →
      let t := s.modProc p fun x => { x with ready := true }
      (exec (.processorReady p b.id) s = .next (if t.procs.all fun e => e.2.ready then t.running3 b else t)) ∧
      (∀ id, id ≠ b.id → exec (.processorReady p id) s = .next (s.startFails 5 p 0))) ∧
    (s.boot.stage = 2 → s.boot.startBy ≤ s.tclk →
      exec .startTimeout s = .next (s.startFails 6 ((s.procs.find? fun e => !e.2.ready).elim 0 (·.1)) 0)) ∧
    ((s.boot.stage ≠ 2 ∨ s.tclk < s.boot.startBy) → exec .startTimeout s = .next s) ∧
    (s.nor.poweredAt + 60000000000 ≤ s.time → exec .poweredTimeUpdate s = .next s.stampPowered) ∧
    (s.time < s.nor.poweredAt + 60000000000 → exec .poweredTimeUpdate s = .next s) ∧
    (∀ cause, 1 ≤ cause → cause ≤ 3 → (s.proc p).released = true →
      let t := s.modProc p fun x => { x with crashes := s.tclk :: x.crashes.filter fun t => decide (s.tclk ≤ t + 1000000000) }
      let n := (t.proc p).crashes.length
      (4 ≤ n → exec (.watchdogFire p cause) s = .next (t.fencePackage 1 p)) ∧
      (p = 7 → t.reload b p = (t, some (2, t.sec.retained))) ∧
      (∀ x, p ≠ 7 → (b.images.find? fun x => x.target == p) = some x →
        t.reload b p = match t.loadImage 0 x with
          | (u, some l) => (u, some (0, l))
          | (u, none) => ((u.loadImage 3 x).1, (u.loadImage 3 x).2.map fun l => (1, l))) ∧
      (n < 4 → (t.reload b p).2 = none → exec (.watchdogFire p cause) s = .next ((t.reload b p).1.fencePackage 2 p)) ∧
      (∀ k l, n < 4 → (t.reload b p).2 = some (k, l) →
        let u := (t.reload b p).1.modProc p fun x => { x with image := l }
        let r := (u.bootEvent 8 0 p cause).restartRecord p cause k n
        exec (.watchdogFire p cause) s = .next (((if p = 7 then r.2.modSec fun x => { x with pair := none } else r.2).record 0 r.1).event 5))) ∧
    (∀ id, id ≠ b.id → exec (.ipcMessage p id) s = .next (s.crash p 4)) ∧
    exec (.ipcMessage p b.id) s = .next s

/-! ### Functions, host ports and the mailbox -/

/-- The manager's commands over the selected function (R384–R387): ENABLE of a DISABLED function, QUIESCE of an ACTIVE one and RESUME of a QUIESCED one end at once with
OK; DISABLE and RESET of a QUIESCED one begin its reset; any other state has its result, and an absent function and PF0 theirs; while a command is busy a write has
no effect. The model's own choices, no rules of the spec: notes/assumptions/40, 44, 82. -/
def Obligations.ManagerCommands : Prop :=
  ∀ s : State, let f := s.fnSel; let x := s.fn f
    (s.served = true → (s.fns.any fun e => e.2.busy) = false → s.fnPresent f = true → f ≠ 0 →
      (x.state = .disabled →
        exec .functionEnable s = .next ((s.modFn f fun x => { x with state := .active, grant := {} }).fnDone f) ∧
        exec .functionDisable s = .next (s.fnRefused f 2) ∧ exec .functionResume s = .next (s.fnRefused f 2) ∧
        (∀ b, exec (.functionReset b) s = .next (s.fnRefused f 2))) ∧
      (x.state = .resetting → exec .functionDisable s = .next (s.fnRefused f 2) ∧ ∀ b, exec (.functionReset b) s = .next (s.fnRefused f 2)) ∧
      (x.state ≠ .disabled → exec .functionEnable s = .next (s.fnRefused f 2)) ∧
      (x.state ≠ .active → exec .quiesce s = .next (s.fnRefused f 2)) ∧
      (x.state ≠ .quiesced → exec .functionResume s = .next (s.fnRefused f 2)) ∧
      (x.state = .active →
        exec .quiesce s = .next ((s.modFn f fun x => { x with state := .quiescing, quiesceAt := s.tclk }).fnDone f) ∧
        exec .functionDisable s = .next (s.fnRefused f 1) ∧ exec .functionEnable s = .next (s.fnRefused f 2) ∧
        (∀ b, exec (.functionReset b) s = .next (s.fnRefused f 1))) ∧
      (x.state = .quiescing →
        exec .functionDisable s = .next (s.fnRefused f 1) ∧ exec (.functionReset false) s = .next (s.fnRefused f 1) ∧
        (s.tclk < x.quiesceAt + 10000000 → exec (.functionReset true) s = .next (s.fnRefused f 3)) ∧
        (x.quiesceAt + 10000000 ≤ s.tclk → exec (.functionReset true) s = .next (s.fnManaged f 1))) ∧
      (x.state = .quiesced →
        (∀ b, exec (.functionReset b) s = .next ((s.modFn f fun x => { x with busy := true }).beginFnReset f 1 false)) ∧
        exec .functionDisable s = .next ((s.modFn f fun x => { x with busy := true }).beginFnReset f 3 false) ∧
        (let t := (s.modFn f fun x => { x with state := .active }).reorderArmed f
         exec .functionResume s = .next ((((t.readDoors f).actWakes f).armHeld).fnDone f)))) ∧
    (∀ i ∈ [Instr.functionEnable, .functionDisable, .quiesce, .functionResume, .functionReset true, .functionReset false],
      ((s.fns.any fun e => e.2.busy) = true → exec i s = .next s) ∧
      (s.served = true → (s.fns.any fun e => e.2.busy) = false →
        (s.fnPresent f = false → exec i s = .next (s.fnRefused f 4)) ∧ (f = 0 → exec i s = .next (s.fnRefused f (if s.fnPresent f then 2 else 4)))))

/-- QUIESCED, FUNCTION_RESET_COMPLETE, PCIE_FLR, VF_ENABLE_SET, VF_ENABLE_CLEAR and AER_UNCORRECTABLE_ERROR (R365, R385–R388, R445): a quiescing function with nothing in
flight becomes QUIESCED and reports it; the end of a reset destroys all that the function owns and leaves it ACTIVE, or DISABLED with its grant zero; an FLR resets
its function, that of PF0 disabling every VF; VFs are enabled where they are DISABLED, or disabled; an AER error of a function that is there is reported. What a host
does in an inventory stop is kept for the resume (the model's choice, log 12). The model's own choices, no rules of the spec: notes/assumptions/12, 44. -/
def Obligations.FunctionEvents : Prop :=
  ∀ (s : State) (f : Nat), s.live = true → fnOk f = true →
    ((s.fn f).state = .quiescing → s.inFlight f = 0 → exec (.quiesced f) s = .next ((s.modFn f fun x => { x with state := .quiesced }).fnEvent f 1 0)) ∧
    ((s.fn f).state ≠ .quiescing → exec (.quiesced f) s = .next s) ∧
    (∀ x, (s.recov.fences.find? fun x => x.domain == .function f && x.ended) = some x → let y := s.fn f
      let t := (s.destroyFn f).modRecov fun r => { r with fences := r.fences.filter fun y => y.domain != .function f }
      let off := decide (3 ≤ y.resetFrom)
      let u := t.modFn f fun z => { z with
        state := if off then .disabled else .active, grant := if off then {} else z.grant
        dirty := if y.resetFrom = 3 then { z.dirty with enable := false } else z.dirty
        resetFrom := 0, fenced := 0, busy := false, result := if y.busy then 0 else z.result }
      exec (.functionResetComplete f) s = .next (((u.fnEvent f (if off then 5 else 2) y.fenced).advanceAll).armHeld).checkStop) ∧
    (f ≠ 0 → exec (.pcieFlr f) s = .next (s.forceReset f false)) ∧
    (exec (.pcieFlr 0) s =
      .next ((((List.range 255).map (· + 1)).foldl (fun s n => s.disableVf n) s).forceReset 0 false)) ∧
    (∀ n, exec (.vfEnableSet n) s = .next (((List.range (Nat.min n 255)).map (· + 1)).foldl (fun s f =>
      if (s.fn f).state = .disabled then s.modFn f fun x => { x with state := .active, grant := {} } else s) s)) ∧
    (exec .vfEnableClear s = .next (((List.range 255).map (· + 1)).foldl (fun s n => s.disableVf n) s)) ∧
    (∀ u : State, u.activity = .running → u.live = false →
      ∀ i e, (i, e) ∈ [(Instr.pcieFlr f, HostEvent.flr f), (.vfEnableSet 3, .vfSet 3), (.vfEnableClear, .vfClear), (.aerUncorrectableError f, .aer f)] →
        exec i u = .next (u.modDbg fun d => { d with kept := d.kept ++ [e] })) ∧
    ((s.recov.fences.find? fun x => x.domain == .function f && x.ended) = none → exec (.functionResetComplete f) s = .next s) ∧
    exec (.aerUncorrectableError f) s = .next (if s.fnPresent f = true then s.fnEvent f 4 0 else s)

/-- HP_MODE_WRITE, HOST_LINK_UP, PERST_ASSERT, HOT_RESET, HOST_LINK_DOWN and LTR_MESSAGE (R155, R364, R367–R369): the first write of HUB_HP_MODE sets the modes and later
ones have no effect; HP0's link probes every valid peer, an endpoint's comes up, an accelerator's is enumerated, or reported as disabled where its BARs do not fit;
PERST, a hot reset and a lost link reset the functions of an endpoint port; an LTR message sets the tolerance of its port's function. In an inventory stop they are
kept for the resume (log 12). The mailbox and dirty-page logging (R380, R381, R389–R391): a buffer that is empty is filled and its side told by vector 1, and an ack
empties it, the tenant's side of a DISABLED function not being served; a VF's logging is enabled where its registers are valid and fewer than 16 log, else cfg_error
is set; SWAP changes the active bitmap, and is over with SWAP_COMPLETE. The model's own choices, no rules of the spec: notes/assumptions/12, 63, 64. -/
def Obligations.HostPortsAndMailboxes : Prop :=
  (∀ (s : State) (hp : Nat) (bars : List Nat), hpOk hp = true →
    (∀ v : W32, s.served = true →
      (tget s.regs (regKey 0 0x010000) = none → exec (.hpModeWrite v) s = .next ([1, 2, 3].foldl
        (fun s n => s.modHp n fun x => { x with mode := hpMode v.toNat n }) (s.setWord 0 0x010000 (v.toNat % 64)))) ∧
      ((tget s.regs (regKey 0 0x010000)).isSome = true → exec (.hpModeWrite v) s = .next s)) ∧
    (s.live = true →
      (hp = 0 → exec (.hostLinkUp hp bars) s = .next ((List.range 32).foldl
        (fun s n => if (s.peer n).valid then s.probe n else s) (s.modHp 0 fun x => { x with up := true }))) ∧
      (hp ≠ 0 → (s.hp hp).mode = 1 → exec (.hostLinkUp hp bars) s = .next (s.modHp hp fun x => { x with up := true })) ∧
      (hp ≠ 0 → (s.hp hp).mode = 2 →
        (∀ l, placeBars bars 0x100000000 = some l →
          exec (.hostLinkUp hp bars) s = .next (s.modHp hp fun x => { x with up := true, bars := l, disabled := false })) ∧
        (placeBars bars 0x100000000 = none →
          exec (.hostLinkUp hp bars) s = .next (s.modHp hp fun x => { x with up := true, bars := [], disabled := true }).openEvent)) ∧
      (hp ≠ 0 → (s.hp hp).mode ≠ 1 → (s.hp hp).mode ≠ 2 → exec (.hostLinkUp hp bars) s = .next s) ∧
      (s.isEndpoint hp = true → let t := s.modHp hp fun x => { x with up := false }
        ∀ i ∈ [Instr.perstAssert hp, .hotReset hp, .hostLinkDown hp],
          exec i s = .next ((t.fnsWith fun f => fnPort f == hp).foldl (fun s f => s.forceReset f true) t)) ∧
      (s.isEndpoint hp = false → exec (.hostLinkDown hp) s = .next (s.modHp hp fun x => { x with up := false, bars := [], disabled := false }) ∧
        exec (.perstAssert hp) s = .next s ∧ exec (.hotReset hp) s = .next s) ∧
      (∀ a b, (hp ≠ 0 → (s.hp hp).mode = 2 →
          exec (.ltrMessage hp a b) s = .next ((s.modFn (256 + hp) fun x => { x with ltr := some (ltrValue a b) }).wakeDeep)) ∧
        (hp = 0 ∨ (s.hp hp).mode ≠ 2 → exec (.ltrMessage hp a b) s = .next s))) ∧
    (s.activity = .running → s.live = false → ∀ a b,
      ∀ i e, (i, e) ∈ [(Instr.hostLinkUp hp bars, HostEvent.up hp bars), (.perstAssert hp, .reset hp), (.hotReset hp, .reset hp), (.hostLinkDown hp, .down hp),
          (.ltrMessage hp a b, .ltr hp (ltrValue a b))] →
        exec i s = .next (s.modDbg fun d => { d with kept := d.kept ++ [e] })) ∧
    (s.activity ≠ .running → s.live = false → ∀ a b, ∀ i ∈ [Instr.hostLinkUp hp bars, .perstAssert hp, .hotReset hp, .hostLinkDown hp, .ltrMessage hp a b],
      exec i s = .next s)) ∧
  (∀ (s : State) (f : Nat), fnOk f = true →
    (s.boxServed f = true →
      ((s.fn f).mgrFull = false →
        exec (.mboxSendToMgr f) s = .next (State.interrupt { (s.modFn f fun x => { x with mgrFull := true }) with mboxPend := addNew f s.mboxPend } 0 1)) ∧
      ((s.fn f).mgrFull = true → exec (.mboxSendToMgr f) s = .next s) ∧
      ((s.fn f).tenFull = true → exec (.tenAck f) s = .next ((s.modFn f fun x => { x with tenFull := false }).interrupt 0 1)) ∧
      ((s.fn f).tenFull = false → exec (.tenAck f) s = .next s)) ∧
    (s.boxServed f = false → exec (.mboxSendToMgr f) s = .next s ∧ exec (.tenAck f) s = .next s) ∧
    (s.served = true → f ≠ 0 →
      ((s.fn f).tenFull = false → exec (.mboxSendToTen f) s = .next ((s.modFn f fun x => { x with tenFull := true }).interrupt f 1)) ∧
      ((s.fn f).tenFull = true → exec (.mboxSendToTen f) s = .next s) ∧
      ((s.fn f).mgrFull = true → exec (.mgrAck f) s = .next ((s.modFn f fun x => { x with mgrFull := false }).interrupt f 1)) ∧
      ((s.fn f).mgrFull = false → exec (.mgrAck f) s = .next s)) ∧
    (s.served = true → 1 ≤ s.fnSel → s.fnSel ≤ 255 → let put := fun (g : Dirty → Dirty) => s.modFn s.fnSel fun x => { x with dirty := g x.dirty }
      exec .dirtyEnable s = .next (put fun d => if d.enable then d
        else if d.ok && decide (s.loggers < 16) then { d with enable := true, active := false, busy := false, cfgError := false }
        else { d with cfgError := true }) ∧
      exec .dirtyDisable s = .next (put fun d => { d with enable := false }) ∧
      exec .swap s = .next (put fun d => if d.enable && !d.busy then { d with active := !d.active, busy := true } else d)) ∧
    (s.live = true → exec (.swapComplete f) s = .next (s.modFn f fun x => { x with dirty := { x.dirty with busy := false } })))

/-! ### Links between the dies and messages between the processors -/

/-- FLIT_REPLAY (R43): a link of which the same flit is replayed for the 16th time in succession has failed, and the package is fenced for its reset, which follows at
once where nothing is outstanding; the replays before it are counted, and a replay of another flit begins a new count. -/
def Obligations.FlitReplaysFail : Prop :=
  ∀ (s : State) (k d : Nat) (again : Bool), s.live = true → k ≤ 2 → d ≤ 1 →
    let n := if again then tgetD s.links.replays (k * 2 + d) 0 + 1 else 1
    let u := State.count { s with links := { replays := tset s.links.replays (k * 2 + d) n } } 0x04 k 2 1
    (n < 16 → exec (.flitReplay k d again) s = .next u) ∧ (16 ≤ n → exec (.flitReplay k d again) s = .next (u.fencePackage 0 0)) ∧
    (∀ v : State, v.recov.after = none → v.fencePackage 0 0 =
      let w := (v.modRecov fun r => { r with after := some (0, 0) }).beginFence .package
      if w.quietDomain .package = true then w.packageEnd else w)

/-- IPC_MESSAGE (R440): every message between processors carries its sender's bundle ID, and one whose ID is not the receiver's is discarded and fires the sender's
watchdog, with cause 4 (IPC). -/
def Obligations.OtherBundlesMessages : Prop :=
  ∀ (s : State) (p : Nat) (id : W64) (b : Bundle), s.live = true → p ≤ 7 → s.boot.running = some b → id ≠ b.id →
    exec (.ipcMessage p id) s = .next (s.crash p 4)
end

