-- ==== Sys2Proof/Laws/Memory.lean ====
section
/-! SUPPORT. The laws of memory: a byte put is the one read, no other byte changes, and every operation keeps the canonical form. -/

namespace Sys2Proof.Laws

open Sys2Proof.Machine

/-! ### The list of cells -/

/-- Every cell of a list lies above an address. -/
def above (a : Nat) (l : List Host.Cell) : Prop := ∀ c ∈ l, a < c.1

theorem cellsRising_cons (x : Host.Cell) (r : List Host.Cell) : cellsRising (x :: r) = true ↔ above x.1 r ∧ cellsRising r = true := by
  induction r generalizing x with
  | nil => simp [cellsRising, above]
  | cons y r ih =>
    simp only [cellsRising, Bool.and_eq_true, decide_eq_true_eq, above, List.mem_cons, forall_eq_or_imp]
    constructor
    · rintro ⟨h1, h2⟩
      exact ⟨⟨h1, fun c hc => Nat.lt_trans h1 (((ih y).mp h2).1 c hc)⟩, h2⟩
    · rintro ⟨⟨h1, _⟩, h2⟩
      exact ⟨h1, h2⟩

theorem mem_cellPut {keep : Bool} {l : List Host.Cell} {a : Nat} {b : Byte} {c : Host.Cell} (h : c ∈ cellPut keep l a b) :
    (c = (a, b) ∧ keep = true) ∨ c ∈ l := by
  induction l with
  | nil =>
    simp only [cellPut] at h
    split at h
    · exact .inl ⟨by simpa using h, ‹_›⟩
    · simp at h
  | cons x r ih =>
    obtain ⟨k, v⟩ := x
    simp only [cellPut] at h
    split at h
    · split at h
      · rcases List.mem_cons.mp h with h | h
        · exact .inl ⟨h, ‹_›⟩
        · exact .inr (List.mem_cons_of_mem _ h)
      · exact .inr (List.mem_cons_of_mem _ h)
    · split at h
      · split at h
        · rcases List.mem_cons.mp h with h | h
          · exact .inl ⟨h, ‹_›⟩
          · exact .inr h
        · exact .inr h
      · rcases List.mem_cons.mp h with h | h
        · exact .inr (h ▸ List.mem_cons_self)
        · rcases ih h with h | h
          · exact .inl h
          · exact .inr (List.mem_cons_of_mem _ h)

theorem cellPut_rising {keep : Bool} {l : List Host.Cell} {a : Nat} {b : Byte} (h : cellsRising l = true) : cellsRising (cellPut keep l a b) = true := by
  induction l with
  | nil => simp only [cellPut]; split <;> rfl
  | cons x r ih =>
    obtain ⟨k, v⟩ := x
    obtain ⟨h1, h2⟩ := (cellsRising_cons _ _).mp h
    simp only [cellPut]
    split
    · rename_i e
      subst e
      split
      · exact (cellsRising_cons _ _).mpr ⟨h1, h2⟩
      · exact h2
    · split
      · rename_i e
        split
        · refine (cellsRising_cons _ _).mpr ⟨?_, h⟩
          intro c hc
          rcases List.mem_cons.mp hc with hc | hc
          · exact hc ▸ e
          · exact Nat.lt_trans e (h1 c hc)
        · exact h
      · rename_i e1 e2
        refine (cellsRising_cons _ _).mpr ⟨?_, ih h2⟩
        intro c hc
        rcases mem_cellPut hc with ⟨hc, _⟩ | hc
        · subst hc
          show k < a
          omega
        · exact h1 c hc

theorem cellGet_above {l : List Host.Cell} {a : Nat} (h : above a l) : cellGet l a = none := by
  cases l with
  | nil => rfl
  | cons x r =>
    have := h x List.mem_cons_self
    simp only [cellGet]
    rw [if_neg (by omega), if_pos this]

theorem cellGet_cellPut {keep : Bool} {l : List Host.Cell} {a : Nat} {b : Byte} (h : cellsRising l = true) (c : Nat) :
    cellGet (cellPut keep l a b) c = if c = a then (if keep then some b else none) else cellGet l c := by
  induction l with
  | nil =>
    cases keep
    · simp [cellPut, cellGet]
    · simp only [cellPut, cellGet, if_true]
      split
      · rfl
      · simp
  | cons x r ih =>
    obtain ⟨k, v⟩ := x
    obtain ⟨h1, h2⟩ := (cellsRising_cons _ _).mp h
    have hk : cellGet r k = none := cellGet_above h1
    simp only [cellPut]
    by_cases e : a = k
    · subst e
      simp only [if_true]
      cases keep
      · simp only [Bool.false_eq_true, if_false]
        by_cases ec : c = a
        · subst ec; simp [hk]
        · simp only [if_neg ec, cellGet]
          split
          · exact cellGet_above fun x hx => Nat.lt_trans ‹_› (h1 x hx)
          · rfl
      · simp only [if_true, cellGet]
        split <;> rfl
    · simp only [if_neg e]
      by_cases e2 : a < k
      · simp only [if_pos e2]
        cases keep
        · simp only [Bool.false_eq_true, if_false]
          by_cases ec : c = a
          · subst ec
            simp only [if_true, cellGet, if_neg e, if_pos e2]
          · simp only [if_neg ec]
        · simp only [if_true]
          show (if c = a then some b else if c < a then none else cellGet ((k, v) :: r) c) = _
          by_cases ec : c = a
          · simp only [if_pos ec]
          · simp only [if_neg ec]
            split
            · simp only [cellGet]
              rw [if_neg (by omega), if_pos (by omega)]
            · rfl
      · simp only [if_neg e2]
        show (if c = k then some v else if c < k then none else cellGet (cellPut keep r a b) c) = _
        rw [ih h2]
        simp only [cellGet]
        by_cases ec : c = a
        · subst ec
          simp only [if_true, if_neg e, if_neg e2]
        · simp only [if_neg ec]

theorem rising_filter {l : List Host.Cell} (p : Host.Cell → Bool) (h : cellsRising l = true) : cellsRising (l.filter p) = true := by
  induction l with
  | nil => rfl
  | cons x r ih =>
    obtain ⟨h1, h2⟩ := (cellsRising_cons _ _).mp h
    rw [List.filter_cons]
    split
    · exact (cellsRising_cons _ _).mpr ⟨fun c hc => h1 c (List.mem_filter.mp hc).1, ih h2⟩
    · exact ih h2

/-! ### The canonical form -/

theorem wf_iff (m : Mem) : m.wf = true ↔ cellsRising m.cells = true ∧ ∀ c ∈ m.cells, c.2 ≠ 0 ∨ isUndef m.undef c.1 = true := by
  simp [Mem.wf]

theorem put_wf {m : Mem} (h : m.wf = true) (a : Nat) (b : Byte) : (m.put a b).wf = true := by
  obtain ⟨h1, h2⟩ := (wf_iff _).mp h
  refine (wf_iff _).mpr ⟨cellPut_rising h1, ?_⟩
  intro c hc
  rcases mem_cellPut hc with ⟨rfl, hk⟩ | hc
  · show b ≠ 0 ∨ isUndef m.undef a = true
    simpa using hk
  · exact h2 c hc

theorem write_wf {m : Mem} (h : m.wf = true) (a : Nat) (l : List Byte) : (m.write a l).wf = true := by
  induction l generalizing m a with
  | nil => exact h
  | cons b r ih => exact ih (put_wf h a b) (a + 1)

/-- What a cut leaves of an undefined range still holds every address outside the cut. -/
theorem isUndef_cut {u : List (Nat × Nat × Nat)} {b n a : Nat} (ha : ¬ (b ≤ a ∧ a < b + n)) (h : isUndef u a = true) :
    isUndef (u.flatMap (cutRange b n)) a = true := by
  simp only [isUndef, List.any_eq_true, List.mem_flatMap, decide_eq_true_eq] at h ⊢
  obtain ⟨r, hr, h1, h2⟩ := h
  by_cases hb : a < b
  · refine ⟨(r.1, Nat.min (r.1 + r.2.1) b - r.1, r.2.2), ⟨r, hr, ?_⟩, h1, ?_⟩
    · simp only [cutRange, List.mem_append]
      left
      rw [if_pos (by omega)]
      exact List.mem_singleton_self _
    · show a < r.1 + (min (r.1 + r.2.1) b - r.1)
      omega
  · refine ⟨(Nat.max r.1 (b + n), r.1 + r.2.1 - Nat.max r.1 (b + n), r.2.2), ⟨r, hr, ?_⟩, ?_, ?_⟩
    · simp only [cutRange, List.mem_append]
      right
      rw [if_pos (by omega)]
      exact List.mem_singleton_self _
    · show max r.1 (b + n) ≤ a
      omega
    · show a < max r.1 (b + n) + (r.1 + r.2.1 - max r.1 (b + n))
      omega

theorem clear_wf {m : Mem} (h : m.wf = true) (b n : Nat) : (m.clear b n).wf = true := by
  obtain ⟨h1, h2⟩ := (wf_iff _).mp h
  refine (wf_iff _).mpr ⟨rising_filter _ h1, ?_⟩
  intro c hc
  obtain ⟨hc, hn⟩ := List.mem_filter.mp hc
  rcases h2 c hc with h | h
  · exact .inl h
  · refine .inr (isUndef_cut ?_ h)
    simp at hn
    omega

theorem undefine_wf {m : Mem} (h : m.wf = true) (b n e : Nat) : (m.undefine b n e).wf = true := by
  obtain ⟨h1, h2⟩ := (wf_iff _).mp h
  refine (wf_iff _).mpr ⟨rising_filter _ h1, ?_⟩
  intro c hc
  rcases h2 c (List.mem_filter.mp hc).1 with h | h
  · exact .inl h
  · right
    show isUndef ((b, n, e) :: m.undef) c.1 = true
    unfold isUndef at h ⊢
    rw [List.any_cons, h, Bool.or_true]

/-- The stores of a command keep the form of the commanders' memory. -/
theorem withStores_wf {s : State} (h : s.host.wf = true) (l : List HostStore) : (s.withStores l).host.wf = true := by
  show (l.foldl (fun m x => m.write (hostKey x.port x.addr) x.bytes) s.host).wf = true
  generalize s.host = m at h
  induction l generalizing m with
  | nil => exact h
  | cons x r ih => exact ih _ (write_wf h _ _)

theorem reset_wf : State.reset.tiers.mem.wf = true ∧ State.reset.host.wf = true ∧ State.reset.boot.window.wf = true := by decide

/-! ### Reading -/

theorem get_put {m : Mem} (h : m.wf = true) (a : Nat) (b : Byte) (c : Nat) : (m.put a b).get c = if c = a then b else m.get c := by
  have h1 := ((wf_iff _).mp h).1
  have e : (m.put a b).get c =
      ((cellGet (cellPut (b != 0 || isUndef m.undef a) m.cells a b) c).getD (m.blank c)) := rfl
  rw [e, cellGet_cellPut h1]
  by_cases hc : c = a
  · subst hc
    simp only [if_true]
    cases hk : (b != 0 || isUndef m.undef c)
    · simp only [Bool.or_eq_false_iff, bne_eq_false_iff_eq] at hk
      have : undefByte m.undef c = none := by
        have hu := hk.2
        generalize m.undef = u at hu
        induction u with
        | nil => rfl
        | cons r t ih =>
          obtain ⟨x, y, z⟩ := r
          simp only [isUndef, List.any_cons, Bool.or_eq_false_iff, decide_eq_false_iff_not] at hu
          simp only [undefByte, if_neg hu.1]
          exact ih hu.2
      simp [Mem.blank, this, hk.1]
    · simp
  · simp only [if_neg hc]
    rfl

end Sys2Proof.Laws
end

