-- ==== Sys2Proof/Laws/Tables.lean ====
section
/-! SUPPORT. The laws of the sparse tables: an entry put in is the one read, and every other entry is as it was. -/

namespace Sys2Proof.Laws

open Sys2Proof.Machine

variable {α : Type}

theorem tget_tset_self (t : Tab α) (n : Nat) (x : α) : tget (tset t n x) n = some x := by
  induction t with
  | nil => simp [tset, tget]
  | cons e r ih =>
    obtain ⟨k, v⟩ := e
    by_cases h : n = k
    · simp [tset, tget, h]
    · by_cases h2 : n < k
      · simp [tset, tget, h, h2]
      · simp [tset, tget, h, h2, ih]

theorem tget_tset_ne (t : Tab α) {n m : Nat} (x : α) (hm : m ≠ n) : tget (tset t n x) m = tget t m := by
  induction t with
  | nil => simp [tset, tget, hm]
  | cons e r ih =>
    obtain ⟨k, v⟩ := e
    by_cases h : n = k
    · simp [tset, tget, ← h, hm]
    · by_cases h2 : n < k
      · by_cases h3 : m < n
        · have h4 : m < k := by omega
          have h5 : m ≠ k := by omega
          simp [tset, tget, h, h2, hm, h3, h4, h5]
        · simp [tset, tget, h, h2, hm, h3]
      · simp [tset, tget, h, h2, ih]

theorem tget_tset (t : Tab α) (n m : Nat) (x : α) : tget (tset t n x) m = if m = n then some x else tget t m := by
  by_cases h : m = n
  · subst h; simp [tget_tset_self]
  · simp [tget_tset_ne t x h, h]

theorem tget_tmod (t : Tab α) (n m : Nat) (g : α → α) :
    tget (tmod t n g) m = if m = n then (tget t n).map g else tget t m := by
  unfold tmod
  cases h : tget t n with
  | none =>
    by_cases hm : m = n
    · subst hm; simp [h]
    · simp [hm]
  | some v => by_cases hm : m = n <;> simp [tget_tset, hm]

theorem tgetD_tmodD_self (t : Tab α) (n : Nat) (d : α) (g : α → α) : tgetD (tmodD t n d g) n d = g (tgetD t n d) := by
  simp [tgetD, tmodD, tget_tset_self]

theorem tgetD_tmodD_ne (t : Tab α) {n m : Nat} (d : α) (g : α → α) (h : m ≠ n) : tgetD (tmodD t n d g) m d = tgetD t m d := by
  simp [tgetD, tmodD, tget_tset_ne _ _ h]

end Sys2Proof.Laws
end

