-- ==== Sys2Proof/Laws/Access.lean ====
section
/-! SUPPORT. What the named operations over functions, ports, queues and memory do: the entry changed is the one read, every other is as it was, and a
write to memory leaves the bytes outside it alone. -/

namespace Sys2Proof.Laws

open Sys2Proof.Machine

/-! ### Entries of the tables of State -/

section Entries

variable (s : State)

theorem fn_modFn (f n : Nat) (g : Function → Function) : (s.modFn f g).fn n = if n = f then g (s.fn f) else s.fn n := by
  by_cases h : n = f
  · subst h; simp [State.fn, State.modFn, tgetD_tmodD_self]
  · simp [State.fn, State.modFn, tgetD_tmodD_ne _ _ _ h, h]

theorem port_modPort (p n : Nat) (g : Port → Port) : (s.modPort p g).port n = if n = p then g (s.port p) else s.port n := by
  by_cases h : n = p
  · subst h; simp [State.port, State.modPort, tgetD_tmodD_self]
  · simp [State.port, State.modPort, tgetD_tmodD_ne _ _ _ h, h]

theorem gal_modGal (p n : Nat) (g : Gallery → Gallery) : (s.modGal p g).gal n = if n = p then g (s.gal p) else s.gal n := by
  by_cases h : n = p
  · subst h; simp [State.gal, State.modGal, tgetD_tmodD_self]
  · simp [State.gal, State.modGal, tgetD_tmodD_ne _ _ _ h, h]

theorem cluster_modCluster (p n : Nat) (g : Cluster → Cluster) :
    (s.modCluster p g).cluster n = if n = p then g (s.cluster p) else s.cluster n := by
  by_cases h : n = p
  · subst h; simp [State.cluster, State.modCluster, tgetD_tmodD_self]
  · simp [State.cluster, State.modCluster, tgetD_tmodD_ne _ _ _ h, h]

theorem hp_modHp (p n : Nat) (g : HostPort → HostPort) : (s.modHp p g).hp n = if n = p then g (s.hp p) else s.hp n := by
  by_cases h : n = p
  · subst h; simp [State.hp, State.modHp, tgetD_tmodD_self]
  · simp [State.hp, State.modHp, tgetD_tmodD_ne _ _ _ h, h]

theorem qp_modQp (q n : Nat) (g : Qp → Qp) : tget (s.modQp q g).qps n = if n = q then (tget s.qps q).map g else tget s.qps n :=
  tget_tmod ..

theorem group_modGroup (i n : Nat) (g : Group → Group) :
    tget (s.modGroup i g).groups n = if n = i then (tget s.groups i).map g else tget s.groups n :=
  tget_tmod ..

theorem ctx_modCtx (c n : Nat) (g : Context → Context) :
    tget (s.modCtx c g).ctxs n = if n = c then (tget s.ctxs c).map g else tget s.ctxs n :=
  tget_tmod ..

theorem sq_modSq (f q : Nat) (g : Sq → Sq) : (s.modSq f q g).sq f q = (s.sq f q).map g := by
  simp [State.sq, State.modSq, tget_tmod]

theorem sq_modSq_ne {f q f' q' : Nat} (g : Sq → Sq) (h : qKey f' q' ≠ qKey f q) : (s.modSq f q g).sq f' q' = s.sq f' q' := by
  simp [State.sq, State.modSq, tget_tmod, h]

theorem cq_modCq (f q : Nat) (g : Cq → Cq) : (s.modCq f q g).cq f q = (s.cq f q).map g := by
  simp [State.cq, State.modCq, tget_tmod]

theorem cq_modCq_ne {f q f' q' : Nat} (g : Cq → Cq) (h : qKey f' q' ≠ qKey f q) : (s.modCq f q g).cq f' q' = s.cq f' q' := by
  simp [State.cq, State.modCq, tget_tmod, h]

/-- Queue numbers have 16 bits, so that a key names one queue of one function (R84). -/
theorem qKey_inj {f q f' q' : Nat} (h : q < 65536) (h' : q' < 65536) : qKey f q = qKey f' q' ↔ f = f' ∧ q = q' := by
  unfold qKey
  omega

/-- A counter that counts n more, and every other as it was. -/
theorem counter_count (block inst idx n id : Nat) :
    (s.count block inst idx n).counter id = if id = counterId block inst idx then s.counter id + BitVec.ofNat 64 n else s.counter id := by
  unfold State.count
  by_cases hn : n = 0
  · simp [hn]
  · by_cases h : id = counterId block inst idx
    · subst h
      simp [hn, State.counter, tgetD_tmodD_self]
    · simp [hn, h, State.counter, tgetD_tmodD_ne _ _ _ h]

end Entries

/-! ### Parts of the state that accesses leave alone -/

theorem count_keeps (s : State) (b i x n : Nat) : { s.count b i x n with counters := s.counters } = s := by
  unfold State.count
  split <;> rfl

@[simp] theorem count_tiers (s : State) (b i x n : Nat) : (s.count b i x n).tiers = s.tiers := by unfold State.count; split <;> rfl
@[simp] theorem count_host (s : State) (b i x n : Nat) : (s.count b i x n).host = s.host := by unfold State.count; split <;> rfl
@[simp] theorem touchTier_tiers (s : State) (r : Region) : (s.touchTier r).tiers = s.tiers := by unfold State.touchTier; split <;> rfl
@[simp] theorem logDevice_tiers (s : State) (f a : Nat) : (s.logDevice f a).tiers = s.tiers := by
  unfold State.logDevice; simp only; split <;> rfl
@[simp] theorem logHost_tiers (s : State) (f hp b : Nat) : (s.logHost f hp b).tiers = s.tiers := by
  unfold State.logHost; simp only; split <;> (try split) <;> rfl
@[simp] theorem clean_mem (t : Tiers) (p : Nat → Bool) : (t.clean p).mem = t.mem := rfl
@[simp] theorem poisonLine_mem (s : State) (r : Region) (n : Nat) : (s.poisonLine r n).tiers.mem = s.tiers.mem := by
  unfold State.poisonLine; split
  · rfl
  · simp only [count_tiers]; rfl
@[simp] theorem mendRow_tiers (s : State) (u : MemUnit) (pc row cause : Nat) : (s.mendRow u pc row cause).tiers = s.tiers := rfl
@[simp] theorem lineFails_mem (s : State) (r : Region) (n : Nat) : (s.lineFails r n).tiers.mem = s.tiers.mem := by
  unfold State.lineFails; simp only; split <;> simp
@[simp] theorem countSymbol_tiers (s : State) (r : Region) (pos : Nat) : (s.countSymbol r pos).tiers = s.tiers := by
  unfold State.countSymbol; split <;> simp
@[simp] theorem countSymbols_tiers (s : State) (r : Region) (l : List Soft) :
    (l.foldl (fun s b => s.countSymbol r b.pos) s).tiers = s.tiers := by
  induction l generalizing s with
  | nil => rfl
  | cons b l ih => rw [List.foldl_cons, ih, countSymbol_tiers]
@[simp] theorem writeHost_tiers (s : State) (f hp b : Nat) (l : List Byte) : (s.writeHost f hp b l).1.tiers = s.tiers := by
  unfold State.writeHost; simp only; split
  · rw [count_tiers]
  · show (State.count _ _ _ _ _).tiers = _
    rw [count_tiers]; split
    · rfl
    · rw [logHost_tiers, logHost_tiers]

/-- A write of bytes to memory: the bytes themselves, and every other as it was. -/
theorem get_write {m : Mem} (h : m.wf = true) (a : Nat) (l : List Byte) (c : Nat) :
    (m.write a l).get c = if h : a ≤ c ∧ c < a + l.length then l[c - a]'(by omega) else m.get c := by
  induction l generalizing m a with
  | nil => rw [dif_neg (fun hh => by have := hh.2; simp only [List.length_nil] at this; omega)]; rfl
  | cons b r ih =>
    show ((m.put a b).write (a + 1) r).get c = _
    rw [ih (put_wf h a b)]
    simp only [get_put h, List.length_cons]
    by_cases h1 : c = a
    · subst h1
      rw [dif_neg (by omega), dif_pos (by omega)]
      simp
    · by_cases h2 : a + 1 ≤ c ∧ c < a + 1 + r.length
      · rw [dif_pos h2, dif_pos (by omega)]
        have : c - a = (c - (a + 1)) + 1 := by omega
        simp only [this, List.getElem_cons_succ]
      · rw [dif_neg h2, if_neg h1, dif_neg (by omega)]

/-- One piece written to a tier either writes its bytes or leaves memory as it was. -/
theorem writeTier_mem (s : State) (r : Region) (a : Nat) (l : List Byte) :
    (s.writeTier r a l).1.tiers.mem = if (s.writeTier r a l).2 = none then s.tiers.mem.write a l else s.tiers.mem := by
  unfold State.writeTier
  simp only
  split
  · simp
  · split
    · simp
    · split <;> simp

/-- One piece written through a segment either writes its bytes to the tiers or leaves them as they were. -/
theorem writePiece_mem (s : State) (v : Via) (a : Nat) (l : List Byte) :
    (s.writePiece v a l).1.tiers.mem = s.tiers.mem ∨ (s.writePiece v a l).1.tiers.mem = s.tiers.mem.write a l := by
  unfold State.writePiece
  split
  · exact .inl rfl
  · split
    · rename_i hp _
      have := writeHost_tiers s v.f hp (s.busOf v.f a) l
      split
      · rename_i q; rw [q] at this; exact .inl (congrArg (fun x => x.mem) this)
      · rename_i q; rw [q] at this; exact .inl (congrArg (fun x => x.mem) this)
    · exact .inl rfl
    · exact .inl rfl
    · rename_i r _ _ _
      have := writeTier_mem (s.logDevice v.f a) (s.region a) a l
      simp only [logDevice_tiers] at this
      split at this
      · exact .inr this
      · exact .inl this

end Sys2Proof.Laws
end

