-- ==== Sys2Proof/Laws/Commands.lean ====
section
/-! SUPPORT. What the shared shapes of commands do: an admin command carried out, a job dispatched, an arrived packet taken. -/

namespace Sys2Proof.Laws

open Sys2Proof.Machine

/-- An admin command that is ready is carried out: it leaves its queue, its effect happens and its completion is written. -/
theorem admin_ready {s : State} {f op : Nat} {used : List (Nat × Nat)} {j : Job} {r : List Job}
    (h : s.adminReady f op used j r) (sub : Option Nat) (hs : sub.all (fun n => j.arg 16 1 == n) = true) (act : State → Job → State × Answer) :
    s.admin f op sub used act = (act (s.adminRest f r) j).1.answer j (act (s.adminRest f r) j).2 := by
  obtain ⟨_, hl, hq, ho, hg, hc, _⟩ := h
  obtain ⟨x, hx, hf⟩ := Option.bind_eq_some_iff.mp hq
  unfold State.admin
  cases sub with
  | none => simp [hl, hx, hf, ho, hg, hc, State.adminRest]
  | some n =>
    have hn : j.arg 16 1 = n := by simpa using hs
    simp [hl, hx, hf, ho, hg, hc, hn, State.adminRest]

/-- What an admin command that is ready does, from what its own part does. -/
theorem admin_next {s u : State} {f op : Nat} {used : List (Nat × Nat)} {j : Job} {r : List Job} {act : State → Job → State × Answer} {a : Answer}
    (h : s.adminReady f op used j r) (e : act (s.adminRest f r) j = (u, a)) : s.admin f op none used act = u.answer j a := by
  rw [admin_ready h none rfl, e]

theorem admin_next_sub {s u : State} {f op n : Nat} {used : List (Nat × Nat)} {j : Job} {r : List Job} {act : State → Job → State × Answer} {a : Answer}
    (h : s.adminReady f op used j r) (hn : j.arg 16 1 = n) (e : act (s.adminRest f r) j = (u, a)) :
    s.admin f op (some n) used act = u.answer j a := by
  rw [admin_ready h (some n) (by simp [hn]), e]

/-- A job that is ready is dispatched: it runs over the state with it taken and its RESET_SIGNAL applied. -/
theorem dispatch_ready {s : State} {f q op : Nat} {j : Job} (h : s.jobReady f q op j) (run : State → Job → State) :
    s.dispatch f q op run = run (s.dispatched f q j) j := by
  obtain ⟨_, _, hn, ho⟩ := h
  simp only [State.dispatch, hn, ho, State.dispatched]
  rfl

/-- RESET_SIGNAL and the taking of a job leave groups, plans and functions alone. -/
theorem setEvc_groups (s : State) (c n : Nat) (v : W64) : (s.setEvc c n v).groups = s.groups := by
  unfold State.setEvc
  split <;> rfl

theorem resetSignal_groups (s : State) (j : Job) : (s.resetSignal j).groups = s.groups := by
  unfold State.resetSignal
  split
  · exact setEvc_groups ..
  · rfl

/-- Rousing changes nothing but galleries. -/
theorem rouseAll_eq (l : List Nat) (s : State) : ∃ t, l.foldl (fun (s : State) c => s.rouse (c / 8)) s = { s with gals := t } := by
  induction l generalizing s with
  | nil => exact ⟨s.gals, rfl⟩
  | cons c r ih =>
    obtain ⟨t, h⟩ := ih (s.rouse (c / 8))
    exact ⟨t, h⟩

theorem rouseJob_eq (s : State) (j : Job) : ∃ t, s.rouseJob j = { s with gals := t } := rouseAll_eq _ s

theorem dispatched_groups (s : State) (f q : Nat) (j : Job) : (s.dispatched f q j).groups = s.groups := by
  unfold State.dispatched
  obtain ⟨t, h⟩ := rouseJob_eq ((s.modSq f q fun x => { x with fetched := x.fetched.drop 1, moved := s.tclk }).resetSignal j) j
  rw [h]
  exact resetSignal_groups ..

/-- A packet that is ready is taken. -/
theorem take_ready {s t : State} {test : Packet → Bool} {i : Inbound} (h : s.packetReady test t i) (act : State → Inbound → State) :
    s.takePacket test act = act t i := by
  obtain ⟨hl, a, u, h1, h2⟩ := h
  simp only [State.takePacket, hl, h1, h2]
  rfl

/-- A request that is ready is acted on and acknowledged. -/
theorem request_ready {s u : State} {test : Packet → Bool} {i : Inbound} (h : s.requestReady test u i) (act again : State → Inbound → State) :
    (s.takePacket test fun s i => s.takeRequest i (fun s => act s i) fun s => again s i) = (act u i).afterAccept i := by
  obtain ⟨t, h1, h2, rfl⟩ := h
  rw [take_ready h1]
  simp only [State.takeRequest, h2]

/-- A FABRIC message that is ready is taken. -/
theorem fabric_ready {s u : State} {test : List Byte → Bool} {a : Arrival} (h : s.fabricReady test u a) (act : State → Arrival → List Byte → State) :
    s.takeFabric test act = act u a a.pkt.body := by
  obtain ⟨hl, h1⟩ := h
  simp only [State.takeFabric, hl, h1]
  rfl

/-- A control record that is ready is acted on. -/
theorem control_ready {s u : State} {kind gid : Nat} {i : Inbound} {g : Group} {n : Neighbour} {seq : W32} {l : List Byte}
    (h : s.controlReady kind u i gid g n seq l) (act : State → Nat → Group → Neighbour → W32 → List Byte → State) :
    s.control kind act = (act u gid g n seq l).afterAccept i := by
  obtain ⟨t, h1, h2, rfl, rfl⟩ := h
  refine (request_ready h1 (fun s i => s.controlPacket i kind act) fun s _ => s).trans ?_
  simp only [State.controlPacket, h2]

/-- A LINK message that is ready is taken. -/
theorem link_ready {s u : State} {p op : Nat} {k : Packet} (h : s.linkReady p op u k) (act : State → Packet → List Byte → State) :
    s.takeLink p op act = act u k k.body := by
  obtain ⟨hl, a, l, h1, rfl, rfl⟩ := h
  simp only [State.takeLink, hl, h1]
  rfl

/-! ### A package that is not live -/

/-- Where nothing runs, what a command of each shape would do does not happen. -/
theorem not_live {s : State} (h : s.activity ≠ .running) : s.live = false := by
  unfold State.live
  simp [h]

theorem not_served {s : State} (h : s.live = false) : s.served = false := by
  unfold State.served
  simp [h]

theorem not_loadServed {s : State} (h : s.activity ≠ .running) : s.loadServed = false := by
  unfold State.loadServed
  simp [h]

theorem not_dbgServed {s : State} (h : s.activity ≠ .running) : s.dbgServed = false := by
  unfold State.dbgServed
  simp [h]

theorem admin_dead {s : State} (h : s.live = false) (f op : Nat) (sub : Option Nat) (used : List (Nat × Nat)) (act : State → Job → State × Answer) :
    s.admin f op sub used act = s := by
  unfold State.admin
  simp only [h, Bool.not_false, if_true]

theorem dispatch_dead {s : State} (h : s.live = false) (f q op : Nat) (run : State → Job → State) : s.dispatch f q op run = s := by
  unfold State.dispatch State.nextJob
  simp [h]

theorem dispatchColl_dead {s : State} (h : s.live = false) (f q op : Nat) : s.dispatchColl f q op = s := by
  unfold State.dispatchColl State.nextJob
  simp [h]

theorem takePacket_dead {s : State} (h : s.live = false) (test : Packet → Bool) (act : State → Inbound → State) : s.takePacket test act = s := by
  unfold State.takePacket
  simp only [h, Bool.not_false, if_true]

theorem takeFabric_dead {s : State} (h : s.live = false) (test : List Byte → Bool) (act : State → Arrival → List Byte → State) :
    s.takeFabric test act = s := by
  unfold State.takeFabric
  simp only [h, Bool.not_false, if_true]

theorem takeLink_dead {s : State} (h : s.live = false) (p op : Nat) (act : State → Packet → List Byte → State) : s.takeLink p op act = s := by
  unfold State.takeLink
  simp only [h, Bool.not_false, if_true]

/-- FN_WAKE while nothing runs is no write at all. -/
theorem wake_dead {s : State} (h : s.activity ≠ .running) (f kind q : Nat) (act : State → State) : s.wake f kind q act = s := by
  unfold State.wake
  exact if_pos (.inl h)

/-- FN_WAKE for a function that is served, acted on at once. -/
theorem wake_serving {s : State} (h : s.live = true) {f : Nat} (hv : s.serving f = true) (kind q : Nat) (act : State → State) :
    s.wake f kind q act = act s := by
  have h0 : s.activity = .running := by simp [State.live] at h; exact h.1
  have h2 : (s.fn f).halted = false := by simp [State.serving] at hv; exact hv.2
  have h3 : (s.fn f).state = .active := by simp [State.serving] at hv; exact hv.1
  simp [State.wake, h0, h, h2, h3]

end Sys2Proof.Laws
end

