-- ==== Sys2Proof/Laws/State.lean ====
section
/-! SUPPORT. Reading a part of the state after one part has been changed: one lemma for each update and each field that it may be read by. -/

namespace Sys2Proof.Machine

variable (s : State)

/-! ### modFn -/

@[simp] theorem State.modFn_tclk (f : Nat) (g : Function → Function) : (s.modFn f g).tclk = s.tclk := rfl
@[simp] theorem State.modFn_activity (f : Nat) (g : Function → Function) : (s.modFn f g).activity = s.activity := rfl
@[simp] theorem State.modFn_lands (f : Nat) (g : Function → Function) : (s.modFn f g).lands = s.lands := rfl
@[simp] theorem State.modFn_fuses (f : Nat) (g : Function → Function) : (s.modFn f g).fuses = s.fuses := rfl
@[simp] theorem State.modFn_nor (f : Nat) (g : Function → Function) : (s.modFn f g).nor = s.nor := rfl
@[simp] theorem State.modFn_boot (f : Nat) (g : Function → Function) : (s.modFn f g).boot = s.boot := rfl
@[simp] theorem State.modFn_procs (f : Nat) (g : Function → Function) : (s.modFn f g).procs = s.procs := rfl
@[simp] theorem State.modFn_regs (f : Nat) (g : Function → Function) : (s.modFn f g).regs = s.regs := rfl
@[simp] theorem State.modFn_ctxs (f : Nat) (g : Function → Function) : (s.modFn f g).ctxs = s.ctxs := rfl
@[simp] theorem State.modFn_gens (f : Nat) (g : Function → Function) : (s.modFn f g).gens = s.gens := rfl
@[simp] theorem State.modFn_sqs (f : Nat) (g : Function → Function) : (s.modFn f g).sqs = s.sqs := rfl
@[simp] theorem State.modFn_cqs (f : Nat) (g : Function → Function) : (s.modFn f g).cqs = s.cqs := rfl
@[simp] theorem State.modFn_eqs (f : Nat) (g : Function → Function) : (s.modFn f g).eqs = s.eqs := rfl
@[simp] theorem State.modFn_ops (f : Nat) (g : Function → Function) : (s.modFn f g).ops = s.ops := rfl
@[simp] theorem State.modFn_nextOp (f : Nat) (g : Function → Function) : (s.modFn f g).nextOp = s.nextOp := rfl
@[simp] theorem State.modFn_spent (f : Nat) (g : Function → Function) : (s.modFn f g).spent = s.spent := rfl
@[simp] theorem State.modFn_armed (f : Nat) (g : Function → Function) : (s.modFn f g).armed = s.armed := rfl
@[simp] theorem State.modFn_flags (f : Nat) (g : Function → Function) : (s.modFn f g).flags = s.flags := rfl
@[simp] theorem State.modFn_peers (f : Nat) (g : Function → Function) : (s.modFn f g).peers = s.peers := rfl
@[simp] theorem State.modFn_channels (f : Nat) (g : Function → Function) : (s.modFn f g).channels = s.channels := rfl
@[simp] theorem State.modFn_mes (f : Nat) (g : Function → Function) : (s.modFn f g).mes = s.mes := rfl
@[simp] theorem State.modFn_tiers (f : Nat) (g : Function → Function) : (s.modFn f g).tiers = s.tiers := rfl
@[simp] theorem State.modFn_host (f : Nat) (g : Function → Function) : (s.modFn f g).host = s.host := rfl
@[simp] theorem State.modFn_qps (f : Nat) (g : Function → Function) : (s.modFn f g).qps = s.qps := rfl
@[simp] theorem State.modFn_nextHome (f : Nat) (g : Function → Function) : (s.modFn f g).nextHome = s.nextHome := rfl
@[simp] theorem State.modFn_cache (f : Nat) (g : Function → Function) : (s.modFn f g).cache = s.cache := rfl
@[simp] theorem State.modFn_sidings (f : Nat) (g : Function → Function) : (s.modFn f g).sidings = s.sidings := rfl
@[simp] theorem State.modFn_arrived (f : Nat) (g : Function → Function) : (s.modFn f g).arrived = s.arrived := rfl
@[simp] theorem State.modFn_slots (f : Nat) (g : Function → Function) : (s.modFn f g).slots = s.slots := rfl
@[simp] theorem State.modFn_epoch (f : Nat) (g : Function → Function) : (s.modFn f g).epoch = s.epoch := rfl
@[simp] theorem State.modFn_answered (f : Nat) (g : Function → Function) : (s.modFn f g).answered = s.answered := rfl
@[simp] theorem State.modFn_requests (f : Nat) (g : Function → Function) : (s.modFn f g).requests = s.requests := rfl
@[simp] theorem State.modFn_nextReq (f : Nat) (g : Function → Function) : (s.modFn f g).nextReq = s.nextReq := rfl
@[simp] theorem State.modFn_passed (f : Nat) (g : Function → Function) : (s.modFn f g).passed = s.passed := rfl
@[simp] theorem State.modFn_agent (f : Nat) (g : Function → Function) : (s.modFn f g).agent = s.agent := rfl
@[simp] theorem State.modFn_ports (f : Nat) (g : Function → Function) : (s.modFn f g).ports = s.ports := rfl
@[simp] theorem State.modFn_local_ (f : Nat) (g : Function → Function) : (s.modFn f g).local_ = s.local_ := rfl
@[simp] theorem State.modFn_sent (f : Nat) (g : Function → Function) : (s.modFn f g).sent = s.sent := rfl
@[simp] theorem State.modFn_groups (f : Nat) (g : Function → Function) : (s.modFn f g).groups = s.groups := rfl
@[simp] theorem State.modFn_plans (f : Nat) (g : Function → Function) : (s.modFn f g).plans = s.plans := rfl
@[simp] theorem State.modFn_runs (f : Nat) (g : Function → Function) : (s.modFn f g).runs = s.runs := rfl
@[simp] theorem State.modFn_nextRun (f : Nat) (g : Function → Function) : (s.modFn f g).nextRun = s.nextRun := rfl
@[simp] theorem State.modFn_clusters (f : Nat) (g : Function → Function) : (s.modFn f g).clusters = s.clusters := rfl
@[simp] theorem State.modFn_gals (f : Nat) (g : Function → Function) : (s.modFn f g).gals = s.gals := rfl
@[simp] theorem State.modFn_scrubs (f : Nat) (g : Function → Function) : (s.modFn f g).scrubs = s.scrubs := rfl
@[simp] theorem State.modFn_links (f : Nat) (g : Function → Function) : (s.modFn f g).links = s.links := rfl
@[simp] theorem State.modFn_hps (f : Nat) (g : Function → Function) : (s.modFn f g).hps = s.hps := rfl
@[simp] theorem State.modFn_recov (f : Nat) (g : Function → Function) : (s.modFn f g).recov = s.recov := rfl
@[simp] theorem State.modFn_sec (f : Nat) (g : Function → Function) : (s.modFn f g).sec = s.sec := rfl
@[simp] theorem State.modFn_power (f : Nat) (g : Function → Function) : (s.modFn f g).power = s.power := rfl
@[simp] theorem State.modFn_dbg (f : Nat) (g : Function → Function) : (s.modFn f g).dbg = s.dbg := rfl
@[simp] theorem State.modFn_counters (f : Nat) (g : Function → Function) : (s.modFn f g).counters = s.counters := rfl
@[simp] theorem State.modFn_irqs (f : Nat) (g : Function → Function) : (s.modFn f g).irqs = s.irqs := rfl
@[simp] theorem State.modFn_msixPend (f : Nat) (g : Function → Function) : (s.modFn f g).msixPend = s.msixPend := rfl
@[simp] theorem State.modFn_mboxPend (f : Nat) (g : Function → Function) : (s.modFn f g).mboxPend = s.mboxPend := rfl
@[simp] theorem State.modFn_pending (f : Nat) (g : Function → Function) : (s.modFn f g).pending = s.pending := rfl
@[simp] theorem State.modFn_free (f : Nat) (g : Function → Function) : (s.modFn f g).free = s.free := rfl

/-! ### modPort -/

@[simp] theorem State.modPort_tclk (p : Nat) (g : Port → Port) : (s.modPort p g).tclk = s.tclk := rfl
@[simp] theorem State.modPort_activity (p : Nat) (g : Port → Port) : (s.modPort p g).activity = s.activity := rfl
@[simp] theorem State.modPort_lands (p : Nat) (g : Port → Port) : (s.modPort p g).lands = s.lands := rfl
@[simp] theorem State.modPort_fuses (p : Nat) (g : Port → Port) : (s.modPort p g).fuses = s.fuses := rfl
@[simp] theorem State.modPort_nor (p : Nat) (g : Port → Port) : (s.modPort p g).nor = s.nor := rfl
@[simp] theorem State.modPort_boot (p : Nat) (g : Port → Port) : (s.modPort p g).boot = s.boot := rfl
@[simp] theorem State.modPort_procs (p : Nat) (g : Port → Port) : (s.modPort p g).procs = s.procs := rfl
@[simp] theorem State.modPort_regs (p : Nat) (g : Port → Port) : (s.modPort p g).regs = s.regs := rfl
@[simp] theorem State.modPort_fns (p : Nat) (g : Port → Port) : (s.modPort p g).fns = s.fns := rfl
@[simp] theorem State.modPort_ctxs (p : Nat) (g : Port → Port) : (s.modPort p g).ctxs = s.ctxs := rfl
@[simp] theorem State.modPort_gens (p : Nat) (g : Port → Port) : (s.modPort p g).gens = s.gens := rfl
@[simp] theorem State.modPort_sqs (p : Nat) (g : Port → Port) : (s.modPort p g).sqs = s.sqs := rfl
@[simp] theorem State.modPort_cqs (p : Nat) (g : Port → Port) : (s.modPort p g).cqs = s.cqs := rfl
@[simp] theorem State.modPort_eqs (p : Nat) (g : Port → Port) : (s.modPort p g).eqs = s.eqs := rfl
@[simp] theorem State.modPort_ops (p : Nat) (g : Port → Port) : (s.modPort p g).ops = s.ops := rfl
@[simp] theorem State.modPort_nextOp (p : Nat) (g : Port → Port) : (s.modPort p g).nextOp = s.nextOp := rfl
@[simp] theorem State.modPort_spent (p : Nat) (g : Port → Port) : (s.modPort p g).spent = s.spent := rfl
@[simp] theorem State.modPort_armed (p : Nat) (g : Port → Port) : (s.modPort p g).armed = s.armed := rfl
@[simp] theorem State.modPort_flags (p : Nat) (g : Port → Port) : (s.modPort p g).flags = s.flags := rfl
@[simp] theorem State.modPort_peers (p : Nat) (g : Port → Port) : (s.modPort p g).peers = s.peers := rfl
@[simp] theorem State.modPort_channels (p : Nat) (g : Port → Port) : (s.modPort p g).channels = s.channels := rfl
@[simp] theorem State.modPort_mes (p : Nat) (g : Port → Port) : (s.modPort p g).mes = s.mes := rfl
@[simp] theorem State.modPort_tiers (p : Nat) (g : Port → Port) : (s.modPort p g).tiers = s.tiers := rfl
@[simp] theorem State.modPort_host (p : Nat) (g : Port → Port) : (s.modPort p g).host = s.host := rfl
@[simp] theorem State.modPort_qps (p : Nat) (g : Port → Port) : (s.modPort p g).qps = s.qps := rfl
@[simp] theorem State.modPort_nextHome (p : Nat) (g : Port → Port) : (s.modPort p g).nextHome = s.nextHome := rfl
@[simp] theorem State.modPort_cache (p : Nat) (g : Port → Port) : (s.modPort p g).cache = s.cache := rfl
@[simp] theorem State.modPort_sidings (p : Nat) (g : Port → Port) : (s.modPort p g).sidings = s.sidings := rfl
@[simp] theorem State.modPort_arrived (p : Nat) (g : Port → Port) : (s.modPort p g).arrived = s.arrived := rfl
@[simp] theorem State.modPort_slots (p : Nat) (g : Port → Port) : (s.modPort p g).slots = s.slots := rfl
@[simp] theorem State.modPort_epoch (p : Nat) (g : Port → Port) : (s.modPort p g).epoch = s.epoch := rfl
@[simp] theorem State.modPort_answered (p : Nat) (g : Port → Port) : (s.modPort p g).answered = s.answered := rfl
@[simp] theorem State.modPort_requests (p : Nat) (g : Port → Port) : (s.modPort p g).requests = s.requests := rfl
@[simp] theorem State.modPort_nextReq (p : Nat) (g : Port → Port) : (s.modPort p g).nextReq = s.nextReq := rfl
@[simp] theorem State.modPort_passed (p : Nat) (g : Port → Port) : (s.modPort p g).passed = s.passed := rfl
@[simp] theorem State.modPort_agent (p : Nat) (g : Port → Port) : (s.modPort p g).agent = s.agent := rfl
@[simp] theorem State.modPort_local_ (p : Nat) (g : Port → Port) : (s.modPort p g).local_ = s.local_ := rfl
@[simp] theorem State.modPort_sent (p : Nat) (g : Port → Port) : (s.modPort p g).sent = s.sent := rfl
@[simp] theorem State.modPort_groups (p : Nat) (g : Port → Port) : (s.modPort p g).groups = s.groups := rfl
@[simp] theorem State.modPort_plans (p : Nat) (g : Port → Port) : (s.modPort p g).plans = s.plans := rfl
@[simp] theorem State.modPort_runs (p : Nat) (g : Port → Port) : (s.modPort p g).runs = s.runs := rfl
@[simp] theorem State.modPort_nextRun (p : Nat) (g : Port → Port) : (s.modPort p g).nextRun = s.nextRun := rfl
@[simp] theorem State.modPort_clusters (p : Nat) (g : Port → Port) : (s.modPort p g).clusters = s.clusters := rfl
@[simp] theorem State.modPort_gals (p : Nat) (g : Port → Port) : (s.modPort p g).gals = s.gals := rfl
@[simp] theorem State.modPort_scrubs (p : Nat) (g : Port → Port) : (s.modPort p g).scrubs = s.scrubs := rfl
@[simp] theorem State.modPort_links (p : Nat) (g : Port → Port) : (s.modPort p g).links = s.links := rfl
@[simp] theorem State.modPort_hps (p : Nat) (g : Port → Port) : (s.modPort p g).hps = s.hps := rfl
@[simp] theorem State.modPort_recov (p : Nat) (g : Port → Port) : (s.modPort p g).recov = s.recov := rfl
@[simp] theorem State.modPort_sec (p : Nat) (g : Port → Port) : (s.modPort p g).sec = s.sec := rfl
@[simp] theorem State.modPort_power (p : Nat) (g : Port → Port) : (s.modPort p g).power = s.power := rfl
@[simp] theorem State.modPort_dbg (p : Nat) (g : Port → Port) : (s.modPort p g).dbg = s.dbg := rfl
@[simp] theorem State.modPort_counters (p : Nat) (g : Port → Port) : (s.modPort p g).counters = s.counters := rfl
@[simp] theorem State.modPort_irqs (p : Nat) (g : Port → Port) : (s.modPort p g).irqs = s.irqs := rfl
@[simp] theorem State.modPort_msixPend (p : Nat) (g : Port → Port) : (s.modPort p g).msixPend = s.msixPend := rfl
@[simp] theorem State.modPort_mboxPend (p : Nat) (g : Port → Port) : (s.modPort p g).mboxPend = s.mboxPend := rfl
@[simp] theorem State.modPort_pending (p : Nat) (g : Port → Port) : (s.modPort p g).pending = s.pending := rfl
@[simp] theorem State.modPort_free (p : Nat) (g : Port → Port) : (s.modPort p g).free = s.free := rfl

/-! ### modGal -/

@[simp] theorem State.modGal_tclk (n : Nat) (g : Gallery → Gallery) : (s.modGal n g).tclk = s.tclk := rfl
@[simp] theorem State.modGal_activity (n : Nat) (g : Gallery → Gallery) : (s.modGal n g).activity = s.activity := rfl
@[simp] theorem State.modGal_lands (n : Nat) (g : Gallery → Gallery) : (s.modGal n g).lands = s.lands := rfl
@[simp] theorem State.modGal_fuses (n : Nat) (g : Gallery → Gallery) : (s.modGal n g).fuses = s.fuses := rfl
@[simp] theorem State.modGal_nor (n : Nat) (g : Gallery → Gallery) : (s.modGal n g).nor = s.nor := rfl
@[simp] theorem State.modGal_boot (n : Nat) (g : Gallery → Gallery) : (s.modGal n g).boot = s.boot := rfl
@[simp] theorem State.modGal_procs (n : Nat) (g : Gallery → Gallery) : (s.modGal n g).procs = s.procs := rfl
@[simp] theorem State.modGal_regs (n : Nat) (g : Gallery → Gallery) : (s.modGal n g).regs = s.regs := rfl
@[simp] theorem State.modGal_fns (n : Nat) (g : Gallery → Gallery) : (s.modGal n g).fns = s.fns := rfl
@[simp] theorem State.modGal_ctxs (n : Nat) (g : Gallery → Gallery) : (s.modGal n g).ctxs = s.ctxs := rfl
@[simp] theorem State.modGal_gens (n : Nat) (g : Gallery → Gallery) : (s.modGal n g).gens = s.gens := rfl
@[simp] theorem State.modGal_sqs (n : Nat) (g : Gallery → Gallery) : (s.modGal n g).sqs = s.sqs := rfl
@[simp] theorem State.modGal_cqs (n : Nat) (g : Gallery → Gallery) : (s.modGal n g).cqs = s.cqs := rfl
@[simp] theorem State.modGal_eqs (n : Nat) (g : Gallery → Gallery) : (s.modGal n g).eqs = s.eqs := rfl
@[simp] theorem State.modGal_ops (n : Nat) (g : Gallery → Gallery) : (s.modGal n g).ops = s.ops := rfl
@[simp] theorem State.modGal_nextOp (n : Nat) (g : Gallery → Gallery) : (s.modGal n g).nextOp = s.nextOp := rfl
@[simp] theorem State.modGal_spent (n : Nat) (g : Gallery → Gallery) : (s.modGal n g).spent = s.spent := rfl
@[simp] theorem State.modGal_armed (n : Nat) (g : Gallery → Gallery) : (s.modGal n g).armed = s.armed := rfl
@[simp] theorem State.modGal_flags (n : Nat) (g : Gallery → Gallery) : (s.modGal n g).flags = s.flags := rfl
@[simp] theorem State.modGal_peers (n : Nat) (g : Gallery → Gallery) : (s.modGal n g).peers = s.peers := rfl
@[simp] theorem State.modGal_channels (n : Nat) (g : Gallery → Gallery) : (s.modGal n g).channels = s.channels := rfl
@[simp] theorem State.modGal_mes (n : Nat) (g : Gallery → Gallery) : (s.modGal n g).mes = s.mes := rfl
@[simp] theorem State.modGal_tiers (n : Nat) (g : Gallery → Gallery) : (s.modGal n g).tiers = s.tiers := rfl
@[simp] theorem State.modGal_host (n : Nat) (g : Gallery → Gallery) : (s.modGal n g).host = s.host := rfl
@[simp] theorem State.modGal_qps (n : Nat) (g : Gallery → Gallery) : (s.modGal n g).qps = s.qps := rfl
@[simp] theorem State.modGal_nextHome (n : Nat) (g : Gallery → Gallery) : (s.modGal n g).nextHome = s.nextHome := rfl
@[simp] theorem State.modGal_cache (n : Nat) (g : Gallery → Gallery) : (s.modGal n g).cache = s.cache := rfl
@[simp] theorem State.modGal_sidings (n : Nat) (g : Gallery → Gallery) : (s.modGal n g).sidings = s.sidings := rfl
@[simp] theorem State.modGal_arrived (n : Nat) (g : Gallery → Gallery) : (s.modGal n g).arrived = s.arrived := rfl
@[simp] theorem State.modGal_slots (n : Nat) (g : Gallery → Gallery) : (s.modGal n g).slots = s.slots := rfl
@[simp] theorem State.modGal_epoch (n : Nat) (g : Gallery → Gallery) : (s.modGal n g).epoch = s.epoch := rfl
@[simp] theorem State.modGal_answered (n : Nat) (g : Gallery → Gallery) : (s.modGal n g).answered = s.answered := rfl
@[simp] theorem State.modGal_requests (n : Nat) (g : Gallery → Gallery) : (s.modGal n g).requests = s.requests := rfl
@[simp] theorem State.modGal_nextReq (n : Nat) (g : Gallery → Gallery) : (s.modGal n g).nextReq = s.nextReq := rfl
@[simp] theorem State.modGal_passed (n : Nat) (g : Gallery → Gallery) : (s.modGal n g).passed = s.passed := rfl
@[simp] theorem State.modGal_agent (n : Nat) (g : Gallery → Gallery) : (s.modGal n g).agent = s.agent := rfl
@[simp] theorem State.modGal_ports (n : Nat) (g : Gallery → Gallery) : (s.modGal n g).ports = s.ports := rfl
@[simp] theorem State.modGal_local_ (n : Nat) (g : Gallery → Gallery) : (s.modGal n g).local_ = s.local_ := rfl
@[simp] theorem State.modGal_sent (n : Nat) (g : Gallery → Gallery) : (s.modGal n g).sent = s.sent := rfl
@[simp] theorem State.modGal_groups (n : Nat) (g : Gallery → Gallery) : (s.modGal n g).groups = s.groups := rfl
@[simp] theorem State.modGal_plans (n : Nat) (g : Gallery → Gallery) : (s.modGal n g).plans = s.plans := rfl
@[simp] theorem State.modGal_runs (n : Nat) (g : Gallery → Gallery) : (s.modGal n g).runs = s.runs := rfl
@[simp] theorem State.modGal_nextRun (n : Nat) (g : Gallery → Gallery) : (s.modGal n g).nextRun = s.nextRun := rfl
@[simp] theorem State.modGal_clusters (n : Nat) (g : Gallery → Gallery) : (s.modGal n g).clusters = s.clusters := rfl
@[simp] theorem State.modGal_scrubs (n : Nat) (g : Gallery → Gallery) : (s.modGal n g).scrubs = s.scrubs := rfl
@[simp] theorem State.modGal_links (n : Nat) (g : Gallery → Gallery) : (s.modGal n g).links = s.links := rfl
@[simp] theorem State.modGal_hps (n : Nat) (g : Gallery → Gallery) : (s.modGal n g).hps = s.hps := rfl
@[simp] theorem State.modGal_recov (n : Nat) (g : Gallery → Gallery) : (s.modGal n g).recov = s.recov := rfl
@[simp] theorem State.modGal_sec (n : Nat) (g : Gallery → Gallery) : (s.modGal n g).sec = s.sec := rfl
@[simp] theorem State.modGal_power (n : Nat) (g : Gallery → Gallery) : (s.modGal n g).power = s.power := rfl
@[simp] theorem State.modGal_dbg (n : Nat) (g : Gallery → Gallery) : (s.modGal n g).dbg = s.dbg := rfl
@[simp] theorem State.modGal_counters (n : Nat) (g : Gallery → Gallery) : (s.modGal n g).counters = s.counters := rfl
@[simp] theorem State.modGal_irqs (n : Nat) (g : Gallery → Gallery) : (s.modGal n g).irqs = s.irqs := rfl
@[simp] theorem State.modGal_msixPend (n : Nat) (g : Gallery → Gallery) : (s.modGal n g).msixPend = s.msixPend := rfl
@[simp] theorem State.modGal_mboxPend (n : Nat) (g : Gallery → Gallery) : (s.modGal n g).mboxPend = s.mboxPend := rfl
@[simp] theorem State.modGal_pending (n : Nat) (g : Gallery → Gallery) : (s.modGal n g).pending = s.pending := rfl
@[simp] theorem State.modGal_free (n : Nat) (g : Gallery → Gallery) : (s.modGal n g).free = s.free := rfl

/-! ### modCluster -/

@[simp] theorem State.modCluster_tclk (c : Nat) (g : Cluster → Cluster) : (s.modCluster c g).tclk = s.tclk := rfl
@[simp] theorem State.modCluster_activity (c : Nat) (g : Cluster → Cluster) : (s.modCluster c g).activity = s.activity := rfl
@[simp] theorem State.modCluster_lands (c : Nat) (g : Cluster → Cluster) : (s.modCluster c g).lands = s.lands := rfl
@[simp] theorem State.modCluster_fuses (c : Nat) (g : Cluster → Cluster) : (s.modCluster c g).fuses = s.fuses := rfl
@[simp] theorem State.modCluster_nor (c : Nat) (g : Cluster → Cluster) : (s.modCluster c g).nor = s.nor := rfl
@[simp] theorem State.modCluster_boot (c : Nat) (g : Cluster → Cluster) : (s.modCluster c g).boot = s.boot := rfl
@[simp] theorem State.modCluster_procs (c : Nat) (g : Cluster → Cluster) : (s.modCluster c g).procs = s.procs := rfl
@[simp] theorem State.modCluster_regs (c : Nat) (g : Cluster → Cluster) : (s.modCluster c g).regs = s.regs := rfl
@[simp] theorem State.modCluster_fns (c : Nat) (g : Cluster → Cluster) : (s.modCluster c g).fns = s.fns := rfl
@[simp] theorem State.modCluster_ctxs (c : Nat) (g : Cluster → Cluster) : (s.modCluster c g).ctxs = s.ctxs := rfl
@[simp] theorem State.modCluster_gens (c : Nat) (g : Cluster → Cluster) : (s.modCluster c g).gens = s.gens := rfl
@[simp] theorem State.modCluster_sqs (c : Nat) (g : Cluster → Cluster) : (s.modCluster c g).sqs = s.sqs := rfl
@[simp] theorem State.modCluster_cqs (c : Nat) (g : Cluster → Cluster) : (s.modCluster c g).cqs = s.cqs := rfl
@[simp] theorem State.modCluster_eqs (c : Nat) (g : Cluster → Cluster) : (s.modCluster c g).eqs = s.eqs := rfl
@[simp] theorem State.modCluster_ops (c : Nat) (g : Cluster → Cluster) : (s.modCluster c g).ops = s.ops := rfl
@[simp] theorem State.modCluster_nextOp (c : Nat) (g : Cluster → Cluster) : (s.modCluster c g).nextOp = s.nextOp := rfl
@[simp] theorem State.modCluster_spent (c : Nat) (g : Cluster → Cluster) : (s.modCluster c g).spent = s.spent := rfl
@[simp] theorem State.modCluster_armed (c : Nat) (g : Cluster → Cluster) : (s.modCluster c g).armed = s.armed := rfl
@[simp] theorem State.modCluster_flags (c : Nat) (g : Cluster → Cluster) : (s.modCluster c g).flags = s.flags := rfl
@[simp] theorem State.modCluster_peers (c : Nat) (g : Cluster → Cluster) : (s.modCluster c g).peers = s.peers := rfl
@[simp] theorem State.modCluster_channels (c : Nat) (g : Cluster → Cluster) : (s.modCluster c g).channels = s.channels := rfl
@[simp] theorem State.modCluster_mes (c : Nat) (g : Cluster → Cluster) : (s.modCluster c g).mes = s.mes := rfl
@[simp] theorem State.modCluster_tiers (c : Nat) (g : Cluster → Cluster) : (s.modCluster c g).tiers = s.tiers := rfl
@[simp] theorem State.modCluster_host (c : Nat) (g : Cluster → Cluster) : (s.modCluster c g).host = s.host := rfl
@[simp] theorem State.modCluster_qps (c : Nat) (g : Cluster → Cluster) : (s.modCluster c g).qps = s.qps := rfl
@[simp] theorem State.modCluster_nextHome (c : Nat) (g : Cluster → Cluster) : (s.modCluster c g).nextHome = s.nextHome := rfl
@[simp] theorem State.modCluster_cache (c : Nat) (g : Cluster → Cluster) : (s.modCluster c g).cache = s.cache := rfl
@[simp] theorem State.modCluster_sidings (c : Nat) (g : Cluster → Cluster) : (s.modCluster c g).sidings = s.sidings := rfl
@[simp] theorem State.modCluster_arrived (c : Nat) (g : Cluster → Cluster) : (s.modCluster c g).arrived = s.arrived := rfl
@[simp] theorem State.modCluster_slots (c : Nat) (g : Cluster → Cluster) : (s.modCluster c g).slots = s.slots := rfl
@[simp] theorem State.modCluster_epoch (c : Nat) (g : Cluster → Cluster) : (s.modCluster c g).epoch = s.epoch := rfl
@[simp] theorem State.modCluster_answered (c : Nat) (g : Cluster → Cluster) : (s.modCluster c g).answered = s.answered := rfl
@[simp] theorem State.modCluster_requests (c : Nat) (g : Cluster → Cluster) : (s.modCluster c g).requests = s.requests := rfl
@[simp] theorem State.modCluster_nextReq (c : Nat) (g : Cluster → Cluster) : (s.modCluster c g).nextReq = s.nextReq := rfl
@[simp] theorem State.modCluster_passed (c : Nat) (g : Cluster → Cluster) : (s.modCluster c g).passed = s.passed := rfl
@[simp] theorem State.modCluster_agent (c : Nat) (g : Cluster → Cluster) : (s.modCluster c g).agent = s.agent := rfl
@[simp] theorem State.modCluster_ports (c : Nat) (g : Cluster → Cluster) : (s.modCluster c g).ports = s.ports := rfl
@[simp] theorem State.modCluster_local_ (c : Nat) (g : Cluster → Cluster) : (s.modCluster c g).local_ = s.local_ := rfl
@[simp] theorem State.modCluster_sent (c : Nat) (g : Cluster → Cluster) : (s.modCluster c g).sent = s.sent := rfl
@[simp] theorem State.modCluster_groups (c : Nat) (g : Cluster → Cluster) : (s.modCluster c g).groups = s.groups := rfl
@[simp] theorem State.modCluster_plans (c : Nat) (g : Cluster → Cluster) : (s.modCluster c g).plans = s.plans := rfl
@[simp] theorem State.modCluster_runs (c : Nat) (g : Cluster → Cluster) : (s.modCluster c g).runs = s.runs := rfl
@[simp] theorem State.modCluster_nextRun (c : Nat) (g : Cluster → Cluster) : (s.modCluster c g).nextRun = s.nextRun := rfl
@[simp] theorem State.modCluster_gals (c : Nat) (g : Cluster → Cluster) : (s.modCluster c g).gals = s.gals := rfl
@[simp] theorem State.modCluster_scrubs (c : Nat) (g : Cluster → Cluster) : (s.modCluster c g).scrubs = s.scrubs := rfl
@[simp] theorem State.modCluster_links (c : Nat) (g : Cluster → Cluster) : (s.modCluster c g).links = s.links := rfl
@[simp] theorem State.modCluster_hps (c : Nat) (g : Cluster → Cluster) : (s.modCluster c g).hps = s.hps := rfl
@[simp] theorem State.modCluster_recov (c : Nat) (g : Cluster → Cluster) : (s.modCluster c g).recov = s.recov := rfl
@[simp] theorem State.modCluster_sec (c : Nat) (g : Cluster → Cluster) : (s.modCluster c g).sec = s.sec := rfl
@[simp] theorem State.modCluster_power (c : Nat) (g : Cluster → Cluster) : (s.modCluster c g).power = s.power := rfl
@[simp] theorem State.modCluster_dbg (c : Nat) (g : Cluster → Cluster) : (s.modCluster c g).dbg = s.dbg := rfl
@[simp] theorem State.modCluster_counters (c : Nat) (g : Cluster → Cluster) : (s.modCluster c g).counters = s.counters := rfl
@[simp] theorem State.modCluster_irqs (c : Nat) (g : Cluster → Cluster) : (s.modCluster c g).irqs = s.irqs := rfl
@[simp] theorem State.modCluster_msixPend (c : Nat) (g : Cluster → Cluster) : (s.modCluster c g).msixPend = s.msixPend := rfl
@[simp] theorem State.modCluster_mboxPend (c : Nat) (g : Cluster → Cluster) : (s.modCluster c g).mboxPend = s.mboxPend := rfl
@[simp] theorem State.modCluster_pending (c : Nat) (g : Cluster → Cluster) : (s.modCluster c g).pending = s.pending := rfl
@[simp] theorem State.modCluster_free (c : Nat) (g : Cluster → Cluster) : (s.modCluster c g).free = s.free := rfl

/-! ### modHp -/

@[simp] theorem State.modHp_tclk (n : Nat) (g : HostPort → HostPort) : (s.modHp n g).tclk = s.tclk := rfl
@[simp] theorem State.modHp_activity (n : Nat) (g : HostPort → HostPort) : (s.modHp n g).activity = s.activity := rfl
@[simp] theorem State.modHp_lands (n : Nat) (g : HostPort → HostPort) : (s.modHp n g).lands = s.lands := rfl
@[simp] theorem State.modHp_fuses (n : Nat) (g : HostPort → HostPort) : (s.modHp n g).fuses = s.fuses := rfl
@[simp] theorem State.modHp_nor (n : Nat) (g : HostPort → HostPort) : (s.modHp n g).nor = s.nor := rfl
@[simp] theorem State.modHp_boot (n : Nat) (g : HostPort → HostPort) : (s.modHp n g).boot = s.boot := rfl
@[simp] theorem State.modHp_procs (n : Nat) (g : HostPort → HostPort) : (s.modHp n g).procs = s.procs := rfl
@[simp] theorem State.modHp_regs (n : Nat) (g : HostPort → HostPort) : (s.modHp n g).regs = s.regs := rfl
@[simp] theorem State.modHp_fns (n : Nat) (g : HostPort → HostPort) : (s.modHp n g).fns = s.fns := rfl
@[simp] theorem State.modHp_ctxs (n : Nat) (g : HostPort → HostPort) : (s.modHp n g).ctxs = s.ctxs := rfl
@[simp] theorem State.modHp_gens (n : Nat) (g : HostPort → HostPort) : (s.modHp n g).gens = s.gens := rfl
@[simp] theorem State.modHp_sqs (n : Nat) (g : HostPort → HostPort) : (s.modHp n g).sqs = s.sqs := rfl
@[simp] theorem State.modHp_cqs (n : Nat) (g : HostPort → HostPort) : (s.modHp n g).cqs = s.cqs := rfl
@[simp] theorem State.modHp_eqs (n : Nat) (g : HostPort → HostPort) : (s.modHp n g).eqs = s.eqs := rfl
@[simp] theorem State.modHp_ops (n : Nat) (g : HostPort → HostPort) : (s.modHp n g).ops = s.ops := rfl
@[simp] theorem State.modHp_nextOp (n : Nat) (g : HostPort → HostPort) : (s.modHp n g).nextOp = s.nextOp := rfl
@[simp] theorem State.modHp_spent (n : Nat) (g : HostPort → HostPort) : (s.modHp n g).spent = s.spent := rfl
@[simp] theorem State.modHp_armed (n : Nat) (g : HostPort → HostPort) : (s.modHp n g).armed = s.armed := rfl
@[simp] theorem State.modHp_flags (n : Nat) (g : HostPort → HostPort) : (s.modHp n g).flags = s.flags := rfl
@[simp] theorem State.modHp_peers (n : Nat) (g : HostPort → HostPort) : (s.modHp n g).peers = s.peers := rfl
@[simp] theorem State.modHp_channels (n : Nat) (g : HostPort → HostPort) : (s.modHp n g).channels = s.channels := rfl
@[simp] theorem State.modHp_mes (n : Nat) (g : HostPort → HostPort) : (s.modHp n g).mes = s.mes := rfl
@[simp] theorem State.modHp_tiers (n : Nat) (g : HostPort → HostPort) : (s.modHp n g).tiers = s.tiers := rfl
@[simp] theorem State.modHp_host (n : Nat) (g : HostPort → HostPort) : (s.modHp n g).host = s.host := rfl
@[simp] theorem State.modHp_qps (n : Nat) (g : HostPort → HostPort) : (s.modHp n g).qps = s.qps := rfl
@[simp] theorem State.modHp_nextHome (n : Nat) (g : HostPort → HostPort) : (s.modHp n g).nextHome = s.nextHome := rfl
@[simp] theorem State.modHp_cache (n : Nat) (g : HostPort → HostPort) : (s.modHp n g).cache = s.cache := rfl
@[simp] theorem State.modHp_sidings (n : Nat) (g : HostPort → HostPort) : (s.modHp n g).sidings = s.sidings := rfl
@[simp] theorem State.modHp_arrived (n : Nat) (g : HostPort → HostPort) : (s.modHp n g).arrived = s.arrived := rfl
@[simp] theorem State.modHp_slots (n : Nat) (g : HostPort → HostPort) : (s.modHp n g).slots = s.slots := rfl
@[simp] theorem State.modHp_epoch (n : Nat) (g : HostPort → HostPort) : (s.modHp n g).epoch = s.epoch := rfl
@[simp] theorem State.modHp_answered (n : Nat) (g : HostPort → HostPort) : (s.modHp n g).answered = s.answered := rfl
@[simp] theorem State.modHp_requests (n : Nat) (g : HostPort → HostPort) : (s.modHp n g).requests = s.requests := rfl
@[simp] theorem State.modHp_nextReq (n : Nat) (g : HostPort → HostPort) : (s.modHp n g).nextReq = s.nextReq := rfl
@[simp] theorem State.modHp_passed (n : Nat) (g : HostPort → HostPort) : (s.modHp n g).passed = s.passed := rfl
@[simp] theorem State.modHp_agent (n : Nat) (g : HostPort → HostPort) : (s.modHp n g).agent = s.agent := rfl
@[simp] theorem State.modHp_ports (n : Nat) (g : HostPort → HostPort) : (s.modHp n g).ports = s.ports := rfl
@[simp] theorem State.modHp_local_ (n : Nat) (g : HostPort → HostPort) : (s.modHp n g).local_ = s.local_ := rfl
@[simp] theorem State.modHp_sent (n : Nat) (g : HostPort → HostPort) : (s.modHp n g).sent = s.sent := rfl
@[simp] theorem State.modHp_groups (n : Nat) (g : HostPort → HostPort) : (s.modHp n g).groups = s.groups := rfl
@[simp] theorem State.modHp_plans (n : Nat) (g : HostPort → HostPort) : (s.modHp n g).plans = s.plans := rfl
@[simp] theorem State.modHp_runs (n : Nat) (g : HostPort → HostPort) : (s.modHp n g).runs = s.runs := rfl
@[simp] theorem State.modHp_nextRun (n : Nat) (g : HostPort → HostPort) : (s.modHp n g).nextRun = s.nextRun := rfl
@[simp] theorem State.modHp_clusters (n : Nat) (g : HostPort → HostPort) : (s.modHp n g).clusters = s.clusters := rfl
@[simp] theorem State.modHp_gals (n : Nat) (g : HostPort → HostPort) : (s.modHp n g).gals = s.gals := rfl
@[simp] theorem State.modHp_scrubs (n : Nat) (g : HostPort → HostPort) : (s.modHp n g).scrubs = s.scrubs := rfl
@[simp] theorem State.modHp_links (n : Nat) (g : HostPort → HostPort) : (s.modHp n g).links = s.links := rfl
@[simp] theorem State.modHp_recov (n : Nat) (g : HostPort → HostPort) : (s.modHp n g).recov = s.recov := rfl
@[simp] theorem State.modHp_sec (n : Nat) (g : HostPort → HostPort) : (s.modHp n g).sec = s.sec := rfl
@[simp] theorem State.modHp_power (n : Nat) (g : HostPort → HostPort) : (s.modHp n g).power = s.power := rfl
@[simp] theorem State.modHp_dbg (n : Nat) (g : HostPort → HostPort) : (s.modHp n g).dbg = s.dbg := rfl
@[simp] theorem State.modHp_counters (n : Nat) (g : HostPort → HostPort) : (s.modHp n g).counters = s.counters := rfl
@[simp] theorem State.modHp_irqs (n : Nat) (g : HostPort → HostPort) : (s.modHp n g).irqs = s.irqs := rfl
@[simp] theorem State.modHp_msixPend (n : Nat) (g : HostPort → HostPort) : (s.modHp n g).msixPend = s.msixPend := rfl
@[simp] theorem State.modHp_mboxPend (n : Nat) (g : HostPort → HostPort) : (s.modHp n g).mboxPend = s.mboxPend := rfl
@[simp] theorem State.modHp_pending (n : Nat) (g : HostPort → HostPort) : (s.modHp n g).pending = s.pending := rfl
@[simp] theorem State.modHp_free (n : Nat) (g : HostPort → HostPort) : (s.modHp n g).free = s.free := rfl

/-! ### modSq -/

@[simp] theorem State.modSq_tclk (f q : Nat) (g : Sq → Sq) : (s.modSq f q g).tclk = s.tclk := rfl
@[simp] theorem State.modSq_activity (f q : Nat) (g : Sq → Sq) : (s.modSq f q g).activity = s.activity := rfl
@[simp] theorem State.modSq_lands (f q : Nat) (g : Sq → Sq) : (s.modSq f q g).lands = s.lands := rfl
@[simp] theorem State.modSq_fuses (f q : Nat) (g : Sq → Sq) : (s.modSq f q g).fuses = s.fuses := rfl
@[simp] theorem State.modSq_nor (f q : Nat) (g : Sq → Sq) : (s.modSq f q g).nor = s.nor := rfl
@[simp] theorem State.modSq_boot (f q : Nat) (g : Sq → Sq) : (s.modSq f q g).boot = s.boot := rfl
@[simp] theorem State.modSq_procs (f q : Nat) (g : Sq → Sq) : (s.modSq f q g).procs = s.procs := rfl
@[simp] theorem State.modSq_regs (f q : Nat) (g : Sq → Sq) : (s.modSq f q g).regs = s.regs := rfl
@[simp] theorem State.modSq_fns (f q : Nat) (g : Sq → Sq) : (s.modSq f q g).fns = s.fns := rfl
@[simp] theorem State.modSq_ctxs (f q : Nat) (g : Sq → Sq) : (s.modSq f q g).ctxs = s.ctxs := rfl
@[simp] theorem State.modSq_gens (f q : Nat) (g : Sq → Sq) : (s.modSq f q g).gens = s.gens := rfl
@[simp] theorem State.modSq_cqs (f q : Nat) (g : Sq → Sq) : (s.modSq f q g).cqs = s.cqs := rfl
@[simp] theorem State.modSq_eqs (f q : Nat) (g : Sq → Sq) : (s.modSq f q g).eqs = s.eqs := rfl
@[simp] theorem State.modSq_ops (f q : Nat) (g : Sq → Sq) : (s.modSq f q g).ops = s.ops := rfl
@[simp] theorem State.modSq_nextOp (f q : Nat) (g : Sq → Sq) : (s.modSq f q g).nextOp = s.nextOp := rfl
@[simp] theorem State.modSq_spent (f q : Nat) (g : Sq → Sq) : (s.modSq f q g).spent = s.spent := rfl
@[simp] theorem State.modSq_armed (f q : Nat) (g : Sq → Sq) : (s.modSq f q g).armed = s.armed := rfl
@[simp] theorem State.modSq_flags (f q : Nat) (g : Sq → Sq) : (s.modSq f q g).flags = s.flags := rfl
@[simp] theorem State.modSq_peers (f q : Nat) (g : Sq → Sq) : (s.modSq f q g).peers = s.peers := rfl
@[simp] theorem State.modSq_channels (f q : Nat) (g : Sq → Sq) : (s.modSq f q g).channels = s.channels := rfl
@[simp] theorem State.modSq_mes (f q : Nat) (g : Sq → Sq) : (s.modSq f q g).mes = s.mes := rfl
@[simp] theorem State.modSq_tiers (f q : Nat) (g : Sq → Sq) : (s.modSq f q g).tiers = s.tiers := rfl
@[simp] theorem State.modSq_host (f q : Nat) (g : Sq → Sq) : (s.modSq f q g).host = s.host := rfl
@[simp] theorem State.modSq_qps (f q : Nat) (g : Sq → Sq) : (s.modSq f q g).qps = s.qps := rfl
@[simp] theorem State.modSq_nextHome (f q : Nat) (g : Sq → Sq) : (s.modSq f q g).nextHome = s.nextHome := rfl
@[simp] theorem State.modSq_cache (f q : Nat) (g : Sq → Sq) : (s.modSq f q g).cache = s.cache := rfl
@[simp] theorem State.modSq_sidings (f q : Nat) (g : Sq → Sq) : (s.modSq f q g).sidings = s.sidings := rfl
@[simp] theorem State.modSq_arrived (f q : Nat) (g : Sq → Sq) : (s.modSq f q g).arrived = s.arrived := rfl
@[simp] theorem State.modSq_slots (f q : Nat) (g : Sq → Sq) : (s.modSq f q g).slots = s.slots := rfl
@[simp] theorem State.modSq_epoch (f q : Nat) (g : Sq → Sq) : (s.modSq f q g).epoch = s.epoch := rfl
@[simp] theorem State.modSq_answered (f q : Nat) (g : Sq → Sq) : (s.modSq f q g).answered = s.answered := rfl
@[simp] theorem State.modSq_requests (f q : Nat) (g : Sq → Sq) : (s.modSq f q g).requests = s.requests := rfl
@[simp] theorem State.modSq_nextReq (f q : Nat) (g : Sq → Sq) : (s.modSq f q g).nextReq = s.nextReq := rfl
@[simp] theorem State.modSq_passed (f q : Nat) (g : Sq → Sq) : (s.modSq f q g).passed = s.passed := rfl
@[simp] theorem State.modSq_agent (f q : Nat) (g : Sq → Sq) : (s.modSq f q g).agent = s.agent := rfl
@[simp] theorem State.modSq_ports (f q : Nat) (g : Sq → Sq) : (s.modSq f q g).ports = s.ports := rfl
@[simp] theorem State.modSq_local_ (f q : Nat) (g : Sq → Sq) : (s.modSq f q g).local_ = s.local_ := rfl
@[simp] theorem State.modSq_sent (f q : Nat) (g : Sq → Sq) : (s.modSq f q g).sent = s.sent := rfl
@[simp] theorem State.modSq_groups (f q : Nat) (g : Sq → Sq) : (s.modSq f q g).groups = s.groups := rfl
@[simp] theorem State.modSq_plans (f q : Nat) (g : Sq → Sq) : (s.modSq f q g).plans = s.plans := rfl
@[simp] theorem State.modSq_runs (f q : Nat) (g : Sq → Sq) : (s.modSq f q g).runs = s.runs := rfl
@[simp] theorem State.modSq_nextRun (f q : Nat) (g : Sq → Sq) : (s.modSq f q g).nextRun = s.nextRun := rfl
@[simp] theorem State.modSq_clusters (f q : Nat) (g : Sq → Sq) : (s.modSq f q g).clusters = s.clusters := rfl
@[simp] theorem State.modSq_gals (f q : Nat) (g : Sq → Sq) : (s.modSq f q g).gals = s.gals := rfl
@[simp] theorem State.modSq_scrubs (f q : Nat) (g : Sq → Sq) : (s.modSq f q g).scrubs = s.scrubs := rfl
@[simp] theorem State.modSq_links (f q : Nat) (g : Sq → Sq) : (s.modSq f q g).links = s.links := rfl
@[simp] theorem State.modSq_hps (f q : Nat) (g : Sq → Sq) : (s.modSq f q g).hps = s.hps := rfl
@[simp] theorem State.modSq_recov (f q : Nat) (g : Sq → Sq) : (s.modSq f q g).recov = s.recov := rfl
@[simp] theorem State.modSq_sec (f q : Nat) (g : Sq → Sq) : (s.modSq f q g).sec = s.sec := rfl
@[simp] theorem State.modSq_power (f q : Nat) (g : Sq → Sq) : (s.modSq f q g).power = s.power := rfl
@[simp] theorem State.modSq_dbg (f q : Nat) (g : Sq → Sq) : (s.modSq f q g).dbg = s.dbg := rfl
@[simp] theorem State.modSq_counters (f q : Nat) (g : Sq → Sq) : (s.modSq f q g).counters = s.counters := rfl
@[simp] theorem State.modSq_irqs (f q : Nat) (g : Sq → Sq) : (s.modSq f q g).irqs = s.irqs := rfl
@[simp] theorem State.modSq_msixPend (f q : Nat) (g : Sq → Sq) : (s.modSq f q g).msixPend = s.msixPend := rfl
@[simp] theorem State.modSq_mboxPend (f q : Nat) (g : Sq → Sq) : (s.modSq f q g).mboxPend = s.mboxPend := rfl
@[simp] theorem State.modSq_pending (f q : Nat) (g : Sq → Sq) : (s.modSq f q g).pending = s.pending := rfl
@[simp] theorem State.modSq_free (f q : Nat) (g : Sq → Sq) : (s.modSq f q g).free = s.free := rfl

/-! ### modCq -/

@[simp] theorem State.modCq_tclk (f q : Nat) (g : Cq → Cq) : (s.modCq f q g).tclk = s.tclk := rfl
@[simp] theorem State.modCq_activity (f q : Nat) (g : Cq → Cq) : (s.modCq f q g).activity = s.activity := rfl
@[simp] theorem State.modCq_lands (f q : Nat) (g : Cq → Cq) : (s.modCq f q g).lands = s.lands := rfl
@[simp] theorem State.modCq_fuses (f q : Nat) (g : Cq → Cq) : (s.modCq f q g).fuses = s.fuses := rfl
@[simp] theorem State.modCq_nor (f q : Nat) (g : Cq → Cq) : (s.modCq f q g).nor = s.nor := rfl
@[simp] theorem State.modCq_boot (f q : Nat) (g : Cq → Cq) : (s.modCq f q g).boot = s.boot := rfl
@[simp] theorem State.modCq_procs (f q : Nat) (g : Cq → Cq) : (s.modCq f q g).procs = s.procs := rfl
@[simp] theorem State.modCq_regs (f q : Nat) (g : Cq → Cq) : (s.modCq f q g).regs = s.regs := rfl
@[simp] theorem State.modCq_fns (f q : Nat) (g : Cq → Cq) : (s.modCq f q g).fns = s.fns := rfl
@[simp] theorem State.modCq_ctxs (f q : Nat) (g : Cq → Cq) : (s.modCq f q g).ctxs = s.ctxs := rfl
@[simp] theorem State.modCq_gens (f q : Nat) (g : Cq → Cq) : (s.modCq f q g).gens = s.gens := rfl
@[simp] theorem State.modCq_sqs (f q : Nat) (g : Cq → Cq) : (s.modCq f q g).sqs = s.sqs := rfl
@[simp] theorem State.modCq_eqs (f q : Nat) (g : Cq → Cq) : (s.modCq f q g).eqs = s.eqs := rfl
@[simp] theorem State.modCq_ops (f q : Nat) (g : Cq → Cq) : (s.modCq f q g).ops = s.ops := rfl
@[simp] theorem State.modCq_nextOp (f q : Nat) (g : Cq → Cq) : (s.modCq f q g).nextOp = s.nextOp := rfl
@[simp] theorem State.modCq_spent (f q : Nat) (g : Cq → Cq) : (s.modCq f q g).spent = s.spent := rfl
@[simp] theorem State.modCq_armed (f q : Nat) (g : Cq → Cq) : (s.modCq f q g).armed = s.armed := rfl
@[simp] theorem State.modCq_flags (f q : Nat) (g : Cq → Cq) : (s.modCq f q g).flags = s.flags := rfl
@[simp] theorem State.modCq_peers (f q : Nat) (g : Cq → Cq) : (s.modCq f q g).peers = s.peers := rfl
@[simp] theorem State.modCq_channels (f q : Nat) (g : Cq → Cq) : (s.modCq f q g).channels = s.channels := rfl
@[simp] theorem State.modCq_mes (f q : Nat) (g : Cq → Cq) : (s.modCq f q g).mes = s.mes := rfl
@[simp] theorem State.modCq_tiers (f q : Nat) (g : Cq → Cq) : (s.modCq f q g).tiers = s.tiers := rfl
@[simp] theorem State.modCq_host (f q : Nat) (g : Cq → Cq) : (s.modCq f q g).host = s.host := rfl
@[simp] theorem State.modCq_qps (f q : Nat) (g : Cq → Cq) : (s.modCq f q g).qps = s.qps := rfl
@[simp] theorem State.modCq_nextHome (f q : Nat) (g : Cq → Cq) : (s.modCq f q g).nextHome = s.nextHome := rfl
@[simp] theorem State.modCq_cache (f q : Nat) (g : Cq → Cq) : (s.modCq f q g).cache = s.cache := rfl
@[simp] theorem State.modCq_sidings (f q : Nat) (g : Cq → Cq) : (s.modCq f q g).sidings = s.sidings := rfl
@[simp] theorem State.modCq_arrived (f q : Nat) (g : Cq → Cq) : (s.modCq f q g).arrived = s.arrived := rfl
@[simp] theorem State.modCq_slots (f q : Nat) (g : Cq → Cq) : (s.modCq f q g).slots = s.slots := rfl
@[simp] theorem State.modCq_epoch (f q : Nat) (g : Cq → Cq) : (s.modCq f q g).epoch = s.epoch := rfl
@[simp] theorem State.modCq_answered (f q : Nat) (g : Cq → Cq) : (s.modCq f q g).answered = s.answered := rfl
@[simp] theorem State.modCq_requests (f q : Nat) (g : Cq → Cq) : (s.modCq f q g).requests = s.requests := rfl
@[simp] theorem State.modCq_nextReq (f q : Nat) (g : Cq → Cq) : (s.modCq f q g).nextReq = s.nextReq := rfl
@[simp] theorem State.modCq_passed (f q : Nat) (g : Cq → Cq) : (s.modCq f q g).passed = s.passed := rfl
@[simp] theorem State.modCq_agent (f q : Nat) (g : Cq → Cq) : (s.modCq f q g).agent = s.agent := rfl
@[simp] theorem State.modCq_ports (f q : Nat) (g : Cq → Cq) : (s.modCq f q g).ports = s.ports := rfl
@[simp] theorem State.modCq_local_ (f q : Nat) (g : Cq → Cq) : (s.modCq f q g).local_ = s.local_ := rfl
@[simp] theorem State.modCq_sent (f q : Nat) (g : Cq → Cq) : (s.modCq f q g).sent = s.sent := rfl
@[simp] theorem State.modCq_groups (f q : Nat) (g : Cq → Cq) : (s.modCq f q g).groups = s.groups := rfl
@[simp] theorem State.modCq_plans (f q : Nat) (g : Cq → Cq) : (s.modCq f q g).plans = s.plans := rfl
@[simp] theorem State.modCq_runs (f q : Nat) (g : Cq → Cq) : (s.modCq f q g).runs = s.runs := rfl
@[simp] theorem State.modCq_nextRun (f q : Nat) (g : Cq → Cq) : (s.modCq f q g).nextRun = s.nextRun := rfl
@[simp] theorem State.modCq_clusters (f q : Nat) (g : Cq → Cq) : (s.modCq f q g).clusters = s.clusters := rfl
@[simp] theorem State.modCq_gals (f q : Nat) (g : Cq → Cq) : (s.modCq f q g).gals = s.gals := rfl
@[simp] theorem State.modCq_scrubs (f q : Nat) (g : Cq → Cq) : (s.modCq f q g).scrubs = s.scrubs := rfl
@[simp] theorem State.modCq_links (f q : Nat) (g : Cq → Cq) : (s.modCq f q g).links = s.links := rfl
@[simp] theorem State.modCq_hps (f q : Nat) (g : Cq → Cq) : (s.modCq f q g).hps = s.hps := rfl
@[simp] theorem State.modCq_recov (f q : Nat) (g : Cq → Cq) : (s.modCq f q g).recov = s.recov := rfl
@[simp] theorem State.modCq_sec (f q : Nat) (g : Cq → Cq) : (s.modCq f q g).sec = s.sec := rfl
@[simp] theorem State.modCq_power (f q : Nat) (g : Cq → Cq) : (s.modCq f q g).power = s.power := rfl
@[simp] theorem State.modCq_dbg (f q : Nat) (g : Cq → Cq) : (s.modCq f q g).dbg = s.dbg := rfl
@[simp] theorem State.modCq_counters (f q : Nat) (g : Cq → Cq) : (s.modCq f q g).counters = s.counters := rfl
@[simp] theorem State.modCq_irqs (f q : Nat) (g : Cq → Cq) : (s.modCq f q g).irqs = s.irqs := rfl
@[simp] theorem State.modCq_msixPend (f q : Nat) (g : Cq → Cq) : (s.modCq f q g).msixPend = s.msixPend := rfl
@[simp] theorem State.modCq_mboxPend (f q : Nat) (g : Cq → Cq) : (s.modCq f q g).mboxPend = s.mboxPend := rfl
@[simp] theorem State.modCq_pending (f q : Nat) (g : Cq → Cq) : (s.modCq f q g).pending = s.pending := rfl
@[simp] theorem State.modCq_free (f q : Nat) (g : Cq → Cq) : (s.modCq f q g).free = s.free := rfl

/-! ### modEq -/

@[simp] theorem State.modEq_tclk (f : Nat) (g : Cq → Cq) : (s.modEq f g).tclk = s.tclk := rfl
@[simp] theorem State.modEq_activity (f : Nat) (g : Cq → Cq) : (s.modEq f g).activity = s.activity := rfl
@[simp] theorem State.modEq_lands (f : Nat) (g : Cq → Cq) : (s.modEq f g).lands = s.lands := rfl
@[simp] theorem State.modEq_fuses (f : Nat) (g : Cq → Cq) : (s.modEq f g).fuses = s.fuses := rfl
@[simp] theorem State.modEq_nor (f : Nat) (g : Cq → Cq) : (s.modEq f g).nor = s.nor := rfl
@[simp] theorem State.modEq_boot (f : Nat) (g : Cq → Cq) : (s.modEq f g).boot = s.boot := rfl
@[simp] theorem State.modEq_procs (f : Nat) (g : Cq → Cq) : (s.modEq f g).procs = s.procs := rfl
@[simp] theorem State.modEq_regs (f : Nat) (g : Cq → Cq) : (s.modEq f g).regs = s.regs := rfl
@[simp] theorem State.modEq_fns (f : Nat) (g : Cq → Cq) : (s.modEq f g).fns = s.fns := rfl
@[simp] theorem State.modEq_ctxs (f : Nat) (g : Cq → Cq) : (s.modEq f g).ctxs = s.ctxs := rfl
@[simp] theorem State.modEq_gens (f : Nat) (g : Cq → Cq) : (s.modEq f g).gens = s.gens := rfl
@[simp] theorem State.modEq_sqs (f : Nat) (g : Cq → Cq) : (s.modEq f g).sqs = s.sqs := rfl
@[simp] theorem State.modEq_cqs (f : Nat) (g : Cq → Cq) : (s.modEq f g).cqs = s.cqs := rfl
@[simp] theorem State.modEq_ops (f : Nat) (g : Cq → Cq) : (s.modEq f g).ops = s.ops := rfl
@[simp] theorem State.modEq_nextOp (f : Nat) (g : Cq → Cq) : (s.modEq f g).nextOp = s.nextOp := rfl
@[simp] theorem State.modEq_spent (f : Nat) (g : Cq → Cq) : (s.modEq f g).spent = s.spent := rfl
@[simp] theorem State.modEq_armed (f : Nat) (g : Cq → Cq) : (s.modEq f g).armed = s.armed := rfl
@[simp] theorem State.modEq_flags (f : Nat) (g : Cq → Cq) : (s.modEq f g).flags = s.flags := rfl
@[simp] theorem State.modEq_peers (f : Nat) (g : Cq → Cq) : (s.modEq f g).peers = s.peers := rfl
@[simp] theorem State.modEq_channels (f : Nat) (g : Cq → Cq) : (s.modEq f g).channels = s.channels := rfl
@[simp] theorem State.modEq_mes (f : Nat) (g : Cq → Cq) : (s.modEq f g).mes = s.mes := rfl
@[simp] theorem State.modEq_tiers (f : Nat) (g : Cq → Cq) : (s.modEq f g).tiers = s.tiers := rfl
@[simp] theorem State.modEq_host (f : Nat) (g : Cq → Cq) : (s.modEq f g).host = s.host := rfl
@[simp] theorem State.modEq_qps (f : Nat) (g : Cq → Cq) : (s.modEq f g).qps = s.qps := rfl
@[simp] theorem State.modEq_nextHome (f : Nat) (g : Cq → Cq) : (s.modEq f g).nextHome = s.nextHome := rfl
@[simp] theorem State.modEq_cache (f : Nat) (g : Cq → Cq) : (s.modEq f g).cache = s.cache := rfl
@[simp] theorem State.modEq_sidings (f : Nat) (g : Cq → Cq) : (s.modEq f g).sidings = s.sidings := rfl
@[simp] theorem State.modEq_arrived (f : Nat) (g : Cq → Cq) : (s.modEq f g).arrived = s.arrived := rfl
@[simp] theorem State.modEq_slots (f : Nat) (g : Cq → Cq) : (s.modEq f g).slots = s.slots := rfl
@[simp] theorem State.modEq_epoch (f : Nat) (g : Cq → Cq) : (s.modEq f g).epoch = s.epoch := rfl
@[simp] theorem State.modEq_answered (f : Nat) (g : Cq → Cq) : (s.modEq f g).answered = s.answered := rfl
@[simp] theorem State.modEq_requests (f : Nat) (g : Cq → Cq) : (s.modEq f g).requests = s.requests := rfl
@[simp] theorem State.modEq_nextReq (f : Nat) (g : Cq → Cq) : (s.modEq f g).nextReq = s.nextReq := rfl
@[simp] theorem State.modEq_passed (f : Nat) (g : Cq → Cq) : (s.modEq f g).passed = s.passed := rfl
@[simp] theorem State.modEq_agent (f : Nat) (g : Cq → Cq) : (s.modEq f g).agent = s.agent := rfl
@[simp] theorem State.modEq_ports (f : Nat) (g : Cq → Cq) : (s.modEq f g).ports = s.ports := rfl
@[simp] theorem State.modEq_local_ (f : Nat) (g : Cq → Cq) : (s.modEq f g).local_ = s.local_ := rfl
@[simp] theorem State.modEq_sent (f : Nat) (g : Cq → Cq) : (s.modEq f g).sent = s.sent := rfl
@[simp] theorem State.modEq_groups (f : Nat) (g : Cq → Cq) : (s.modEq f g).groups = s.groups := rfl
@[simp] theorem State.modEq_plans (f : Nat) (g : Cq → Cq) : (s.modEq f g).plans = s.plans := rfl
@[simp] theorem State.modEq_runs (f : Nat) (g : Cq → Cq) : (s.modEq f g).runs = s.runs := rfl
@[simp] theorem State.modEq_nextRun (f : Nat) (g : Cq → Cq) : (s.modEq f g).nextRun = s.nextRun := rfl
@[simp] theorem State.modEq_clusters (f : Nat) (g : Cq → Cq) : (s.modEq f g).clusters = s.clusters := rfl
@[simp] theorem State.modEq_gals (f : Nat) (g : Cq → Cq) : (s.modEq f g).gals = s.gals := rfl
@[simp] theorem State.modEq_scrubs (f : Nat) (g : Cq → Cq) : (s.modEq f g).scrubs = s.scrubs := rfl
@[simp] theorem State.modEq_links (f : Nat) (g : Cq → Cq) : (s.modEq f g).links = s.links := rfl
@[simp] theorem State.modEq_hps (f : Nat) (g : Cq → Cq) : (s.modEq f g).hps = s.hps := rfl
@[simp] theorem State.modEq_recov (f : Nat) (g : Cq → Cq) : (s.modEq f g).recov = s.recov := rfl
@[simp] theorem State.modEq_sec (f : Nat) (g : Cq → Cq) : (s.modEq f g).sec = s.sec := rfl
@[simp] theorem State.modEq_power (f : Nat) (g : Cq → Cq) : (s.modEq f g).power = s.power := rfl
@[simp] theorem State.modEq_dbg (f : Nat) (g : Cq → Cq) : (s.modEq f g).dbg = s.dbg := rfl
@[simp] theorem State.modEq_counters (f : Nat) (g : Cq → Cq) : (s.modEq f g).counters = s.counters := rfl
@[simp] theorem State.modEq_irqs (f : Nat) (g : Cq → Cq) : (s.modEq f g).irqs = s.irqs := rfl
@[simp] theorem State.modEq_msixPend (f : Nat) (g : Cq → Cq) : (s.modEq f g).msixPend = s.msixPend := rfl
@[simp] theorem State.modEq_mboxPend (f : Nat) (g : Cq → Cq) : (s.modEq f g).mboxPend = s.mboxPend := rfl
@[simp] theorem State.modEq_pending (f : Nat) (g : Cq → Cq) : (s.modEq f g).pending = s.pending := rfl
@[simp] theorem State.modEq_free (f : Nat) (g : Cq → Cq) : (s.modEq f g).free = s.free := rfl

/-! ### modCtx -/

@[simp] theorem State.modCtx_tclk (c : Nat) (g : Context → Context) : (s.modCtx c g).tclk = s.tclk := rfl
@[simp] theorem State.modCtx_activity (c : Nat) (g : Context → Context) : (s.modCtx c g).activity = s.activity := rfl
@[simp] theorem State.modCtx_lands (c : Nat) (g : Context → Context) : (s.modCtx c g).lands = s.lands := rfl
@[simp] theorem State.modCtx_fuses (c : Nat) (g : Context → Context) : (s.modCtx c g).fuses = s.fuses := rfl
@[simp] theorem State.modCtx_nor (c : Nat) (g : Context → Context) : (s.modCtx c g).nor = s.nor := rfl
@[simp] theorem State.modCtx_boot (c : Nat) (g : Context → Context) : (s.modCtx c g).boot = s.boot := rfl
@[simp] theorem State.modCtx_procs (c : Nat) (g : Context → Context) : (s.modCtx c g).procs = s.procs := rfl
@[simp] theorem State.modCtx_regs (c : Nat) (g : Context → Context) : (s.modCtx c g).regs = s.regs := rfl
@[simp] theorem State.modCtx_fns (c : Nat) (g : Context → Context) : (s.modCtx c g).fns = s.fns := rfl
@[simp] theorem State.modCtx_gens (c : Nat) (g : Context → Context) : (s.modCtx c g).gens = s.gens := rfl
@[simp] theorem State.modCtx_sqs (c : Nat) (g : Context → Context) : (s.modCtx c g).sqs = s.sqs := rfl
@[simp] theorem State.modCtx_cqs (c : Nat) (g : Context → Context) : (s.modCtx c g).cqs = s.cqs := rfl
@[simp] theorem State.modCtx_eqs (c : Nat) (g : Context → Context) : (s.modCtx c g).eqs = s.eqs := rfl
@[simp] theorem State.modCtx_ops (c : Nat) (g : Context → Context) : (s.modCtx c g).ops = s.ops := rfl
@[simp] theorem State.modCtx_nextOp (c : Nat) (g : Context → Context) : (s.modCtx c g).nextOp = s.nextOp := rfl
@[simp] theorem State.modCtx_spent (c : Nat) (g : Context → Context) : (s.modCtx c g).spent = s.spent := rfl
@[simp] theorem State.modCtx_armed (c : Nat) (g : Context → Context) : (s.modCtx c g).armed = s.armed := rfl
@[simp] theorem State.modCtx_flags (c : Nat) (g : Context → Context) : (s.modCtx c g).flags = s.flags := rfl
@[simp] theorem State.modCtx_peers (c : Nat) (g : Context → Context) : (s.modCtx c g).peers = s.peers := rfl
@[simp] theorem State.modCtx_channels (c : Nat) (g : Context → Context) : (s.modCtx c g).channels = s.channels := rfl
@[simp] theorem State.modCtx_mes (c : Nat) (g : Context → Context) : (s.modCtx c g).mes = s.mes := rfl
@[simp] theorem State.modCtx_tiers (c : Nat) (g : Context → Context) : (s.modCtx c g).tiers = s.tiers := rfl
@[simp] theorem State.modCtx_host (c : Nat) (g : Context → Context) : (s.modCtx c g).host = s.host := rfl
@[simp] theorem State.modCtx_qps (c : Nat) (g : Context → Context) : (s.modCtx c g).qps = s.qps := rfl
@[simp] theorem State.modCtx_nextHome (c : Nat) (g : Context → Context) : (s.modCtx c g).nextHome = s.nextHome := rfl
@[simp] theorem State.modCtx_cache (c : Nat) (g : Context → Context) : (s.modCtx c g).cache = s.cache := rfl
@[simp] theorem State.modCtx_sidings (c : Nat) (g : Context → Context) : (s.modCtx c g).sidings = s.sidings := rfl
@[simp] theorem State.modCtx_arrived (c : Nat) (g : Context → Context) : (s.modCtx c g).arrived = s.arrived := rfl
@[simp] theorem State.modCtx_slots (c : Nat) (g : Context → Context) : (s.modCtx c g).slots = s.slots := rfl
@[simp] theorem State.modCtx_epoch (c : Nat) (g : Context → Context) : (s.modCtx c g).epoch = s.epoch := rfl
@[simp] theorem State.modCtx_answered (c : Nat) (g : Context → Context) : (s.modCtx c g).answered = s.answered := rfl
@[simp] theorem State.modCtx_requests (c : Nat) (g : Context → Context) : (s.modCtx c g).requests = s.requests := rfl
@[simp] theorem State.modCtx_nextReq (c : Nat) (g : Context → Context) : (s.modCtx c g).nextReq = s.nextReq := rfl
@[simp] theorem State.modCtx_passed (c : Nat) (g : Context → Context) : (s.modCtx c g).passed = s.passed := rfl
@[simp] theorem State.modCtx_agent (c : Nat) (g : Context → Context) : (s.modCtx c g).agent = s.agent := rfl
@[simp] theorem State.modCtx_ports (c : Nat) (g : Context → Context) : (s.modCtx c g).ports = s.ports := rfl
@[simp] theorem State.modCtx_local_ (c : Nat) (g : Context → Context) : (s.modCtx c g).local_ = s.local_ := rfl
@[simp] theorem State.modCtx_sent (c : Nat) (g : Context → Context) : (s.modCtx c g).sent = s.sent := rfl
@[simp] theorem State.modCtx_groups (c : Nat) (g : Context → Context) : (s.modCtx c g).groups = s.groups := rfl
@[simp] theorem State.modCtx_plans (c : Nat) (g : Context → Context) : (s.modCtx c g).plans = s.plans := rfl
@[simp] theorem State.modCtx_runs (c : Nat) (g : Context → Context) : (s.modCtx c g).runs = s.runs := rfl
@[simp] theorem State.modCtx_nextRun (c : Nat) (g : Context → Context) : (s.modCtx c g).nextRun = s.nextRun := rfl
@[simp] theorem State.modCtx_clusters (c : Nat) (g : Context → Context) : (s.modCtx c g).clusters = s.clusters := rfl
@[simp] theorem State.modCtx_gals (c : Nat) (g : Context → Context) : (s.modCtx c g).gals = s.gals := rfl
@[simp] theorem State.modCtx_scrubs (c : Nat) (g : Context → Context) : (s.modCtx c g).scrubs = s.scrubs := rfl
@[simp] theorem State.modCtx_links (c : Nat) (g : Context → Context) : (s.modCtx c g).links = s.links := rfl
@[simp] theorem State.modCtx_hps (c : Nat) (g : Context → Context) : (s.modCtx c g).hps = s.hps := rfl
@[simp] theorem State.modCtx_recov (c : Nat) (g : Context → Context) : (s.modCtx c g).recov = s.recov := rfl
@[simp] theorem State.modCtx_sec (c : Nat) (g : Context → Context) : (s.modCtx c g).sec = s.sec := rfl
@[simp] theorem State.modCtx_power (c : Nat) (g : Context → Context) : (s.modCtx c g).power = s.power := rfl
@[simp] theorem State.modCtx_dbg (c : Nat) (g : Context → Context) : (s.modCtx c g).dbg = s.dbg := rfl
@[simp] theorem State.modCtx_counters (c : Nat) (g : Context → Context) : (s.modCtx c g).counters = s.counters := rfl
@[simp] theorem State.modCtx_irqs (c : Nat) (g : Context → Context) : (s.modCtx c g).irqs = s.irqs := rfl
@[simp] theorem State.modCtx_msixPend (c : Nat) (g : Context → Context) : (s.modCtx c g).msixPend = s.msixPend := rfl
@[simp] theorem State.modCtx_mboxPend (c : Nat) (g : Context → Context) : (s.modCtx c g).mboxPend = s.mboxPend := rfl
@[simp] theorem State.modCtx_pending (c : Nat) (g : Context → Context) : (s.modCtx c g).pending = s.pending := rfl
@[simp] theorem State.modCtx_free (c : Nat) (g : Context → Context) : (s.modCtx c g).free = s.free := rfl

/-! ### modQp -/

@[simp] theorem State.modQp_tclk (q : Nat) (g : Qp → Qp) : (s.modQp q g).tclk = s.tclk := rfl
@[simp] theorem State.modQp_activity (q : Nat) (g : Qp → Qp) : (s.modQp q g).activity = s.activity := rfl
@[simp] theorem State.modQp_lands (q : Nat) (g : Qp → Qp) : (s.modQp q g).lands = s.lands := rfl
@[simp] theorem State.modQp_fuses (q : Nat) (g : Qp → Qp) : (s.modQp q g).fuses = s.fuses := rfl
@[simp] theorem State.modQp_nor (q : Nat) (g : Qp → Qp) : (s.modQp q g).nor = s.nor := rfl
@[simp] theorem State.modQp_boot (q : Nat) (g : Qp → Qp) : (s.modQp q g).boot = s.boot := rfl
@[simp] theorem State.modQp_procs (q : Nat) (g : Qp → Qp) : (s.modQp q g).procs = s.procs := rfl
@[simp] theorem State.modQp_regs (q : Nat) (g : Qp → Qp) : (s.modQp q g).regs = s.regs := rfl
@[simp] theorem State.modQp_fns (q : Nat) (g : Qp → Qp) : (s.modQp q g).fns = s.fns := rfl
@[simp] theorem State.modQp_ctxs (q : Nat) (g : Qp → Qp) : (s.modQp q g).ctxs = s.ctxs := rfl
@[simp] theorem State.modQp_gens (q : Nat) (g : Qp → Qp) : (s.modQp q g).gens = s.gens := rfl
@[simp] theorem State.modQp_sqs (q : Nat) (g : Qp → Qp) : (s.modQp q g).sqs = s.sqs := rfl
@[simp] theorem State.modQp_cqs (q : Nat) (g : Qp → Qp) : (s.modQp q g).cqs = s.cqs := rfl
@[simp] theorem State.modQp_eqs (q : Nat) (g : Qp → Qp) : (s.modQp q g).eqs = s.eqs := rfl
@[simp] theorem State.modQp_ops (q : Nat) (g : Qp → Qp) : (s.modQp q g).ops = s.ops := rfl
@[simp] theorem State.modQp_nextOp (q : Nat) (g : Qp → Qp) : (s.modQp q g).nextOp = s.nextOp := rfl
@[simp] theorem State.modQp_spent (q : Nat) (g : Qp → Qp) : (s.modQp q g).spent = s.spent := rfl
@[simp] theorem State.modQp_armed (q : Nat) (g : Qp → Qp) : (s.modQp q g).armed = s.armed := rfl
@[simp] theorem State.modQp_flags (q : Nat) (g : Qp → Qp) : (s.modQp q g).flags = s.flags := rfl
@[simp] theorem State.modQp_peers (q : Nat) (g : Qp → Qp) : (s.modQp q g).peers = s.peers := rfl
@[simp] theorem State.modQp_channels (q : Nat) (g : Qp → Qp) : (s.modQp q g).channels = s.channels := rfl
@[simp] theorem State.modQp_mes (q : Nat) (g : Qp → Qp) : (s.modQp q g).mes = s.mes := rfl
@[simp] theorem State.modQp_tiers (q : Nat) (g : Qp → Qp) : (s.modQp q g).tiers = s.tiers := rfl
@[simp] theorem State.modQp_host (q : Nat) (g : Qp → Qp) : (s.modQp q g).host = s.host := rfl
@[simp] theorem State.modQp_nextHome (q : Nat) (g : Qp → Qp) : (s.modQp q g).nextHome = s.nextHome := rfl
@[simp] theorem State.modQp_cache (q : Nat) (g : Qp → Qp) : (s.modQp q g).cache = s.cache := rfl
@[simp] theorem State.modQp_sidings (q : Nat) (g : Qp → Qp) : (s.modQp q g).sidings = s.sidings := rfl
@[simp] theorem State.modQp_arrived (q : Nat) (g : Qp → Qp) : (s.modQp q g).arrived = s.arrived := rfl
@[simp] theorem State.modQp_slots (q : Nat) (g : Qp → Qp) : (s.modQp q g).slots = s.slots := rfl
@[simp] theorem State.modQp_epoch (q : Nat) (g : Qp → Qp) : (s.modQp q g).epoch = s.epoch := rfl
@[simp] theorem State.modQp_answered (q : Nat) (g : Qp → Qp) : (s.modQp q g).answered = s.answered := rfl
@[simp] theorem State.modQp_requests (q : Nat) (g : Qp → Qp) : (s.modQp q g).requests = s.requests := rfl
@[simp] theorem State.modQp_nextReq (q : Nat) (g : Qp → Qp) : (s.modQp q g).nextReq = s.nextReq := rfl
@[simp] theorem State.modQp_passed (q : Nat) (g : Qp → Qp) : (s.modQp q g).passed = s.passed := rfl
@[simp] theorem State.modQp_agent (q : Nat) (g : Qp → Qp) : (s.modQp q g).agent = s.agent := rfl
@[simp] theorem State.modQp_ports (q : Nat) (g : Qp → Qp) : (s.modQp q g).ports = s.ports := rfl
@[simp] theorem State.modQp_local_ (q : Nat) (g : Qp → Qp) : (s.modQp q g).local_ = s.local_ := rfl
@[simp] theorem State.modQp_sent (q : Nat) (g : Qp → Qp) : (s.modQp q g).sent = s.sent := rfl
@[simp] theorem State.modQp_groups (q : Nat) (g : Qp → Qp) : (s.modQp q g).groups = s.groups := rfl
@[simp] theorem State.modQp_plans (q : Nat) (g : Qp → Qp) : (s.modQp q g).plans = s.plans := rfl
@[simp] theorem State.modQp_runs (q : Nat) (g : Qp → Qp) : (s.modQp q g).runs = s.runs := rfl
@[simp] theorem State.modQp_nextRun (q : Nat) (g : Qp → Qp) : (s.modQp q g).nextRun = s.nextRun := rfl
@[simp] theorem State.modQp_clusters (q : Nat) (g : Qp → Qp) : (s.modQp q g).clusters = s.clusters := rfl
@[simp] theorem State.modQp_gals (q : Nat) (g : Qp → Qp) : (s.modQp q g).gals = s.gals := rfl
@[simp] theorem State.modQp_scrubs (q : Nat) (g : Qp → Qp) : (s.modQp q g).scrubs = s.scrubs := rfl
@[simp] theorem State.modQp_links (q : Nat) (g : Qp → Qp) : (s.modQp q g).links = s.links := rfl
@[simp] theorem State.modQp_hps (q : Nat) (g : Qp → Qp) : (s.modQp q g).hps = s.hps := rfl
@[simp] theorem State.modQp_recov (q : Nat) (g : Qp → Qp) : (s.modQp q g).recov = s.recov := rfl
@[simp] theorem State.modQp_sec (q : Nat) (g : Qp → Qp) : (s.modQp q g).sec = s.sec := rfl
@[simp] theorem State.modQp_power (q : Nat) (g : Qp → Qp) : (s.modQp q g).power = s.power := rfl
@[simp] theorem State.modQp_dbg (q : Nat) (g : Qp → Qp) : (s.modQp q g).dbg = s.dbg := rfl
@[simp] theorem State.modQp_counters (q : Nat) (g : Qp → Qp) : (s.modQp q g).counters = s.counters := rfl
@[simp] theorem State.modQp_irqs (q : Nat) (g : Qp → Qp) : (s.modQp q g).irqs = s.irqs := rfl
@[simp] theorem State.modQp_msixPend (q : Nat) (g : Qp → Qp) : (s.modQp q g).msixPend = s.msixPend := rfl
@[simp] theorem State.modQp_mboxPend (q : Nat) (g : Qp → Qp) : (s.modQp q g).mboxPend = s.mboxPend := rfl
@[simp] theorem State.modQp_pending (q : Nat) (g : Qp → Qp) : (s.modQp q g).pending = s.pending := rfl
@[simp] theorem State.modQp_free (q : Nat) (g : Qp → Qp) : (s.modQp q g).free = s.free := rfl

/-! ### modGroup -/

@[simp] theorem State.modGroup_tclk (i : Nat) (g : Group → Group) : (s.modGroup i g).tclk = s.tclk := rfl
@[simp] theorem State.modGroup_activity (i : Nat) (g : Group → Group) : (s.modGroup i g).activity = s.activity := rfl
@[simp] theorem State.modGroup_lands (i : Nat) (g : Group → Group) : (s.modGroup i g).lands = s.lands := rfl
@[simp] theorem State.modGroup_fuses (i : Nat) (g : Group → Group) : (s.modGroup i g).fuses = s.fuses := rfl
@[simp] theorem State.modGroup_nor (i : Nat) (g : Group → Group) : (s.modGroup i g).nor = s.nor := rfl
@[simp] theorem State.modGroup_boot (i : Nat) (g : Group → Group) : (s.modGroup i g).boot = s.boot := rfl
@[simp] theorem State.modGroup_procs (i : Nat) (g : Group → Group) : (s.modGroup i g).procs = s.procs := rfl
@[simp] theorem State.modGroup_regs (i : Nat) (g : Group → Group) : (s.modGroup i g).regs = s.regs := rfl
@[simp] theorem State.modGroup_fns (i : Nat) (g : Group → Group) : (s.modGroup i g).fns = s.fns := rfl
@[simp] theorem State.modGroup_ctxs (i : Nat) (g : Group → Group) : (s.modGroup i g).ctxs = s.ctxs := rfl
@[simp] theorem State.modGroup_gens (i : Nat) (g : Group → Group) : (s.modGroup i g).gens = s.gens := rfl
@[simp] theorem State.modGroup_sqs (i : Nat) (g : Group → Group) : (s.modGroup i g).sqs = s.sqs := rfl
@[simp] theorem State.modGroup_cqs (i : Nat) (g : Group → Group) : (s.modGroup i g).cqs = s.cqs := rfl
@[simp] theorem State.modGroup_eqs (i : Nat) (g : Group → Group) : (s.modGroup i g).eqs = s.eqs := rfl
@[simp] theorem State.modGroup_ops (i : Nat) (g : Group → Group) : (s.modGroup i g).ops = s.ops := rfl
@[simp] theorem State.modGroup_nextOp (i : Nat) (g : Group → Group) : (s.modGroup i g).nextOp = s.nextOp := rfl
@[simp] theorem State.modGroup_spent (i : Nat) (g : Group → Group) : (s.modGroup i g).spent = s.spent := rfl
@[simp] theorem State.modGroup_armed (i : Nat) (g : Group → Group) : (s.modGroup i g).armed = s.armed := rfl
@[simp] theorem State.modGroup_flags (i : Nat) (g : Group → Group) : (s.modGroup i g).flags = s.flags := rfl
@[simp] theorem State.modGroup_peers (i : Nat) (g : Group → Group) : (s.modGroup i g).peers = s.peers := rfl
@[simp] theorem State.modGroup_channels (i : Nat) (g : Group → Group) : (s.modGroup i g).channels = s.channels := rfl
@[simp] theorem State.modGroup_mes (i : Nat) (g : Group → Group) : (s.modGroup i g).mes = s.mes := rfl
@[simp] theorem State.modGroup_tiers (i : Nat) (g : Group → Group) : (s.modGroup i g).tiers = s.tiers := rfl
@[simp] theorem State.modGroup_host (i : Nat) (g : Group → Group) : (s.modGroup i g).host = s.host := rfl
@[simp] theorem State.modGroup_qps (i : Nat) (g : Group → Group) : (s.modGroup i g).qps = s.qps := rfl
@[simp] theorem State.modGroup_nextHome (i : Nat) (g : Group → Group) : (s.modGroup i g).nextHome = s.nextHome := rfl
@[simp] theorem State.modGroup_cache (i : Nat) (g : Group → Group) : (s.modGroup i g).cache = s.cache := rfl
@[simp] theorem State.modGroup_sidings (i : Nat) (g : Group → Group) : (s.modGroup i g).sidings = s.sidings := rfl
@[simp] theorem State.modGroup_arrived (i : Nat) (g : Group → Group) : (s.modGroup i g).arrived = s.arrived := rfl
@[simp] theorem State.modGroup_slots (i : Nat) (g : Group → Group) : (s.modGroup i g).slots = s.slots := rfl
@[simp] theorem State.modGroup_epoch (i : Nat) (g : Group → Group) : (s.modGroup i g).epoch = s.epoch := rfl
@[simp] theorem State.modGroup_answered (i : Nat) (g : Group → Group) : (s.modGroup i g).answered = s.answered := rfl
@[simp] theorem State.modGroup_requests (i : Nat) (g : Group → Group) : (s.modGroup i g).requests = s.requests := rfl
@[simp] theorem State.modGroup_nextReq (i : Nat) (g : Group → Group) : (s.modGroup i g).nextReq = s.nextReq := rfl
@[simp] theorem State.modGroup_passed (i : Nat) (g : Group → Group) : (s.modGroup i g).passed = s.passed := rfl
@[simp] theorem State.modGroup_agent (i : Nat) (g : Group → Group) : (s.modGroup i g).agent = s.agent := rfl
@[simp] theorem State.modGroup_ports (i : Nat) (g : Group → Group) : (s.modGroup i g).ports = s.ports := rfl
@[simp] theorem State.modGroup_local_ (i : Nat) (g : Group → Group) : (s.modGroup i g).local_ = s.local_ := rfl
@[simp] theorem State.modGroup_sent (i : Nat) (g : Group → Group) : (s.modGroup i g).sent = s.sent := rfl
@[simp] theorem State.modGroup_plans (i : Nat) (g : Group → Group) : (s.modGroup i g).plans = s.plans := rfl
@[simp] theorem State.modGroup_runs (i : Nat) (g : Group → Group) : (s.modGroup i g).runs = s.runs := rfl
@[simp] theorem State.modGroup_nextRun (i : Nat) (g : Group → Group) : (s.modGroup i g).nextRun = s.nextRun := rfl
@[simp] theorem State.modGroup_clusters (i : Nat) (g : Group → Group) : (s.modGroup i g).clusters = s.clusters := rfl
@[simp] theorem State.modGroup_gals (i : Nat) (g : Group → Group) : (s.modGroup i g).gals = s.gals := rfl
@[simp] theorem State.modGroup_scrubs (i : Nat) (g : Group → Group) : (s.modGroup i g).scrubs = s.scrubs := rfl
@[simp] theorem State.modGroup_links (i : Nat) (g : Group → Group) : (s.modGroup i g).links = s.links := rfl
@[simp] theorem State.modGroup_hps (i : Nat) (g : Group → Group) : (s.modGroup i g).hps = s.hps := rfl
@[simp] theorem State.modGroup_recov (i : Nat) (g : Group → Group) : (s.modGroup i g).recov = s.recov := rfl
@[simp] theorem State.modGroup_sec (i : Nat) (g : Group → Group) : (s.modGroup i g).sec = s.sec := rfl
@[simp] theorem State.modGroup_power (i : Nat) (g : Group → Group) : (s.modGroup i g).power = s.power := rfl
@[simp] theorem State.modGroup_dbg (i : Nat) (g : Group → Group) : (s.modGroup i g).dbg = s.dbg := rfl
@[simp] theorem State.modGroup_counters (i : Nat) (g : Group → Group) : (s.modGroup i g).counters = s.counters := rfl
@[simp] theorem State.modGroup_irqs (i : Nat) (g : Group → Group) : (s.modGroup i g).irqs = s.irqs := rfl
@[simp] theorem State.modGroup_msixPend (i : Nat) (g : Group → Group) : (s.modGroup i g).msixPend = s.msixPend := rfl
@[simp] theorem State.modGroup_mboxPend (i : Nat) (g : Group → Group) : (s.modGroup i g).mboxPend = s.mboxPend := rfl
@[simp] theorem State.modGroup_pending (i : Nat) (g : Group → Group) : (s.modGroup i g).pending = s.pending := rfl
@[simp] theorem State.modGroup_free (i : Nat) (g : Group → Group) : (s.modGroup i g).free = s.free := rfl

/-! ### modOp -/

@[simp] theorem State.modOp_tclk (i : Nat) (g : Op → Op) : (s.modOp i g).tclk = s.tclk := rfl
@[simp] theorem State.modOp_activity (i : Nat) (g : Op → Op) : (s.modOp i g).activity = s.activity := rfl
@[simp] theorem State.modOp_lands (i : Nat) (g : Op → Op) : (s.modOp i g).lands = s.lands := rfl
@[simp] theorem State.modOp_fuses (i : Nat) (g : Op → Op) : (s.modOp i g).fuses = s.fuses := rfl
@[simp] theorem State.modOp_nor (i : Nat) (g : Op → Op) : (s.modOp i g).nor = s.nor := rfl
@[simp] theorem State.modOp_boot (i : Nat) (g : Op → Op) : (s.modOp i g).boot = s.boot := rfl
@[simp] theorem State.modOp_procs (i : Nat) (g : Op → Op) : (s.modOp i g).procs = s.procs := rfl
@[simp] theorem State.modOp_regs (i : Nat) (g : Op → Op) : (s.modOp i g).regs = s.regs := rfl
@[simp] theorem State.modOp_fns (i : Nat) (g : Op → Op) : (s.modOp i g).fns = s.fns := rfl
@[simp] theorem State.modOp_ctxs (i : Nat) (g : Op → Op) : (s.modOp i g).ctxs = s.ctxs := rfl
@[simp] theorem State.modOp_gens (i : Nat) (g : Op → Op) : (s.modOp i g).gens = s.gens := rfl
@[simp] theorem State.modOp_sqs (i : Nat) (g : Op → Op) : (s.modOp i g).sqs = s.sqs := rfl
@[simp] theorem State.modOp_cqs (i : Nat) (g : Op → Op) : (s.modOp i g).cqs = s.cqs := rfl
@[simp] theorem State.modOp_eqs (i : Nat) (g : Op → Op) : (s.modOp i g).eqs = s.eqs := rfl
@[simp] theorem State.modOp_nextOp (i : Nat) (g : Op → Op) : (s.modOp i g).nextOp = s.nextOp := rfl
@[simp] theorem State.modOp_spent (i : Nat) (g : Op → Op) : (s.modOp i g).spent = s.spent := rfl
@[simp] theorem State.modOp_armed (i : Nat) (g : Op → Op) : (s.modOp i g).armed = s.armed := rfl
@[simp] theorem State.modOp_flags (i : Nat) (g : Op → Op) : (s.modOp i g).flags = s.flags := rfl
@[simp] theorem State.modOp_peers (i : Nat) (g : Op → Op) : (s.modOp i g).peers = s.peers := rfl
@[simp] theorem State.modOp_channels (i : Nat) (g : Op → Op) : (s.modOp i g).channels = s.channels := rfl
@[simp] theorem State.modOp_mes (i : Nat) (g : Op → Op) : (s.modOp i g).mes = s.mes := rfl
@[simp] theorem State.modOp_tiers (i : Nat) (g : Op → Op) : (s.modOp i g).tiers = s.tiers := rfl
@[simp] theorem State.modOp_host (i : Nat) (g : Op → Op) : (s.modOp i g).host = s.host := rfl
@[simp] theorem State.modOp_qps (i : Nat) (g : Op → Op) : (s.modOp i g).qps = s.qps := rfl
@[simp] theorem State.modOp_nextHome (i : Nat) (g : Op → Op) : (s.modOp i g).nextHome = s.nextHome := rfl
@[simp] theorem State.modOp_cache (i : Nat) (g : Op → Op) : (s.modOp i g).cache = s.cache := rfl
@[simp] theorem State.modOp_sidings (i : Nat) (g : Op → Op) : (s.modOp i g).sidings = s.sidings := rfl
@[simp] theorem State.modOp_arrived (i : Nat) (g : Op → Op) : (s.modOp i g).arrived = s.arrived := rfl
@[simp] theorem State.modOp_slots (i : Nat) (g : Op → Op) : (s.modOp i g).slots = s.slots := rfl
@[simp] theorem State.modOp_epoch (i : Nat) (g : Op → Op) : (s.modOp i g).epoch = s.epoch := rfl
@[simp] theorem State.modOp_answered (i : Nat) (g : Op → Op) : (s.modOp i g).answered = s.answered := rfl
@[simp] theorem State.modOp_requests (i : Nat) (g : Op → Op) : (s.modOp i g).requests = s.requests := rfl
@[simp] theorem State.modOp_nextReq (i : Nat) (g : Op → Op) : (s.modOp i g).nextReq = s.nextReq := rfl
@[simp] theorem State.modOp_passed (i : Nat) (g : Op → Op) : (s.modOp i g).passed = s.passed := rfl
@[simp] theorem State.modOp_agent (i : Nat) (g : Op → Op) : (s.modOp i g).agent = s.agent := rfl
@[simp] theorem State.modOp_ports (i : Nat) (g : Op → Op) : (s.modOp i g).ports = s.ports := rfl
@[simp] theorem State.modOp_local_ (i : Nat) (g : Op → Op) : (s.modOp i g).local_ = s.local_ := rfl
@[simp] theorem State.modOp_sent (i : Nat) (g : Op → Op) : (s.modOp i g).sent = s.sent := rfl
@[simp] theorem State.modOp_groups (i : Nat) (g : Op → Op) : (s.modOp i g).groups = s.groups := rfl
@[simp] theorem State.modOp_plans (i : Nat) (g : Op → Op) : (s.modOp i g).plans = s.plans := rfl
@[simp] theorem State.modOp_runs (i : Nat) (g : Op → Op) : (s.modOp i g).runs = s.runs := rfl
@[simp] theorem State.modOp_nextRun (i : Nat) (g : Op → Op) : (s.modOp i g).nextRun = s.nextRun := rfl
@[simp] theorem State.modOp_clusters (i : Nat) (g : Op → Op) : (s.modOp i g).clusters = s.clusters := rfl
@[simp] theorem State.modOp_gals (i : Nat) (g : Op → Op) : (s.modOp i g).gals = s.gals := rfl
@[simp] theorem State.modOp_scrubs (i : Nat) (g : Op → Op) : (s.modOp i g).scrubs = s.scrubs := rfl
@[simp] theorem State.modOp_links (i : Nat) (g : Op → Op) : (s.modOp i g).links = s.links := rfl
@[simp] theorem State.modOp_hps (i : Nat) (g : Op → Op) : (s.modOp i g).hps = s.hps := rfl
@[simp] theorem State.modOp_recov (i : Nat) (g : Op → Op) : (s.modOp i g).recov = s.recov := rfl
@[simp] theorem State.modOp_sec (i : Nat) (g : Op → Op) : (s.modOp i g).sec = s.sec := rfl
@[simp] theorem State.modOp_power (i : Nat) (g : Op → Op) : (s.modOp i g).power = s.power := rfl
@[simp] theorem State.modOp_dbg (i : Nat) (g : Op → Op) : (s.modOp i g).dbg = s.dbg := rfl
@[simp] theorem State.modOp_counters (i : Nat) (g : Op → Op) : (s.modOp i g).counters = s.counters := rfl
@[simp] theorem State.modOp_irqs (i : Nat) (g : Op → Op) : (s.modOp i g).irqs = s.irqs := rfl
@[simp] theorem State.modOp_msixPend (i : Nat) (g : Op → Op) : (s.modOp i g).msixPend = s.msixPend := rfl
@[simp] theorem State.modOp_mboxPend (i : Nat) (g : Op → Op) : (s.modOp i g).mboxPend = s.mboxPend := rfl
@[simp] theorem State.modOp_pending (i : Nat) (g : Op → Op) : (s.modOp i g).pending = s.pending := rfl
@[simp] theorem State.modOp_free (i : Nat) (g : Op → Op) : (s.modOp i g).free = s.free := rfl

/-! ### modSec -/

@[simp] theorem State.modSec_tclk (g : Sec → Sec) : (s.modSec g).tclk = s.tclk := rfl
@[simp] theorem State.modSec_activity (g : Sec → Sec) : (s.modSec g).activity = s.activity := rfl
@[simp] theorem State.modSec_lands (g : Sec → Sec) : (s.modSec g).lands = s.lands := rfl
@[simp] theorem State.modSec_fuses (g : Sec → Sec) : (s.modSec g).fuses = s.fuses := rfl
@[simp] theorem State.modSec_nor (g : Sec → Sec) : (s.modSec g).nor = s.nor := rfl
@[simp] theorem State.modSec_boot (g : Sec → Sec) : (s.modSec g).boot = s.boot := rfl
@[simp] theorem State.modSec_procs (g : Sec → Sec) : (s.modSec g).procs = s.procs := rfl
@[simp] theorem State.modSec_regs (g : Sec → Sec) : (s.modSec g).regs = s.regs := rfl
@[simp] theorem State.modSec_fns (g : Sec → Sec) : (s.modSec g).fns = s.fns := rfl
@[simp] theorem State.modSec_ctxs (g : Sec → Sec) : (s.modSec g).ctxs = s.ctxs := rfl
@[simp] theorem State.modSec_gens (g : Sec → Sec) : (s.modSec g).gens = s.gens := rfl
@[simp] theorem State.modSec_sqs (g : Sec → Sec) : (s.modSec g).sqs = s.sqs := rfl
@[simp] theorem State.modSec_cqs (g : Sec → Sec) : (s.modSec g).cqs = s.cqs := rfl
@[simp] theorem State.modSec_eqs (g : Sec → Sec) : (s.modSec g).eqs = s.eqs := rfl
@[simp] theorem State.modSec_ops (g : Sec → Sec) : (s.modSec g).ops = s.ops := rfl
@[simp] theorem State.modSec_nextOp (g : Sec → Sec) : (s.modSec g).nextOp = s.nextOp := rfl
@[simp] theorem State.modSec_spent (g : Sec → Sec) : (s.modSec g).spent = s.spent := rfl
@[simp] theorem State.modSec_armed (g : Sec → Sec) : (s.modSec g).armed = s.armed := rfl
@[simp] theorem State.modSec_flags (g : Sec → Sec) : (s.modSec g).flags = s.flags := rfl
@[simp] theorem State.modSec_peers (g : Sec → Sec) : (s.modSec g).peers = s.peers := rfl
@[simp] theorem State.modSec_channels (g : Sec → Sec) : (s.modSec g).channels = s.channels := rfl
@[simp] theorem State.modSec_mes (g : Sec → Sec) : (s.modSec g).mes = s.mes := rfl
@[simp] theorem State.modSec_tiers (g : Sec → Sec) : (s.modSec g).tiers = s.tiers := rfl
@[simp] theorem State.modSec_host (g : Sec → Sec) : (s.modSec g).host = s.host := rfl
@[simp] theorem State.modSec_qps (g : Sec → Sec) : (s.modSec g).qps = s.qps := rfl
@[simp] theorem State.modSec_nextHome (g : Sec → Sec) : (s.modSec g).nextHome = s.nextHome := rfl
@[simp] theorem State.modSec_cache (g : Sec → Sec) : (s.modSec g).cache = s.cache := rfl
@[simp] theorem State.modSec_sidings (g : Sec → Sec) : (s.modSec g).sidings = s.sidings := rfl
@[simp] theorem State.modSec_arrived (g : Sec → Sec) : (s.modSec g).arrived = s.arrived := rfl
@[simp] theorem State.modSec_slots (g : Sec → Sec) : (s.modSec g).slots = s.slots := rfl
@[simp] theorem State.modSec_epoch (g : Sec → Sec) : (s.modSec g).epoch = s.epoch := rfl
@[simp] theorem State.modSec_answered (g : Sec → Sec) : (s.modSec g).answered = s.answered := rfl
@[simp] theorem State.modSec_requests (g : Sec → Sec) : (s.modSec g).requests = s.requests := rfl
@[simp] theorem State.modSec_nextReq (g : Sec → Sec) : (s.modSec g).nextReq = s.nextReq := rfl
@[simp] theorem State.modSec_passed (g : Sec → Sec) : (s.modSec g).passed = s.passed := rfl
@[simp] theorem State.modSec_agent (g : Sec → Sec) : (s.modSec g).agent = s.agent := rfl
@[simp] theorem State.modSec_ports (g : Sec → Sec) : (s.modSec g).ports = s.ports := rfl
@[simp] theorem State.modSec_local_ (g : Sec → Sec) : (s.modSec g).local_ = s.local_ := rfl
@[simp] theorem State.modSec_sent (g : Sec → Sec) : (s.modSec g).sent = s.sent := rfl
@[simp] theorem State.modSec_groups (g : Sec → Sec) : (s.modSec g).groups = s.groups := rfl
@[simp] theorem State.modSec_plans (g : Sec → Sec) : (s.modSec g).plans = s.plans := rfl
@[simp] theorem State.modSec_runs (g : Sec → Sec) : (s.modSec g).runs = s.runs := rfl
@[simp] theorem State.modSec_nextRun (g : Sec → Sec) : (s.modSec g).nextRun = s.nextRun := rfl
@[simp] theorem State.modSec_clusters (g : Sec → Sec) : (s.modSec g).clusters = s.clusters := rfl
@[simp] theorem State.modSec_gals (g : Sec → Sec) : (s.modSec g).gals = s.gals := rfl
@[simp] theorem State.modSec_scrubs (g : Sec → Sec) : (s.modSec g).scrubs = s.scrubs := rfl
@[simp] theorem State.modSec_links (g : Sec → Sec) : (s.modSec g).links = s.links := rfl
@[simp] theorem State.modSec_hps (g : Sec → Sec) : (s.modSec g).hps = s.hps := rfl
@[simp] theorem State.modSec_recov (g : Sec → Sec) : (s.modSec g).recov = s.recov := rfl
@[simp] theorem State.modSec_sec (g : Sec → Sec) : (s.modSec g).sec = g s.sec := rfl
@[simp] theorem State.modSec_power (g : Sec → Sec) : (s.modSec g).power = s.power := rfl
@[simp] theorem State.modSec_dbg (g : Sec → Sec) : (s.modSec g).dbg = s.dbg := rfl
@[simp] theorem State.modSec_counters (g : Sec → Sec) : (s.modSec g).counters = s.counters := rfl
@[simp] theorem State.modSec_irqs (g : Sec → Sec) : (s.modSec g).irqs = s.irqs := rfl
@[simp] theorem State.modSec_msixPend (g : Sec → Sec) : (s.modSec g).msixPend = s.msixPend := rfl
@[simp] theorem State.modSec_mboxPend (g : Sec → Sec) : (s.modSec g).mboxPend = s.mboxPend := rfl
@[simp] theorem State.modSec_pending (g : Sec → Sec) : (s.modSec g).pending = s.pending := rfl
@[simp] theorem State.modSec_free (g : Sec → Sec) : (s.modSec g).free = s.free := rfl

/-! ### modDbg -/

@[simp] theorem State.modDbg_tclk (g : Debug → Debug) : (s.modDbg g).tclk = s.tclk := rfl
@[simp] theorem State.modDbg_activity (g : Debug → Debug) : (s.modDbg g).activity = s.activity := rfl
@[simp] theorem State.modDbg_lands (g : Debug → Debug) : (s.modDbg g).lands = s.lands := rfl
@[simp] theorem State.modDbg_fuses (g : Debug → Debug) : (s.modDbg g).fuses = s.fuses := rfl
@[simp] theorem State.modDbg_nor (g : Debug → Debug) : (s.modDbg g).nor = s.nor := rfl
@[simp] theorem State.modDbg_boot (g : Debug → Debug) : (s.modDbg g).boot = s.boot := rfl
@[simp] theorem State.modDbg_procs (g : Debug → Debug) : (s.modDbg g).procs = s.procs := rfl
@[simp] theorem State.modDbg_regs (g : Debug → Debug) : (s.modDbg g).regs = s.regs := rfl
@[simp] theorem State.modDbg_fns (g : Debug → Debug) : (s.modDbg g).fns = s.fns := rfl
@[simp] theorem State.modDbg_ctxs (g : Debug → Debug) : (s.modDbg g).ctxs = s.ctxs := rfl
@[simp] theorem State.modDbg_gens (g : Debug → Debug) : (s.modDbg g).gens = s.gens := rfl
@[simp] theorem State.modDbg_sqs (g : Debug → Debug) : (s.modDbg g).sqs = s.sqs := rfl
@[simp] theorem State.modDbg_cqs (g : Debug → Debug) : (s.modDbg g).cqs = s.cqs := rfl
@[simp] theorem State.modDbg_eqs (g : Debug → Debug) : (s.modDbg g).eqs = s.eqs := rfl
@[simp] theorem State.modDbg_ops (g : Debug → Debug) : (s.modDbg g).ops = s.ops := rfl
@[simp] theorem State.modDbg_nextOp (g : Debug → Debug) : (s.modDbg g).nextOp = s.nextOp := rfl
@[simp] theorem State.modDbg_spent (g : Debug → Debug) : (s.modDbg g).spent = s.spent := rfl
@[simp] theorem State.modDbg_armed (g : Debug → Debug) : (s.modDbg g).armed = s.armed := rfl
@[simp] theorem State.modDbg_flags (g : Debug → Debug) : (s.modDbg g).flags = s.flags := rfl
@[simp] theorem State.modDbg_peers (g : Debug → Debug) : (s.modDbg g).peers = s.peers := rfl
@[simp] theorem State.modDbg_channels (g : Debug → Debug) : (s.modDbg g).channels = s.channels := rfl
@[simp] theorem State.modDbg_mes (g : Debug → Debug) : (s.modDbg g).mes = s.mes := rfl
@[simp] theorem State.modDbg_tiers (g : Debug → Debug) : (s.modDbg g).tiers = s.tiers := rfl
@[simp] theorem State.modDbg_host (g : Debug → Debug) : (s.modDbg g).host = s.host := rfl
@[simp] theorem State.modDbg_qps (g : Debug → Debug) : (s.modDbg g).qps = s.qps := rfl
@[simp] theorem State.modDbg_nextHome (g : Debug → Debug) : (s.modDbg g).nextHome = s.nextHome := rfl
@[simp] theorem State.modDbg_cache (g : Debug → Debug) : (s.modDbg g).cache = s.cache := rfl
@[simp] theorem State.modDbg_sidings (g : Debug → Debug) : (s.modDbg g).sidings = s.sidings := rfl
@[simp] theorem State.modDbg_arrived (g : Debug → Debug) : (s.modDbg g).arrived = s.arrived := rfl
@[simp] theorem State.modDbg_slots (g : Debug → Debug) : (s.modDbg g).slots = s.slots := rfl
@[simp] theorem State.modDbg_epoch (g : Debug → Debug) : (s.modDbg g).epoch = s.epoch := rfl
@[simp] theorem State.modDbg_answered (g : Debug → Debug) : (s.modDbg g).answered = s.answered := rfl
@[simp] theorem State.modDbg_requests (g : Debug → Debug) : (s.modDbg g).requests = s.requests := rfl
@[simp] theorem State.modDbg_nextReq (g : Debug → Debug) : (s.modDbg g).nextReq = s.nextReq := rfl
@[simp] theorem State.modDbg_passed (g : Debug → Debug) : (s.modDbg g).passed = s.passed := rfl
@[simp] theorem State.modDbg_agent (g : Debug → Debug) : (s.modDbg g).agent = s.agent := rfl
@[simp] theorem State.modDbg_ports (g : Debug → Debug) : (s.modDbg g).ports = s.ports := rfl
@[simp] theorem State.modDbg_local_ (g : Debug → Debug) : (s.modDbg g).local_ = s.local_ := rfl
@[simp] theorem State.modDbg_sent (g : Debug → Debug) : (s.modDbg g).sent = s.sent := rfl
@[simp] theorem State.modDbg_groups (g : Debug → Debug) : (s.modDbg g).groups = s.groups := rfl
@[simp] theorem State.modDbg_plans (g : Debug → Debug) : (s.modDbg g).plans = s.plans := rfl
@[simp] theorem State.modDbg_runs (g : Debug → Debug) : (s.modDbg g).runs = s.runs := rfl
@[simp] theorem State.modDbg_nextRun (g : Debug → Debug) : (s.modDbg g).nextRun = s.nextRun := rfl
@[simp] theorem State.modDbg_clusters (g : Debug → Debug) : (s.modDbg g).clusters = s.clusters := rfl
@[simp] theorem State.modDbg_gals (g : Debug → Debug) : (s.modDbg g).gals = s.gals := rfl
@[simp] theorem State.modDbg_scrubs (g : Debug → Debug) : (s.modDbg g).scrubs = s.scrubs := rfl
@[simp] theorem State.modDbg_links (g : Debug → Debug) : (s.modDbg g).links = s.links := rfl
@[simp] theorem State.modDbg_hps (g : Debug → Debug) : (s.modDbg g).hps = s.hps := rfl
@[simp] theorem State.modDbg_recov (g : Debug → Debug) : (s.modDbg g).recov = s.recov := rfl
@[simp] theorem State.modDbg_sec (g : Debug → Debug) : (s.modDbg g).sec = s.sec := rfl
@[simp] theorem State.modDbg_power (g : Debug → Debug) : (s.modDbg g).power = s.power := rfl
@[simp] theorem State.modDbg_dbg (g : Debug → Debug) : (s.modDbg g).dbg = g s.dbg := rfl
@[simp] theorem State.modDbg_counters (g : Debug → Debug) : (s.modDbg g).counters = s.counters := rfl
@[simp] theorem State.modDbg_irqs (g : Debug → Debug) : (s.modDbg g).irqs = s.irqs := rfl
@[simp] theorem State.modDbg_msixPend (g : Debug → Debug) : (s.modDbg g).msixPend = s.msixPend := rfl
@[simp] theorem State.modDbg_mboxPend (g : Debug → Debug) : (s.modDbg g).mboxPend = s.mboxPend := rfl
@[simp] theorem State.modDbg_pending (g : Debug → Debug) : (s.modDbg g).pending = s.pending := rfl
@[simp] theorem State.modDbg_free (g : Debug → Debug) : (s.modDbg g).free = s.free := rfl

/-! ### modBoot -/

@[simp] theorem State.modBoot_tclk (g : Boot → Boot) : (s.modBoot g).tclk = s.tclk := rfl
@[simp] theorem State.modBoot_activity (g : Boot → Boot) : (s.modBoot g).activity = s.activity := rfl
@[simp] theorem State.modBoot_lands (g : Boot → Boot) : (s.modBoot g).lands = s.lands := rfl
@[simp] theorem State.modBoot_fuses (g : Boot → Boot) : (s.modBoot g).fuses = s.fuses := rfl
@[simp] theorem State.modBoot_nor (g : Boot → Boot) : (s.modBoot g).nor = s.nor := rfl
@[simp] theorem State.modBoot_boot (g : Boot → Boot) : (s.modBoot g).boot = g s.boot := rfl
@[simp] theorem State.modBoot_procs (g : Boot → Boot) : (s.modBoot g).procs = s.procs := rfl
@[simp] theorem State.modBoot_regs (g : Boot → Boot) : (s.modBoot g).regs = s.regs := rfl
@[simp] theorem State.modBoot_fns (g : Boot → Boot) : (s.modBoot g).fns = s.fns := rfl
@[simp] theorem State.modBoot_ctxs (g : Boot → Boot) : (s.modBoot g).ctxs = s.ctxs := rfl
@[simp] theorem State.modBoot_gens (g : Boot → Boot) : (s.modBoot g).gens = s.gens := rfl
@[simp] theorem State.modBoot_sqs (g : Boot → Boot) : (s.modBoot g).sqs = s.sqs := rfl
@[simp] theorem State.modBoot_cqs (g : Boot → Boot) : (s.modBoot g).cqs = s.cqs := rfl
@[simp] theorem State.modBoot_eqs (g : Boot → Boot) : (s.modBoot g).eqs = s.eqs := rfl
@[simp] theorem State.modBoot_ops (g : Boot → Boot) : (s.modBoot g).ops = s.ops := rfl
@[simp] theorem State.modBoot_nextOp (g : Boot → Boot) : (s.modBoot g).nextOp = s.nextOp := rfl
@[simp] theorem State.modBoot_spent (g : Boot → Boot) : (s.modBoot g).spent = s.spent := rfl
@[simp] theorem State.modBoot_armed (g : Boot → Boot) : (s.modBoot g).armed = s.armed := rfl
@[simp] theorem State.modBoot_flags (g : Boot → Boot) : (s.modBoot g).flags = s.flags := rfl
@[simp] theorem State.modBoot_peers (g : Boot → Boot) : (s.modBoot g).peers = s.peers := rfl
@[simp] theorem State.modBoot_channels (g : Boot → Boot) : (s.modBoot g).channels = s.channels := rfl
@[simp] theorem State.modBoot_mes (g : Boot → Boot) : (s.modBoot g).mes = s.mes := rfl
@[simp] theorem State.modBoot_tiers (g : Boot → Boot) : (s.modBoot g).tiers = s.tiers := rfl
@[simp] theorem State.modBoot_host (g : Boot → Boot) : (s.modBoot g).host = s.host := rfl
@[simp] theorem State.modBoot_qps (g : Boot → Boot) : (s.modBoot g).qps = s.qps := rfl
@[simp] theorem State.modBoot_nextHome (g : Boot → Boot) : (s.modBoot g).nextHome = s.nextHome := rfl
@[simp] theorem State.modBoot_cache (g : Boot → Boot) : (s.modBoot g).cache = s.cache := rfl
@[simp] theorem State.modBoot_sidings (g : Boot → Boot) : (s.modBoot g).sidings = s.sidings := rfl
@[simp] theorem State.modBoot_arrived (g : Boot → Boot) : (s.modBoot g).arrived = s.arrived := rfl
@[simp] theorem State.modBoot_slots (g : Boot → Boot) : (s.modBoot g).slots = s.slots := rfl
@[simp] theorem State.modBoot_epoch (g : Boot → Boot) : (s.modBoot g).epoch = s.epoch := rfl
@[simp] theorem State.modBoot_answered (g : Boot → Boot) : (s.modBoot g).answered = s.answered := rfl
@[simp] theorem State.modBoot_requests (g : Boot → Boot) : (s.modBoot g).requests = s.requests := rfl
@[simp] theorem State.modBoot_nextReq (g : Boot → Boot) : (s.modBoot g).nextReq = s.nextReq := rfl
@[simp] theorem State.modBoot_passed (g : Boot → Boot) : (s.modBoot g).passed = s.passed := rfl
@[simp] theorem State.modBoot_agent (g : Boot → Boot) : (s.modBoot g).agent = s.agent := rfl
@[simp] theorem State.modBoot_ports (g : Boot → Boot) : (s.modBoot g).ports = s.ports := rfl
@[simp] theorem State.modBoot_local_ (g : Boot → Boot) : (s.modBoot g).local_ = s.local_ := rfl
@[simp] theorem State.modBoot_sent (g : Boot → Boot) : (s.modBoot g).sent = s.sent := rfl
@[simp] theorem State.modBoot_groups (g : Boot → Boot) : (s.modBoot g).groups = s.groups := rfl
@[simp] theorem State.modBoot_plans (g : Boot → Boot) : (s.modBoot g).plans = s.plans := rfl
@[simp] theorem State.modBoot_runs (g : Boot → Boot) : (s.modBoot g).runs = s.runs := rfl
@[simp] theorem State.modBoot_nextRun (g : Boot → Boot) : (s.modBoot g).nextRun = s.nextRun := rfl
@[simp] theorem State.modBoot_clusters (g : Boot → Boot) : (s.modBoot g).clusters = s.clusters := rfl
@[simp] theorem State.modBoot_gals (g : Boot → Boot) : (s.modBoot g).gals = s.gals := rfl
@[simp] theorem State.modBoot_scrubs (g : Boot → Boot) : (s.modBoot g).scrubs = s.scrubs := rfl
@[simp] theorem State.modBoot_links (g : Boot → Boot) : (s.modBoot g).links = s.links := rfl
@[simp] theorem State.modBoot_hps (g : Boot → Boot) : (s.modBoot g).hps = s.hps := rfl
@[simp] theorem State.modBoot_recov (g : Boot → Boot) : (s.modBoot g).recov = s.recov := rfl
@[simp] theorem State.modBoot_sec (g : Boot → Boot) : (s.modBoot g).sec = s.sec := rfl
@[simp] theorem State.modBoot_power (g : Boot → Boot) : (s.modBoot g).power = s.power := rfl
@[simp] theorem State.modBoot_dbg (g : Boot → Boot) : (s.modBoot g).dbg = s.dbg := rfl
@[simp] theorem State.modBoot_counters (g : Boot → Boot) : (s.modBoot g).counters = s.counters := rfl
@[simp] theorem State.modBoot_irqs (g : Boot → Boot) : (s.modBoot g).irqs = s.irqs := rfl
@[simp] theorem State.modBoot_msixPend (g : Boot → Boot) : (s.modBoot g).msixPend = s.msixPend := rfl
@[simp] theorem State.modBoot_mboxPend (g : Boot → Boot) : (s.modBoot g).mboxPend = s.mboxPend := rfl
@[simp] theorem State.modBoot_pending (g : Boot → Boot) : (s.modBoot g).pending = s.pending := rfl
@[simp] theorem State.modBoot_free (g : Boot → Boot) : (s.modBoot g).free = s.free := rfl

/-! ### modNor -/

@[simp] theorem State.modNor_tclk (g : Nor → Nor) : (s.modNor g).tclk = s.tclk := rfl
@[simp] theorem State.modNor_activity (g : Nor → Nor) : (s.modNor g).activity = s.activity := rfl
@[simp] theorem State.modNor_lands (g : Nor → Nor) : (s.modNor g).lands = s.lands := rfl
@[simp] theorem State.modNor_fuses (g : Nor → Nor) : (s.modNor g).fuses = s.fuses := rfl
@[simp] theorem State.modNor_nor (g : Nor → Nor) : (s.modNor g).nor = g s.nor := rfl
@[simp] theorem State.modNor_boot (g : Nor → Nor) : (s.modNor g).boot = s.boot := rfl
@[simp] theorem State.modNor_procs (g : Nor → Nor) : (s.modNor g).procs = s.procs := rfl
@[simp] theorem State.modNor_regs (g : Nor → Nor) : (s.modNor g).regs = s.regs := rfl
@[simp] theorem State.modNor_fns (g : Nor → Nor) : (s.modNor g).fns = s.fns := rfl
@[simp] theorem State.modNor_ctxs (g : Nor → Nor) : (s.modNor g).ctxs = s.ctxs := rfl
@[simp] theorem State.modNor_gens (g : Nor → Nor) : (s.modNor g).gens = s.gens := rfl
@[simp] theorem State.modNor_sqs (g : Nor → Nor) : (s.modNor g).sqs = s.sqs := rfl
@[simp] theorem State.modNor_cqs (g : Nor → Nor) : (s.modNor g).cqs = s.cqs := rfl
@[simp] theorem State.modNor_eqs (g : Nor → Nor) : (s.modNor g).eqs = s.eqs := rfl
@[simp] theorem State.modNor_ops (g : Nor → Nor) : (s.modNor g).ops = s.ops := rfl
@[simp] theorem State.modNor_nextOp (g : Nor → Nor) : (s.modNor g).nextOp = s.nextOp := rfl
@[simp] theorem State.modNor_spent (g : Nor → Nor) : (s.modNor g).spent = s.spent := rfl
@[simp] theorem State.modNor_armed (g : Nor → Nor) : (s.modNor g).armed = s.armed := rfl
@[simp] theorem State.modNor_flags (g : Nor → Nor) : (s.modNor g).flags = s.flags := rfl
@[simp] theorem State.modNor_peers (g : Nor → Nor) : (s.modNor g).peers = s.peers := rfl
@[simp] theorem State.modNor_channels (g : Nor → Nor) : (s.modNor g).channels = s.channels := rfl
@[simp] theorem State.modNor_mes (g : Nor → Nor) : (s.modNor g).mes = s.mes := rfl
@[simp] theorem State.modNor_tiers (g : Nor → Nor) : (s.modNor g).tiers = s.tiers := rfl
@[simp] theorem State.modNor_host (g : Nor → Nor) : (s.modNor g).host = s.host := rfl
@[simp] theorem State.modNor_qps (g : Nor → Nor) : (s.modNor g).qps = s.qps := rfl
@[simp] theorem State.modNor_nextHome (g : Nor → Nor) : (s.modNor g).nextHome = s.nextHome := rfl
@[simp] theorem State.modNor_cache (g : Nor → Nor) : (s.modNor g).cache = s.cache := rfl
@[simp] theorem State.modNor_sidings (g : Nor → Nor) : (s.modNor g).sidings = s.sidings := rfl
@[simp] theorem State.modNor_arrived (g : Nor → Nor) : (s.modNor g).arrived = s.arrived := rfl
@[simp] theorem State.modNor_slots (g : Nor → Nor) : (s.modNor g).slots = s.slots := rfl
@[simp] theorem State.modNor_epoch (g : Nor → Nor) : (s.modNor g).epoch = s.epoch := rfl
@[simp] theorem State.modNor_answered (g : Nor → Nor) : (s.modNor g).answered = s.answered := rfl
@[simp] theorem State.modNor_requests (g : Nor → Nor) : (s.modNor g).requests = s.requests := rfl
@[simp] theorem State.modNor_nextReq (g : Nor → Nor) : (s.modNor g).nextReq = s.nextReq := rfl
@[simp] theorem State.modNor_passed (g : Nor → Nor) : (s.modNor g).passed = s.passed := rfl
@[simp] theorem State.modNor_agent (g : Nor → Nor) : (s.modNor g).agent = s.agent := rfl
@[simp] theorem State.modNor_ports (g : Nor → Nor) : (s.modNor g).ports = s.ports := rfl
@[simp] theorem State.modNor_local_ (g : Nor → Nor) : (s.modNor g).local_ = s.local_ := rfl
@[simp] theorem State.modNor_sent (g : Nor → Nor) : (s.modNor g).sent = s.sent := rfl
@[simp] theorem State.modNor_groups (g : Nor → Nor) : (s.modNor g).groups = s.groups := rfl
@[simp] theorem State.modNor_plans (g : Nor → Nor) : (s.modNor g).plans = s.plans := rfl
@[simp] theorem State.modNor_runs (g : Nor → Nor) : (s.modNor g).runs = s.runs := rfl
@[simp] theorem State.modNor_nextRun (g : Nor → Nor) : (s.modNor g).nextRun = s.nextRun := rfl
@[simp] theorem State.modNor_clusters (g : Nor → Nor) : (s.modNor g).clusters = s.clusters := rfl
@[simp] theorem State.modNor_gals (g : Nor → Nor) : (s.modNor g).gals = s.gals := rfl
@[simp] theorem State.modNor_scrubs (g : Nor → Nor) : (s.modNor g).scrubs = s.scrubs := rfl
@[simp] theorem State.modNor_links (g : Nor → Nor) : (s.modNor g).links = s.links := rfl
@[simp] theorem State.modNor_hps (g : Nor → Nor) : (s.modNor g).hps = s.hps := rfl
@[simp] theorem State.modNor_recov (g : Nor → Nor) : (s.modNor g).recov = s.recov := rfl
@[simp] theorem State.modNor_sec (g : Nor → Nor) : (s.modNor g).sec = s.sec := rfl
@[simp] theorem State.modNor_power (g : Nor → Nor) : (s.modNor g).power = s.power := rfl
@[simp] theorem State.modNor_dbg (g : Nor → Nor) : (s.modNor g).dbg = s.dbg := rfl
@[simp] theorem State.modNor_counters (g : Nor → Nor) : (s.modNor g).counters = s.counters := rfl
@[simp] theorem State.modNor_irqs (g : Nor → Nor) : (s.modNor g).irqs = s.irqs := rfl
@[simp] theorem State.modNor_msixPend (g : Nor → Nor) : (s.modNor g).msixPend = s.msixPend := rfl
@[simp] theorem State.modNor_mboxPend (g : Nor → Nor) : (s.modNor g).mboxPend = s.mboxPend := rfl
@[simp] theorem State.modNor_pending (g : Nor → Nor) : (s.modNor g).pending = s.pending := rfl
@[simp] theorem State.modNor_free (g : Nor → Nor) : (s.modNor g).free = s.free := rfl

/-! ### modRecov -/

@[simp] theorem State.modRecov_tclk (g : Recovery → Recovery) : (s.modRecov g).tclk = s.tclk := rfl
@[simp] theorem State.modRecov_activity (g : Recovery → Recovery) : (s.modRecov g).activity = s.activity := rfl
@[simp] theorem State.modRecov_lands (g : Recovery → Recovery) : (s.modRecov g).lands = s.lands := rfl
@[simp] theorem State.modRecov_fuses (g : Recovery → Recovery) : (s.modRecov g).fuses = s.fuses := rfl
@[simp] theorem State.modRecov_nor (g : Recovery → Recovery) : (s.modRecov g).nor = s.nor := rfl
@[simp] theorem State.modRecov_boot (g : Recovery → Recovery) : (s.modRecov g).boot = s.boot := rfl
@[simp] theorem State.modRecov_procs (g : Recovery → Recovery) : (s.modRecov g).procs = s.procs := rfl
@[simp] theorem State.modRecov_regs (g : Recovery → Recovery) : (s.modRecov g).regs = s.regs := rfl
@[simp] theorem State.modRecov_fns (g : Recovery → Recovery) : (s.modRecov g).fns = s.fns := rfl
@[simp] theorem State.modRecov_ctxs (g : Recovery → Recovery) : (s.modRecov g).ctxs = s.ctxs := rfl
@[simp] theorem State.modRecov_gens (g : Recovery → Recovery) : (s.modRecov g).gens = s.gens := rfl
@[simp] theorem State.modRecov_sqs (g : Recovery → Recovery) : (s.modRecov g).sqs = s.sqs := rfl
@[simp] theorem State.modRecov_cqs (g : Recovery → Recovery) : (s.modRecov g).cqs = s.cqs := rfl
@[simp] theorem State.modRecov_eqs (g : Recovery → Recovery) : (s.modRecov g).eqs = s.eqs := rfl
@[simp] theorem State.modRecov_ops (g : Recovery → Recovery) : (s.modRecov g).ops = s.ops := rfl
@[simp] theorem State.modRecov_nextOp (g : Recovery → Recovery) : (s.modRecov g).nextOp = s.nextOp := rfl
@[simp] theorem State.modRecov_spent (g : Recovery → Recovery) : (s.modRecov g).spent = s.spent := rfl
@[simp] theorem State.modRecov_armed (g : Recovery → Recovery) : (s.modRecov g).armed = s.armed := rfl
@[simp] theorem State.modRecov_flags (g : Recovery → Recovery) : (s.modRecov g).flags = s.flags := rfl
@[simp] theorem State.modRecov_peers (g : Recovery → Recovery) : (s.modRecov g).peers = s.peers := rfl
@[simp] theorem State.modRecov_channels (g : Recovery → Recovery) : (s.modRecov g).channels = s.channels := rfl
@[simp] theorem State.modRecov_mes (g : Recovery → Recovery) : (s.modRecov g).mes = s.mes := rfl
@[simp] theorem State.modRecov_tiers (g : Recovery → Recovery) : (s.modRecov g).tiers = s.tiers := rfl
@[simp] theorem State.modRecov_host (g : Recovery → Recovery) : (s.modRecov g).host = s.host := rfl
@[simp] theorem State.modRecov_qps (g : Recovery → Recovery) : (s.modRecov g).qps = s.qps := rfl
@[simp] theorem State.modRecov_nextHome (g : Recovery → Recovery) : (s.modRecov g).nextHome = s.nextHome := rfl
@[simp] theorem State.modRecov_cache (g : Recovery → Recovery) : (s.modRecov g).cache = s.cache := rfl
@[simp] theorem State.modRecov_sidings (g : Recovery → Recovery) : (s.modRecov g).sidings = s.sidings := rfl
@[simp] theorem State.modRecov_arrived (g : Recovery → Recovery) : (s.modRecov g).arrived = s.arrived := rfl
@[simp] theorem State.modRecov_slots (g : Recovery → Recovery) : (s.modRecov g).slots = s.slots := rfl
@[simp] theorem State.modRecov_epoch (g : Recovery → Recovery) : (s.modRecov g).epoch = s.epoch := rfl
@[simp] theorem State.modRecov_answered (g : Recovery → Recovery) : (s.modRecov g).answered = s.answered := rfl
@[simp] theorem State.modRecov_requests (g : Recovery → Recovery) : (s.modRecov g).requests = s.requests := rfl
@[simp] theorem State.modRecov_nextReq (g : Recovery → Recovery) : (s.modRecov g).nextReq = s.nextReq := rfl
@[simp] theorem State.modRecov_passed (g : Recovery → Recovery) : (s.modRecov g).passed = s.passed := rfl
@[simp] theorem State.modRecov_agent (g : Recovery → Recovery) : (s.modRecov g).agent = s.agent := rfl
@[simp] theorem State.modRecov_ports (g : Recovery → Recovery) : (s.modRecov g).ports = s.ports := rfl
@[simp] theorem State.modRecov_local_ (g : Recovery → Recovery) : (s.modRecov g).local_ = s.local_ := rfl
@[simp] theorem State.modRecov_sent (g : Recovery → Recovery) : (s.modRecov g).sent = s.sent := rfl
@[simp] theorem State.modRecov_groups (g : Recovery → Recovery) : (s.modRecov g).groups = s.groups := rfl
@[simp] theorem State.modRecov_plans (g : Recovery → Recovery) : (s.modRecov g).plans = s.plans := rfl
@[simp] theorem State.modRecov_runs (g : Recovery → Recovery) : (s.modRecov g).runs = s.runs := rfl
@[simp] theorem State.modRecov_nextRun (g : Recovery → Recovery) : (s.modRecov g).nextRun = s.nextRun := rfl
@[simp] theorem State.modRecov_clusters (g : Recovery → Recovery) : (s.modRecov g).clusters = s.clusters := rfl
@[simp] theorem State.modRecov_gals (g : Recovery → Recovery) : (s.modRecov g).gals = s.gals := rfl
@[simp] theorem State.modRecov_scrubs (g : Recovery → Recovery) : (s.modRecov g).scrubs = s.scrubs := rfl
@[simp] theorem State.modRecov_links (g : Recovery → Recovery) : (s.modRecov g).links = s.links := rfl
@[simp] theorem State.modRecov_hps (g : Recovery → Recovery) : (s.modRecov g).hps = s.hps := rfl
@[simp] theorem State.modRecov_recov (g : Recovery → Recovery) : (s.modRecov g).recov = g s.recov := rfl
@[simp] theorem State.modRecov_sec (g : Recovery → Recovery) : (s.modRecov g).sec = s.sec := rfl
@[simp] theorem State.modRecov_power (g : Recovery → Recovery) : (s.modRecov g).power = s.power := rfl
@[simp] theorem State.modRecov_dbg (g : Recovery → Recovery) : (s.modRecov g).dbg = s.dbg := rfl
@[simp] theorem State.modRecov_counters (g : Recovery → Recovery) : (s.modRecov g).counters = s.counters := rfl
@[simp] theorem State.modRecov_irqs (g : Recovery → Recovery) : (s.modRecov g).irqs = s.irqs := rfl
@[simp] theorem State.modRecov_msixPend (g : Recovery → Recovery) : (s.modRecov g).msixPend = s.msixPend := rfl
@[simp] theorem State.modRecov_mboxPend (g : Recovery → Recovery) : (s.modRecov g).mboxPend = s.mboxPend := rfl
@[simp] theorem State.modRecov_pending (g : Recovery → Recovery) : (s.modRecov g).pending = s.pending := rfl
@[simp] theorem State.modRecov_free (g : Recovery → Recovery) : (s.modRecov g).free = s.free := rfl

/-! ### setWord -/

@[simp] theorem State.setWord_tclk (f off v : Nat) : (s.setWord f off v).tclk = s.tclk := rfl
@[simp] theorem State.setWord_activity (f off v : Nat) : (s.setWord f off v).activity = s.activity := rfl
@[simp] theorem State.setWord_lands (f off v : Nat) : (s.setWord f off v).lands = s.lands := rfl
@[simp] theorem State.setWord_fuses (f off v : Nat) : (s.setWord f off v).fuses = s.fuses := rfl
@[simp] theorem State.setWord_nor (f off v : Nat) : (s.setWord f off v).nor = s.nor := rfl
@[simp] theorem State.setWord_boot (f off v : Nat) : (s.setWord f off v).boot = s.boot := rfl
@[simp] theorem State.setWord_procs (f off v : Nat) : (s.setWord f off v).procs = s.procs := rfl
@[simp] theorem State.setWord_fns (f off v : Nat) : (s.setWord f off v).fns = s.fns := rfl
@[simp] theorem State.setWord_ctxs (f off v : Nat) : (s.setWord f off v).ctxs = s.ctxs := rfl
@[simp] theorem State.setWord_gens (f off v : Nat) : (s.setWord f off v).gens = s.gens := rfl
@[simp] theorem State.setWord_sqs (f off v : Nat) : (s.setWord f off v).sqs = s.sqs := rfl
@[simp] theorem State.setWord_cqs (f off v : Nat) : (s.setWord f off v).cqs = s.cqs := rfl
@[simp] theorem State.setWord_eqs (f off v : Nat) : (s.setWord f off v).eqs = s.eqs := rfl
@[simp] theorem State.setWord_ops (f off v : Nat) : (s.setWord f off v).ops = s.ops := rfl
@[simp] theorem State.setWord_nextOp (f off v : Nat) : (s.setWord f off v).nextOp = s.nextOp := rfl
@[simp] theorem State.setWord_spent (f off v : Nat) : (s.setWord f off v).spent = s.spent := rfl
@[simp] theorem State.setWord_armed (f off v : Nat) : (s.setWord f off v).armed = s.armed := rfl
@[simp] theorem State.setWord_flags (f off v : Nat) : (s.setWord f off v).flags = s.flags := rfl
@[simp] theorem State.setWord_peers (f off v : Nat) : (s.setWord f off v).peers = s.peers := rfl
@[simp] theorem State.setWord_channels (f off v : Nat) : (s.setWord f off v).channels = s.channels := rfl
@[simp] theorem State.setWord_mes (f off v : Nat) : (s.setWord f off v).mes = s.mes := rfl
@[simp] theorem State.setWord_tiers (f off v : Nat) : (s.setWord f off v).tiers = s.tiers := rfl
@[simp] theorem State.setWord_host (f off v : Nat) : (s.setWord f off v).host = s.host := rfl
@[simp] theorem State.setWord_qps (f off v : Nat) : (s.setWord f off v).qps = s.qps := rfl
@[simp] theorem State.setWord_nextHome (f off v : Nat) : (s.setWord f off v).nextHome = s.nextHome := rfl
@[simp] theorem State.setWord_cache (f off v : Nat) : (s.setWord f off v).cache = s.cache := rfl
@[simp] theorem State.setWord_sidings (f off v : Nat) : (s.setWord f off v).sidings = s.sidings := rfl
@[simp] theorem State.setWord_arrived (f off v : Nat) : (s.setWord f off v).arrived = s.arrived := rfl
@[simp] theorem State.setWord_slots (f off v : Nat) : (s.setWord f off v).slots = s.slots := rfl
@[simp] theorem State.setWord_epoch (f off v : Nat) : (s.setWord f off v).epoch = s.epoch := rfl
@[simp] theorem State.setWord_answered (f off v : Nat) : (s.setWord f off v).answered = s.answered := rfl
@[simp] theorem State.setWord_requests (f off v : Nat) : (s.setWord f off v).requests = s.requests := rfl
@[simp] theorem State.setWord_nextReq (f off v : Nat) : (s.setWord f off v).nextReq = s.nextReq := rfl
@[simp] theorem State.setWord_passed (f off v : Nat) : (s.setWord f off v).passed = s.passed := rfl
@[simp] theorem State.setWord_agent (f off v : Nat) : (s.setWord f off v).agent = s.agent := rfl
@[simp] theorem State.setWord_ports (f off v : Nat) : (s.setWord f off v).ports = s.ports := rfl
@[simp] theorem State.setWord_local_ (f off v : Nat) : (s.setWord f off v).local_ = s.local_ := rfl
@[simp] theorem State.setWord_sent (f off v : Nat) : (s.setWord f off v).sent = s.sent := rfl
@[simp] theorem State.setWord_groups (f off v : Nat) : (s.setWord f off v).groups = s.groups := rfl
@[simp] theorem State.setWord_plans (f off v : Nat) : (s.setWord f off v).plans = s.plans := rfl
@[simp] theorem State.setWord_runs (f off v : Nat) : (s.setWord f off v).runs = s.runs := rfl
@[simp] theorem State.setWord_nextRun (f off v : Nat) : (s.setWord f off v).nextRun = s.nextRun := rfl
@[simp] theorem State.setWord_clusters (f off v : Nat) : (s.setWord f off v).clusters = s.clusters := rfl
@[simp] theorem State.setWord_gals (f off v : Nat) : (s.setWord f off v).gals = s.gals := rfl
@[simp] theorem State.setWord_scrubs (f off v : Nat) : (s.setWord f off v).scrubs = s.scrubs := rfl
@[simp] theorem State.setWord_links (f off v : Nat) : (s.setWord f off v).links = s.links := rfl
@[simp] theorem State.setWord_hps (f off v : Nat) : (s.setWord f off v).hps = s.hps := rfl
@[simp] theorem State.setWord_recov (f off v : Nat) : (s.setWord f off v).recov = s.recov := rfl
@[simp] theorem State.setWord_sec (f off v : Nat) : (s.setWord f off v).sec = s.sec := rfl
@[simp] theorem State.setWord_power (f off v : Nat) : (s.setWord f off v).power = s.power := rfl
@[simp] theorem State.setWord_dbg (f off v : Nat) : (s.setWord f off v).dbg = s.dbg := rfl
@[simp] theorem State.setWord_counters (f off v : Nat) : (s.setWord f off v).counters = s.counters := rfl
@[simp] theorem State.setWord_irqs (f off v : Nat) : (s.setWord f off v).irqs = s.irqs := rfl
@[simp] theorem State.setWord_msixPend (f off v : Nat) : (s.setWord f off v).msixPend = s.msixPend := rfl
@[simp] theorem State.setWord_mboxPend (f off v : Nat) : (s.setWord f off v).mboxPend = s.mboxPend := rfl
@[simp] theorem State.setWord_pending (f off v : Nat) : (s.setWord f off v).pending = s.pending := rfl
@[simp] theorem State.setWord_free (f off v : Nat) : (s.setWord f off v).free = s.free := rfl

/-! ### withStores -/

@[simp] theorem State.withStores_tclk (l : List HostStore) : (s.withStores l).tclk = s.tclk := rfl
@[simp] theorem State.withStores_activity (l : List HostStore) : (s.withStores l).activity = s.activity := rfl
@[simp] theorem State.withStores_lands (l : List HostStore) : (s.withStores l).lands = s.lands := rfl
@[simp] theorem State.withStores_fuses (l : List HostStore) : (s.withStores l).fuses = s.fuses := rfl
@[simp] theorem State.withStores_nor (l : List HostStore) : (s.withStores l).nor = s.nor := rfl
@[simp] theorem State.withStores_boot (l : List HostStore) : (s.withStores l).boot = s.boot := rfl
@[simp] theorem State.withStores_procs (l : List HostStore) : (s.withStores l).procs = s.procs := rfl
@[simp] theorem State.withStores_regs (l : List HostStore) : (s.withStores l).regs = s.regs := rfl
@[simp] theorem State.withStores_fns (l : List HostStore) : (s.withStores l).fns = s.fns := rfl
@[simp] theorem State.withStores_ctxs (l : List HostStore) : (s.withStores l).ctxs = s.ctxs := rfl
@[simp] theorem State.withStores_gens (l : List HostStore) : (s.withStores l).gens = s.gens := rfl
@[simp] theorem State.withStores_sqs (l : List HostStore) : (s.withStores l).sqs = s.sqs := rfl
@[simp] theorem State.withStores_cqs (l : List HostStore) : (s.withStores l).cqs = s.cqs := rfl
@[simp] theorem State.withStores_eqs (l : List HostStore) : (s.withStores l).eqs = s.eqs := rfl
@[simp] theorem State.withStores_ops (l : List HostStore) : (s.withStores l).ops = s.ops := rfl
@[simp] theorem State.withStores_nextOp (l : List HostStore) : (s.withStores l).nextOp = s.nextOp := rfl
@[simp] theorem State.withStores_spent (l : List HostStore) : (s.withStores l).spent = s.spent := rfl
@[simp] theorem State.withStores_armed (l : List HostStore) : (s.withStores l).armed = s.armed := rfl
@[simp] theorem State.withStores_flags (l : List HostStore) : (s.withStores l).flags = s.flags := rfl
@[simp] theorem State.withStores_peers (l : List HostStore) : (s.withStores l).peers = s.peers := rfl
@[simp] theorem State.withStores_channels (l : List HostStore) : (s.withStores l).channels = s.channels := rfl
@[simp] theorem State.withStores_mes (l : List HostStore) : (s.withStores l).mes = s.mes := rfl
@[simp] theorem State.withStores_tiers (l : List HostStore) : (s.withStores l).tiers = s.tiers := rfl
@[simp] theorem State.withStores_qps (l : List HostStore) : (s.withStores l).qps = s.qps := rfl
@[simp] theorem State.withStores_nextHome (l : List HostStore) : (s.withStores l).nextHome = s.nextHome := rfl
@[simp] theorem State.withStores_cache (l : List HostStore) : (s.withStores l).cache = s.cache := rfl
@[simp] theorem State.withStores_sidings (l : List HostStore) : (s.withStores l).sidings = s.sidings := rfl
@[simp] theorem State.withStores_arrived (l : List HostStore) : (s.withStores l).arrived = s.arrived := rfl
@[simp] theorem State.withStores_slots (l : List HostStore) : (s.withStores l).slots = s.slots := rfl
@[simp] theorem State.withStores_epoch (l : List HostStore) : (s.withStores l).epoch = s.epoch := rfl
@[simp] theorem State.withStores_answered (l : List HostStore) : (s.withStores l).answered = s.answered := rfl
@[simp] theorem State.withStores_requests (l : List HostStore) : (s.withStores l).requests = s.requests := rfl
@[simp] theorem State.withStores_nextReq (l : List HostStore) : (s.withStores l).nextReq = s.nextReq := rfl
@[simp] theorem State.withStores_passed (l : List HostStore) : (s.withStores l).passed = s.passed := rfl
@[simp] theorem State.withStores_agent (l : List HostStore) : (s.withStores l).agent = s.agent := rfl
@[simp] theorem State.withStores_ports (l : List HostStore) : (s.withStores l).ports = s.ports := rfl
@[simp] theorem State.withStores_local_ (l : List HostStore) : (s.withStores l).local_ = s.local_ := rfl
@[simp] theorem State.withStores_sent (l : List HostStore) : (s.withStores l).sent = s.sent := rfl
@[simp] theorem State.withStores_groups (l : List HostStore) : (s.withStores l).groups = s.groups := rfl
@[simp] theorem State.withStores_plans (l : List HostStore) : (s.withStores l).plans = s.plans := rfl
@[simp] theorem State.withStores_runs (l : List HostStore) : (s.withStores l).runs = s.runs := rfl
@[simp] theorem State.withStores_nextRun (l : List HostStore) : (s.withStores l).nextRun = s.nextRun := rfl
@[simp] theorem State.withStores_clusters (l : List HostStore) : (s.withStores l).clusters = s.clusters := rfl
@[simp] theorem State.withStores_gals (l : List HostStore) : (s.withStores l).gals = s.gals := rfl
@[simp] theorem State.withStores_scrubs (l : List HostStore) : (s.withStores l).scrubs = s.scrubs := rfl
@[simp] theorem State.withStores_links (l : List HostStore) : (s.withStores l).links = s.links := rfl
@[simp] theorem State.withStores_hps (l : List HostStore) : (s.withStores l).hps = s.hps := rfl
@[simp] theorem State.withStores_recov (l : List HostStore) : (s.withStores l).recov = s.recov := rfl
@[simp] theorem State.withStores_sec (l : List HostStore) : (s.withStores l).sec = s.sec := rfl
@[simp] theorem State.withStores_power (l : List HostStore) : (s.withStores l).power = s.power := rfl
@[simp] theorem State.withStores_dbg (l : List HostStore) : (s.withStores l).dbg = s.dbg := rfl
@[simp] theorem State.withStores_counters (l : List HostStore) : (s.withStores l).counters = s.counters := rfl
@[simp] theorem State.withStores_irqs (l : List HostStore) : (s.withStores l).irqs = s.irqs := rfl
@[simp] theorem State.withStores_msixPend (l : List HostStore) : (s.withStores l).msixPend = s.msixPend := rfl
@[simp] theorem State.withStores_mboxPend (l : List HostStore) : (s.withStores l).mboxPend = s.mboxPend := rfl
@[simp] theorem State.withStores_pending (l : List HostStore) : (s.withStores l).pending = s.pending := rfl
@[simp] theorem State.withStores_free (l : List HostStore) : (s.withStores l).free = s.free := rfl

/-! ### draw -/

@[simp] theorem State.draw_fst : s.draw.1 = s.free := rfl
@[simp] theorem State.draw_tclk : s.draw.2.tclk = s.tclk := rfl
@[simp] theorem State.draw_activity : s.draw.2.activity = s.activity := rfl
@[simp] theorem State.draw_lands : s.draw.2.lands = s.lands := rfl
@[simp] theorem State.draw_fuses : s.draw.2.fuses = s.fuses := rfl
@[simp] theorem State.draw_nor : s.draw.2.nor = s.nor := rfl
@[simp] theorem State.draw_boot : s.draw.2.boot = s.boot := rfl
@[simp] theorem State.draw_procs : s.draw.2.procs = s.procs := rfl
@[simp] theorem State.draw_regs : s.draw.2.regs = s.regs := rfl
@[simp] theorem State.draw_fns : s.draw.2.fns = s.fns := rfl
@[simp] theorem State.draw_ctxs : s.draw.2.ctxs = s.ctxs := rfl
@[simp] theorem State.draw_gens : s.draw.2.gens = s.gens := rfl
@[simp] theorem State.draw_sqs : s.draw.2.sqs = s.sqs := rfl
@[simp] theorem State.draw_cqs : s.draw.2.cqs = s.cqs := rfl
@[simp] theorem State.draw_eqs : s.draw.2.eqs = s.eqs := rfl
@[simp] theorem State.draw_ops : s.draw.2.ops = s.ops := rfl
@[simp] theorem State.draw_nextOp : s.draw.2.nextOp = s.nextOp := rfl
@[simp] theorem State.draw_spent : s.draw.2.spent = s.spent := rfl
@[simp] theorem State.draw_armed : s.draw.2.armed = s.armed := rfl
@[simp] theorem State.draw_flags : s.draw.2.flags = s.flags := rfl
@[simp] theorem State.draw_peers : s.draw.2.peers = s.peers := rfl
@[simp] theorem State.draw_channels : s.draw.2.channels = s.channels := rfl
@[simp] theorem State.draw_mes : s.draw.2.mes = s.mes := rfl
@[simp] theorem State.draw_tiers : s.draw.2.tiers = s.tiers := rfl
@[simp] theorem State.draw_host : s.draw.2.host = s.host := rfl
@[simp] theorem State.draw_qps : s.draw.2.qps = s.qps := rfl
@[simp] theorem State.draw_nextHome : s.draw.2.nextHome = s.nextHome := rfl
@[simp] theorem State.draw_cache : s.draw.2.cache = s.cache := rfl
@[simp] theorem State.draw_sidings : s.draw.2.sidings = s.sidings := rfl
@[simp] theorem State.draw_arrived : s.draw.2.arrived = s.arrived := rfl
@[simp] theorem State.draw_slots : s.draw.2.slots = s.slots := rfl
@[simp] theorem State.draw_epoch : s.draw.2.epoch = s.epoch := rfl
@[simp] theorem State.draw_answered : s.draw.2.answered = s.answered := rfl
@[simp] theorem State.draw_requests : s.draw.2.requests = s.requests := rfl
@[simp] theorem State.draw_nextReq : s.draw.2.nextReq = s.nextReq := rfl
@[simp] theorem State.draw_passed : s.draw.2.passed = s.passed := rfl
@[simp] theorem State.draw_agent : s.draw.2.agent = s.agent := rfl
@[simp] theorem State.draw_ports : s.draw.2.ports = s.ports := rfl
@[simp] theorem State.draw_local_ : s.draw.2.local_ = s.local_ := rfl
@[simp] theorem State.draw_sent : s.draw.2.sent = s.sent := rfl
@[simp] theorem State.draw_groups : s.draw.2.groups = s.groups := rfl
@[simp] theorem State.draw_plans : s.draw.2.plans = s.plans := rfl
@[simp] theorem State.draw_runs : s.draw.2.runs = s.runs := rfl
@[simp] theorem State.draw_nextRun : s.draw.2.nextRun = s.nextRun := rfl
@[simp] theorem State.draw_clusters : s.draw.2.clusters = s.clusters := rfl
@[simp] theorem State.draw_gals : s.draw.2.gals = s.gals := rfl
@[simp] theorem State.draw_scrubs : s.draw.2.scrubs = s.scrubs := rfl
@[simp] theorem State.draw_links : s.draw.2.links = s.links := rfl
@[simp] theorem State.draw_hps : s.draw.2.hps = s.hps := rfl
@[simp] theorem State.draw_recov : s.draw.2.recov = s.recov := rfl
@[simp] theorem State.draw_sec : s.draw.2.sec = s.sec := rfl
@[simp] theorem State.draw_power : s.draw.2.power = s.power := rfl
@[simp] theorem State.draw_dbg : s.draw.2.dbg = s.dbg := rfl
@[simp] theorem State.draw_counters : s.draw.2.counters = s.counters := rfl
@[simp] theorem State.draw_irqs : s.draw.2.irqs = s.irqs := rfl
@[simp] theorem State.draw_msixPend : s.draw.2.msixPend = s.msixPend := rfl
@[simp] theorem State.draw_mboxPend : s.draw.2.mboxPend = s.mboxPend := rfl
@[simp] theorem State.draw_pending : s.draw.2.pending = s.pending := rfl
@[simp] theorem State.draw_free : s.draw.2.free = s.free + 1 := rfl

end Sys2Proof.Machine
end

