-- ==== Sys2Proof/Machine/Views.lean ====
section
/-! DEFINITION. What a read of a register gives (R5, R371–R375, R497–R515): the fields that the ZD24 sets, beside those that the last write
left. No command of the table is a read, so nothing but statements uses these (notes/assumptions/87.md). -/

namespace Sys2Proof.Machine

/-- The numbers by which Tables 12.17, 13.4, 6.4 and 16.11 report a state. -/
def FnState.code : FnState → Nat
  | .disabled => 0 | .active => 1 | .quiescing => 2 | .quiesced => 3 | .resetting => 4

def KeyState.code : KeyState → Nat
  | .empty => 0 | .loaded => 1 | .invalid => 2 | .exhausted => 3

def SlotState.code : SlotState → Nat
  | .invalid => 0 | .loading => 1 | .sealed_ => 2

def StopState.code : StopState → Nat
  | .running => 0 | .pending => 1 | .stopped => 2 | .scanning => 3 | .scanned => 4 | .resuming => 5

/-! ### The hardware core and the FN_ block (Tables 12.6, 12.8, 12.9, 12.12, 3.2) -/

/-- FN_IDENTITY (Table 12.8). -/
def State.identityReg (s : State) (f : Nat) : Nat :=
  0x5A18 + 2 ^ 16 * (Config.stepping.toNat % 16) + 2 ^ 24 * f + 2 ^ 40 * (s.boot.ifMajor % 256) +
  sum ((List.range 6).map fun g => 2 ^ (48 + 2 * g) * ((s.gal g).divider % 4))

/-- FN_CLUSTERS (Table 12.6). -/
def State.clustersReg (s : State) : Nat := sum (s.presents.map fun c => 2 ^ c)

/-- HUB_LOAD_CTRL (Table 14.3). -/
def State.loadReg (s : State) : Nat := 2 ^ 4 * ofBool s.boot.busy + 2 ^ 5 * s.boot.result

def State.coreView (s : State) (f off : Nat) : Nat :=
  if off < 0x008 then wordOf (s.identityReg f) off
  else if off < 0x010 then wordOf s.clustersReg (off - 0x008)
  else if off < 0x018 then wordOf s.memTop (off - 0x010)
  else if off = 0x020 then s.bootStatus
  else if f = 0 ∧ off = 0x080 then s.loadReg
  else 0

/-- FN_ADMIN_CFG and FN_MBOX_CTRL; the rest as last written. -/
def State.fnView (s : State) (f off : Nat) : Nat :=
  let x := s.fn f
  if off = 0x1000 then
    s.word f off + 2 ^ 16 * ofBool x.admin.enable + 2 ^ 17 * ofBool x.admin.ready + 2 ^ 18 * ofBool x.admin.cfgError
  else if off = 0x1040 then (if f = 0 then 0 else 2 * ofBool x.mgrFull + 4 * ofBool x.tenFull)
  else s.word f off

/-! ### HUB_ registers (Tables 6.9, 12.15, 12.17, 12.20, 14.12, 15.11) -/

/-- HUB_FN_STATUS of the selected function. -/
def State.statusReg (s : State) : Nat :=
  let f := s.fnSel
  let x := s.fn f
  x.state.code + 2 ^ 3 * ofBool x.halted + 2 ^ 4 * ofBool (s.fns.any fun e => e.2.busy) + 2 ^ 5 * x.result + 2 ^ 8 * ofBool x.dirty.enable +
  2 ^ 16 * Nat.min 0xFFFF (s.inFlight f)

/-- The 64-bit values of the dirty-logging registers of the selected function, in the order of their offsets. -/
def Dirty.values (d : Dirty) : List W64 := [d.hostBase, d.hostLen, d.hostMap0, d.hostMap1, d.devMap0, d.devMap1]

def Dirty.cfg (d : Dirty) : Nat :=
  ofBool d.enable + 2 ^ 2 * ofBool d.busy + 2 ^ 3 * ofBool d.active + 2 ^ 4 * ofBool d.overflow + 2 ^ 5 * ofBool d.cfgError

/-- HUB_POWER_STATUS. -/
def State.powerReg (s : State) : Nat :=
  Nat.min 0xFFF s.power.watts + 2 ^ 12 * maxOf (s.power.rungs.map (·.1)) + 2 ^ 14 * ofBool s.power.thermal + 2 ^ 15 * ofBool s.nextRung.isNone

def State.hubView (s : State) (off : Nat) : Nat :=
  let d := (s.fn s.fnSel).dirty
  if off = 0x010020 then
    s.word 0 off + s.epoch + 2 ^ 4 * (s.slot 0).state.code + 2 ^ 6 * (s.slot 1).state.code
  else if off = 0x010104 then 0
  else if off = 0x010108 then s.statusReg
  else if 0x010140 ≤ off ∧ off < 0x010168 then
    sum ((List.range 32).map fun i => 2 ^ i * ofBool (s.mboxPend.contains ((off - 0x010140) * 8 + i)))
  else if off = 0x010180 then d.cfg
  else if 0x010188 ≤ off ∧ off < 0x0101B8 then wordOf (d.values.getD ((off - 0x010188) / 8) 0).toNat (off % 8)
  else if 0x010200 ≤ off ∧ off < 0x010400 ∧ off % 16 = 12 then ofBool (s.peer ((off - 0x010200) / 16)).valid
  else if off = 0x010400 then 2 ^ 16 * ofBool s.recov.busy + 2 ^ 17 * s.recov.result
  else if off = 0x010444 then s.powerReg
  else s.word 0 off

/-! ### PORT_ registers (Tables 6.14, 11.3, 11.11, 17.6) -/

/-- Whether the sub-port to which a place in the lane order belongs is up. -/
def State.laneUp (s : State) (p i : Nat) : Bool := (s.upSubs p).contains (if s.subCount p = 1 then 0 else i / (8 / s.subCount p))

/-- The lanes that carry data. -/
def State.lanesActive (s : State) (p : Nat) : List Nat :=
  ((s.port p).lanes.zipIdx.filter fun e => s.laneUp p e.2).map (·.1)

/-- PORT_LANE_STATUS: the status of the lanes once the package has started; a link that is down has no width. -/
def State.laneReg (s : State) (p : Nat) : Nat :=
  let x := s.port p
  let width := if (s.upSubs p).isEmpty then 0 else match x.width with
    | .down => 0
    | .half => 1
    | _ => 2
  s.word 0 (portBase p + 0x18) + (if (tget s.ports p).isSome then (~~~x.allFailed).toNat else 0) +
  sum ((s.lanesActive p).map fun m => 2 ^ (9 + m)) + 2 ^ 18 * width + 2 ^ 20 * ofBool x.spareFor.isSome

/-- PORT_ROUTE_STATUS. -/
def State.routeReg (s : State) (p : Nat) : Nat := ofBool (s.portLive p) + 2 ^ 16 * Nat.min 0xFFFF (s.port p).delay

/-- A sub-port page; that of a sub-port which the breakout does not give reads zero. -/
def State.subView (s : State) (p sub q : Nat) : Nat :=
  let x := s.sub p sub
  if s.subCount p ≤ sub then 0
  else if q < 0x400 then wordOf ((tgetD x.stats (q / 8) 0).toNat % 2 ^ 40) (q % 8)
  else if 0x440 ≤ q ∧ q < 0x450 then bits x.half.toNat (8 * (q - 0x440) + 31) (8 * (q - 0x440))
  else if 0x450 ≤ q ∧ q < 0x460 then bits x.ovf.toNat (8 * (q - 0x450) + 31) (8 * (q - 0x450))
  else if q = 0x46C then s.word 0 (subBase p sub + q) % 2 + 2 ^ 2 * ofBool x.pending + 2 ^ 3 * x.bank
  else s.word 0 (subBase p sub + q)

def State.portView (s : State) (off : Nat) : Nat :=
  let p := (off - 0x040000) / 0x4000
  let o := (off - 0x040000) % 0x4000
  if 0x0800 ≤ o then s.subView p ((o - 0x0800) / 0x700) ((o - 0x0800) % 0x700)
  else if o = 0x0018 then s.laneReg p
  else if o = 0x0024 then s.routeReg p
  else s.word 0 off

/-! ### GAL_ registers (Tables 15.7, 16.8, 17.7) -/

/-- GAL_STATUS. -/
def Gallery.status (x : Gallery) : Nat :=
  x.divider + 2 ^ 2 * x.floor + 2 ^ 4 * x.demand + 2 ^ 6 * x.power + 2 ^ 8 * ofSigned 5 x.offset + 2 ^ 13 * ofBool x.cons.busy +
  2 ^ 16 * Nat.min 255 x.cons.slack + 2 ^ 32 * x.cons.last

def State.galView (s : State) (off : Nat) : Nat :=
  let g := (off - 0x100000) / 0x2000
  let o := (off - 0x100000) % 0x2000
  let x := s.gal g
  if o < 0x008 then wordOf x.status o
  else if o = 0x010 then s.word 0 off + 2 ^ 2 * ofBool x.trace.full
  else if o = 0x020 then x.trace.ptr
  else if o = 0x024 then x.trace.wraps % 2 ^ 32
  else if 0x040 ≤ o ∧ o < 0x060 then
    let k := (o - 0x040) / 4
    if s.present (8 * g + k) then Nat.min 0xFFFFFFFF (tgetD x.gaps k 0) else 0
  else if o = 0x060 then 0
  else if 0x080 ≤ o ∧ o < 0x0A0 then (x.limit ((o - 0x080) / 4 + 1)).1 + 2 ^ 16 * (x.limit ((o - 0x080) / 4 + 1)).2
  else if 0x1000 ≤ o then fld (s.window g ((o - 0x1000) / 0x100)) (o % 0x100) 4
  else s.word 0 off

/-! ### SEC_ and DBG_ registers (Tables 13.5–13.8, 16.4, 16.11, 17.10, 17.11) -/

/-- SEC_FUSE_STATE: the four values of measurement 3, in its order, in 16 bits each; those of the bundle are 0 while none runs
(notes/assumptions/87.md). -/
def State.fuseReg (s : State) : Nat :=
  s.fuses.minSvn % 2 ^ 16 + 2 ^ 16 * s.fuses.revoked.toNat + s.boot.running.elim 0 fun b => 2 ^ 32 * (b.keyIndex % 2 ^ 16) + 2 ^ 48 * (b.svn % 2 ^ 16)

def State.secView (s : State) (off : Nat) : Nat :=
  let x := s.sec
  let k := s.keySlot s.slotSel
  if off = 0x110000 then 2 ^ 3 * ofBool x.kek.isSome + 2 ^ 4 * x.kexResult
  else if 0x110080 ≤ off ∧ off < 0x1100E0 then fld x.kexDev (off - 0x110080) 4
  else if 0x110100 ≤ off ∧ off < 0x110160 then fld x.kexSig (off - 0x110100) 4
  else if 0x110180 ≤ off ∧ off < 0x1101E0 then 0
  else if off = 0x110210 then k.state.code + 2 ^ 3 * x.slotResult + 2 ^ 16 * k.epoch
  else if off = 0x110214 then k.ctx
  else if off = 0x110218 ∨ off = 0x11021C then wordOf k.n (off - 0x110218)
  else if 0x110240 ≤ off ∧ off < 0x110268 then 0
  else if off = 0x110308 ∨ off = 0x11030C then wordOf s.fuseReg (off - 0x110308)
  else if 0x111000 ≤ off ∧ off < 0x113000 then fld ((List.range 4).map fun i => Config.certificate (off - 0x111000 + i)) 0 4
  else s.word 0 off

/-- DBG_CLUSTER_MAP (Table 17.11). -/
def Gallery.mapReg (x : Gallery) : Nat :=
  sum ((List.range 8).map fun k => 2 ^ (4 * k) * (x.phys.getD k none).getD 0xF) + 2 ^ 32 * x.spare.getD 0xF

def State.dbgView (s : State) (off : Nat) : Nat :=
  let d := s.dbg
  if off = 0x120000 then s.word 0 off + 2 ^ 3 * ofBool d.held
  else if off = 0x120004 then d.snapSeq + 2 ^ 16 * d.trigger + 2 ^ 24 * d.missed
  else if off = 0x120028 then
    2 ^ 4 * d.stop.code + 2 ^ 7 * ofBool d.landed + 2 ^ 8 * d.cause + 2 ^ 12 * d.result + 2 ^ 16 * (d.scanned % 2 ^ 16)
  else if off = 0x12002C then d.scanned / 2 ^ 16
  else if off = 0x120040 ∨ off = 0x120044 then wordOf s.scanSize (off - 0x120040)
  else if 0x120080 ≤ off ∧ off < 0x1200B0 then wordOf (s.gal ((off - 0x120080) / 8)).mapReg (off % 8)
  else s.word 0 off

/-! ### A read -/

/-- A function's page in the manager's view of the mailboxes (Tables 12.13, 17.12); that of a function which does not exist reads zero. -/
def State.boxView (s : State) (off : Nat) : Nat :=
  let f := (off - 0x200000) / 0x1000
  let o := (off - 0x200000) % 0x1000
  if f = 0 ∨ !s.fnPresent f then 0
  else if o = 0x040 then 2 * ofBool (s.fn f).mgrFull
  else if 0x100 ≤ o ∧ o < 0x300 then s.word f (0x1000 + o)
  else 0

/-- Whether a read of a function's BAR0 is answered with data. While the package is stopped only the hardware core and PF0's DBG_ block are (R490); in
vestibule mode only PF0 answers, in its hardware core and its load window (R433); and what the MP serves is read while it runs, in stage 3 (R499). -/
def State.answers (s : State) (f off : Nat) : Bool :=
  let core := decide (off < 0x1000)
  let window := f == 0 && decide (0x080000 ≤ off ∧ off < 0x100000)
  let dbg := f == 0 && decide (0x120000 ≤ off ∧ off < 0x130000)
  let table := if f = 0 then decide (0x180000 ≤ off ∧ off < 0x200000) else decide (0x2000 ≤ off)
  decide (s.activity = .running) && s.fnPresent f &&
    if !s.live then core || dbg
    else if s.boot.stage = 4 then f == 0 && (core || window)
    else if s.boot.stage = 3 then true
    else core || window || table

/-- The 32-bit word that a read of a function's BAR0 gives at an offset of 4 bytes, where it is answered. Reserved offsets read zero, to a tenant those of PF0 alone
among them (R372, R497); a DISABLED function serves its hardware core only (R386). -/
def State.readWord (s : State) (f off : Nat) : Nat :=
  if off < 0x1000 then s.coreView f off
  else if (s.fn f).state = .disabled then 0
  else if off < 0x2000 then s.fnView f off
  else if inMsix f off then s.word f off
  else if f ≠ 0 then (if 0x3000 ≤ off ∧ off < 0x4000 then s.pendingBits f ((off - 0x3000) / 4) else 0)
  else if off < 0x10000 then 0
  else if off < 0x040000 then s.hubView off
  else if off < 0x080000 then s.portView off
  else if off < 0x100000 then fld (s.boot.window.read (off - 0x080000) 4) 0 4
  else if off < 0x10C000 then s.galView off
  else if off < 0x110000 then 0
  else if off < 0x120000 then s.secView off
  else if off < 0x130000 then s.dbgView off
  else if 0x1C0000 ≤ off ∧ off < 0x1C0100 then s.pendingBits 0 ((off - 0x1C0000) / 4)
  else if 0x200000 ≤ off ∧ off < 0x400000 then s.boxView off
  else 0

/-- A read of BAR0 (R371–R373, R497, R499). -/
def State.readReg (s : State) (f off : Nat) : Option Nat := if s.answers f off then some (s.readWord f off) else none

end Sys2Proof.Machine
end

