-- ==== Sys2Proof/Tests/Slice0.lean ====
section
/-! SUPPORT. The model's own tests: which commands are ill formed, and for each statement states and operands that meet its hypotheses. -/

namespace Sys2Proof.Tests

set_option Elab.async false

open Sys2Proof.Machine

/-! ### Helpers -/

/-- 64 bytes with fields put in: offset, width, value. -/
def ent (l : List (Nat × Nat × Nat)) : List Byte := l.foldl (fun b x => splice b x.1 (leBytes x.2.1 x.2.2)) (List.replicate 64 0)

/-- A job of a queue with an opcode and fields. -/
def job (f q op : Nat) (l : List (Nat × Nat × Nat)) : Job := { f, q, seq := 0, head := ent ((0, 1, op) :: l) }

def bundle : Bundle :=
  { id := 7, keyIndex := 0, svn := 1, lowMajor := 1, highMajor := 1, minor := 0, zft := 2, features := 3, digest := [] }

/-- A segment of this node, whose number is 5, with every right. -/
def segAt (base len : Nat) : Segment :=
  { base := 5 * 2 ^ 48 + base, limit := len - 1, state := .active, read := true, write := true, atomic := true, fold := true, planExec := true,
    exported := true, key := 9 }

/-- A grant of a little of everything. -/
def grant : Grant :=
  { express := 1, regular := 2, ops := 8, triggers := 8, contexts := 2, sqs := 4, cqs := 4, qpc := 64, pinned := 4, groups := 2, plans := 2,
    ranges := [(0x100010000000, 0x10000000)] }

/-- A node that runs in stage 3: PF0 and VF1 have negotiated, context 0 is PF0's, with 16 MiB of tier B as segment 0. -/
def up : State :=
  { State.reset with
    activity := .running, tclk := 10000000
    boot := { node := 5, stage := 3, romOk := true, running := some bundle }
    fns := [(0, { state := .active, neg := .agreed 1 0 3 }), (1, { state := .active, neg := .agreed 1 0 3, grant := grant })]
    ctxs := [(0, { owner := 0, segs := [(0, segAt 0x100000000000 0x1000000)] })] }

/-- The state with one more SQ. -/
def withSq (s : State) (f q : Nat) (x : Sq) : State := { s with sqs := tset s.sqs (qKey f q) x }
def withCq (s : State) (f q : Nat) (x : Cq) : State := { s with cqs := tset s.cqs (qKey f q) x }

/-- The state with a job as the oldest that a function's queue has fetched. -/
def fetchedIn (s : State) (j : Job) : State :=
  withCq (withSq s j.f j.q { log2 := 6, ring := 0x100000020000, door := 0x100000010000, srec := 0x100000010100, fetched := [j], c := 1, p := 1 }) j.f 0
    { log2 := 6, ring := 0x100000030000, door := 0x100000010010, srec := 0x100000010200 }

/-- Bytes in the node's own memory. -/
def poke (s : State) (a : Nat) (l : List Byte) : State := { s with tiers := { s.tiers with mem := s.tiers.mem.write a l } }

/-- The node's own memory holds these bytes, none of them zero, and no others. -/
def laid (s : State) (a : Nat) (l : List Byte) : State :=
  { s with tiers := { s.tiers with mem := { s.tiers.mem with cells := (l.zip (List.range l.length)).map fun x => (a + x.2, x.1) } } }

/-- The conditions under which an admin command of an opcode is carried out, for the command and those behind it. -/
def adminMeets (s : State) (op : Nat) (used : List (Nat × Nat)) (j : Job) : Bool :=
  fnOk j.f && s.live && (s.sq j.f 0).map (·.fetched) == some [j] && j.opcode == op && s.adminGate j.f op == none && j.excess used == false

/-- An RC QP of context 0 to node 6, whose end is ready, and the state that holds it, with segment 1 an import of node 6's tier B. -/
def rc (e : Endpoint) : Qp := { ctx := 0, f := 0, node := 6, ends := [(6, e)], payload := 4096 }
def endT : Endpoint := { state := .ready, remoteQp := 9, cwnd := 2 ^ 30 }
def far : Segment := { segAt 0 0x1000000 with base := 6 * 2 ^ 48 + 0x100000000000, imported := true }
def qpUp (x : Qp) : State :=
  { up with ctxs := [(0, { owner := 0, segs := [(0, segAt 0x100000000000 0x1000000), (1, far)] })], qps := [(1, x)], cache := [(1, x.entry 6)] }

/-- The MAC address of a port given by its registers: 0x112233445500 + p. -/
def macRegs (p : Nat) : Tab W32 := [(regKey 0 (portBase p + 0x10), BitVec.ofNat 32 (0x33445500 + p)), (regKey 0 (portBase p + 0x14), 0x1122)]

/-- A job is the next of SQ 1 of PF0 and is to be dispatched. -/
def jobMeets (s : State) (op : Nat) (j : Job) : Bool := s.nextJob 0 1 op == some j && !s.jobFenced j

/-- The packet that arrived first is taken and passes the checks of arrival; the state then, and what they found. -/
def packetOf (s : State) (test : Packet → Bool) : Option (State × Inbound) :=
  if !s.live then none
  else match s.takeArrived test with
    | some (a, u) => (match u.arrive a with
      | (t, some i) => some (t, i)
      | _ => none)
    | none => none

/-- The same for a request whose PSN is new. -/
def requestOf (s : State) (test : Packet → Bool) : Option (State × Inbound) :=
  (packetOf s test).bind fun x => if x.2.e.judge x.2.pkt.psn = .new then some (x.1.modEnd x.2.q x.2.n fun e => e.accept x.2.pkt.psn, x.2) else none


/-! ### Commands that name what does not exist (Tables 0.2, 1.2, 11.1, 12.1, 12.4) -/

/-- Every command of a list is ill formed, and answers a next state of a node that runs, with the functions and the draws as before. -/
def ignores (l : List Instr) : Bool :=
  l.all fun c => !c.wf && (match exec c up with | .next t => t.free == up.free && t.fns == up.fns | _ => false)

theorem test_wf_functions : ignores [.registerWrite 256 0x1000 4 0, .ownerReread 256 1 [], .ownerReread 0 65536 [], .cqFullReread 260 1 [], .cqFullReread 0 65536 [],
    .stateRecordWrite 256 .sq 1, .stateRecordWrite 0 .sq 65536, .sqWake 256 1 [], .sqWake 0 65536 [], .cqArm 256 1 [], .cqArm 0 65536 [], .errorQueueArm 256 [], .evcMirrorWrite 4096 0,
    .evcMirrorWrite 0 256, .pcieFlr 260, .quiesced 256, .functionResetComplete 260, .swapComplete 256, .aerUncorrectableError 260, .mboxSendToMgr 256, .tenAck 256,
    .mboxSendToTen 260, .mgrAck 256] = true := by decide +kernel

theorem test_wf_admin : ignores [.adminEnable 256 0, .identify 260] = true ∧
    ignores ([Instr.negotiate, .createContext, .destroyContext, .createCq, .destroyCq, .createSq, .destroySq, .createErrorQueue, .createSegment, .withdrawSegment, .querySegment,
      .createQp, .connect, .addPeers, .removePeer, .setError, .modifyQpReset, .setTimers, .queryQp, .destroyQp, .createGroup, .destroyGroup, .loadPlan, .unloadPlan,
      .setLatencyTolerance, .getLog, .readCounters, .loadTimetable, .setTimetableLimits, .setFunctionGrant, .fabricLocal, .catalogueUpdate, .catalogueClear].map fun c => c 260) = true ∧
    ignores [.withdrawalComplete 4096 0, .withdrawalComplete 0 16] = true := by decide +kernel

theorem test_wf_data : ignores ([Instr.nop, .put, .get, .putFinal, .atomic, .foldPut, .send, .recv, .planRun, .allReduce, .reduceScatter, .allGather, .broadcast, .reduce, .allToAll,
    .barrier].flatMap fun c => [c 256 1, c 0 65536]) = true := by decide +kernel

theorem test_wf_ports : ignores ([.frameReceive 16 0 { bytes := [], fcsOk := true }, .frameReceive 0 8 { bytes := [], fcsOk := true }, .portLinkDown 16 0, .portLinkDown 0 8, .portLinkUp 16 0 0, .portLinkUp 0 8 0, .creditFrameTimer 16, .credit 16,
    .laneFail 16 0, .laneFail 0 9, .laneSwap 16, .laneSwapDone 16, .retrainComplete 16, .frameStart 16 0, .frameStart 0 8, .pauseFrame 16 0, .pauseFrame 0 8, .pauseExpire 16 0 0,
    .pauseExpire 0 8 0, .pauseExpire 0 0 8, .gateIntervalEnd 16 0, .gateIntervalEnd 0 8, .gateBankSwitch 16 0, .gateBankSwitch 0 8, .gateCommit 16 0 0, .gateCommit 0 8 0,
    .gateEnable 16 0 1, .gateEnable 0 8 1, .statHalfClear 16 0 0 0, .statHalfClear 0 8 0 0, .statHalfClear 0 0 2 0, .gateCycleStart 16 0, .gateCycleStart 0 8, .lldpTransmit 16 0,
    .lldpTransmit 0 8, .lldpReceive 16, .hello 16, .helloAck 16, .helloRetry 16, .park 16, .portWake 16, .portReset 64, .cipherParityFault 16 0]) = true := by decide +kernel

theorem test_wf_fabric : ignores [.contextFetchComplete 16777216 0 true, .contextFetchComplete 0 65536 true, .packetInject 16777216 0, .packetInject 0 65536, .packetForward 17 ⟨0, false⟩,
    .packetForward 0 ⟨12, true⟩, .escapeWaitExpire 17 0, .escapeWaitExpire 0 12, .residenceExpire 17 0, .residenceExpire 0 12, .retransmitTimeout 16777216 0, .retransmitTimeout 0 65536,
    .ackDelayExpire 16777216 0, .ackDelayExpire 0 65536, .peerRegister 32 0, .peerUnregister 32 0, .peerProbeRequest 32 0, .peerProbeRead 32, .peerProbeDone 32 []] = true := by decide +kernel

theorem test_wf_units : ignores [.dividerChange 6, .timetableSwitch 6, .timetableDrainTimeout 6, .fwCopyRebuild 6, .galleryReset 64, .conservationCycle 6 ⟨[], [], []⟩, .conservationRun 6,
    .temperatureCheck 6 0, .voltageSettled 6 ⟨[], [], []⟩, .powerStateEntry 6, .galleryWake 6, .gapClear 6 0, .memoryPortFailure 6, .meTimerRun 48 0 0, .meTimerRun 0 2 0, .meTimerRun 0 0 16,
    .meRunStart 48 0, .meRunStart 0 2, .meRunComplete 48 0, .meRunComplete 0 2, .fuScrubPass 48 0 [] false, .fuScrubPass 0 4 [] false, .fuRetire 48 0, .fuRetire 0 4, .chunkFoldComplete 0 0 ⟨0, some 4⟩, .clusterReset 64,
    .replayTimeout 48, .replayComplete 48, .suspectReplayComplete 48] = true := by decide +kernel

theorem test_wf_things : ignores [.scrub (.slice 48) .clean, .scrub (.stack 24) .clean, .scrub (.chan 20) .clean, .refresh ⟨.slice 48, []⟩, .refresh ⟨.slice 0, [{ line := 0, code := 64, pos := none, row := 0 }]⟩, .rowRepairComplete (.chan 20) ⟨0, false⟩, .pcSpareComplete 24 0,
    .pcSpareComplete 0 64, .thermalTrip 3 0, .flitReplay 3 0 true, .flitReplay 0 2 true, .hostLinkUp 4 [], .perstAssert 4, .hotReset 4, .hostLinkDown 4, .ltrMessage 4 none none, .revoke 4,
    .processorReady 8 0, .watchdogFire 8 1, .ipcMessage 8 0, .fenceDrainEnd (.function 256), .fenceDrainEnd (.port 16), .domainResetComplete (.cluster 48), .domainResetComplete (.gallery 6),
    .engineHang (.tve 48), .engineHang (.fu 0 4), .engineHang (.me 0 2), .engineHang (.te 16), .longWait (.withdrawal 0 16), .longWait (.quiesce 256)] = true := by decide +kernel

/-! ### Witnesses: the machine as a whole -/

theorem test_meets_EmptyQueueTicks :
    (up.pending = [] ∧ up.live = true) ∧ (State.reset.pending = [] ∧ State.reset.activity ≠ .running) ∧
    (let s := { up with dbg := { stop := .stopped } }; s.pending = [] ∧ s.activity = .running ∧ s.live = false) := by decide +kernel

theorem test_meets_WellFormedCommandsAnswer :
    (Instr.revoke 3).wf = true ∧ (Instr.revoke 4).wf = false ∧ { up with pending := [Instr.revoke 3, .scan] }.queueOk = true := by decide +kernel

theorem test_meets_StoppedPackageStaysStopped :
    { up with activity := .stopped }.activity = .stopped ∧ Instr.tamper 1 ≠ .porstNAssert ∧ Instr.tamper 1 ≠ .powerRemoval ∧
    (match exec (.tamper 1) { up with activity := .stopped } with | .next t => t.activity == .stopped | _ => false) = true := ⟨rfl, nofun, nofun, by decide +kernel⟩

theorem test_meets_InventoryStopFreezes :
    ([StopState.stopped, .scanning, .scanned].all fun k => let s := { up with dbg := { stop := k } }
      decide (s.activity = .running) && (s.dbg.stop == .stopped || s.dbg.stop == .scanning || s.dbg.stop == .scanned)) = true ∧
    (match exec .scanComplete { up with dbg := { stop := .scanning } } with | .next t => t.dbg.stop == .scanned | _ => false) = true := by decide +kernel

theorem test_meets_UnstartedPackageWaits :
    State.reset.waiting ∧ (match step { State.reset with pending := [.i3cNodeWrite true 2] } with | .next t => t.pending == [] | _ => false) = true :=
  ⟨⟨by decide, by decide, by decide⟩, by decide +kernel⟩

/-- Clauses of a word written at the last offset of a function, and of another function's first word. -/
theorem test_meets_WordReadsBack :
    (2 ^ 23 - 1 < 2 ^ 23 ∧ 2 ^ 32 - 1 < 2 ^ 32) ∧ (up.setWord 3 (2 ^ 23 - 1) (2 ^ 32 - 1)).word 4 0 = up.word 4 0 := by decide +kernel

theorem test_meets_MemoryReadsBack :
    ({} : Mem).wf = true ∧ (({} : Mem).write 5 [1, 0, 2]).wf = true := by decide +kernel

theorem test_meets_SegmentWritesStayInside :
    up.tiers.mem.wf = true ∧ (let x := up.writeVia { f := 0, ctx := 0, seg := 0 } 0x100000000FFF [1, 2]; x.2 = none ∧ x.1.tiers.mem.get 0x100000001000 = 2) := by
  decide +kernel

theorem test_meets_IntegerFolds :
    (1 ≤ 1 ∧ 5 ∈ [0, 3, 4, 5]) ∧ foldElem 0 0 0xFFFFFFFF 2 = 1 ∧ foldElem 1 0 0xFFFFFFFF 2 = 0x100000001 := by decide +kernel

theorem test_meets_FlitReplaysFail :
    (up.live = true ∧ 2 ≤ 2 ∧ 1 ≤ 1) ∧ tgetD up.links.replays 5 0 + 1 < 16 ∧ 16 ≤ tgetD { up with links := { replays := [(5, 15)] } }.links.replays 5 0 + 1 := by decide +kernel

theorem test_meets_OtherBundlesMessages : up.live = true ∧ 7 ≤ 7 ∧ up.boot.running = some bundle ∧ (8 : W64) ≠ bundle.id := by decide +kernel

/-! ### Witnesses: queues -/

def sqT (place : Place) : Sq := { log2 := 6, ring := 0x100000020000, door := 0x100000010000, srec := 0x100000010100, place }
def cqT : Cq := { log2 := 6, ring := 0x100000030000, door := 0x100000010010, srec := 0x100000010200, vector := some 5 }
def entryT (owner : Nat) : List Byte := ent [(0, 1, 1), (63, 1, owner * 128)]
def doorT : State := poke up 0x100000010000 [1]

/-- The conditions of a sweep on the one SQ in existence. -/
def sweepMeets (s : State) (q : Nat) (x : Sq) : Bool :=
  s.live && s.sqs == [(qKey 0 q, x)] && s.serving 0 &&
  match (s.qRead 0 x.ctx q x.door 16).2 with
  | some b => decide (gap32 (BitVec.ofNat 32 (fld b 0 4)) x.c ≤ 2 ^ x.log2) && zeroAt b 4 4 && BitVec.ofNat 32 (fld b 0 4) != x.p
  | none => false

theorem test_meets_SweepsAndRereads_SweepsTakeDoorbells :
    sweepMeets (withSq doorT 0 1 (sqT .express)) 1 (sqT .express) = true ∧ sweepMeets (withSq doorT 0 1 (sqT .regular)) 1 (sqT .regular) = true ∧
    sweepMeets { withSq doorT 0 0 (sqT .regular) with host := ({} : Mem).write 0x100000010000 [1] } 0 (sqT .regular) = true := by decide +kernel

def rereadT (owner k : Nat) : Sq × State :=
  let x := { sqT .regular with p := 1, reread := some (0, k, 0) }
  (x, withSq (poke up 0x100000020000 (entryT owner)) 0 1 x)

theorem test_meets_SweepsAndRereads_RereadsGoOn_owner :
    (let (x, s) := rereadT 1 3; s.live && s.sq 0 1 == some x && s.serving 0 && (s.readEntry 0 1 x 0).2.any (fun b => entOwner b == ownerSense 0 6)) = true ∧
    (let (x, s) := rereadT 0 2; s.live && s.sq 0 1 == some x && s.serving 0 && (s.readEntry 0 1 x 0).2.any (fun b => entOwner b != ownerSense 0 6)) = true := by
  decide +kernel

theorem test_meets_SweepsAndRereads_RereadsGoOn_cq :
    (let c := { cqT with held := [(List.replicate 32 0, .other)] }; let s := withCq doorT 0 1 c
     s.live && s.cq 0 1 == some c && c.held != [] && !(s.fn 0).halted && (s.qRead 0 c.ctx 1 c.door 16).2.isSome) = true := by decide +kernel

theorem test_meets_RecordsWakesArms_RecordsWritten :
    (let x := { sqT .regular with stale := true }; let c := { cqT with stale := true }
     let s := { withCq (withSq up 0 1 x) 0 1 c with
       eqs := [(0, c)], ctxs := [(0, { owner := 0, dirty := [3] })], regs := [(regKey 0 0x1030, 0x1000)]
       fns := [(0, { state := .active, neg := .agreed 1 0 (BitVec.ofNat 128 (2 ^ 128 - 1)) })] }
     s.live && s.sq 0 1 == some x && s.cq 0 1 == some c && tget s.eqs 0 == some c && (tget s.ctxs 0).any (fun y => y.dirty == [3]) && s.mirrored 0) = true := by
  decide +kernel

theorem test_meets_RecordsWakesArms_WakesAndArms_sq :
    (let x := sqT .parked; let s := withSq doorT 0 1 x; let r := s.qRead 0 x.ctx 1 x.door 16
     let u := (r.1.modSq 0 1 fun y => { y with p := 1 }).fetch 0 1
     s.live && s.serving 0 && s.sq 0 1 == some x && r.2 == some (leBytes 16 1) && gap32 1 x.c ≤ 64 && u.serving 0 && u.listFree 0 x.home) = true ∧
    (let x := sqT .regular; let s := withSq doorT 0 1 x; let r := s.qRead 0 x.ctx 1 x.door 16
     let u := (r.1.modSq 0 1 fun y => { y with p := 1 }).fetch 0 1
     s.live && s.serving 0 && s.sq 0 1 == some x && r.2 == some (leBytes 16 1) && gap32 1 x.c ≤ 64 && u.serving 0) = true := by decide +kernel

/-- The conditions for arming a CQ, with the head that its doorbell record holds. -/
def armMeets (c : Cq) (h : Nat) : Bool :=
  let s := { withCq (poke up 0x100000010010 (leBytes 4 h)) 0 1 c with eqs := [(0, c)] }
  let r := s.qRead 0 c.ctx 1 c.door 16
  s.live && s.serving 0 && s.cq 0 1 == some c && c.vector == some 5 && c.held == [] && r.2 == some (leBytes 16 h) && r.1.cq 0 1 == some c &&
    tget s.eqs 0 == some c

theorem test_meets_RecordsWakesArms_WakesAndArms_cq :
    (armMeets { cqT with w := 2 } 1 && armMeets { cqT with w := 1 } 1) = true := by decide +kernel

theorem test_meets_RecordsWakesArms_WakesAndArms_other :
    ((up.modFn 0 fun x => { x with state := .quiescing }).fn 0).halted = false ∧ ((up.modFn 0 fun x => { x with state := .quiescing }).fn 0).state = .quiescing ∧
    ((up.modFn 0 fun x => { x with state := .quiesced }).fn 0).state = .quiesced ∧ ((up.modFn 0 fun x => { x with halted := true }).fn 0).halted = true := by
  decide +kernel

def adminRegs (base : W32) : State :=
  { up with regs := [(regKey 0 0x1008, base), (regKey 0 0x1010, 0x20000), (regKey 0 0x1018, 0x30000), (regKey 0 0x1020, 0x40000)] }

/-- FN_ADMIN_CFG with enable and rings of 64 entries, with legal bases and with a base that is not aligned. -/
theorem test_meets_AdminPairStarts :
    (let legal := fun (s : State) => let u := s.writeWord 0 (s.fn 0) 0x1000 0x00010606
       decide (6 ≤ bits (u.word 0 0x1000) 4 0 ∧ bits (u.word 0 0x1000) 4 0 ≤ 12 ∧ 6 ≤ bits (u.word 0 0x1000) 12 8 ∧ bits (u.word 0 0x1000) 12 8 ≤ 12 ∧
         u.dword 0 0x1008 % 4096 = 0 ∧ u.dword 0 0x1010 % 4096 = 0 ∧ u.dword 0 0x1018 % 16 = 0 ∧ u.dword 0 0x1020 % 32 = 0)
     let cond := fun (s : State) => s.served && (s.fn 0).state != .disabled && !(s.fn 0).admin.enable && bit 0x00010606 16
     cond (adminRegs 0x10000) && legal (adminRegs 0x10000) && cond (adminRegs 8) && !legal (adminRegs 8)) = true := by decide +kernel

theorem test_meets_RegisterWriteKeepsTheRest :
    (up.served && (up.fn 0).state != .disabled && !(fnFields up 0 (up.fn 0) 0x1008).isEmpty && !(fnFields up 0 (up.fn 0) 0x1FFC).isEmpty == false &&
      !(pfFields up 0x010020).isEmpty && up.live) = true := by decide +kernel

/-! ### Witnesses: admin commands -/

def okE {ε α : Type} : Except ε α → Bool
  | .ok _ => true
  | .error _ => false

/-- A state whose PF0 has fetched one admin command with fields. -/
def adm (op : Nat) (l : List (Nat × Nat × Nat)) : State × Job := let j := job 0 0 op l; (fetchedIn up j, j)

/-- Ring, doorbell record, state record, context 0, rings of 64 entries. -/
def queueArgsT : List (Nat × Nat × Nat) := [(16, 8, 0x40000), (24, 8, 0x50000), (32, 8, 0x60000), (42, 1, 6)]

theorem test_meets_ContextsAndSegments_ContextsAndCqsMade :
    (let (s, j) := adm 0x04 []; adminMeets s 0x04 [] j && decide (tfree s.ctxs 0 ≤ 4095)) = true ∧
    (let j := job 0 0 0x05 [(16, 2, 3)]; let s := { fetchedIn up j with ctxs := tset up.ctxs 3 { owner := 0 } }
     adminMeets s 0x05 [(16, 2)] j && (s.adminRest 0 []).ownsCtx 0 3 && !(s.adminRest 0 []).ctxInUse 3) = true ∧
    (let (s, j) := adm 0x08 (queueArgsT ++ [(44, 2, 5)])
     adminMeets s 0x08 [(16, 27), (44, 2)] j && s.queueArgs j == none && vectorOk 0 5 && okE (s.queueParts j 32 [.write]) && decide (freeQueue s.cqs 0 ≤ 65535)) = true ∧
    (let j := job 0 0 0x09 [(16, 2, 1)]; let s := withCq (fetchedIn up j) 0 1 cqT; let t := s.adminRest 0 []
     adminMeets s 0x09 [(16, 2)] j && s.cq 0 1 == some cqT && !(t.sqs.any fun e => decide (e.1 / 65536 = 0 ∧ e.1 % 65536 ≠ 0) && e.2.cq == 1) &&
       (t.qRead 0 cqT.ctx 1 cqT.door 16).2 == some (leBytes 16 0) && cqT.w == 0 && cqT.held == []) = true ∧
    (let (s, j) := adm 0x0C (queueArgsT ++ [(44, 2, 0xFFFF)])
     adminMeets s 0x0C [(16, 27), (44, 2)] j && s.queueArgs j == none && tget s.eqs 0 == none && vectorOk 0 0xFFFF && okE (s.queueParts j 32 [.write])) = true := by
  decide +kernel

theorem test_meets_SqsVersionsGrants :
    (let j := job 0 0 0x0A (queueArgsT ++ [(44, 2, 1), (46, 1, 1)]); let s := withCq (fetchedIn up j) 0 1 cqT; let t := s.adminRest 0 []
     adminMeets s 0x0A [(16, 31), (48, 2)] j && s.queueArgs j == none && decide (j.arg 43 1 % 4 ≤ 1 ∧ j.arg 43 1 / 8 = 0 ∧ j.arg 46 1 ≤ 2) &&
       (s.cq 0 1).isSome && okE (s.queueParts j 64 [.read]) && decide (freeQueue t.sqs 0 ≤ 65535)) = true ∧
    (let j := job 0 0 0x0B [(16, 2, 1)]; let s := withSq (fetchedIn up j) 0 1 (sqT .regular); let t := s.adminRest 0 []
     adminMeets s 0x0B [(16, 2)] j && t.sq 0 1 == some (sqT .regular) && (t.qRead 0 0 1 (sqT .regular).door 16).2 == some (leBytes 16 0)) = true ∧
    (let (s, j) := adm 0x01 [(16, 8, 0x5000)]; adminMeets s 0x01 [(16, 8)] j && j.arg 16 8 % 4096 == 0) = true ∧
    (let j := job 0 0 0x02 [(16, 1, 1), (17, 1, 1), (24, 1, 3), (40, 1, 1)]; let s := (fetchedIn up j).modFn 0 fun x => { x with neg := .none }
     adminMeets s 0x02 [(16, 4), (24, 32)] j && s.boot.running == some bundle && (s.fn 0).neg == .none &&
       decide (BitVec.ofNat 128 (j.arg 40 16) &&& BitVec.ofNat 128 (j.arg 24 16) = BitVec.ofNat 128 (j.arg 40 16) ∧
         BitVec.ofNat 128 (j.arg 40 16) &&& bundle.features = BitVec.ofNat 128 (j.arg 40 16))) = true ∧
    (let j := job 0 0 0x02 [(16, 1, 1), (17, 1, 1), (24, 1, 7), (40, 1, 4)]; let s := (fetchedIn up j).modFn 0 fun x => { x with neg := .none }
     adminMeets s 0x02 [(16, 4), (24, 32)] j && s.boot.running == some bundle && (s.fn 0).neg == .none &&
       decide (BitVec.ofNat 128 (j.arg 40 16) &&& BitVec.ofNat 128 (j.arg 24 16) = BitVec.ofNat 128 (j.arg 40 16) ∧
         BitVec.ofNat 128 (j.arg 40 16) &&& bundle.features ≠ BitVec.ofNat 128 (j.arg 40 16))) = true := by decide +kernel

/-- A grant of one place on the regular list, for VF1. -/
theorem test_meets_SqsVersionsGrants_grant :
    (let j := job 0 0 0x38 [(16, 2, 1), (24, 8, 0x100000)]; let s := poke (fetchedIn up j) 0x100000100000 [1, 0, 0, 0, 0, 0, 1]; let t := s.adminRest 0 []
     adminMeets s 0x38 [(16, 2), (24, 8)] j && (s.fn 1).state != .disabled &&
       match (t.adminRead j (t.firstCtx 0) 0x100000 128).2 with
       | .ok b => (Grant.read? b).any fun g => g.ranges.all (t.rangeOk 1) && t.within 1 g &&
           decide (t.placesGranted .express - (t.fn 1).grant.express + g.express ≤ 240) && decide (t.placesGranted .regular - (t.fn 1).grant.regular + g.regular ≤ 1920)
       | .error _ => false) = true := by decide +kernel

def segArgs : List (Nat × Nat × Nat) := [(16, 2, 0), (18, 1, 1), (24, 8, 5 * 2 ^ 48 + 0x100002000000), (32, 8, 0xFFF), (40, 8, 0x900000084 + 0x08)]

theorem test_meets_ContextsAndSegments_SegmentsComeAndGo :
    (let (s, j) := adm 0x10 segArgs; let t := s.adminRest 0 []
     adminMeets s 0x10 [(16, 3), (24, 32)] j && s.ownsCtx 0 0 && (s.segment 0 1).state == .free && (Segment.read? (slice j.head 24 32)).any fun g => t.segmentOk 0 g) = true ∧
    (let (s, j) := adm 0x11 [(18, 1, 0)]; let t := s.adminRest 0 []
     adminMeets s 0x11 [(16, 3)] j && s.ownsCtx 0 0 && (s.segment 0 0).state == .active && !(t.bumpGen 0 0).referred 0 0 0) = true ∧
    (let (s, j) := adm 0x11 [(18, 1, 0)]; let s := withSq s 0 1 { sqT .regular with refs := [{ ctx := 0, seg := 0, gen := 0 }] }; let t := s.adminRest 0 []
     adminMeets s 0x11 [(16, 3)] j && s.ownsCtx 0 0 && (s.segment 0 0).state == .active && (t.bumpGen 0 0).referred 0 0 0) = true ∧
    (let j := job 0 0 0x11 []
     let s := { up with ctxs := [(0, { owner := 0, segs := [(0, { segAt 0x100000000000 4096 with state := .withdrawing, ticket := some j })] })] }
     s.live && (s.segment 0 0).state == .withdrawing && !s.referred 0 0 15 && (s.segment 0 0).ticket == some j) = true ∧
    (let (s, j) := adm 0x12 [(18, 1, 0), (24, 8, 0x1000)]; let t := s.adminRest 0 []
     adminMeets s 0x12 [(16, 3), (24, 8)] j && s.ownsCtx 0 0 && (t.adminWrite j (t.firstCtx 0) 0x1000 ((s.segment 0 0).bytes (s.segGen 0 0)) (.ok 0)).2 == .ok 0) = true := by
  decide +kernel

/-! ### Witnesses: QPs -/

def rcAdm : Qp := { ctx := 0, f := 0 }
def endAdm (st : EndState) : Endpoint := { state := st, remoteQp := 9, cwnd := 1000000 }
def rcTo (st : EndState) : Qp := { rcAdm with node := 7, ends := [(7, endAdm st)] }
def omni : Qp := { rcAdm with omnibus := true, capacity := 8, ends := [(7, endAdm .ready)] }
def qpAdm (x : Qp) (op : Nat) (l : List (Nat × Nat × Nat)) : State × Job := let j := job 0 0 op ((12, 3, 1) :: l); ({ fetchedIn up j with qps := [(1, x)] }, j)

theorem test_meets_QpCommands_QpsMadeAndChanged :
    (let j := job 0 0 0x18 [(22, 1, 2), (24, 2, 0xFFFF), (26, 1, 3)]; let s := { fetchedIn up j with gals := [(0, { phys := [some 0] })] }; let t := s.adminRest 0 []
     adminMeets s 0x18 [(16, 11), (28, 11)] j && (payloadOf (j.arg 22 1)).isSome && (timersOf (j.arg 23 1) (j.arg 28 2) (j.arg 30 2)).isSome && s.ownsCtx 0 0 &&
       !badRef (j.arg 36 2) && j.arg 24 2 == 0xFFFF && t.qpRoom 0 1 false == none && decide (tfree s.qps 1 ≤ 0xFFFFF)) = true ∧
    (let (s, j) := qpAdm rcAdm 0x19 [(16, 1, 1), (20, 2, 7), (24, 3, 9)]
     adminMeets s 0x19 [(12, 3), (16, 1), (20, 2), (24, 3), (28, 8)] j && qpNumOk (j.arg 24 3) && (match ((s.adminRest 0 []).latchQp 1).namedQp j with | .ok x => x == rcAdm | _ => false)) = true ∧
    (let (s, j) := qpAdm omni 0x19 [(16, 1, 2), (24, 8, 0x1000), (32, 4, 1)]; let t := poke (s.adminRest 0 []) 0x100000001000 [8, 0, 0, 0, 9]
     adminMeets s 0x19 [(12, 3), (16, 1), (24, 12)] j && (match ((s.adminRest 0 []).latchQp 1).namedQp j with | .ok x => x == omni | _ => false) &&
       (match t.adminRead j 0 0x1000 16 with | (u, .ok b) => (u.peersGo omni [b] omni.ends).isSome | _ => false)) = true ∧
    (let (s, j) := qpAdm omni 0x19 [(16, 1, 3), (20, 2, 7)]
     adminMeets s 0x19 [(12, 3), (16, 1), (20, 2)] j && (match ((s.adminRest 0 []).latchQp 1).namedQp j with | .ok x => x == omni | _ => false) && ((s.adminRest 0 []).latchQp 1).opsOn 1 7 == []) = true ∧
    (let (s, j) := qpAdm omni 0x19 [(16, 1, 6), (28, 2, 8)]
     adminMeets s 0x19 [(12, 3), (16, 1), (23, 1), (28, 4)] j && (match ((s.adminRest 0 []).latchQp 1).namedQp j with | .ok x => x == omni | _ => false) && (timersOf 0 8 0).isSome) = true := by
  decide +kernel

theorem test_meets_QpCommands_QpsErrorResetGone :
    (let (s, j) := qpAdm (rcTo .ready) 0x19 [(16, 1, 4)]
     adminMeets s 0x19 [(12, 3), (16, 1), (20, 2)] j && okE (((s.adminRest 0 []).latchQp 1).namedEnd j .ready)) = true ∧
    (let (s, j) := qpAdm (rcTo .error) 0x19 [(16, 1, 5)]
     adminMeets s 0x19 [(12, 3), (16, 1), (20, 2)] j && okE (((s.adminRest 0 []).latchQp 1).namedEnd j .error) && ((s.adminRest 0 []).latchQp 1).opsOn 1 7 == []) = true ∧
    (let (s, j) := qpAdm (rcTo .ready) 0x1A [(24, 8, 0x1000)]; let t := s.adminRest 0 []
     adminMeets s 0x1A [(12, 3), (16, 2), (24, 8)] j && (t.adminWrite j 0 0x1000 (t.qpStatus 1 7 (rcTo .ready) (endAdm .ready)) (.ok 0)).2 == .ok 0) = true ∧
    (let (s, j) := qpAdm rcAdm 0x1B []; adminMeets s 0x1B [(12, 3)] j && okE (s.namedQp j) && s.ops ++ s.spent == []) = true := by decide +kernel

/-! ### Witnesses: plans, groups and the device -/

/-- A container of one END bundle: its header, the bundle and the trailer (Table 9.2). -/
def container : List Byte :=
  leBytes 4 0x4E4C505A ++ [1, 0] ++ leBytes 2 256 ++ leBytes 4 528 ++ leBytes 2 1 ++ [1, 1, 1] ++ List.replicate 3 0 ++ leBytes 4 256 ++ List.replicate 232 0 ++
  leBytes 16 (0x1F * 2 ^ 96) ++ List.replicate 256 0

def featured : State := up.modFn 0 fun x => { x with neg := .agreed 1 0 0xFF }

theorem test_meets_PlansAndGroupsMade_plans :
    (let j := job 0 0 0x24 [(18, 1, 1)]; let s := fetchedIn featured j
     adminMeets s 0x24 [(16, 3), (24, 12)] j && s.ownsCtx 0 0 && (s.fn 0).feature 2 && s.plans == []) = true ∧
    (let j := job 0 0 0x24 [(24, 8, 0x1000), (32, 4, 528)]; let s := poke (fetchedIn featured j) 0x100000001000 container; let t := s.adminRest 0 []
     adminMeets s 0x24 [(16, 3), (24, 12)] j && s.ownsCtx 0 0 && okE (t.adminBuf 0 0 0x1000 528 .planExec) &&
       (match t.adminRead j 0 0x1000 528 with
        | (u, .ok b) => containerFault b == none && ((tget u.ctxs 0).bind (·.planKey)) == none && u.plans == []
        | _ => false)) = true ∧
    (let j := job 0 0 0x25 [(18, 2, 4)]; let s := { fetchedIn featured j with plans := [(4, { ctx := 0 })] }
     adminMeets s 0x25 [(16, 4)] j && s.ownsCtx 0 0 && (tget s.plans 4).any (fun p => p.ctx == 0) && !(s.ops ++ s.spent).any fun o => o.job.runsPlan 4) = true := by decide +kernel

/-- A group of this node and node 6, served by cluster 0. -/
def createJob : Job :=
  { job 0 0 0x20 [(18, 2, 3), (20, 4, 2), (24, 8, 0x1000), (32, 2, 1), (40, 1, 1), (45, 1, 1), (48, 8, 0x1000000000000000), (56, 4, 128)] with
    conts := [List.replicate 13 0 ++ [2] ++ List.replicate 46 0] }

def createState : State :=
  poke { fetchedIn up createJob with
    ctxs := [(0, { owner := 0, segs := [(0, segAt 0x100000000000 0x1000000), (1, segAt 0 0x1000000)] })]
    gals := [(0, {})] } 0x100000001000 [5, 0, 0, 0, 0, 0, 0, 0, 6]

theorem test_meets_PlansAndGroupsMade_groups :
    (let j := createJob; let s := createState; let t := s.adminRest 0 []
     adminMeets s 0x20 [(16, 44)] j &&
       match t.groupArgs j with
       | none => false
       | some g => s.ownsCtx 0 g.ctx && !g.encrypted &&
         match t.adminRead j g.ctx (j.arg 24 8) (8 * j.arg 20 4) with
         | (u, .ok b) =>
           (match u.memberList b (j.arg 20 4), u.groupMemory j g with
            | some members, .ok h => let nb := (neighbourList h.sizes (members.idxOf u.node)).length
              decide (landingBytes h nb ≤ h.regionLen) && u.regionOk h.serving h.region h.regionLen && tget u.groups 3 == none && u.qpRoom 0 nb false == none
            | _, _ => false)
         | _ => false) = true ∧
    (let j := job 0 0 0x21 [(18, 2, 3)]
     let g : Group := { ctx := 0, f := 0, members := [5, 6], me := 0, sizes := [2], serving := [0], region := 0, regionLen := 524288, state := .ready }
     let s := { fetchedIn up j with groups := [(3, g)] }
     adminMeets s 0x21 [(16, 4)] j && tget s.groups 3 == some g && !s.groupBusy 3 g) = true := by decide +kernel

theorem test_meets_AdminOverTheDevice_limits :
    (let (s, j) := adm 0x28 [(16, 4, 5000)]; adminMeets s 0x28 [(16, 4)] j) = true ∧
    (let (s, j) := adm 0x31 [(16, 1, 5), (26, 2, 256)]; adminMeets s 0x31 [(16, 1), (24, 32)] j && decide (j.arg 16 1 ≤ 5)) = true ∧
    (let j := job 0 0 0x30 [(20, 2, 1), (24, 8, 0x1000)]; let s := laid (fetchedIn up j) 0x100000001000 defaultTable; let t := s.adminRest 0 []
     adminMeets s 0x30 [(16, 1), (20, 2), (24, 8)] j && !(s.gal 0).cons.busy && (s.gal 0).hold == none && s.hasWindow 0 0 && bitsSet 16 (j.arg 20 2) == [0] &&
       (match t.adminRead j 0 0x1000 256 with
        | (u, .ok b) => b == defaultTable && (u.gal 0).accepts 0 defaultTable
        | _ => false)) = true := by decide +kernel

theorem test_meets_AdminOverTheDevice_logs :
    (let (s, j) := adm 0x2C [(16, 1, 1), (24, 8, 0x1000)]; let t := s.adminRest 0 []
     adminMeets s 0x2C [(16, 3), (24, 8)] j && (t.adminWrite j 0 0x1000 t.bootReport (.ok 0)).2 == .ok 0) = true ∧
    (let (s, j) := adm 0x2D [(16, 4, 0x05000000), (20, 2, 2), (24, 8, 0x1000)]; let t := s.adminRest 0 []
     adminMeets s 0x2D [(16, 7), (24, 8)] j && okE (t.adminBuf 0 0 0x1000 16 .write) &&
       (let d := t.sampleCounters t.allCounters 0x05000000 2; (d.2.adminWrite j 0 0x1000 (d.1.flatMap fun v => leBytes 8 v.toNat) (.ok t.time)).2 == .ok t.time)) = true := by
  decide +kernel

theorem test_meets_AdminOverTheDevice_rest :
    (let j := job 0 0 0x3C [(16, 2, 64), (24, 8, 0x1000)]; let s := poke (fetchedIn up j) 0x100000001000 [1]; let t := s.adminRest 0 []
     adminMeets s 0x3C [(16, 2), (24, 8)] j && (match t.adminRead j 0 0x1000 64 with | (_, .ok b) => fld b 0 1 == 1 | _ => false)) = true ∧
    (let (s, j) := adm 0x3D [(16, 4, 64), (24, 8, 0x1000)]; let t := s.adminRest 0 []
     adminMeets s 0x3D [(16, 4), (24, 8)] j && (match t.adminRead j 0 0x1000 64 with | (u, .ok b) => u.fuses.refuses b != none | _ => false)) = true ∧
    (let (s, j) := adm 0x3E [(16, 1, 3)]; adminMeets s 0x3E [(16, 1)] j && !(s.adminRest 0 []).resetting (.port 3)) = true := by decide +kernel

/-! ### Witnesses: operations -/

def opState (op : Nat) (l : List (Nat × Nat × Nat)) (conts : List (List Byte) := []) : State × Job :=
  let j := { job 0 1 op l with conts }
  (fetchedIn (qpUp (rc endT)) j, j)

def checkedIs (s : State) (j : Job) (nearLen : Nat) (nr : Right) (farLen : Nat) (fr : Right) (flag : Bool) (ok : State → Checked → Bool) : Bool :=
  let t := s.dispatched 0 1 j
  match t.checkAddresses j nearLen nr farLen fr flag with
  | .ok c => !(c.near.any fun a => t.cutOff j.f a j.len) && !t.cutOff j.f c.far farLen && ok t c
  | .error _ => false

theorem test_meets_OperationsStart :
    (let (s, j) := opState 0 []; jobMeets s 0 j) = true ∧
    (let (s, j) := opState 1 [(12, 3, 1), (16, 8, 0x1000), (24, 8, 2 ^ 60 + 0x2000), (32, 4, 256)]
     jobMeets s 1 j && checkedIs s j 256 .read 256 .write false fun t c => c.flag.isNone && okE (t.checkEnd j c (packetsFor j.len))) = true ∧
    (let (s, j) := opState 3 [(12, 3, 1), (16, 8, 0x1000), (24, 8, 2 ^ 60 + 0x2000), (32, 4, 256), (56, 4, 0x10001)]
     jobMeets s 3 j && checkedIs s j 256 .read 256 .write true fun t c => okE (t.checkEnd j c (packetsFor j.len)) &&
       c.flag.any fun fl => !t.cutOff j.f fl 8 && !overlaps fl.addr 8 c.far.addr j.len) = true ∧
    (let (s, j) := opState 2 [(12, 3, 1), (16, 8, 0x1000), (24, 8, 2 ^ 60 + 0x2000), (32, 4, 9000)]
     jobMeets s 2 j && checkedIs s j 9000 .write 9000 .read false fun t c =>
       okE (t.checkEnd j c (fun p => packetsFor (ceilDiv j.len (Nat.max 1 p)) 64))) = true ∧
    (let (s, j) := opState 4 [(12, 3, 1), (16, 8, 0x1000), (24, 8, 2 ^ 60 + 0x2000), (32, 4, 8), (40, 1, 1)]
     jobMeets s 4 j && j.len == atomicWidth 1 && checkedIs s j 8 .write 8 .atomic false fun t c => c.far.addr % j.len == 0 &&
       !(c.near.any fun a => a.addr % j.len != 0) && okE (t.checkEnd j c (fun _ => 1))) = true ∧
    (let (s, j) := opState 5 [(12, 3, 1), (16, 8, 0x1000), (24, 8, 2 ^ 60 + 0x2000), (32, 4, 64)]
     jobMeets s 5 j && j.len % Nat.max 1 (elemSize 0) == 0 && checkedIs s j 64 .read (foldSpan 0 64) .fold false fun t c =>
       okE (t.checkEnd j c (packetsFor j.len))) = true ∧
    (let (s, j) := opState 2 [(12, 3, 1), (16, 8, 2 * 2 ^ 60), (32, 4, 64)]
     jobMeets s 2 j && !okE ((s.dispatched 0 1 j).checkAddresses j j.len .write j.len .read false)) = true := by decide +kernel

theorem test_meets_FramesBuffersPlans :
    (let (s, j) := opState 6 [(32, 4, 20)] [List.replicate 60 0x41]
     let s := { s with ports := [(0, { up := true, subs := [(0, { up := true })] })], regs := macRegs 0 }; let t := s.dispatched 0 1 j
     jobMeets s 6 j && j.inline && !t.sendRefused 0 0 j.payload && (t.sub 0 ((t.subOf 0 j.payload).getD 0)).up) = true ∧
    (let (s, j) := opState 7 [(16, 8, 0x1000), (32, 4, 64)]; let t := s.dispatched 0 1 j
     jobMeets s 7 j && (match t.translateLocal 0 0 j.near j.len .write with | .ok a => !t.cutOff 0 a j.len | .error _ => false)) = true ∧
    (let (s, j) := opState 8 [(16, 8, 0x1000), (32, 4, 512), (48, 2, 4), (51, 1, 1)]; let s := { s with plans := [(4, { ctx := 0, family := 1 })] }
     let t := s.dispatched 0 1 j
     jobMeets s 8 j && (match t.translateLocal 0 0 j.near 512 .read with | .ok a => !t.cutOff 0 a 512 | .error _ => false)) = true := by decide +kernel

/-- Member 0 of a group of nodes 5 and 6, served by cluster 0, whose one neighbour is reached by group QP 1. -/
def groupT (state : GroupState) : Group :=
  { ctx := 0, f := 0, members := [5, 6], me := 0, sizes := [2], serving := [0], region := 0x100000800000, regionLen := 0x80000, state,
    nbrs := [{ idx := 1, node := 6, level := 0, qp := 1, remoteQp := some 9, area := 0x100000800000, remote := 6 * 2 ^ 48 + 0x100000800000 }] }

def collMeets (op : Nat) (state : GroupState) (l : List (Nat × Nat × Nat)) (buffers : Bool) : Bool :=
  let j := job 0 1 op ((56, 2, 3) :: l)
  let g := groupT state
  let s := { fetchedIn (qpUp { rc endT with group := some 3 }) j with groups := [(3, g)] }
  let t := s.dispatched 0 1 j
  let u := t.modGroup 3 fun g' => { g' with next := g.next + 1, enters := g'.enters.filter fun e => decide (gap32 e.seq g.next < 2 ^ 31) }
  jobMeets s op j && tget s.groups 3 == some g && (!buffers || okE (u.collBuffers g j (collOf g j t.tclk)))

theorem test_meets_CollectivesEnter :
    (collMeets 0x10 .ready [(16, 8, 0x1000), (48, 8, 0x2000), (32, 4, 64)] true && collMeets 0x16 .ready [] true && collMeets 0x16 .failed [] false) = true := by
  decide +kernel

/-! ### Witnesses: packets at their target and at their initiator -/

/-- A packet from node 6 for QP 1, whose handle is that of segment 0, and the state in which it has arrived. -/
def packetT (ty psn : Nat) (body : List Byte) : Packet :=
  { ty, src := 6, dst := 5, qp := 1, psn := BitVec.ofNat 32 psn, msg := 7, first := true, last := true, raddr := 5 * 2 ^ 48 + 0x100000003000, handle := 0x900, body }

def pktState (e : Endpoint) (p : Packet) : State :=
  { poke (qpUp (rc e)) 0x100000003000 [1, 2, 3, 4, 5, 6, 7, 8] with arrived := [{ port := 0, pkt := p }] }

/-- What holds of a request that arrives, the packet noted in its message. -/
def reqMeets (ty : Nat) (p : Packet) (good : State → Inbound → Bool) : Bool :=
  (requestOf (pktState endT p) fun p => p.ty == ty).any fun x => let v := x.1.noteRx x.2; (v.rxOf x.2).refused.isNone && good v x.2

def writeT (psn : Nat) : Packet := { packetT 1 psn [1, 2, 3, 4] with plen := 4 }

theorem test_meets_WritesPlaced :
    (reqMeets 1 (writeT 0) fun v i => okE (v.remoteCheck 0 0x900 i.pkt.raddr 4 .write) && (v.writeVia (i.via 0x900) 0x100000003000 [1, 2, 3, 4]).2 == none) = true ∧
    (reqMeets 1 { packetT 1 0 (finalExt (5 * 2 ^ 48 + 0x100000004000) 1 0x900) with final := true } fun v i =>
      okE (v.remoteCheck 0 0x900 i.pkt.raddr 0 .write) && (match v.checkFinal i with | .ok h => h.isSome | .error _ => false)) = true ∧
    (reqMeets 1 { writeT 0 with handle := 0x800 } fun v i => !okE (v.remoteCheck 0 0x800 i.pkt.raddr 4 .write)) = true ∧
    ((packetOf (pktState endT (writeT (2 ^ 32 - 1))) fun p => p.ty == 1).any fun x => x.2.e.judge x.2.pkt.psn == .duplicate) = true ∧
    ((packetOf (pktState endT (writeT 512)) fun p => p.ty == 1).any fun x => x.2.e.judge x.2.pkt.psn == .beyond) = true ∧
    ((packetOf (pktState endT (writeT 511)) fun p => p.ty == 1).any fun x => x.2.e.judge x.2.pkt.psn == .new) = true := by decide +kernel

/-- An ATOMIC_REQ of modifier m with an operand, a comparand and a fetch address. -/
def atomicT (m operand compare fetch : Nat) : Packet := { packetT 3 0 (atomicPayload m operand compare fetch) with plen := 32 }

theorem test_meets_RequestsServed :
    (reqMeets 2 { packetT 2 0 (readPayload 0x1000 5000 0 2) with plen := 16 } fun v i =>
      fld i.pkt.body 14 2 == 2 && okE (v.remoteCheck 0 0x900 i.pkt.raddr (askedBytes 4096 5000 0 2) .read)) = true ∧
    (reqMeets 3 (atomicT 1 5 0 0x1000) fun v i =>
      okE (v.remoteCheck 0 0x900 i.pkt.raddr 8 .atomic) &&
        match v.readVia (i.via 0x900) 0x100000003000 8 with
        | (w, old, none) => (atomicResult 1 (leNat old) 5 0).any fun r => (w.writeVia (i.via 0x900) 0x100000003000 (leBytes 8 r)).2 == none
        | _ => false) = true ∧
    (reqMeets 3 (atomicT 3 5 0 0) fun v i =>
      okE (v.remoteCheck 0 0x900 i.pkt.raddr 8 .atomic) &&
        match v.readVia (i.via 0x900) 0x100000003000 8 with
        | (_, old, none) => atomicResult 3 (leNat old) 5 0 == none
        | _ => false) = true ∧
    (reqMeets 4 { packetT 4 0 (foldExt 0 ++ [1, 0, 0, 0]) with plen := 4 } fun v i =>
      let y := v.setRx i { v.rxOf i with fold := true }
      (y.rxOf i).refused.isNone && okE (y.remoteCheck 0 0x900 i.pkt.raddr (foldSpan 0 4) .fold) &&
        match y.readVia (i.via 0x900) 0x100000003000 (foldSpan 0 4) with
        | (w, old, none) => (w.writeVia (i.via 0x900) 0x100000003000 (foldBytes 0 old i.pkt.payload)).2 == none
        | _ => false) = true := by decide +kernel

/-- An operation of a job on QP 1, and an entry for what it has sent. -/
def opT (kind : OpKind) : Op := { id := 4, job := job 0 1 2 [], kind, qp := 1, node := 6, near := 0x100000001000, seg := 0, msg0 := 7, msgs := 1 }
def outT (p : Packet) : Outstanding := { psn := 0, op := 4, pkt := p, bytes := 100 }

theorem test_meets_ResponsesPlaced :
    (let e : Outstanding := { outT { packetT 2 0 (readPayload 0x100000001000 4 0 1) with plen := 16 } with n := 1, sampled := true }
     let s := { pktState { endT with out := [e] } { packetT 0x11 0 [1, 2, 3, 4] with plen := 4, raddr := 0x100000001000 } with ops := [opT (.get 1 0)] }
     (packetOf s fun p => p.ty == 0x11).any fun x => (x.2.e.out.find? fun o => o.psn == x.2.pkt.psn && o.pkt.ty == 2) == some e &&
       decide (x.2.pkt.plen = Nat.min x.2.x.payload (fld e.pkt.body 8 4)) && fld e.pkt.body 0 8 == x.2.pkt.raddr &&
       (x.1.op 4).any fun o => (x.1.placeNear o 0x100000001000 x.2.pkt.payload).2) = true ∧
    ((packetOf (pktState endT { packetT 0x11 0 [1, 2, 3, 4] with plen := 4 }) fun p => p.ty == 0x11).any fun x =>
      (x.2.e.out.find? fun o => o.psn == x.2.pkt.psn && o.pkt.ty == 2) == none) = true ∧
    (let e : Outstanding := { outT (atomicT 0 5 0 0x100000001000) with answer := true }
     let s := { pktState { endT with out := [e] } { packetT 0x12 0 [1, 2, 3, 4] with plen := 4, raddr := 0x100000001000 } with ops := [opT .atomic] }
     (packetOf s fun p => p.ty == 0x12).any fun x => (x.2.e.out.find? fun o => o.psn == x.2.pkt.psn && o.pkt.ty == 3 && o.answer) == some e &&
       fld e.pkt.body 24 8 == x.2.pkt.raddr && x.2.pkt.plen == atomicWidth (fld e.pkt.body 0 1) &&
       (x.1.op 4).any fun o => (x.1.placeNear o 0x100000001000 x.2.pkt.payload).2) = true := by decide +kernel

/-- An ACK of a kind for a message, and what holds of it where a PUT of one packet is in flight. -/
def ackMeets (out : List Outstanding) (psn kind : Nat) (good : State → Inbound → List Outstanding → Bool) : Bool :=
  let s := { pktState { endT with out } (packetT 0x10 psn (ackExt 0 kind 0x21 1 0)) with ops := [opT (.push 1 0 1)] }
  (packetOf s fun p => p.ty == 0x10).any fun x =>
    fld x.2.pkt.body 4 1 == kind && good x.1 x.2 (x.2.e.out.filter fun o => !o.acked && covers32 x.2.pkt.psn (BitVec.ofNat 512 (fld x.2.pkt.body 16 64)) o.psn)

theorem test_meets_AcksCover :
    (ackMeets [] 0 0 fun _ i fresh => fresh == [] && i.pkt.psn == i.e.peerEpsn) = true ∧
    (ackMeets [] 0 1 fun t i fresh => fresh == [] && i.pkt.psn == i.e.peerEpsn && (t.opOfMsg i.q i.n i.pkt.msg).isSome) = true ∧
    (ackMeets [] 0 2 fun t i fresh => fresh == [] && i.pkt.psn == i.e.peerEpsn && (t.opOfMsg i.q i.n i.pkt.msg).isSome) = true ∧
    (ackMeets [outT (writeT 0)] 1 0 fun _ i fresh => fresh != [] && decide (gap32 i.pkt.psn i.e.peerEpsn < 2 ^ 31 ∧ i.pkt.psn ≠ i.e.peerEpsn)) = true := by
  decide +kernel

/-! ### Witnesses: timers, injection, forwarding -/

/-- A state whose one QP has a given end, which is ready. -/
def endMeets (e : Endpoint) (good : State → Bool) : Bool :=
  let s := qpUp (rc e)
  s.live && tget s.qps 1 == some (rc e) && s.endpoint 1 6 == some e && e.state == .ready && good s

theorem test_meets_EndsSendAndExpire_EndTimersExpire :
    ((endMeets { endT with timer := some 10000000, out := [outT (writeT 0)] } fun s => decide (10000000 ≤ s.tclk ∧ 0 < (rc endT).retry)) &&
     (endMeets { endT with timer := some 10000000, out := [outT (writeT 0)], retries := 7 } fun s => decide (10000000 ≤ s.tclk ∧ (rc endT).retry ≤ 7)) &&
     (endMeets { endT with timer := some 10000001 } fun s => decide (s.tclk < 10000001)) && (endMeets endT fun _ => true) &&
     (endMeets { endT with ackDue := some 10000000 } fun s => decide (10000000 ≤ s.tclk)) &&
     (endMeets { endT with ackDue := some 10000001 } fun s => decide (s.tclk < 10000001))) = true := by decide +kernel

theorem test_meets_EndsSendAndExpire_PacketsInjected :
    ((endMeets { endT with replies := [.ack 0 0 0 0 0] } fun _ => true) &&
     (let o := { outT (writeT 0) with again := [(0, 1)] }; let e := { endT with out := [o] }
      endMeets e fun s => (e.out.find? fun o => !o.again.isEmpty) == some o && e.paced o.bytes s.tclk) &&
     (let m : Msg := { op := 4, kind := .readReq, msg := 7, base := 0, count := 2 }; let e := { endT with queue := [m] }
      endMeets e fun s => let s := { s with ops := [{ opT (.get 2 0) with job := job 0 1 2 [(32, 4, 8192)] }] }
        e.mayStart m (s.opFor m) && match s.build (rc e) m (s.opFor m) with
          | (_, .ok b) => decide (e.packets + 1 + b.n ≤ 512) && e.admits b.bytes s.tclk
          | _ => false)) = true := by decide +kernel

/-- A state whose port 0 holds a packet for node 7, to which a route by port 1 leads. -/
def routed (k : Packet) (entered : Nat) : State × Waiting :=
  let w : Waiting := { pkt := k, entered, headAt := some entered }
  ({ up with ports := [(0, { up := true, input := [w] }), (1, { up := true, subs := [(0, { up := true })] })],
             slots := [(0, { state := .sealed_, table := [(7, { mask := 2, valid := true, escape := 1, dist := 1 })] })] }, w)

def transitT : Packet := { writeT 0 with dst := 7, phase := 2, vc := 1 }

def headMeets (k : Packet) (entered : Nat) (good : State → Waiting → Bool) : Bool :=
  let (s, w) := routed k entered
  s.live && ((s.inputOf 0).find? fun w => poolOf w.pkt.vc w.pkt.epoch == poolOf 1 0) == some w && good s w

theorem test_meets_HeadsForwarded :
    ((headMeets transitT 9999999 fun s w => match s.grant 0 w with
        | .go p k _ => decide (k.plen ≤ (s.unbuffer 0 (poolOf 1 0)).portPayload p)
        | _ => false) &&
     (headMeets { transitT with plen := 4097 } 9999999 fun s w => match s.grant 0 w with
        | .go p k _ => decide ((s.unbuffer 0 (poolOf 1 0)).portPayload p < k.plen)
        | _ => false) &&
     (headMeets { transitT with hop := 63 } 9999999 fun s w => match s.grant 0 w with | .discard i => i == 0x48 | _ => false) &&
     (headMeets transitT 9999999 fun s _ => let s := s.modPort 1 fun x => { x with spent := [(1, s.poolSize 1 1), (6, s.poolSize 1 6)] }
        match (s.inputOf 0).find? fun w => poolOf w.pkt.vc w.pkt.epoch == poolOf 1 0 with
        | some w => (match s.grant 0 w with | .wait => true | _ => false)
        | none => false) &&
     (headMeets transitT 0 fun s w => decide (w.entered + s.hopResidence ≤ s.tclk)) &&
     (headMeets transitT 10000000 fun s w => decide (s.tclk < w.entered + s.hopResidence))) = true := by decide +kernel

/-- A frame whose destination MAC address, EtherType and length with its FCS are given. -/
def frameT (dst ty n : Nat) (fcsOk : Bool) : Frame := { bytes := beBytes 6 dst ++ beBytes 6 0x112233445566 ++ beBytes 2 ty ++ List.replicate (n - 18) 0, fcsOk }

def frameMeets (x : Frame) (good : State → Bool) : Bool :=
  let s := { up with ports := [(0, { up := true, subs := [(0, { up := true })] })], regs := macRegs 0 }
  let u := s.mac 0 0 0x01 (x.bytes.length + 4)
  s.live && decide (0 < s.subCount 0) && (s.sub 0 0).up && good (u.macFrame 0 0 0x00 0x02 0x10 (x.bytes.length + 4) x.bytes)

theorem test_meets_FramesTaken :
    ((frameMeets (frameT 0x112233445500 0x88B5 63 true) fun _ => decide ((frameT 0x112233445500 0x88B5 63 true).bytes.length + 4 = 63)) &&
     (frameMeets (frameT 0x112233445500 0x88B5 64 false) fun v => decide (64 ≤ v.maxFrame 0)) &&
     (frameMeets (frameT 0x112233445500 0x88B5 64 true) fun v =>
        !v.portSwitched 0 && dmacOf (frameT 0x112233445500 0x88B5 64 true).bytes == v.macAddr 0 0 && decide (64 ≤ v.maxFrame 0)) &&
     (frameMeets (frameT 0x112233445501 0x88B5 64 true) fun v => dmacOf (frameT 0x112233445501 0x88B5 64 true).bytes != v.macAddr 0 0) &&
     (frameMeets (frameT 0x0180C200000E 0x88CC 64 true) fun v => v.zftDatagram 0 (frameT 0x0180C200000E 0x88CC 64 true).bytes == none)) = true := by
  decide +kernel

theorem test_meets_FramesTaken_long : up.maxFrame 0 < (frameT 0 0 16384 true).bytes.length + 4 := by decide +kernel

theorem test_meets_WaitsEnd :
    (let j := job 0 1 0 [(38, 2, 0x8000), (42, 6, 1)]; let a : Armed := { job := j, due := some 1 }
     let mk := fun (v : W64) => ({ fetchedIn up j with armed := [a], ctxs := [(0, { owner := 0, evc := [(0, v)] })] } : State)
     let go := fun (s : State) (marked : Bool) => s.live && s.nextArmed == some a && evcMarked (s.evc 0 0) == marked
     go (mk 1) false && go (mk (BitVec.ofNat 64 (2 ^ 63))) true && !(mk 1).armHeld.jobFenced j) = true ∧
    (let mk := fun (x : Flag) => ({ up with flags := [{ id := 1, f := 0, paths := [], flag := x }] } : State)
     let go := fun (x : Flag) => (mk x).live && ((mk x).flags.find? fun p => p.id == 1).any fun p => p.flag == x
     go (.job none (job 0 1 1 []) {}) && go (.signal 0 0 0 1 0) && go (.final 1 6 7 0x100000003000 1 0 0 0 0 0 0)) = true ∧
    (let s := { qpUp (rc endT) with sidings := [(0, { pkts := [{ port := 0, pkt := writeT 0 }] })] }
     let u0 := s.unside 0 1 (rc endT) 6; let u1 := u0.2.unside 1 1 (rc endT) 6
     s.live && tget s.qps 1 == some (rc endT) && u0.1 ++ u1.1 != []) = true := by decide +kernel

/-- A COLL packet of a data message for group 3 and a state that holds the group, an ALL_REDUCE of 4 INT32 being under way. -/
def collPkt (gid psn idx : Nat) (last : Bool) : Packet := { packetT 8 psn (collExt (BitVec.ofNat 16 gid).toNat 0 0 0 0 ++ [1, 2, 3, 4]) with plen := 4, idx, last }

def collT (folds : List Fold) : Coll :=
  { seq := 0, op := 4, job := job 0 1 0x10 [(56, 2, 3), (32, 4, 16)], elem := 0, red := 0, n := 4, root := 0, input := 0x100000001000, inSeg := 0,
    result := 0x100000002000, resSeg := 0, rlen := 16, sig := 0, startAt := 0, folds, owed := 1 }

def chunkMeets (p : Packet) (good : Option (Nat × Group × Neighbour) → Inbound → Bool) : Bool :=
  let x := { rc endT with group := some 3 }
  let s := { qpUp x with arrived := [{ port := 0, pkt := p }], groups := [(3, groupT .ready)] }
  (requestOf s fun p => p.ty == 8 && (s.kindOf p).isNone).any fun r => good (r.1.sender r.2) r.2

theorem test_meets_ChunksMove_packets :
    ((chunkMeets (collPkt 4 0 0 true) fun n _ => n.isNone) &&
     (chunkMeets (collPkt 3 0 1 true) fun n i => n.any fun x => x.1 == 3 && decide (i.pkt.chunk < 0xFFFFFF00) && x.2.1.msgs == []) &&
     (chunkMeets (collPkt 3 0 0 true) fun n i => n.any fun x => x.1 == 3 && decide (i.pkt.chunk < 0xFFFFFF00) && x.2.1.msgs == [])) = true := by decide +kernel

/-- A chunk at a level of a group of some shape, whose folding is complete at a member. -/
def foldMeets (sizes : List Nat) (level chunk : Nat) (good : State → Group → Coll → Bool) : Bool :=
  let f : Fold := { level, chunk, cluster := 0, units := [0], got := [0, 1], acc := [1, 2, 3, 4] }
  let g0 := { groupT .ready with sizes, members := List.range (sizes.foldl (· * ·) 1) }
  let c := collT [f]
  let g := { g0 with cur := some c }
  let s := { up with groups := [(3, g)] }
  s.live && tget s.groups 3 == some g && (c.folds.find? fun f => f.level == level && f.chunk == chunk) == some f && c.fault == none && !c.exact &&
    decide (g.sizes.getD level 1 ≤ f.got.length) && good s g c

theorem test_meets_ChunksMove_folds :
    ((foldMeets [2, 2] 0 2 fun _ g _ => ownerFrom g.sizes g.me 2 1 != g.me) &&
     (foldMeets [2, 2] 0 0 fun _ g _ => ownerFrom g.sizes g.me 0 1 == g.me) &&
     (foldMeets [2] 0 0 fun s g c => (placeOf g c g.me 0).any fun off => (s.collStore 3 g c off (elemBytes c.es [1, 2, 3, 4])).2)) = true := by decide +kernel

/-! ### Witnesses: control records, groups, route messages -/

/-- A control record of a kind for group 3, whose member `me` is this node's. -/
def ctlPkt (kind : Nat) : Packet :=
  { packetT 8 0 (collExt 3 0 0 0 (BitVec.ofNat 32 (0xFFFFFF00 + kind)) ++ ctlBody kind 0 0 1 1 7 0 0) with plen := 64 }

def ctlMeets (kind : Nat) (g : Group) (good : State → Group → Neighbour → List Byte → Bool) : Bool :=
  let x := { rc endT with group := some 3 }
  let s := { qpUp x with arrived := [{ port := 0, pkt := ctlPkt kind }], groups := [(3, g)] }
  (requestOf s fun p => p.ty == 8 && s.kindOf p == some kind).any fun r => (r.1.controlOf r.2 kind).any fun c => c.1 == 3 && good r.1 c.2.1 c.2.2.1 c.2.2.2

/-- The same group as member 1 holds it, whose parent is the neighbour. -/
def childT (state : GroupState) : Group := { groupT state with me := 1, nbrs := (groupT state).nbrs.map fun n => { n with idx := 0 } }

theorem test_meets_ControlRecordsActed :
    ([1, 2, 3, 4, 6, 10].all fun k => ctlMeets k (groupT .ready) fun _ g _ _ => g.parent == none && g.leader) = true ∧
    (ctlMeets 4 (childT .ready) fun _ g _ _ => g.parent == some 0) = true ∧
    (ctlMeets 5 (childT .ready) fun _ g n l => g.parent == some n.idx && decisionOf (fld l 3 1) == some .ok) = true ∧
    (ctlMeets 9 (childT .ready) fun _ g n _ => g.parent == some n.idx) = true := by decide +kernel

theorem test_meets_GroupsForm_GroupsFormAndTimeOut :
    (ctlMeets 7 (groupT .forming) fun _ _ _ _ => true) = true ∧
    (let g : Group := { childT .forming with ticket := some (job 0 0 0x20 []) }
     ctlMeets 8 g fun u h n _ => h.parent == some n.idx && tget u.groups 3 == some h && h.state == .forming && h.ticket == some (job 0 0 0x20 [])) = true ∧
    (let g : Group := { groupT .forming with formBy := 10000000, ticket := some (job 0 0 0x20 []) }
     let s := { up with groups := [(3, g)] }; s.live && tget s.groups 3 == some g && decide (g.formBy ≤ s.tclk)) = true ∧
    (let g := groupT .ready; let s := { up with groups := [(3, g)] }; s.live && tget s.groups 3 == some g && g.leader && !g.laggard) = true ∧
    (let g : Group := { groupT .ready with timeout := 5, cur := some (collT []) }
     let s := { up with groups := [(3, g)] }
     s.live && tget s.groups 3 == some g && !g.laggard && g.cur.any fun c => decide (c.startAt + 2 * g.timeout * 1000000 ≤ s.tclk)) = true := by decide +kernel

/-- A FABRIC message from node 6 that has arrived at a state. -/
def fabricT (s : State) (l : List Byte) : State :=
  { s with arrived := [{ port := 0, pkt := { ty := 0x21, src := 6, dst := 5, vc := 9, phase := 3, plen := l.length, body := l, first := true, last := true } }] }

def fabricMeets (s : State) (op : Nat) (l : List Byte) (good : State → Bool) : Bool :=
  (fabricT s l).live && match (fabricT s l).takeArrived fun p => p.ty == 0x21 && fld p.body 0 1 == op with
    | some (a, u) => a.pkt.body == l && a.pkt.src == 6 && a.port == 0 && good u
    | none => false

/-- A GROUP_JOIN of group 3 from the neighbour of a member index, with a CRC. -/
def joinT (crc idx : Nat) : List Byte :=
  [0x20, 0] ++ leBytes 2 1 ++ leBytes 4 3 ++ leBytes 4 crc ++ leBytes 4 idx ++ leBytes 4 9 ++ leBytes 8 (6 * 2 ^ 48 + 0x100000800000) ++ leBytes 4 0

def replyT (st : Nat) : List Byte := [0x80, 0] ++ leBytes 2 7 ++ [BitVec.ofNat 8 st]

theorem test_meets_GroupsForm_JoinsAnswered :
    (fabricMeets up 0x20 (joinT 0 1) fun u => tget u.groups 3 == none) = true ∧
    (let s := { up with groups := [(3, groupT .forming)] }
     (fabricMeets s 0x20 (joinT 1 1) fun u => tget u.groups 3 == some (groupT .forming)) &&
     (fabricMeets s 0x20 (joinT 0 2) fun _ => (groupT .forming).nbr 2 == none) &&
     (fabricMeets s 0x20 (joinT 0 1) fun _ => ((groupT .forming).nbr 1).any fun n => n.node == 6)) = true ∧
    (let mk := fun (q : Option (Nat × Nat)) => ({ up with requests := [{ id := 7, dst := 6, data := [], at_ := 0, qpOf := q }] } : State)
     let go := fun (q : Option (Nat × Nat)) (st : Nat) =>
       fabricMeets (mk q) 0x80 (replyT st) fun u => (u.requests.find? fun r => r.id == 7 && r.dst == 6).any fun r => r.qpOf == q
     go none 0 && go (some (3, 1)) 0 && go (some (3, 1)) 2 &&
       ((mk none).requests.find? fun r => r.id == 7).any fun r => decide (r.at_ + 100000 ≤ (mk none).tclk)) = true ∧
    (fabricMeets up 0x10 [0x10, 0, 1, 0, 0, 0, 0, 0] fun _ => true) = true := by decide +kernel

/-- A state whose manager is node 6, with slot 0 in a state. -/
def managed (r : RouteSlot) : State := { up with regs := [(regKey 0 0x010028, 0x01000006)], slots := [(0, r)] }

def routeMeets (r : RouteSlot) (epoch : Nat) (l : List Byte) (form : Bool) (good : State → RouteSlot → Bool) : Bool :=
  fabricMeets { managed r with epoch } (fld l 0 1) l fun u =>
    u.fmNode == some 6 && (u.answered.find? fun a => a.src == 6 && a.id == fld l 2 2) == none && routeForm (u.slot 0) l == form && good u (u.slot 0)

theorem test_meets_RouteMessagesApply :
    (fabricMeets up 1 [1, 0, 1, 0] fun u => u.fmNode != some 6) = true ∧
    (fabricMeets { managed {} with answered := [{ src := 6, id := 1, status := 0 }] } 1 [1, 0, 1, 0] fun u =>
      u.fmNode == some 6 && (u.answered.find? fun a => a.src == 6 && a.id == 1).isSome) = true ∧
    ((routeMeets {} 0 [1, 2, 1, 0] false fun _ _ => true) && (routeMeets {} 0 [1, 0, 1, 0] true fun _ r => r.state != .sealed_) &&
      (routeMeets { state := .sealed_ } 0 [1, 0, 1, 0] true fun _ r => r.state == .sealed_) &&
      (routeMeets { state := .loading } 0 ([2, 0, 1, 0, 7, 0, 0, 0, 1, 0, 0, 0, 0, 0, 0, 0] ++ ({ mask := 2, valid := true } : RouteEntry).bytes) true
        fun _ r => r.state == .loading) &&
      (routeMeets { state := .sealed_ } 0 [4, 0, 1, 0] true fun _ r => r.state == .sealed_) &&
      (routeMeets { state := .sealed_ } 1 [5, 0, 1, 0] true fun u r => r.state == .sealed_ && u.epoch != 0) &&
      (routeMeets { state := .sealed_ } 0 [5, 0, 1, 0] true fun u r => r.state == .sealed_ && u.epoch == 0) &&
      (routeMeets { state := .loading } 0 [6, 0, 1, 0, 0, 0, 0, 0, 1, 0, 0, 0, 0, 0, 0, 0, 7, 0, 0, 0] true fun _ r => r.state == .loading) &&
      (routeMeets { state := .loading } 0 ([7, 0, 1, 0, 7, 0, 0, 0, 1, 0, 0, 0, 0, 0, 0, 0] ++ ({ valid := true } : AddrEntry).bytes) true
        fun _ r => r.state == .loading)) = true := by decide +kernel

theorem test_meets_RouteMessagesApply_seal :
    (({ state := .loading } : RouteSlot).crc == 3710448939) = true ∧
    ([3710448939, 0].all fun c => routeMeets { state := .loading } 0 ([3, 0, 1, 0, 0, 0, 0, 0] ++ leBytes 4 c) true fun _ r => r.state == .loading) = true ∧
    fld ([3, 0, 1, 0, 0, 0, 0, 0] ++ leBytes 4 3710448939) 8 4 = 3710448939 ∧ fld ([3, 0, 1, 0, 0, 0, 0, 0] ++ leBytes 4 0) 8 4 ≠ 3710448939 := by decide +kernel

/-! ### Witnesses: links, peers, the ROM agent, what leaves a port -/

/-- A state whose port 0 is up, with port registers given. -/
def ported (x : Port) (regs : Tab W32 := []) : State := { up with ports := [(0, x)], regs }
def portT : Port := { up := true, subs := [(0, { up := true })] }

/-- A LINK message of port 0 that has arrived. -/
def linkT (s : State) (l : List Byte) : State := { s with arrived := [{ port := 0, pkt := { ty := 0x20, src := 6, dst := 5, vc := 9, phase := 3, plen := l.length, body := l } }] }

def linkMeets (s : State) (op : Nat) (l : List Byte) (good : State → Packet → Bool) : Bool :=
  (linkT s l).live && match takeFirst (fun (a : Arrival) => a.port == 0 && a.pkt.ty == 0x20 && fld a.pkt.body 0 1 == op) (linkT s l).arrived with
    | some (a, r) => good (State.freeCredit { linkT s l with arrived := r } a.port a.pkt) a.pkt
    | none => false

theorem test_meets_LinksAndLanes_LinksAndCredits :
    (let s := ported { portT with subs := [(0, { up := true }), (1, { up := true })] } [(regKey 0 (portBase 0 + 8), 1)]
     s.live && (((s.modSub 0 1 fun x => { x with up := false }).portState 0).port 0).up) = true ∧
    (let s := ported portT; s.live && !(((s.modSub 0 0 fun x => { x with up := false }).portState 0).port 0).up) = true ∧
    (let s := ported {} [(regKey 0 (portBase 0 + 8), 4)]
     s.live && s.portEnabled 0 && s.subCount 0 == 1 && !s.portsHeld && !(s.port 0).retrain && (s.port 0).width != .down) = true ∧
    (let mk := fun (at_ : Nat) (new : Bool) => ported { portT with creditAt := at_, creditNew := new }
     !(mk 0 true).portSwitched 0 && decide (((mk 9996000 false).port 0).creditAt + 4000 ≤ (mk 9996000 false).tclk) &&
       decide (((mk 9999872 true).port 0).creditAt + 128 ≤ (mk 9999872 true).tclk) && decide ((mk 9996001 false).tclk < ((mk 9996001 false).port 0).creditAt + 4000)) = true ∧
    (linkMeets (ported portT) 0x80 (leBytes 16 0x80 ++ List.replicate 52 0) fun _ _ => true) = true := by decide +kernel

theorem test_meets_PeersProbed :
    (let w : W64 := BitVec.ofNat 64 (2 ^ 32 + 1); let s := up
     s.served && !(s.peer 31).valid && bit w.toNat 32 &&
       !(s.peers.any fun e => e.1 != 31 && e.2.valid && overlaps (s.peerBase e.1) (s.peerSize e.1) (s.peerBase 31) (w.toNat % 2 ^ 32 * 4096))) = true ∧
    (let s := { up with peers := [(31, { valid := true })] }
     s.served && (s.peer 31).valid && !bit (0 : W64).toNat 32 && bit (BitVec.ofNat 64 (3 * 2 ^ 32) : W64).toNat 32 && bit (BitVec.ofNat 64 (3 * 2 ^ 32) : W64).toNat 33) = true ∧
    (let s := { up with peers := [(31, { valid := true, probing := true, issued := 15, nextAt := 10000000 })] }
     s.live && (s.peer 31).probing && decide ((s.peer 31).issued < 16 ∧ (s.peer 31).nextAt ≤ s.tclk)) = true ∧
    (let s := { up with peers := [(31, { valid := true, probing := true, issued := 16 })] }
     s.live && (s.peer 31).probing && (s.peer 31).issued == 16 && (List.replicate 16 50000).length == 16) = true := by decide +kernel

def agentState (x : Port) : State := { ported x with agent := { running := true, changed := 0, nextTree := 0 }, boot := { up.boot with stage := 2 } }

theorem test_meets_NeighboursGreeted :
    (let s := agentState portT; s.live && (s.sub 0 0).up && !(s.port 0).parked && decide ((s.sub 0 0).lldpNext ≤ s.tclk) && s.agent.running) = true ∧
    (let sw := fun (l : List Byte) (op : Nat) (on : Bool) => linkMeets (ported portT [(regKey 0 (portBase 0), if on then 1 else 0)]) op l fun u k =>
       !(u.port 0).parked && (u.versionSet 0 k k.body).portSwitched 0 == on
     let hello := fun (op : Nat) => leBytes 1 op ++ leBytes 1 0 ++ leBytes 2 2 ++ leBytes 2 6 ++ leBytes 10 0
     sw (hello 1) 1 false && sw (hello 1) 1 true && sw (hello 2) 2 false && sw (hello 2) 2 true) = true ∧
    (let s := agentState portT
     s.live && (s.port 0).up && !(s.port 0).parked && decide ((s.port 0).helloNext ≤ s.tclk) && s.agent.running &&
       !(s.modPort 0 fun x => { x with helloNext := s.tclk + 1000000 }).portSwitched 0) = true := by decide +kernel

/-- An LLDP frame that names node 7 under the vendor's identifier. -/
def lldpT : List Byte := List.replicate 14 0 ++ ownTlv 1 (leBytes 2 7 ++ leBytes 1 0)

theorem test_meets_NeighboursGreeted_lldp :
    (((agentState { portT with lldpIn := [(0, lldpT)] }).port 0).lldpIn = [(0, lldpT)] ∧ lldpNode lldpT = some 7) := by
  refine ⟨rfl, ?_⟩
  have h : lldpTlvs 64 (lldpT.drop 14) = [(127, beBytes 3 Config.oui.toNat ++ [1, 7, 0, 0])] := rfl
  have e : ∀ n < 2 ^ 24, beNat (slice (beBytes 3 n ++ [1, 7, 0, 0]) 0 3) = n := by
    intro n hn
    simp [beBytes, leBytes, slice, beNat, leNat]
    omega
  have e' := e Config.oui.toNat Config.oui.isLt
  have f : ∀ n, fld (beBytes 3 n ++ [1, 7, 0, 0]) 3 1 = 1 ∧ fld (beBytes 3 n ++ [1, 7, 0, 0]) 4 2 = 7 ∧ zeroAt (beBytes 3 n ++ [1, 7, 0, 0]) 6 1 = true :=
    fun n => ⟨rfl, rfl, rfl⟩
  simp [lldpNode, h]
  exact ⟨⟨⟨e', (f _).1⟩, (f _).2.2⟩, (f _).2.1⟩

theorem test_meets_TreeFormed :
    (let l : List Byte := [8, 0, 1, 0, 3, 0, 0, 0, 1]
     fabricMeets (agentState portT) 8 l fun u => (u.answered.find? fun x => x.src == 6 && x.id == 1) == none && !u.portSwitched 0 && zeroAt l 6 1 &&
       tget (u.modPort 0 fun x => { x with peerNode := 6 }).agent.heard 0 != some (6, 3, 1)) = true ∧
    (let l : List Byte := [9, 0, 1, 0, 0, 0, 0, 0, 1, 0, 0, 0, 0, 0, 0, 0, 9, 0, 0, 0]
     fabricMeets (agentState portT) 9 l fun u => (u.answered.find? fun x => x.src == 6 && x.id == 1) == none && !u.portSwitched 0 && zeroAt l 4 4 &&
       zeroAt l 12 4 && l.length == 16 + 4 * fld l 8 2 && zeroAt l 18 2 && tgetD u.agent.subtree 0 [] == [] && u.agent.parent == none && addNew 9 [] != []) = true ∧
    (let s := { agentState portT with tclk := 20000000 }
     s.live && s.agentOn && decide (s.agent.nextTree ≤ s.tclk) && !s.agent.stable && decide (s.agent.changed + 20000000 ≤ s.tclk)) = true ∧
    (let s := { agentState portT with agent := { retireAt := some 0 } }; let t : State := { s with tclk := s.agent.lastOld + s.drainTime }
     t.agent.retireAt = some 0 ∧ 0 ≤ t.tclk ∧ t.agent.lastOld + t.drainTime ≤ t.tclk ∧ up.agent.retireAt = none) :=
  ⟨by decide +kernel, by decide +kernel, by decide +kernel, rfl, Nat.zero_le _, Nat.le_refl _, rfl⟩

/-- A state whose sub-port 0 of port 0 has a gate schedule, with its second word given. -/
def gated (x : SubPort) (on : Nat) : State := ported { portT with subs := [(0, { x with up := true })] } [(regKey 0 (subBase 0 0 + 0x46C), BitVec.ofNat 32 on)]

theorem test_meets_GatesAndFrames_GatesRun :
    (let s := gated {} 0
     let com := BitVec.ofNat 64 (2 ^ 33 + 1000000); let en := BitVec.ofNat 64 (2 ^ 32 + 1000000)
     s.served && decide (0 < s.subCount 0) && !bit com.toNat 32 && bit com.toNat 33 && bit en.toNat 32 && !bit en.toNat 33 && !s.gateEnabled 0 0) = true ∧
    (let s := gated { pending := true, commitAt := 10000000 } 0; s.live && (s.sub 0 0).pending && decide (((s.sub 0 0).commitAt : Int) ≤ s.gateTime)) = true ∧
    (let s := gated { pending := true, commitAt := 10000001 } 0; (s.sub 0 0).pending && decide (s.gateTime < (s.sub 0 0).commitAt)) = true ∧
    (let s := gated { gateOn := true, cycleAt := 9000000, gateCycle := 1000000 } 1
     s.live && s.gateEnabled 0 0 && (s.sub 0 0).gateOn && decide ((((s.sub 0 0).cycleAt + (s.sub 0 0).gateCycle : Nat) : Int) ≤ s.gateTime)) = true ∧
    (let s := gated { gateOn := true, cycleAt := 9500000, gateCycle := 1000000, entryEnd := 10000000 } 1
     s.live && s.gateEnabled 0 0 && (s.sub 0 0).gateOn && decide (((s.sub 0 0).entryEnd : Int) ≤ s.gateTime) &&
       decide ((s.sub 0 0).entryEnd < (s.sub 0 0).cycleAt + (s.sub 0 0).gateCycle)) = true := by decide +kernel

/-- A frame of LLDP, or of raw data, that waits in a class queue. -/
def waitT (c : Nat) : TxFrame := { cls := c, kind := .lldp, bytes := List.replicate 60 0 }

def startMeets (x : SubPort) (good : State → Bool) : Bool :=
  let s := ported { portT with subs := [(0, { x with up := true })] } (macRegs 0); let t := s.pfcCheck 0
  s.live && decide (0 < t.subCount 0) && (t.sub 0 0).up && !(t.port 0).parked && good t

theorem test_meets_GatesAndFrames_FramesLeave :
    ((startMeets { ctrl := [List.replicate 60 0] } fun t => (t.sub 0 0).ctrl != []) &&
     (startMeets { queue := [waitT 7] } fun t => (t.sub 0 0).ctrl == [] && t.eligible 0 0 7 && !((List.range 6).any fun k => t.eligible 0 0 k)) &&
     (startMeets { queue := [waitT 6] } fun t => t.eligible 0 0 6 && !t.eligible 0 0 7 && !((List.range 6).any fun k => t.eligible 0 0 k)) &&
     (startMeets {} fun t => (t.sub 0 0).ctrl == [] && (List.range 8).all fun k => !t.eligible 0 0 k) &&
     (startMeets { pauses := [[(3, some 20000000), (0, none)]] } fun t => !t.paused 0 0 7 && (t.sub 0 0).pauses != [] && t.served)) = true := by decide +kernel

/-! ### Witnesses: lanes, the gang, the movement engines -/

theorem test_meets_LinksAndLanes_LanesAndParking_fail :
    (let ok := fun (x : Port) => let s := ported x; let y := s.port 0; let u := s.modPort 0 fun y => { y with failed := y.failed ||| (1#9 <<< 3) }
       s.live && !y.failed.getLsbD 3 && !s.portSwitched 0 && s.subCount 0 == 1 && u.subCount 0 == 1 && !u.portSwitched 0 && y.width == .full && y.lanes.contains 3 &&
         !y.allFailed.getLsbD 8 && y.peerFailed == 0 && y.failed == 0
     ok portT && ok { portT with swapping := some 5 }) = true := by decide +kernel

theorem test_meets_LinksAndLanes_LanesAndParking_rest :
    ((linkMeets (ported portT) 0x81 [0x81, 0, 3] fun u k => decide (fld k.body 2 1 ≤ 7) && (u.port 0).width == .full && !u.portSwitched 0) &&
     (linkMeets (ported { portT with swapping := some 3 }) 0x82 [0x82, 0, 3] fun u _ => (u.port 0).swapping == some 3) &&
     ((ported { portT with retrain := true }).port 0).retrain) = true ∧
    (let quiet := fun (s : State) => (takeFirst (fun (a : Arrival) => a.port == 0 && a.pkt.ty == 0x20 && fld a.pkt.body 0 1 == 0x83) s.arrived).isNone && !(s.port 0).parked && (s.port 0).up
     let on : Tab W32 := [(regKey 0 0x010448, 0x1000)]
     let a := ported portT (tset on (regKey 0 (portBase 0)) 1); let b := ported portT; let c := ported { portT with parkSeen := true, parkSent := true } on
     let u := c.modPort 0 fun x => { x with parkSeen := true }
     quiet a && a.mayPark 0 && a.portSwitched 0 && quiet b && !b.mayPark 0 && quiet c && c.mayPark 0 && !c.portSwitched 0 && (c.port 0).parkSent && (c.sub 0 0).queue == [] &&
       (u.port 0).parkSeen && (u.sub 0 0).queue == []) = true ∧
    (let at_ := fun (w : Option Nat) => ((ported { portT with parked := true, waking := w }).port 0)
     (at_ none).parked && (at_ none).waking == none && decide (10000000 ≤ up.tclk) && (at_ (some 10000000)).waking == some 10000000 && decide (up.tclk < 10000001)) = true := by
  decide +kernel

/-- A plan of one END bundle, a family, and a state with a run of a plan on cluster 0. -/
def planT : Plan := { ctx := 0, bytes := container }
def familyT : Plan := { ctx := 0, family := 1 }
def memberT : Member := { cluster := 0, passed := true, a := List.replicate 16 0, sreg := List.replicate 16 0, marks := List.replicate 16 0 }
def runT (members : List Member) : PlanRun := { id := 2, op := 4, plan := 4, ctx := 0, f := 0, gang := [0], started := !members.isEmpty, members, slots := List.replicate 16 none, segs := [0, 1] }

def runState (p : Plan) (r : PlanRun) : State :=
  { poke up 0x100000001160 [1] with
    ctxs := [(0, { owner := 0, segs := [(0, segAt 0x100000000000 0x1000000), (1, segAt 0 0x1000000)] })], gals := [(0, {})],
    plans := [(4, p)], runs := [r], ops := [{ opT (.plan 2) with near := 0x100000001000, refs := [{ ctx := 0, seg := 0, gen := 0 }, { ctx := 0, seg := 1, gen := 0 }] }] }

theorem test_meets_PlanStepsTaken_start :
    (let s := runState planT (runT []); let r := runT []
     s.live && s.run 2 == some r && !r.started && s.gangFree r && tget s.plans r.plan == some planT && (s.op r.op).isSome &&
       match s.readVia { f := r.f, ctx := r.ctx, seg := 0 } 0x100000001000 512 with
       | (t, l, none) =>
         let active := fun i => decide ((t.segment r.ctx i).state = .active)
         !argsBad planT l && (bitsSet 16 (argMask l)).all (fun k => active (argA l k / 2 ^ 60 % 16)) && (startSegs (argMask l) (gangMembers r.gang l) planT.moves).all active
       | _ => false) = true := by decide +kernel

theorem test_meets_PlanStepsTaken_issue :
    (let ok := fun (p : Plan) => let r := runT [memberT]; let s := runState p r
       s.live && s.run 2 == some r && tget s.plans r.plan == some p && r.members[0]? == some memberT && !r.paused && r.failed == none && !memberT.ended && memberT.waiting == none &&
         !s.runHeld 2 && decide (memberT.pc < p.length) && memberT.passed
     ok planT && ok familyT && planT.family == 0 && bLop (planT.bundleAt 0) == 0 && bCop (planT.bundleAt 0) != 5 && familyT.family != 0) = true := by decide +kernel

theorem test_meets_PlanStepsTaken_rest :
    (let st : Stage := { id := 1, op := 4, bundle := 0, rows := 1, len := 64, near := 2 ^ 60, far := 0x2000, list := 0, pitchF := 0, pitchN := 0, slot := 0 }
     let m := { memberT with stages := [st] }; let r := runT [m]; let s := runState planT r
     s.run 2 == some r && (m.stages.find? fun x => x.id == 1) == some st && okE (s.copyStage r st).2) = true ∧
    (let ok := fun (past : Bool) => let m := { memberT with waiting := some (0, 5) }; let r := { runT [m] with slots := [some 0] }
       let s := { runState planT r with ctxs := [(0, { owner := 0, evc := [(0, if past then 5 else 4)] })] }
       s.live && s.run 2 == some r && r.failed == none && r.members.filter (fun m => !m.ended) == [m] && m.waiting.isSome &&
         !((r.slots.getD 0 none).any fun c => evcMarked (s.evc r.ctx c)) && s.waitOver r (0, 5) == past
     ok true && ok false) = true ∧
    (let r := { runT [memberT] with paused := true }; let s := runState planT r
     s.run 2 == some r && r.paused && !s.stopWaits && !(r.gang.any fun c => s.inService c || s.wantsCluster c)) = true ∧
    (let r := runT [{ memberT with ended := true }]; let s := runState planT r
     s.run 2 == some r && r.started && r.members.all (·.ended) && s.runQuiet r && !s.runHeld 2) = true := by decide +kernel

/-- A TIMER channel of one row of 64 bytes every 100 ns, and a state in which it is channel 15 of ME 1 of cluster 47. -/
def chanT : Channel :=
  { run := 2, desc := leBytes 3 1 ++ [2] ++ List.replicate 20 0 ++ leBytes 4 64 ++ leBytes 4 1 ++ List.replicate 8 0 ++ leBytes 8 100 ++ List.replicate 16 0,
    src := 0x2000, dst := 0x3000, armed := true }

def engineState (m : MeUnit) : State := { runState planT (runT [memberT]) with channels := [(47 * 32 + 31, chanT)], mes := [(95, m)] }

theorem test_meets_EngineRuns :
    (let ok := fun (m : MeUnit) (c : Channel) (at_ : Nat) (due busy : Bool) => let s := { engineState m with channels := [(47 * 32 + 31, c)], tclk := at_ }
       s.live && tget s.channels (47 * 32 + 1 * 16 + 15) == some c && s.chanBusy (47 * 32 + 1 * 16 + 15) == busy &&
         decide (c.armed = true ∧ c.start = 0 ∧ c.armedAt + (c.started + 1) * c.period ≤ s.tclk ∧ (c.limit = 0 ∨ c.started + 1 ≤ c.limit)) == due
     ok {} chanT 100 true false && ok { ready := [{ chan := 47 * 32 + 31, k := 1 }] } chanT 100 true true && ok {} chanT 99 false false &&
       ok {} { chanT with armed := false } 100 false false) = true ∧
    (let go := fun (r : MeRun) (c : Channel) (ok : Bool) => let m : MeUnit := { ready := [r] }; let s := { engineState m with channels := [(47 * 32 + 31, c)] }
       m.running == none && !s.clusterFenced 47 && !s.replaying 47 && (m.take.any fun x => x.1 == r) && tget s.channels r.chan == some c &&
         !(s.recov.fences.any fun x => x.domain == .function (s.chanFn c)) && okE (s.rowChecks c c.pairs []) == ok
     let r : MeRun := { chan := 47 * 32 + 31, k := 1 }
     go r chanT true && go r { chanT with src := 2 * 2 ^ 60 } false && go { r with marked := true } chanT true) = true ∧
    (let s := { engineState { ready := [{ chan := 47 * 32 + 31, k := 1 }] } with recov := { fences := [{ domain := .function 0, drainBy := 0 }] } }
     !s.clusterFenced 47 && s.recov.fences.any fun x => x.domain == .function (s.chanFn chanT)) = true ∧
    (let ok := fun (st : Option Status) (fl : List PendingFlag) => let r : MeRun := { chan := 47 * 32 + 31, k := 1, status := st }
       let s := { engineState { running := some r } with flags := fl }
       (tgetD s.mes (47 * 2 + 1) {}).running == some r && tget s.channels r.chan == some chanT &&
         (s.flags.any fun p => match p.flag with | .meRun k _ _ => k == r.chan | _ => false) == !fl.isEmpty
     ok none [] && ok (some .locSeg) [] && ok none [{ id := 1, f := 0, paths := [], flag := .meRun (47 * 32 + 31) .ok 0 }] && bit chanT.options 1 &&
       (tgetD (engineState {}).mes 95 {}).running == none) = true := by decide +kernel

/-! ### Witnesses: galleries and memory -/

def galT (x : Gallery) (regs : Tab W32 := []) : State := { up with gals := [(5, x)], regs }

theorem test_meets_GalleriesChange :
    (let j := job 0 0 0x30 []; let busy : Op := { opT (.recv 0 64) with qp := 1, job := job 0 1 1 [(12, 3, 1)] }
     let a := galT { hold := some (9000000, j) }; let b := { a with ops := [busy], qps := [(1, { rc endT with home := 40 })] }
     a.live && (a.gal 5).hold == some (9000000, j) && a.drained 5 && !b.drained 5 && (b.gal 5).hold == some (9000000, j) && decide (9000000 + 1000000 ≤ b.tclk)) = true ∧
    (let x := (galT { demand := 2 }).gal 5; x.divider != Nat.max x.floor x.demand) = true ∧
    (let ok := fun (cap d : Nat) => let s := { up with gals := [(4, {})], regs := [(regKey 0 0x010448, BitVec.ofNat 32 (cap * 2 ^ 8))] }
       s.deepest 4 == d && decide ((s.gal 4).power < d) && s.quiet 4 false && (s.gal 4).waking == none && decide ((s.gal 4).idleAt + idleTime d ≤ s.tclk)
     ok 1 1 && ok 2 2 && ok 3 3) = true := by decide +kernel

theorem test_meets_PowerAndConservation_PowerCapped :
    (let s := up; let hot := { s with power := { s.power with watts := 5000 } }
     s.live && s.nextRung.isSome && hot.nextRung.isSome && decide (hot.powerCap < hot.power.watts)) = true ∧
    (let s := { up with power := { below := some 9000000, rungs := [(1, 0)] } }
     decide (s.power.watts ≤ s.powerCap) && s.power.below.any fun b => decide (b + 1000000 ≤ s.tclk)) = true ∧
    (up.power.below = none ∧ ({ up with power := { below := some 9000001 } } : State).tclk < 9000001 + 1000000) := by decide +kernel

theorem test_meets_PowerAndConservation_CyclesConserve :
    (let cycle := fun (x : Gallery) (l : Slack) (good : Nat → Gallery → Bool) =>
       let s := galT x; let t := s.modCons 5 fun c => { c with busy := true, again := false, due := if decide ((s.gal 5).cons.due ≤ s.poweredNow) then c.due + 86400000 else c.due }
       let u := (t.retireWorn 5 l).retireSlow 5 l
       s.live && s.boot.stage == 3 && !(s.gal 5).cons.busy && (s.gal 5).hold == none && (s.gal 5).power != 3 && ((s.gal 5).cons.again || decide ((s.gal 5).cons.due ≤ s.poweredNow)) &&
         good ((u.gal 5).least l) (u.gal 5)
     (cycle {} ⟨[(0, [39])], [], []⟩ fun m y => decide (m < 40 ∧ y.offset < 10)) &&
     (cycle { cons := { again := true, due := 10 ^ 9 } } ⟨[(0, [40])], [], []⟩ fun m _ => decide (40 ≤ m ∧ m < 90)) &&
     (cycle {} ⟨[(0, [89])], [], []⟩ fun m _ => decide (40 ≤ m ∧ m < 90))) = true ∧
    (let x : Gallery := { cons := { settling := true } }; x.cons.settling && decide ¬(x.least ⟨[(0, [39])], [], []⟩ < 40 ∧ x.offset = 10)) = true := by
  decide +kernel

theorem test_meets_MemoryMended_units :
    (let s := { up with clusters := [(47, { badFu := [(3, 1)] })] }
     s.live && clusterOk 47 && fuOk 3 && s.present 47 && decide (tgetD (s.cluster 47).scrubDue 3 0 ≤ s.poweredNow) && tget (s.cluster 47).badFu 3 == some 1 && (s.physOf 47).isSome &&
       !(s.unitsHeld 47).contains 3 && (s.cluster 47).spareFu) = true ∧
    (let s := { up with nor := { up.nor with unwritten := [{ ty := 1, cause := 4, loc := locBytes [0], time := 0 }] } }; s.nor.unwritten.length == 1 && s.boot.romOk && !s.boot.ddrDone) = true ∧
    (let ok := fun (u : MemUnit) => let s := { up with tiers := { up.tiers with ddr := { chans := [0], gib := 32, speed := 6400 } } }
       MemUnit.ok u && bit (s.word 0 (galBase (unitGallery u) + 8)) 24 && (s.gal (unitGallery u)).power != 3 && s.unitLines u != 0 &&
         !(s.tiers.bad.any fun b => b.1 == s.lineOf u ((s.scrubOf u).next % s.unitLines u)) && s.tiers.poison == []
     ok (.slice 47) && ok (.stack 23) && ok (.chan 0)) = true := by decide +kernel

theorem test_meets_MemoryMended_copies :
    (let x : Scrub := { rows := [{ pc := 63, to_ := 7, cause := 1 }], copies := [{ pc := 63, to_ := 0, cause := 1 }] }
     let s := { up with scrubs := [(unitKey (.stack 23), x)] }
     ((s.scrubOf (.stack 23)).rows.find? fun m => m.to_ == 7).isSome && ((s.scrubOf (.stack 23)).copies.find? fun m => m.pc == 63).isSome && !(s.gal (23 / 4)).cons.busy) = true ∧
    (let s := { up with gals := [(0, { fwHome := some 0, fwLost := true }), (3, { fwHome := some 24 })] }
     galOk 0 && (s.gal 0).fwLost && (s.gal 0).fwHome.isSome && s.fwTarget 0 == some 0 && (s.gal (3 - 0)).fwHome == some 24 && !(s.gal (3 - 0)).fwLost &&
       !(s.tiers.poison.any fun l => decide (fwPlace 24 ≤ l ∧ l < fwPlace 24 + 0x1000000))) = true := by decide +kernel

/-! ### Witnesses: snapshots, stops, fences, replays -/

def dbgT (d : Debug) (regs : Tab W32 := []) : State := { up with dbg := d, regs }

theorem test_meets_SnapshotsAndStops_SnapshotsTaken :
    (up.dbgServed && (dbgT { timerAt := some 10000000 }).live && decide (10000000 ≤ up.tclk ∧ up.tclk < 10000001) && (dbgT { timerAt := some 10000001 }).live) = true ∧
    (let s := dbgT { snapDue := some 10000000 }
     let u := s.modDbg fun d => { d with snapDue := none, snapTrig := 0, shadow := s.allCounters, snapSeq := 1, trigger := s.dbg.snapTrig, held := s.snapHold }
     s.activity == .running && decide (10000000 ≤ s.time) && !bit (s.word 0 0x120020) 3 && !bit (u.word 0 0x120020) 3) = true := by decide +kernel

theorem test_meets_SnapshotsAndStops_StopsHaltAndResume :
    (let on := dbgT {} [(regKey 0 0x120020, 2)]
     up.dbgServed && up.activity == .running && !bit (up.word 0 0x120020) 0 && !bit (up.word 0 0x120020) 1 && !bit (on.word 0 0x120020) 0 && bit (on.word 0 0x120020) 1) = true ∧
    (let s := dbgT { stop := .pending, haltDue := some 10000000, boundBy := some 10000000 }
     s.live && s.dbg.stop == .pending && decide (10000000 ≤ s.time ∧ 10000000 ≤ s.tclk)) = true ∧
    (let a := dbgT { stop := .stopped }; let b := dbgT { stop := .stopped, landed := true } [(regKey 0 0x12003C, 1)]
     up.dbg.stop != .stopped && a.dbgServed && decide (a.scanLen < a.scanSize) && b.dbgServed && decide (b.scanSize ≤ b.scanLen) && (dbgT { stop := .scanning }).activity == .running &&
       a.stopped && !a.dbg.landed && b.stopped && b.dbg.landed && !up.stopped && (dbgT { stop := .scanned }).stopped) = true := by decide +kernel

theorem test_meets_DomainsFenced :
    (up.served && !up.recov.busy && up.targetOk (.port 15) && up.targetOk (.cluster 47) && up.targetOk (.gallery 5) && !up.resetting (.port 15) && !up.resetting (.gallery 5)) = true ∧
    (let s := { up with recov := { fences := [{ domain := .gallery 5, drainBy := 0 }] } }
     s.served && !s.recov.busy && s.targetOk (.cluster 47) && s.resetting (.cluster 47) && s.resetting (.gallery 5)) = true ∧
    (let s := { up with gals := [(5, { phys := List.replicate 8 none })] }; s.served && !s.recov.busy && !s.targetOk (.cluster 47)) = true ∧
    ({ up with recov := { busy := true } } : State).recov.busy = true := by decide +kernel

theorem test_meets_HangsAndReplays_fences :
    (let ok := fun (ended : Bool) (by_ : Nat) => let s := { up with recov := { fences := [{ domain := .port 15, drainBy := by_, ended }] } }
       s.live && ((s.recov.fences.find? fun x => x.domain == .port 15 && x.ended == ended).isSome) && decide (by_ ≤ s.tclk)
     ok false 10000000 && ok true 0) = true ∧
    (let s := { up with recov := { fences := [{ domain := .port 15, drainBy := 10000001 }] } }; decide (s.tclk < 10000001) && s.quietDomain (.port 15)) = true := by decide +kernel

theorem test_meets_HangsAndReplays_engines :
    (let s := { runState planT (runT [memberT]) with tclk := 10 ^ 12 }
     s.live && Engine.ok (.tve 0) && s.hangs (.tve 0) && !s.resetting (engineDomain (.tve 0))) = true ∧
    (let s := { up with tclk := 10 ^ 12, ctxs := [(0, { owner := 0, segs := [(15, { segAt 0 64 with state := .withdrawing })] })] }
     s.live && LongWaiter.ok (.withdrawal 0 15) && (s.longRoot (.withdrawal 0 15)).isSome) = true ∧
    (let rp : Replay := { cluster := 47, todo := [(0, 0)], ready := true, startAt := 1 }; let s := { up with recov := { replays := [rp] } }
     let late := { s with tclk := 10 ^ 12 }; let e : Replay := { rp with todo := [] }; let t := { up with recov := { replays := [e] } }
     s.replayOf 47 == some rp && decide (s.tclk < rp.startAt + s.replayTimeout) && decide (rp.startAt + late.replayTimeout ≤ late.tclk) && t.replayOf 47 == some e && e.plan.isNone) = true := by
  decide +kernel

/-! ### Witnesses: the security island -/

def secT (x : Sec) (sel : Nat := 0) : State := { up with sec := x, regs := [(regKey 0 0x110200, BitVec.ofNat 32 sel)] }

/-- Registers of PF0 that hold bytes from an offset on. -/
def regsOf (base : Nat) (l : List Byte) : Tab W32 := (List.range (l.length / 4)).map fun i => (regKey 0 (base + 4 * i), BitVec.ofNat 32 (fld l (4 * i) 4))

/-- The base point of P-384 is a point; 96 zero bytes are none. -/
theorem test_meets_KeysAndSlots_KeysAgreed :
    (up.served && !up.sec.entropyBad && (secT { entropyBad := true }).sec.entropyBad && up.sec.pair.isNone && (secT { pair := some 3 }).sec.pair == some 3 &&
      !p384Point (secT { pair := some 3 }).kexHost &&
      (let s := { secT { pair := some 3 } with regs := regsOf 0x110180 (pairBytes (basePoint.getD (0, 0))) }; s.sec.pair == some 3 && p384Point s.kexHost)) = true := by
  decide +kernel

theorem test_meets_KeysAndSlots_SlotsLoaded :
    (let free := secT { kek := some 5 } 9; let bound := { free with qps := [(1, { rc endT with encrypted := true, slot := 9 })] }
     free.served && free.slotSel == 9 && !free.slotBound 9 && bound.slotSel == 9 && bound.slotBound 9 && (secT { entropyBad := true }).sec.entropyBad && (secT {}).sec.kek.isNone &&
       (tget free.ctxs 0).isSome && (tget free.ctxs 4095).isNone && bits (BitVec.ofNat 64 (4095 * 2 ^ 32) : W64).toNat 43 32 == 4095) = true ∧
    (let t := fun (x : KeyState) => let s := secT { slots := [(9, { state := x })] }; ((s.count 0x09 15 3 1).dropInProcess 15 9).keySlot 9
     (t .loaded).state == .loaded && (t .invalid).state != .loaded) = true := by decide +kernel

/-- The statement's cases for a wrapped key exclude each other and leave none out. -/
theorem test_meets_KeysAndSlots_SlotsLoaded_key (kek : BitVec 256) (l : List Byte) : unwrapKey kek l = none ∨ ∃ key, unwrapKey kek l = some key := by
  cases unwrapKey kek l with
  | none => exact .inl rfl
  | some k => exact .inr ⟨k, rfl⟩

theorem test_meets_IslandReacts :
    (let s := { up with boot := { up.boot with running := some { bundle with keyIndex := 3 } } }
     s.served && decide (2 < 3 ∧ 3 ≤ 3) && !s.fuses.revoked.getLsbD 3) = true ∧
    (up.live && up.activity == .running && ({ up with activity := .stopped } : State).activity == .stopped && (1 : BitVec 4) != 0) = true := by decide +kernel

/-! ### Witnesses: start, processors, functions, host ports -/

def bootT (b : Boot) : State := { up with boot := b }

theorem test_meets_PowerComesAndGoes :
    (State.reset.activity = .held ∧ ({ up with activity := .unpowered } : State).activity = .unpowered ∧ up.activity = .running ∧
      ({ up with activity := .stopped } : State).activity = .stopped ∧ up.nor.unwritten = []) := by decide +kernel

theorem test_meets_BundleStarts :
    (up.loadServed && (bootT { stage := 1, romOk := true }).loadServed && (bootT { stage := 1, romOk := true }).boot.stage == 1 && (bootT { stage := 4 }).loadServed &&
      (bootT { stage := 5 }).loadServed && !(bootT { stage := 5 }).nor.cycled && ({ bootT { stage := 5 } with nor := { cycled := true } } : State).nor.cycled &&
      (let s := bootT { stage := 1, romOk := true }
       ((s.readOwn staging (1 * 4096)).2.any fun l => (s.readOwn staging (1 * 4096)).1.bundleRefused l == some (2, 1)) &&
         ({ s with tiers := { s.tiers with poison := [staging] } }.readOwn staging (1 * 4096)).2.isNone)) = true := by decide +kernel

/-- A bundle is refused or it is not, whatever the configuration says of its signatures. -/
theorem test_meets_BundleStarts_good (s : State) (l : List Byte) : s.bundleRefused l = none ∨ ∃ c d, s.bundleRefused l = some (c, d) := by
  cases s.bundleRefused l with
  | none => exact .inl rfl
  | some x => exact .inr ⟨x.1, x.2, rfl⟩

/-- A processor of a node that starts, or runs, with a bundle. -/
def procT (stage : Nat) (x : Proc) : State := { bootT { up.boot with stage, startBy := 10000000 } with procs := [(6, x), (7, x)] }

theorem test_meets_ProcessorsRun :
    (let s := procT 2 { released := true }
     s.live && s.boot.running == some bundle && s.boot.stage == 2 && (s.proc 6).released && !(s.proc 6).ready && decide (s.boot.startBy ≤ s.tclk) && bundle.id != 8) = true ∧
    (let s := procT 3 { released := true }; let n := fun (p : Nat) (k : Nat) =>
       let s := procT 3 { released := true, crashes := List.replicate k 9999999 }
       let t := s.modProc p fun x => { x with crashes := s.tclk :: x.crashes.filter fun t => decide (s.tclk ≤ t + 1000000000) }
       ((t.proc p).crashes.length, (t.reload bundle p).2)
     s.boot.stage != 2 && decide (s.time < s.nor.poweredAt + 60000000000) && decide ({ s with tclk := 10 ^ 12 }.nor.poweredAt + 60000000000 ≤ { s with tclk := 10 ^ 12 }.time) &&
       (n 7 3).1 == 4 && decide ((n 7 2).1 < 4) && (n 7 2).2 == some (2, []) && decide ((n 6 2).1 < 4) && (n 6 2).2 == none && bundle.id != 8 &&
       (({ bundle with images := [{ target := 6, offset := 0, length := 64, digest := [] }] } : Bundle).images.find? fun x => x.target == 6).isSome) = true := by decide +kernel

/-- A state in which the manager has selected function 1, which is in a state. -/
def mgrT (x : Function) (f : Nat := 1) : State := { up with fns := [(0, { state := .active }), (1, x)], regs := [(regKey 0 0x010100, BitVec.ofNat 32 f)] }

theorem test_meets_ManagerCommands :
    (let ok := fun (st : FnState) => let s := mgrT { state := st }; s.fnSel == 1 && s.served && !(s.fns.any fun e => e.2.busy) && s.fnPresent 1 && (s.fn 1).state == st
     ok .disabled && ok .active && ok .quiescing && ok .quiesced) = true ∧
    (decide ((mgrT {}).tclk < ((mgrT { quiesceAt := 1 }).fn 1).quiesceAt + 10000000) && decide (((mgrT { quiesceAt := 0 }).fn 1).quiesceAt + 10000000 ≤ (mgrT {}).tclk) &&
      ((mgrT { busy := true }).fns.any fun e => e.2.busy) && (mgrT {} 259).fnSel == 259 && !(mgrT {} 259).fnPresent 259 && (mgrT {} 0).fnSel == 0) = true := by decide +kernel

theorem test_meets_FunctionEvents :
    (let s := mgrT { state := .quiescing }; s.live && fnOk 1 && (s.fn 1).state == .quiescing && s.inFlight 1 == 0 && (s.fn 0).state != .quiescing && s.fnPresent 1) = true ∧
    (let s := { mgrT { state := .resetting, resetFrom := 1 } with recov := { fences := [{ domain := .function 1, drainBy := 0, ended := true }] } }
     (s.recov.fences.find? fun x => x.domain == .function 1 && x.ended).isSome) = true ∧
    (let s := { up with dbg := { stop := .stopped } }; decide (s.activity = .running) && !s.live) = true := by decide +kernel

theorem test_meets_HostPortsAndMailboxes_HostPortEvents :
    (let s := { up with hps := [(1, { mode := 1 }), (3, { mode := 2 })] }; let w := { up with regs := [(regKey 0 0x010000, 1)] }
     s.served && (tget s.regs (regKey 0 0x010000)).isNone && (tget w.regs (regKey 0 0x010000)).isSome && (s.hp 1).mode == 1 && (s.hp 3).mode == 2 &&
       (placeBars [0x100000, 0] 0x100000000).isSome && s.isEndpoint 0 && s.isEndpoint 1 && !s.isEndpoint 3 && hpOk 3) = true ∧
    (let s := { up with dbg := { stop := .stopped } }; decide (s.activity = .running) && !s.live && !State.reset.live && decide (State.reset.activity ≠ .running)) = true := by decide +kernel

theorem test_meets_HostPortsAndMailboxes_MailboxAndDirty :
    (let s := mgrT { state := .active }; let t := mgrT { state := .active, mgrFull := true, tenFull := true }
     s.boxServed 1 && !(s.fn 1).mgrFull && !(s.fn 1).tenFull && t.boxServed 1 && (t.fn 1).mgrFull && (t.fn 1).tenFull && s.served && decide (1 ≤ s.fnSel ∧ s.fnSel ≤ 255)) = true := by
  decide +kernel

/-! ### Values that the spec works out -/

/-- The sum of R270's worked example: 2^24 + 1 − 2^24 + 1 in BF16, and the EPF record of its second set. -/
theorem test_worked_cancelling_sum :
    (([0x4B80, 0x3F80, 0xCB80, 0x3F80].map bf16.decode).foldl Acc.fold ({} : Acc)).round bf16 = 0x4000 ∧
    (([0xCB80, 0x3F80].map bf16.decode).foldl Acc.fold ({} : Acc)).epf = [0x23, 0, 0, 0, 0xE0, 0xFF, 0xFF, 0x1F, 0, 0] := by decide +kernel

/-- One decrease and one increase of a window (R224), in 1/256 byte; times in 1/8 ns. -/
theorem test_worked_window :
    let e : Endpoint := { endT with cwnd := 1048576 * 256, srtt := 64000, sampled := true, rttPrev := some 40000, baseAt := up.tclk, tDec := up.tclk - 12000 }
    let x := { rc e with tc := 2 }
    let d := up.sample x e 80000 4096; let i := up.sample x d 54400 65536
    d.cwnd = 796672 * 256 ∧ d.srtt = 66000 ∧ i.cwnd = 798019 * 256 + 200 := by decide +kernel

/-- The line of the worked example of a poisoned read lies in stack H9, pseudo-channel 42 (R323). -/
theorem test_worked_tierB : stackOf 0x109345679A80 = 9 ∧ pcOf 0x109345679ABC = 42 := by decide +kernel

/-- The ring positions of Table 3.17. -/
theorem test_worked_wrap : [0xFFFFFFFE, 0xFFFFFFFF, 0, 1].map (fun n : W32 => ownerSense n 8) = [false, false, true, true] := by decide +kernel

/-- The guard band of the gated 400G example, 185 ns, and the counted length of its frames (R347, R359). -/
theorem test_worked_guard :
    { up with regs := [(regKey 0 (portBase 12 + 8), 0x240014E6)] }.guardBand 12 = 185 ∧ up.counted 12 4226 = 4250 := by decide +kernel

/-- The owners of chunk 1,000 for member 77 of 384 in three levels: members 72, 88 and 232 (R246). -/
theorem test_worked_owners :
    let l := [8, 6, 8]
    ownerFrom l 77 1000 0 = 72 ∧ ownerFrom l 72 1000 1 = 88 ∧ ownerFrom l 88 1000 2 = 232 ∧ owns l 232 1000 2 = true := by decide +kernel

/-! ### Witnesses: further clauses of the statements above -/

theorem test_meets_QpCommands_otherEnds :
    (let (s, j) := qpAdm omni 0x1A [(16, 2, 7), (24, 8, 0x1000)]; let t := s.adminRest 0 []
     adminMeets s 0x1A [(12, 3), (16, 2), (24, 8)] j && tget omni.ends 7 == some (endAdm .ready) && (t.adminWrite j 0 0x1000 (t.qpStatus 1 7 omni (endAdm .ready)) (.ok 0)).2 == .ok 0) = true ∧
    (let (s, j) := qpAdm rcAdm 0x1A [(24, 8, 0x1000)]; let t := s.adminRest 0 []
     adminMeets s 0x1A [(12, 3), (16, 2), (24, 8)] j && tget rcAdm.ends rcAdm.node == none && (t.adminWrite j 0 0x1000 (t.qpStatus 1 0 rcAdm {}) (.ok 0)).2 == .ok 0) = true := by
  decide +kernel

theorem test_meets_AdminOverTheDevice_records :
    (let j := job 0 0 0x2C [(16, 1, 2), (18, 1, 1), (24, 8, 0x1000)]; let s := fetchedIn up j; let t := s.adminRest 0 []
     adminMeets s 0x2C [(16, 3), (24, 8)] j && (match (t.graphNow j).recov.graphs[0]? with
       | some l => ((t.graphNow j).adminWrite j 0 0x1000 (graphFor 0 l) (.ok 0)).2 == .ok 0
       | none => false)) = true ∧
    (let (s, j) := adm 0x2D [(16, 4, 0x05000000), (20, 2, 2), (22, 1, 3), (24, 8, 0x1000)]; let t := s.adminRest 0 []
     let d := t.sampleCounters t.dbg.shadow 0x05000000 2; let v := d.2.clearCounters 0x05000000 2
     adminMeets s 0x2D [(16, 7), (24, 8)] j && okE (t.adminBuf 0 0 0x1000 16 .write) &&
       (v.adminWrite j 0 0x1000 (d.1.flatMap fun v => leBytes 8 v.toNat) (.ok d.2.dbg.snapSeq)).2 == .ok d.2.dbg.snapSeq) = true := by decide +kernel

theorem test_meets_FramesBuffersPlans_buffers :
    (let (s, j) := opState 6 [(16, 8, 0x1000), (32, 4, 20)]
     let s := { s with ports := [(0, { up := true, subs := [(0, { up := true })] })], regs := macRegs 0 }; let t := s.dispatched 0 1 j
     jobMeets s 6 j && !j.inline && (match t.translateLocal 0 0 j.near j.len .read with
       | .ok x => !t.cutOff 0 x j.len && (match t.readVia x.via (localOf x.addr) j.len with | (u, l, none) => !u.sendRefused 0 0 l | _ => false)
       | .error _ => false)) = true ∧
    (let (s, j) := opState 8 [(16, 8, 0x1000), (24, 8, 0x4000), (32, 4, 512), (48, 2, 4), (51, 1, 1)]
     let s := { s with plans := [(4, { ctx := 0, addr := 0x4000, bytes := [1] })] }; let t := s.dispatched 0 1 j
     jobMeets s 8 j && okE (t.translateLocal 0 0 j.near 512 .read) && okE (t.translateLocal 0 0 j.far 1 .planExec)) = true := by decide +kernel

/-- A collective for whose number a decision is kept, and one whose buffers are not translated. -/
def lateMeets (kept : List (W32 × Status × Nat)) (l : List (Nat × Nat × Nat)) : State × Group × Job :=
  let j := job 0 1 0x10 ((56, 2, 3) :: l)
  let g := { groupT .ready with decisions := kept }
  ((({ fetchedIn (qpUp { rc endT with group := some 3 }) j with groups := [(3, g)] } : State)).dispatched 0 1 j, g, j)

theorem test_meets_CollectivesEnter_late :
    (let (t, g, j) := lateMeets [(0, .ok, 0)] []; (g.decisions.find? fun d => d.1 == g.next) == some (0, .ok, 0) && t.groups == [(3, g)] && j.opcode == 0x10) = true ∧
    (let (t, g, j) := lateMeets [(0, .collMismatch, 1)] [(16, 8, 0x1000), (48, 8, 0x2000), (32, 4, 64)]
     (g.decisions.find? fun d => d.1 == g.next) == some (0, .collMismatch, 1) && okE (t.collBuffers g j (collOf g j t.tclk))) = true ∧
    (let (t, g, j) := lateMeets [] [(16, 8, 15 * 2 ^ 60), (32, 4, 64)]; !okE (t.collBuffers g j (collOf g j t.tclk))) = true := by decide +kernel

theorem test_meets_GalleriesChange_still :
    (let s := galT {}; (s.gal 5).divider == Nat.max (s.gal 5).floor (s.gal 5).demand && (s.gal 5).hold == none && s.boot.stage == 3) = true ∧
    (let s := galT { hold := some (9500000, job 0 0 0x30 []) }; decide (s.tclk < 9500000 + 1000000)) = true ∧
    (let s := galT { power := 3 }; decide ¬((s.gal 5).power < s.deepest 5) && (s.gal 5).power != 0) = true := by decide +kernel

theorem test_meets_PowerAndConservation_bounds :
    (let s := { up with gals := (List.range 6).map fun g => (g, { inject := 3, issue := 6, demand := 3 }), power := { watts := 5000 } }; s.nextRung == none && decide (s.powerCap < 5000)) = true ∧
    (let cycle := fun (x : Gallery) (l : Slack) (good : Nat → Gallery → Bool) =>
       let s := galT x; let t := s.modCons 5 fun c => { c with busy := true, again := false, due := if decide ((s.gal 5).cons.due ≤ s.poweredNow) then c.due + 86400000 else c.due }
       let u := (t.retireWorn 5 l).retireSlow 5 l
       s.live && good ((u.gal 5).least l) (u.gal 5)
     cycle { offset := 10, floor := 2 } ⟨[(0, [39])], [], []⟩ (fun m y => decide (m < 40 ∧ y.offset = 10 ∧ y.floor < 3)) &&
     cycle { offset := 10, floor := 3 } ⟨[(0, [39])], [], []⟩ (fun m y => decide (m < 40 ∧ y.offset = 10 ∧ 3 ≤ y.floor)) &&
     cycle { offset := -5 } ⟨[(0, [90])], [], []⟩ (fun m y => decide (90 ≤ m ∧ -6 < y.offset)) &&
     cycle { offset := -6 } ⟨[(0, [90])], [], []⟩ (fun m y => decide (40 ≤ m ∧ (90 ≤ m → y.offset ≤ -6)))) = true ∧
    (let x : Gallery := { cons := { settling := true }, offset := 10, floor := 2 }; let l : Slack := ⟨[(0, [39])], [], []⟩
     x.cons.settling && decide (x.least l < 40 ∧ x.offset = 10 ∧ x.floor < 3)) = true ∧
    (let s := galT { cons := { again := false, due := 10 ^ 9 } }; !(s.gal 5).cons.again && decide (s.poweredNow < 10 ^ 9)) = true := by decide +kernel

theorem test_meets_MemoryMended_clauses :
    (let at_ := fun (u : MemUnit) (bad : List (Nat × Nat)) (poison : List Nat) =>
       { up with tiers := { up.tiers with bad, poison, ddr := { chans := [0], gib := 32, speed := 6400 } }, scrubs := [(unitKey u, { rows := [{ pc := 0, to_ := 7, cause := 1 }] })] }
     let line := up.lineOf (.slice 47) 0
     let a := at_ (.slice 47) [(line, 0)] []; let b := at_ (.slice 47) [] [line]
     (a.tiers.bad.any fun x => x.1 == line) && b.tiers.poison.contains line && a.lineOf (.slice 47) 0 == line &&
       [MemUnit.slice 47, .stack 23, .chan 0].all fun u => ((at_ u [] []).scrubOf u).rows.any fun m => m.to_ == 7) = true ∧
    (let s := { up with clusters := [(47, { badFu := [(3, 1)], spareFu := false })] }; !(s.cluster 47).spareFu && tget (s.cluster 47).badFu 2 == none) = true ∧
    (let s := { up with gals := [(0, { fwHome := some 0, fwLost := true }), (3, {})] }; (s.gal 0).fwLost && (s.gal 3).fwHome == none) = true ∧
    (let s := { up with gals := [(3, { fwHome := some 24 })], tiers := { up.tiers with poison := [fwPlace 24] }
                        boot := { up.boot with running := some { bundle with images := [{ target := 0, offset := 0, length := 64, digest := [] }] } } }
     (s.boot.running.elim [] (·.images)).length == 1) = true ∧
    (up.unitLines (.chan 0) == 0 && ({ up with boot := { up.boot with ddrDone := true } } : State).boot.ddrDone) = true := by decide +kernel

theorem test_meets_SnapshotsAndStops_pulses :
    (let s := dbgT { snapDue := some 10000000 } [(regKey 0 0x120020, 8)]; s.activity == .running && bit (s.word 0 0x120020) 3 && decide (10000000 ≤ s.time)) = true ∧
    (let s := dbgT { snapDue := some 10000001 }; decide (s.time < 10000001)) = true ∧ up.dbg.snapDue = none ∧
    (let s := dbgT { stop := .pending, boundBy := some 10000001 }; s.live && decide (s.tclk < 10000001)) = true := by decide +kernel

theorem test_meets_DomainsFenced_memory :
    galOk 5 = true ∧ up.live = true ∧ up.resetting (.gallery 5) = false ∧
    ({ up with recov := { fences := [{ domain := .gallery 5, drainBy := 0 }] } } : State).resetting (.gallery 5) = true := by decide +kernel

theorem test_meets_HangsAndReplays_resets :
    (let s := { up with recov := { fences := [{ domain := .cluster 47, drainBy := 0, ended := true }, { domain := .gallery 5, drainBy := 0, ended := true }] }
                        clusters := [(47, { resets := [9999999, 9999998] })] }
     ((s.recov.fences.find? fun x => x.domain == .cluster 47 && x.ended).isSome && (s.recov.fences.find? fun x => x.domain == .gallery 5 && x.ended).isSome) &&
       (s.recov.fences.find? fun x => x.domain == .port 0 && x.ended).isNone && !s.hangs (.te 15)) = true ∧
    up.longRoot (.withdrawal 0 15) = none ∧ up.longRoot (.quiesce 1) = none := by decide +kernel

theorem test_meets_IslandReacts_none :
    (({ up with boot := { up.boot with running := none } } : State).boot.running = none) ∧ up.boot.running = some bundle ∧ bundle.keyIndex ≤ 0 := by decide +kernel

theorem test_meets_ManagerCommands_more :
    ((mgrT { state := .resetting }).fn 1).state = .resetting ∧ (mgrT {} 0).fnPresent 0 = true ∧ (mgrT {} 0).served = true ∧
    ((mgrT {} 0).fns.any fun e => e.2.busy) = false := by decide +kernel

theorem test_meets_HostPortsAndMailboxes_others :
    (let s := { up with hps := [(3, { mode := 2 })] }
     (s.hp 3).mode == 2 && placeBars (List.replicate 2 (2 ^ 63)) 0x100000000 == none && (s.hp 2).mode == 0 && !s.isEndpoint 2 && s.live) = true ∧
    (let s := mgrT { state := .disabled }; !s.boxServed 1 && s.served && !(s.fn 1).tenFull && !(s.fn 1).mgrFull) = true := by decide +kernel

/-- The identity map of a gallery as it is delivered, with C8 as the spare (Table 17.11), which PF0 alone reads. -/
theorem test_read_cluster_map : up.readReg 0 0x120080 = some 0x76543210 ∧ up.readReg 0 0x120084 = some 8 ∧ up.readReg 1 0x120080 = some 0 ∧ { up with boot := { up.boot with stage := 4 } }.readReg 0 0x120080 = none := by decide +kernel

theorem test_meets_PlanStepsTaken_tile :
    (let r := runT [memberT]; let s := runState planT r
     s.live && s.run 2 == some r && tget s.plans r.plan == some planT && r.members[0]? == some memberT &&
       !r.paused && r.failed == none && !memberT.ended && memberT.waiting == none && !s.runHeld 2 && decide (memberT.pc < planT.length) &&
       memberT.passed && r.turn 0 memberT) = true ∧
    (let r := { runT [memberT] with paused := true }; let s := runState planT r; s.run 2 == some r && r.paused) = true := by decide +kernel

theorem test_bundle_has_five_slots : exec (.bundleIssue 2 ⟨0, some 5⟩) up = .next up := rfl

/-! ### Witnesses: clauses for refusals, empty cases and what waits -/

theorem test_meets_AdminPairStarts_plain :
    (let s := up.modFn 0 fun x => { x with admin := { enable := true, ready := true } }
     s.served && (s.fn 0).state != .disabled && (s.fn 0).admin.enable && up.served && !bit 0x00000606 16) = true := by decide +kernel

/-- Words of each register group at a bound of its range, and one that is reserved; the host ports' window is served in a stop. -/
theorem test_meets_RegisterWriteKeepsTheRest_groups :
    ((fnFields up 0 (up.fn 0) 0x1FFC).isEmpty && !(pfFields up 0x010020).isEmpty && !(pfFields up (portBase 15 + 0x0010)).isEmpty &&
      !(pfFields up 0x120020).isEmpty && !(pfFields up 0x010448).isEmpty) = true ∧
    (up.served && up.dbgServed && up.live && ({ up with dbg := { stop := .stopped } } : State).dbgServed && (up.fn 0).state != .disabled &&
      decide (portBase 15 + 0x01FC < portBase 15 + 0x0200 ∧ galBase 5 + 0x1FFC < galBase 5 + 0x2000) && fnOk 1 && decide ((1 : Nat) ≠ 0 ∧ 0x3000 ≤ 0x3000)) = true := by
  decide +kernel

theorem test_meets_SqsVersionsGrants_noCommon :
    (let j := job 0 0 0x02 [(16, 1, 2), (17, 1, 3), (24, 1, 3), (40, 1, 1)]; let s := (fetchedIn up j).modFn 0 fun x => { x with neg := .none }
     adminMeets s 0x02 [(16, 4), (24, 32)] j && s.boot.running == some bundle && (s.fn 0).neg == .none && j.arg 16 1 != 0 && decide (j.arg 16 1 ≤ j.arg 17 1) &&
       decide (BitVec.ofNat 128 (j.arg 40 16) &&& BitVec.ofNat 128 (j.arg 24 16) = BitVec.ofNat 128 (j.arg 40 16)) &&
       decide (Nat.min (j.arg 17 1) bundle.highMajor < j.arg 16 1)) = true := by decide +kernel

/-- Each one-sided operation, over an address whose segment index has no segment. -/
theorem test_meets_OperationsStart_refused :
    ([(1, 64), (2, 64), (3, 64), (4, 8), (5, 64)].all fun x =>
      let (s, j) := opState x.1 [(16, 8, 2 * 2 ^ 60), (32, 4, x.2), (40, 1, 0)]; let t := s.dispatched 0 1 j
      jobMeets s x.1 j && (match x.1 with
        | 1 => !okE (t.checkAddresses j j.len .read j.len .write false)
        | 2 => !okE (t.checkAddresses j j.len .write j.len .read false)
        | 3 => !okE (t.checkAddresses j j.len .read j.len .write true)
        | 4 => !okE (t.checkAddresses j (atomicWidth 0) .write j.len .atomic false)
        | _ => !okE (t.checkAddresses j j.len .read (foldSpan 0 j.len) .fold false))) = true := by decide +kernel

/-- A QP whose end is ready, with a message that is refused already. -/
def refusedT (p : Packet) : State :=
  (pktState endT p).modEnd 1 6 fun e => { e with rx := { msg := p.msg, base := p.base, refused := some (Status.remAccess.code, 1) } :: e.rx }

theorem test_meets_RequestsServed_refused :
    ((reqMeets 2 { packetT 2 0 (readPayload 0x1000 5000 0 2) with plen := 16, handle := 0x800 } fun v i =>
        !okE (v.remoteCheck 0 0x800 i.pkt.raddr (askedBytes 4096 5000 0 2) .read)) &&
     (reqMeets 3 { atomicT 1 5 0 0x1000 with handle := 0x800 } fun v i => !okE (v.remoteCheck 0 0x800 i.pkt.raddr 8 .atomic)) &&
     (reqMeets 4 { packetT 4 0 (foldExt 0 ++ [1, 0, 0, 0]) with plen := 4, handle := 0x800 } fun v i => !okE (v.remoteCheck 0 0x800 i.pkt.raddr (foldSpan 0 4) .fold)) &&
     (reqMeets 4 { packetT 4 0 (foldExt 0) with plen := 0 } fun v i => i.pkt.plen == 0 && okE (v.remoteCheck 0 0x900 i.pkt.raddr (foldSpan 0 0) .fold)) &&
     (reqMeets 2 { packetT 2 0 (readPayload 0x1000 5000 0 0) with plen := 16 } fun v i =>
        fld i.pkt.body 14 2 == 0 && okE (v.remoteCheck 0 0x900 i.pkt.raddr (askedBytes 4096 5000 0 0) .read))) = true ∧
    ([(2, 16, readPayload 0x1000 5000 0 2), (3, 32, atomicPayload 1 5 0 0x1000), (4, 4, foldExt 0 ++ [1, 0, 0, 0])].all fun x =>
      (requestOf (refusedT { packetT x.1 0 x.2.2 with plen := x.2.1 }) fun p => p.ty == x.1).any fun r => let v := r.1.noteRx r.2; (v.rxOf r.2).refused == some (Status.remAccess.code, 1)) = true := by decide +kernel

/-- Both movement engines of a QP's cluster are busy. -/
def busyMes (s : State) : State := { s with mes := [(0, { running := some { chan := 0, k := 0 } }), (1, { running := some { chan := 0, k := 0 } })] }

theorem test_meets_ResponsesPlaced_busy :
    (let e : Outstanding := { outT { packetT 2 0 (readPayload 0x100000001000 4 0 1) with plen := 16 } with n := 1 }
     let s := busyMes { pktState { endT with out := [e] } { packetT 0x11 0 [1, 2, 3, 4] with plen := 4, raddr := 0x100000001000 } with ops := [opT (.get 1 0)] }
     (packetOf s fun p => p.ty == 0x11).any fun x => x.2.pkt.plen != 0 && !x.1.meFree x.2.x.home && (x.2.e.out.find? fun o => o.psn == x.2.pkt.psn) == some e) = true ∧
    (let e : Outstanding := { outT (atomicT 0 5 0 0x100000001000) with answer := true }
     let s := busyMes { pktState { endT with out := [e] } { packetT 0x12 0 [1, 2, 3, 4] with plen := 4, raddr := 0x100000001000 } with ops := [opT .atomic] }
     (packetOf s fun p => p.ty == 0x12).any fun x => x.2.pkt.plen != 0 && !x.1.meFree x.2.x.home && (x.2.e.out.find? fun o => o.psn == x.2.pkt.psn) == some e) = true ∧
    (let e : Outstanding := { outT { packetT 2 0 (readPayload 0x100000001000 4 0 1) with plen := 16 } with n := 1, placed := [0] }
     let s := { pktState { endT with out := [e] } { packetT 0x11 0 [1, 2, 3, 4] with plen := 4, raddr := 0x100000001000 } with ops := [opT (.get 1 1)] }
     (packetOf s fun p => p.ty == 0x11).any fun x => x.1.meFree x.2.x.home && (x.2.e.out.find? fun o => o.psn == x.2.pkt.psn && o.pkt.ty == 2) == some e && e.placed.contains x.2.pkt.idx) = true := by
  decide +kernel

theorem test_meets_EndsSendAndExpire_PacketsInjected_waits :
    (let m : Msg := { op := 4, kind := .write, msg := 7, base := 0, count := 1 }; let e := { endT with queue := [m] }
     endMeets e fun s => let s := busyMes { s with ops := [{ opT (.push 1 0 1) with job := job 0 1 1 [(32, 4, 64)] }] }
       e.gathers (rc e) == some 4 && !s.meFree 0 && !s.meServes 0 4 && !((mesOf 0).any fun u => (tgetD s.mes u {}).ready.any fun r => r.serves == some 4 && r.pkt.isNone) &&
         e.replies == [] && ((e.gathers (rc e)).bind (s.gatherWaits 0)).isSome) = true ∧
    (let m : Msg := { op := 4, kind := .write, msg := 7, base := 0, count := 1 }; let e := { endT with queue := [m] }
     endMeets e fun s => e.gathers (rc e) == some 4 && s.meFree 0) = true ∧ endT.gathers (rc endT) = none := by decide +kernel

/-- A good ZFT datagram and one with a bad checksum are told apart; the frame's octets are those of a sub-port that is up. -/
theorem test_meets_FramesTaken_switched :
    (let s := { up with ports := [(0, { up := true, subs := [(0, { up := true })] })], regs := tset (macRegs 0) (regKey 0 (portBase 0)) 1 }
     let l := (frameT 0x112233445500 0x88B5 64 true).bytes; let v := (s.mac 0 0 0x01 (l.length + 4)).macFrame 0 0 0x00 0x02 0x10 (l.length + 4) l
     s.live && v.portSwitched 0 && decide (64 ≤ v.maxFrame 0) && beNat (slice l 12 2) == 0x88B5) = true ∧
    (({ up with ports := [(0, { up := true, subs := [(0, {})] })] } : State).sub 0 0).up = false := by decide +kernel

theorem test_meets_ChunksMove_reserved :
    (chunkMeets { packetT 8 0 (collExt 3 0 0 0 0xFFFFFF0B ++ [1, 2, 3, 4]) with plen := 4 } fun n i => n.any fun x => x.1 == 3 && decide (0xFFFFFF00 ≤ i.pkt.chunk)) = true := by decide +kernel

theorem test_meets_WaitsEnd_later :
    up.nextArmed = none ∧ (up.flags.find? fun p => p.id == 1) = none ∧ tget up.qps 1 = none := by decide +kernel

theorem test_meets_RouteMessagesApply_root :
    (fabricMeets { up with agent := { running := true, root := 6 } } 1 [1, 0, 1, 0] fun u => u.fmNode == none && u.managedBy 6 && !u.agent.acted && u.node != 6) = true ∧
    (fabricMeets { up with agent := { running := true, root := 6, acted := true } } 1 [1, 0, 1, 0] fun u => u.fmNode == none && !u.managedBy 6) = true := by decide +kernel

/-- A GROUP_JOIN and an EVENT from the node that manages the routes, answered before and not. -/
theorem test_meets_GroupsForm_JoinsAnswered_managed :
    (fabricMeets (managed {}) 0x20 (joinT 0 1) fun u => u.managedBy 6 && (u.answered.find? fun a => a.src == 6 && a.id == 1) == none) = true ∧
    (let s : State := { managed {} with answered := [{ src := 6, id := 1, status := 0 }] }
     (fabricMeets s 0x20 (joinT 0 1) fun u => u.managedBy 6 && (u.answered.find? fun a => a.src == 6 && a.id == 1).isSome) &&
     (fabricMeets s 0x10 [0x10, 0, 1, 0, 0, 0, 0, 0] fun u => u.managedBy 6 && (u.answered.find? fun a => a.src == 6 && a.id == 1).isSome)) = true ∧
    (fabricMeets up 0x80 (replyT 0) fun u => (u.requests.find? fun r => r.id == 7 && r.dst == 6) == none) = true ∧
    (fabricMeets { up with requests := [{ id := 7, dst := 6, data := [], at_ := 0, qpOf := some (3, 1) }] } 0x80 (replyT 1) fun u => (u.requests.find? fun r => r.id == 7 && r.dst == 6).isSome) = true := by
  decide +kernel

/-- A LANE_SWAP that names lane 2 meets an end whose own lane 1 has failed, and one of which no lane has. -/
theorem test_meets_LinksAndLanes_laneSwap :
    (linkMeets (ported { portT with failed := 2, swapping := some 1 }) 0x81 [0x81, 0, 2] fun u _ => (u.port 0).width == .full && (u.port 0).allFailed.getLsbD 1) = true ∧
    (linkMeets (ported portT) 0x81 [0x81, 0, 2] fun u _ => (u.port 0).width == .full && (List.range 9).all fun j => !(u.port 0).allFailed.getLsbD j) = true := by decide +kernel

/-- A HELLO before and after this end's own exchange is done, and one of another form. -/
theorem test_meets_NeighboursGreeted_forms :
    (let hello := fun (op b : Nat) => leBytes 1 op ++ leBytes 1 0 ++ leBytes 2 2 ++ leBytes 2 6 ++ leBytes 1 b ++ leBytes 9 0
     linkMeets (ported portT) 1 (hello 1 0) fun u k => helloForm k.body && !(u.port 0).helloDone && !u.portSwitched 0 && !(u.modPort 0 fun x => { x with helloSeen := true }).portSwitched 0) = true ∧
    (linkMeets (ported { portT with helloDone := true }) 1 (leBytes 1 1 ++ leBytes 1 0 ++ leBytes 2 2 ++ leBytes 2 6 ++ leBytes 10 0) fun u k =>
      helloForm k.body && (u.port 0).helloDone && !((u.modPort 0 fun x => { x with helloSeen := true }).versionSet 0 k k.body).portSwitched 0) = true ∧
    (linkMeets (ported { portT with helloSeen := true }) 2 (leBytes 1 2 ++ leBytes 1 0 ++ leBytes 2 2 ++ leBytes 2 6 ++ leBytes 10 0) fun u k =>
      helloForm k.body && (u.port 0).helloSeen && !(u.versionSet 0 k k.body).portSwitched 0) = true ∧
    ([1, 2].all fun op => linkMeets (ported portT) op (leBytes 1 op ++ leBytes 1 0 ++ leBytes 2 2 ++ leBytes 2 6 ++ leBytes 1 1 ++ leBytes 9 0) fun _ k => !helloForm k.body) = true ∧
    ((agentState { portT with helloDone := true }).port 0).helloDone = true := by decide +kernel

/-- A SUBTREE of port 0 that adds node 9 to the node 8 it had, and one that names node 9 alone; stage 2, stage 3. -/
theorem test_meets_TreeFormed_subtree :
    (let sub := fun (pos : Nat) => leBytes 1 9 ++ leBytes 1 0 ++ leBytes 2 1 ++ leBytes 4 0 ++ leBytes 2 1 ++ leBytes 2 pos ++ leBytes 4 0 ++ leBytes 2 9 ++ leBytes 2 0
     let s := fun (stage : Nat) (stable : Bool) => { agentState portT with agent := { running := true, stable, subtree := [(0, [8])] }, boot := { up.boot with stage } }
     let ok := fun (stage pos : Nat) (stable pre : Bool) => fabricMeets (s stage stable) 9 (sub pos) fun u =>
       let all := [8].take pos ++ [9]
       !u.portSwitched 0 && u.agent.parent == none && tgetD u.agent.subtree 0 [] == [8] && u.agent.stable == stable && u.agentOn && [8].isPrefixOf all == pre && all != [8]
     ok 2 1 true true && ok 2 0 true false && ok 3 1 true true && ok 2 1 false true) = true ∧
    (fabricMeets (agentState portT) 8 [8, 0, 1, 0, 3, 0, 1, 0, 1] fun u => !u.portSwitched 0 && !zeroAt [8, 0, 1, 0, 3, 0, 1, 0, 1] 6 1) = true ∧
    (fabricMeets { agentState portT with answered := [{ src := 6, id := 1, status := 0 }] } 8 [8, 0, 1, 0, 3, 0, 0, 0, 1] fun u => (u.answered.find? fun x => x.src == 6 && x.id == 1).isSome) = true := by
  decide +kernel

/-- The tree is stable in stage 3, routes in force: at the root, and at another node. -/
theorem test_meets_TreeFormed_change :
    (let s := fun (root : Nat) => ({ agentState portT with tclk := 20000000, agent := { running := true, root }, boot := { up.boot with stage := 3 }, slots := [(0, { state := .sealed_ })] } : State)
     [5, 6].all fun root => (s root).live && (s root).agentOn && !(s root).agent.stable && decide ((s root).agent.changed + 20000000 ≤ (s root).tclk) && ((s root).slot (s root).epoch).state == .sealed_ &&
       (s root).agent.root == root && (s root).node == 5) = true ∧ up.agent.change = none := by decide +kernel

/-- A sub-port that the breakout of port 0 does not give. -/
theorem test_meets_GatesAndFrames_absent :
    (let s := ported portT; s.subCount 0 == 1 && portOk 0 && subOk 1 && s.served && decide (s.subCount 0 ≤ 1)) = true := by decide +kernel

theorem test_meets_PlanStepsTaken_waits :
    (let st : Stage := { id := 1, op := 4, bundle := 0, rows := 1, len := 64, near := 2 ^ 60, far := 0x2000, list := 0, pitchF := 0, pitchN := 0, slot := 0 }
     let m := { memberT with stages := (List.range 32).map fun k => { st with id := k } }; let r := runT [m]; let s := runState planT r
     s.run 2 == some r && m.stages.length == 32 && bLop (planT.bundleAt 0 ||| 4) == 4 && s.stageWaits r m (planT.bundleAt 0 ||| 4) && !s.stageWaits r memberT (planT.bundleAt 0)) = true := by
  decide +kernel

/-- A dispatch channel's run that serves operation 4, with a response and without, and one whose operation has ended. -/
theorem test_meets_EngineRuns_dispatch :
    (let go := fun (r : MeRun) (live : Bool) => let m : MeUnit := { ready := [r] }; let s := engineState m
       m.running == none && !s.clusterFenced 47 && !s.replaying 47 && s.awake 5 && (m.take.any fun x => x.1 == r) && tget s.channels r.chan == none &&
         (r.serves.any fun id => (s.op id).isSome) == live
     go { chan := 47 * 32, k := 0, serves := some 4 } true && go { chan := 47 * 32, k := 0, serves := some 99 } false) = true ∧
    (let ok := fun (k : Option (Nat × Nat × Arrival)) => let r : MeRun := { chan := 47 * 32, k := 0, serves := some 4, pkt := k }; let s := engineState { running := some r }
       (tgetD s.mes 95 {}).running == some r && tget s.channels r.chan == none && r.pkt == k
     ok none && ok (some (1, 6, { port := 0, pkt := writeT 0 }))) = true ∧
    (let r : MeRun := { chan := 47 * 32 + 31, k := 1 }; let s := engineState { ready := [r] }
     tget s.channels r.chan == some chanT && !s.laterMe 95 r && !s.chanHeld 95 chanT) = true ∧
    (let r : MeRun := { chan := 47 * 32 + 31, k := 1, chainAt := some 7 }; let s := engineState { ready := [r] }
     let other : State := { s with mes := [(94, { ready := [{ chan := 47 * 32, k := 1, chainAt := some 7 }] }), (95, { ready := [r] })] }
     let held : State := { s with gals := [(0, { hold := some (0, job 0 0 0x30 []) })] }
     other.laterMe 95 r && !s.laterMe 95 r && held.chanHeld 95 chanT && other.awake 5 && held.awake 5) = true := by decide +kernel

theorem test_meets_GalleriesChange_awaited :
    (let s : State := { up with regs := [(regKey 0 0x010448, BitVec.ofNat 32 (3 * 2 ^ 8))] }
     !s.awaited 4 && s.quiet 4 false && s.deepest 4 == 3) = true ∧ ({ up with boot := { up.boot with stage := 2 } } : State).boot.stage ≠ 3 := by decide +kernel

theorem test_meets_PowerAndConservation_settled :
    (let x : Gallery := { cons := { settling := true, settleAt := 9500000 } }; let y : Gallery := { cons := { settling := true, settleAt := 9500001 } }
     x.cons.settling && decide (x.cons.settleAt + 500000 ≤ up.tclk) && decide (up.tclk < y.cons.settleAt + 500000) && decide (40 ≤ x.least ⟨[(0, [40])], [], []⟩)) = true ∧
    (let x : Gallery := { cons := { settling := true, settleAt := 0 }, offset := 10, floor := 3 }
     decide (x.cons.settleAt + 500000 ≤ up.tclk ∧ x.least ⟨[(0, [39])], [], []⟩ < 40 ∧ x.offset = 10 ∧ 3 ≤ x.floor)) = true ∧
    ({} : Gallery).cons.settling = false := by decide +kernel

theorem test_meets_MemoryMended_ports :
    (let s : State := { up with tiers := { up.tiers with ddr := { chans := [0], gib := 32, speed := 6400 } } }
     [MemUnit.slice 47, .stack 23, .chan 0].all fun u => MemUnit.ok u && bit (s.word 0 (galBase (unitGallery u) + 8)) 24 && s.unitLines u != 0 &&
       !(s.tiers.bad.any fun b => b.1 == s.lineOf u ((s.scrubOf u).next % s.unitLines u))) = true ∧
    (let copies := fun (line : Nat) (busy : Bool) =>
       { up with scrubs := [(unitKey (.stack 23), { copies := [{ pc := 63, to_ := 0, cause := 1, line }] })], gals := [(5, { cons := { busy } })] }
     let found := fun (s : State) => ((s.scrubOf (.stack 23)).copies.find? fun m => m.pc == 63)
     (found (copies (2 ^ 24) false)).any (fun m => decide (2 ^ 24 ≤ m.line)) && !((copies 0 false).gal 5).cons.busy && ((copies 0 true).gal 5).cons.busy &&
       (found (copies (2 ^ 24 - 1) false)).any (fun m => decide (m.line < 2 ^ 24)) && (found up).isNone) = true ∧
    (let s : State := { up with gals := [(0, { fwHome := some 0, fwLost := true }), (3, { fwHome := some 24 })] }
     s.boot.running == some bundle && (s.loadImages 3 (s.boot.running.elim [] Bundle.copied)).2.isSome && s.fwTarget 0 == some 0 && !(s.gal 3).fwLost) = true ∧
    (let s : State := { up with gals := [(0, { fwHome := some 0, fwLost := true }), (3, { fwHome := some 24 })]
                                boot := { up.boot with running := some { bundle with images := [{ target := 0, offset := 0, length := 64, digest := [] }] } } }
     (s.loadImages 3 (s.boot.running.elim [] Bundle.copied)).2.isNone && s.fwTarget 0 == some 0) = true ∧
    (let s : State := { up with clusters := [(47, { scrubDue := [(3, 10000000)] })] }; let t : State := { up with clusters := [(47, { scrubDue := [(3, 10000001)] })] }
     decide (tgetD (s.cluster 47).scrubDue 3 0 ≤ s.tclk) && decide (t.tclk < tgetD (t.cluster 47).scrubDue 3 0)) = true := by decide +kernel

theorem test_meets_SnapshotsAndStops_resumes :
    (let s := { dbgT { stop := .scanned, landed := true, kept := [.aer 1, .flr 1] } with lands := { up.lands with stopOut := true } }
     s.dbgServed && s.stopped && s.dbg.landed && s.dbg.kept.length == 2 && (s.fn 1).state == .active) = true ∧
    (let s := dbgT { stop := .running, haltDue := some 10000000 }; s.dbg.stop != .pending && decide (10000000 ≤ s.time)) = true := by decide +kernel

/-- Targets at and past each range's end, on a node and on one without cluster 47. -/
theorem test_meets_DomainsFenced_ranges :
    ([Domain.port 15, .cluster 47, .gallery 5].all fun d => up.targetOk d && !up.resetting d) = true ∧
    ([Domain.port 16, .port 63, .cluster 48, .cluster 63, .gallery 6, .gallery 63].all fun d => !up.targetOk d) = true ∧
    (up.served && !up.recov.busy) = true := by decide +kernel

/-- The fences of the package and of a cluster that is to be retired, their drain over at 10,000,000 and not before; nothing is outstanding. -/
theorem test_meets_HangsAndReplays_drains :
    (let s := fun (d : Domain) (by_ : Nat) (k : Option Nat) => ({ up with recov := { fences := [{ domain := d, drainBy := by_, retire := k }] } } : State)
     let found := fun (d : Domain) (by_ : Nat) (k : Option Nat) =>
       Domain.ok d && ((s d by_ k).recov.fences.find? fun x => x.domain == d && !x.ended).any (fun x => x.retire == k) && decide (by_ ≤ (s d by_ k).tclk)
     found .package 10000000 none && found (.cluster 47) 10000000 (some 3) && found (.function 1) 10000000 none && found (.gallery 5) 10000000 none) = true ∧
    (let o : Op := { opT (.push 1 0 1) with job := job 0 1 1 [] }
     let s : State := { qpUp (rc endT) with ops := [o], recov := { fences := [{ domain := .package, drainBy := 10000001 }] } }
     decide (s.tclk < 10000001) && !s.quietDomain .package) = true ∧
    (let s : State := { up with clusters := [(47, { resets := [1, 2, 3] })] }; decide (3 ≤ ((s.cluster 47).recent s.tclk).length) && !s.replaying 47) = true := by decide +kernel

/-- A request of the form of each kind, in version 1.2 and, for GET_VERSION, 1.0; and one of no kind. -/
theorem test_meets_KeysAndSlots_requests :
    ((List.range 7).all fun k => spdmSupported k [0x12, [0x84, 0xE1, 0xE3, 0x81, 0x82, 0x83, 0xE0].getD k 0, 0, 0] || k == 0) = true ∧
    spdmSupported 0 [0x10, 0x84, 0, 0] = true ∧ spdmSupported 1 [0x12, 0x84, 0, 0] = false ∧ spdmSupported 6 [] = false ∧ spdmSupported 3 [0x11, 0x81, 0, 0] = false := by
  decide +kernel

theorem test_meets_BundleStarts_stages :
    ((bootT { stage := 1, romOk := false }).loadServed && (bootT { stage := 1 }).boot.romOk == false && up.boot.stage != 1 && decide (1 ≤ 4096 ∧ 4096 ≤ 4096 ∧ 4096 < 4097)) = true := by
  decide +kernel

/-- A processor whose copy in gallery 0 is lost. -/
theorem test_meets_ProcessorsRun_copies :
    (let s := procT 3 { released := true, image := [1] }
     s.live && (s.proc 6).released && (s.reload bundle 7).2 == some (2, s.sec.retained) && (bundle.images.find? fun x => x.target == 6).isNone && (s.reload bundle 6).2.isNone &&
       bundle.id != 8) = true := by decide +kernel

/-- VF3 has never been enabled and is in no table; a stopped package keeps what its hosts do. -/
theorem test_meets_FunctionEvents_never :
    (let s := mgrT { state := .active }; (tget s.fns 3).isNone && (s.fn 3).state == .disabled && s.live && fnOk 3) = true ∧
    (let s : State := { up with dbg := { stop := .stopped } }; decide (s.activity = .running) && !s.live && hpOk 3) = true := by decide +kernel

/-- The 15th and the 16th replay of a flit on the last link; with an operation outstanding the package's fence drains, and with none the reset follows at once. -/
theorem test_meets_FlitReplaysFail_fence :
    (let s : State := { up with links := { replays := [(5, 14)] } }; let t : State := { up with links := { replays := [(5, 15)] } }
     s.live && decide (tgetD s.links.replays 5 0 + 1 < 16 ∧ 16 ≤ tgetD t.links.replays 5 0 + 1)) = true ∧
    (up.recov.after.isNone && ((up.modRecov fun r => { r with after := some (0, 0) }).beginFence .package).quietDomain .package &&
      (let o : Op := { opT (.push 1 0 1) with job := job 0 1 1 [] }
       let s : State := { qpUp (rc endT) with ops := [o] }; !((s.modRecov fun r => { r with after := some (0, 0) }).beginFence .package).quietDomain .package)) = true := by decide +kernel

end Sys2Proof.Tests
end

section
/-! PROOFS. Replays of flits on the links between the dies, and the package fence that a failed link asks for (R42, R43, R445). -/

namespace Sys2Proof.Laws

open Sys2Proof.Machine

/-- The length of the succession that a replay of a flit makes: one more of the flit under way, the first of another (R43). -/
def flitReplays (s : State) (link dir : Nat) (again : Bool) : Nat :=
  if again then tgetD s.links.replays (link * 2 + dir) 0 + 1 else 1

/-- A replay entered into its succession and into the counter of its link, before anything follows from it. -/
def flitCounted (s : State) (link dir : Nat) (again : Bool) : State :=
  State.count { s with links := { replays := tset s.links.replays (link * 2 + dir) (flitReplays s link dir again) } } 0x04 link 2 1

theorem replayFlit_of_lt {s : State} {link dir : Nat} {again : Bool} (h : flitReplays s link dir again < 16) :
    s.replayFlit link dir again = flitCounted s link dir again :=
  if_neg (Nat.not_le.mpr h)

theorem replayFlit_of_le {s : State} {link dir : Nat} {again : Bool} (h : 16 ≤ flitReplays s link dir again) :
    s.replayFlit link dir again = (flitCounted s link dir again).fencePackage 0 0 :=
  if_pos h

theorem exec_flitReplay {s : State} (hs : s.live = true) {link dir : Nat} (hl : link ≤ 2) (hd : dir ≤ 1) (again : Bool) :
    exec (.flitReplay link dir again) s = .next (s.replayFlit link dir again) := by
  change execFlitReplay link dir again s = _
  rw [execFlitReplay, if_pos ⟨hl, hd⟩, if_pos hs]

/-- A fence of the package begins where none is under way, and is over at once where nothing is outstanding (R445). -/
theorem fencePackage_of_unfenced {s : State} (h : s.recov.after = none) (why p : Nat) :
    s.fencePackage why p =
      let w := (s.modRecov fun r => { r with after := some (why, p) }).beginFence .package
      if w.quietDomain .package = true then w.packageEnd else w := by
  have hn : ¬ s.recov.after.isSome = true := by simp [h]
  exact if_neg hn

end Sys2Proof.Laws

/-- Settles O59, from the two sides of the bound of 16 on the succession (`replayFlit_of_lt`, `replayFlit_of_le`) and the beginning of a package fence. -/
theorem flitReplaysFail : Obligations.FlitReplaysFail := by
  intro s k d again hs hk hd n u
  have hrun := Sys2Proof.Laws.exec_flitReplay hs hk hd again
  refine ⟨fun hlt => ?below, fun hle => ?failed, fun v hv => ?fence⟩
  case below => rw [hrun, Sys2Proof.Laws.replayFlit_of_lt hlt]; rfl
  case failed => rw [hrun, Sys2Proof.Laws.replayFlit_of_le hle]; rfl
  case fence => exact Sys2Proof.Laws.fencePackage_of_unfenced hv 0 0
end

section
/-! PROOFS. Folds of integers: sums that wrap, and folds that act on every bit (R273). -/

namespace Sys2Proof.Laws

open Sys2Proof.Machine

/-! ### What a fold of integers answers -/

/-- The integer types whose SUM wraps are INT32 (0) and INT64 (1); the modulus is the range of the element (R273). -/
theorem foldElem_sum {ty : Nat} (h : ty ≤ 1) (t s : Nat) : foldElem ty 0 t s = (t + s) % 2 ^ (8 * elemSize ty) := by
  match ty, h with
  | 0, _ => rfl
  | 1, _ => rfl

@[simp] theorem foldElem_and (ty t s : Nat) : foldElem ty 3 t s = t &&& s := rfl

@[simp] theorem foldElem_or (ty t s : Nat) : foldElem ty 4 t s = t ||| s := rfl

@[simp] theorem foldElem_xor (ty t s : Nat) : foldElem ty 5 t s = t ^^^ s := rfl

/-! ### The order of folding: SUM, AND, OR and XOR in turn -/

theorem integerReduction_cases {red : Nat} (h : red ∈ [0, 3, 4, 5]) : red = 0 ∨ red = 3 ∨ red = 4 ∨ red = 5 := by
  simpa using h

theorem foldElem_comm {ty red : Nat} (ht : ty ≤ 1) (hr : red ∈ [0, 3, 4, 5]) (a b : Nat) :
    foldElem ty red a b = foldElem ty red b a := by
  obtain rfl | rfl | rfl | rfl := integerReduction_cases hr
  · rw [foldElem_sum ht, foldElem_sum ht, Nat.add_comm]
  · rw [foldElem_and, foldElem_and, Nat.and_comm]
  · rw [foldElem_or, foldElem_or, Nat.or_comm]
  · rw [foldElem_xor, foldElem_xor, Nat.xor_comm]

theorem foldElem_assoc {ty red : Nat} (ht : ty ≤ 1) (hr : red ∈ [0, 3, 4, 5]) (a b c : Nat) :
    foldElem ty red (foldElem ty red a b) c = foldElem ty red a (foldElem ty red b c) := by
  obtain rfl | rfl | rfl | rfl := integerReduction_cases hr
  · simp only [foldElem_sum ht, Nat.mod_add_mod, Nat.add_mod_mod, Nat.add_assoc]
  · simp only [foldElem_and, Nat.and_assoc]
  · simp only [foldElem_or, Nat.or_assoc]
  · simp only [foldElem_xor, Nat.xor_assoc]

end Sys2Proof.Laws

/-- Settles O13: a SUM is the sum modulo the element's range (`foldElem_sum`), AND, OR and XOR are those of the naturals, and all four commute and associate. -/
theorem integerFolds : Obligations.IntegerFolds := by
  refine ⟨fun a b => ?sum32, fun a b => ?sum64, fun ty a b i => ?bitwise, fun ty red a b c ht hr => ?order⟩
  case sum32 => rw [Sys2Proof.Laws.foldElem_sum (Nat.zero_le 1), BitVec.toNat_add]; rfl
  case sum64 => rw [Sys2Proof.Laws.foldElem_sum (Nat.le_refl 1), BitVec.toNat_add]; rfl
  case bitwise =>
    rw [Sys2Proof.Laws.foldElem_and, Sys2Proof.Laws.foldElem_or, Sys2Proof.Laws.foldElem_xor]
    exact ⟨Nat.testBit_and a b i, Nat.testBit_or a b i, Nat.testBit_xor a b i⟩
  case order => exact ⟨Sys2Proof.Laws.foldElem_comm ht hr a b, Sys2Proof.Laws.foldElem_assoc ht hr a b c⟩
end

section
/-! PROOFS. Messages between the processors, and the watchdog that a foreign bundle ID fires (R440, R443). -/

namespace Sys2Proof.Laws

open Sys2Proof.Machine

/-- With a bundle running, the ID of a processor's message decides alone: the running bundle's own is the firmware's concern, any other crashes the sender with cause 4
(R440, R443). -/
theorem exec_ipcMessage {s : State} (hs : s.live = true) {p : Nat} (hp : p ≤ 7) {b : Bundle} (hb : s.boot.running = some b) (id : W64) :
    exec (.ipcMessage p id) s = .next (if id = b.id then s else s.crash p 4) := by
  change execIpcMessage p id s = _
  rw [execIpcMessage, if_pos hp, hs, hb]
  by_cases hid : id = b.id
  · simp [hid]
  · simp [hid, Ne.symm hid]

end Sys2Proof.Laws

/-- Settles O60, from the side of `exec_ipcMessage` where the message's ID is not the running bundle's. -/
theorem otherBundlesMessages : Obligations.OtherBundlesMessages := by
  intro s p id b hs hp hb hid
  rw [Sys2Proof.Laws.exec_ipcMessage hs hp hb, if_neg hid]
end

section
/-! PROOFS. The registers at reset, and the trace base that each gallery's block then holds (R507, R511). -/

namespace Sys2Proof.Laws

open Sys2Proof.Machine

/-- The words of a gallery's block, 0x2000 bytes from its start, are those of Table 17.7. -/
theorem regReset_galBase {g o : Nat} (hg : g < 6) (ho : o < 0x2000) : regReset 0 (galBase g + o) = galReset g o := by
  have hlo : 0x100000 ≤ galBase g + o := by rw [galBase]; omega
  have hhi : galBase g + o < 0x10C000 := by rw [galBase]; omega
  have hblock : (galBase g + o - 0x100000) / 0x2000 = g := by rw [galBase]; omega
  have hword : (galBase g + o - 0x100000) % 0x2000 = o := by rw [galBase]; omega
  generalize galBase g + o = off at *
  simp (disch := omega) only [regReset, if_neg, if_pos, hblock, hword]

/-- The two words of a 64-bit value make it up again. -/
theorem wordOf_add_wordOf {v : Nat} (hv : v < 2 ^ 64) : wordOf v 0 + 2 ^ 32 * wordOf v 4 = v := by
  change v % 2 ^ 32 + 2 ^ 32 * (v / 2 ^ 32 % 2 ^ 32) = v
  omega

theorem galTraceReset_of_lt {g : Nat} (hg : g < 5) : galTraceReset g = 0x103FFC000000 + g * 0x4000000000 :=
  if_neg (Nat.ne_of_lt hg)

theorem galTraceReset_lt {g : Nat} (hg : g < 6) : galTraceReset g < 2 ^ 64 := by
  rw [galTraceReset]
  split <;> omega

/-- No register word has been written at reset, so the two words of GAL_TRACE_BASE are those of its block's table (R511). -/
theorem traceBase_reset {g : Nat} (hg : g < 6) : State.reset.traceBase g = galTraceReset g :=
  calc State.reset.traceBase g
    _ = regReset 0 (galBase g + 0x18) + 2 ^ 32 * regReset 0 (galBase g + 0x1C) := rfl
    _ = galReset g 0x18 + 2 ^ 32 * galReset g 0x1C := by rw [regReset_galBase hg (by decide), regReset_galBase hg (by decide)]
    _ = wordOf (galTraceReset g) 0 + 2 ^ 32 * wordOf (galTraceReset g) 4 := rfl
    _ = galTraceReset g := wordOf_add_wordOf (galTraceReset_lt hg)

end Sys2Proof.Laws

/-- Settles O9: what a gallery's register holds at reset is its row of Table 17.8 (`traceBase_reset`). -/
theorem traceBasesAtReset : Obligations.TraceBasesAtReset := by
  refine ⟨?table, fun g hg => ?top, ?belowPlanStore⟩
  case table =>
    rw [List.map_congr_left fun g hg => Sys2Proof.Laws.traceBase_reset (List.mem_range.mp hg)]
    decide
  case top =>
    rw [Sys2Proof.Laws.traceBase_reset (Nat.lt_succ_of_lt hg), Sys2Proof.Laws.galTraceReset_of_lt hg]
    omega
  case belowPlanStore =>
    rw [Sys2Proof.Laws.traceBase_reset (by decide)]
    decide
end

section
/-! PROOFS. What a step does, for every command: each answers a next state, an ill-formed one the state itself (R5, log 11), and one that finds nothing running
takes in only what commanders stored (R40, R419). -/

namespace Sys2Proof.Laws

open Sys2Proof.Machine

theorem step_of_pending (c : Instr) (r : List Instr) (s : State) : step { s with pending := c :: r } = exec c { s with pending := r } := rfl

/-! ### Every command answers -/

/-- A command answers a next state, and where it names what does not exist the state itself. -/
def Answers (c : Instr) (s : State) : Prop := (∃ t, exec c s = .next t) ∧ (c.wf = false → exec c s = .next s)

theorem answers_of_next {c : Instr} {s t : State} (h : exec c s = .next t) (hw : c.wf = true) : Answers c s :=
  ⟨⟨t, h⟩, fun hn => absurd (hw.symm.trans hn) Bool.noConfusion⟩

theorem answers_of_guard {c : Instr} {s t : State} {p : Prop} [Decidable p] (h : exec c s = if p then .next t else .next s) (hw : p → c.wf = true) :
    Answers c s := by
  by_cases hp : p
  · exact answers_of_next (h.trans (if_pos hp)) (hw hp)
  · exact ⟨⟨s, h.trans (if_neg hp)⟩, fun _ => h.trans (if_neg hp)⟩

/-- NEGOTIATE also needs a running bundle (R428). -/
theorem answers_negotiate (f : Nat) (s : State) : Answers (.negotiate f) s := by
  by_cases hf : fnOk f = true
  · cases hb : s.boot.running with
    | none => exact answers_of_next (t := s) (by simp [exec, execNegotiate, hf, hb]) hf
    | some b => exact answers_of_next (t := s.admin f 0x02 none [(16, 4), (24, 32)] fun s j => s.doNegotiate j b) (by simp [exec, execNegotiate, hf, hb]) hf
  · exact answers_of_guard (t := s) (p := fnOk f = true) (by simp [exec, execNegotiate, hf]) id

/-- The two commands with an operand that only one of their readings bounds check it inside. -/
theorem answers_chunkFoldComplete (gid l : Nat) (x : Folded) (s : State) : Answers (.chunkFoldComplete gid l x) s := by
  refine ⟨⟨_, rfl⟩, fun hw => ?_⟩
  have hb : x.bad.all (fun u => decide (u ≤ 3)) = false := hw
  simp [exec, execChunkFoldComplete, hb]

theorem answers_bundleIssue (run : Nat) (x : Issue) (s : State) : Answers (.bundleIssue run x) s := by
  refine ⟨⟨_, rfl⟩, fun hw => ?_⟩
  have hb : x.bad.all (fun k => decide (k ≤ 4)) = false := hw
  simp [exec, execBundleIssue, hb]

theorem exec_answers (c : Instr) (s : State) : Answers c s := by
  cases c
  case negotiate => exact answers_negotiate ..
  case chunkFoldComplete => exact answers_chunkFoldComplete ..
  case bundleIssue => exact answers_bundleIssue ..
  case packageStart | porstNAssert | i3cNodeWrite | powerRemoval | clockLoss | tamper | entropyFailure | ddrTrainingComplete | snapshotEdge | stopIn | scanComplete =>
    exact answers_of_next rfl rfl
  case sweepExpress | sweepRegular | sweepAdmin | ack | readResp | atomicResp | write | readReq | atomicReq | fold | collData | enter | first | done | report
      | decision | free | formed | ready | allEntered | entered | groupJoin | event | tree | reply | subtree | routeBegin | routeWrite | routeSeal | inject | retire
      | intermediates | address =>
    exact answers_of_next rfl rfl
  case formationTimeout | treeTimer | treeStable | startTimeout | poweredTimeUpdate | boundaryWaitExpire | groupTimeout | decisionWaitTimeout | routeMessageRetry
      | agentRouteRetire | planStart | planResume | stageComplete | waitRelease | planEnd | triggerFire | flushComplete | powerMeasure | ladderStep | catalogueWrite
      | snapshotTimer | stopHalt =>
    exact answers_of_next rfl rfl
  case functionEnable | functionDisable | quiesce | functionResume | functionReset | vfEnableSet | vfEnableClear | hpModeWrite | sign | agree | slotLoad | slotErase
      | commitSvn | dirtyEnable | dirtyDisable | swap | getVersion | getCapabilities | negotiateAlgorithms | getDigests | getCertificate | challenge
      | getMeasurements | block | start | bootReport | clearFailures | clearService | packageReset | snapshotTake | snapshotRelease | stop | scan | stopResume
      | stopRelease =>
    exact answers_of_next rfl rfl
  case meTimerRun | meRunStart | meRunComplete => exact answers_of_guard rfl (by simp [Instr.wf, clusterOk, meOk]; omega)
  case flitReplay | thermalTrip | peerRegister | peerUnregister | peerProbeRequest | peerProbeRead | peerProbeDone | portReset | clusterReset | galleryReset | revoke
      | processorReady | watchdogFire | ipcMessage =>
    exact answers_of_guard rfl (by simp [Instr.wf])
  all_goals exact answers_of_guard rfl id

theorem step_answers (s : State) : ∃ t, step s = .next t := by
  unfold step
  split
  · exact ⟨_, rfl⟩
  · exact (exec_answers _ _).1

end Sys2Proof.Laws

/-- Settles O1: it is what `step` says of a queue with a front. -/
theorem stepRunsFront : Obligations.StepRunsFront := Sys2Proof.Laws.step_of_pending

/-- Settles O3, command by command: each is guarded by what makes it well formed (`answers_of_guard`), or is always well formed (`answers_of_next`). -/
theorem wellFormedCommandsAnswer : Obligations.WellFormedCommandsAnswer :=
  ⟨Sys2Proof.Laws.exec_answers, Sys2Proof.Laws.step_answers⟩
end

section
/-! PROOFS. A package in which nothing runs: what a command may still do there (R40, R57, R418, R419). -/

namespace Sys2Proof.Laws

open Sys2Proof.Machine

/-! ### Commands that find nothing running -/

/-- The commands that reach a package in which nothing runs: those of the board, and those of the tamper and trip sensors. -/
def reachesIdle : Instr → Bool
  | .packageStart | .porstNAssert | .i3cNodeWrite _ _ | .powerRemoval | .clockLoss | .tamper _ | .thermalTrip _ _ => true
  | _ => false

/-- What a command brings that commanders stored before it. -/
def storesOf : Instr → List HostStore
  | .sweepExpress l | .sweepRegular l | .sweepAdmin l => l
  | .ownerReread f q l | .cqFullReread f q l | .sqWake f q l | .cqArm f q l => if fnOk f && decide (q ≤ 65535) then l else []
  | .errorQueueArm f l => if fnOk f then l else []
  | _ => []

theorem withStores_nil (s : State) : s.withStores [] = s := rfl

@[simp] theorem withStores_live (s : State) (l : List HostStore) : (s.withStores l).live = s.live := rfl

/-- A guarded command whose effect is none does nothing. -/
theorem next_of_guard {c : Instr} {s t : State} {p : Prop} [Decidable p] (h : exec c s = if p then .next t else .next s) (ht : t = s) :
    exec c s = .next s := by
  rw [h, ht, ite_self]

theorem next_of_eq {c : Instr} {s t : State} (h : exec c s = .next t) (ht : t = s) : exec c s = .next s := by rw [h, ht]

theorem ite_of_false {b : Bool} (hb : b = false) (x y : State) : (if b = true then x else y) = y := by simp [hb]

theorem ite_and_of_false {a b : Bool} (ha : a = false) (x y : State) : (if (a && b) = true then x else y) = y := by simp [ha]

theorem control_dead {s : State} (h : s.live = false) (k : Nat) (act : State → Nat → Group → Neighbour → W32 → List Byte → State) : s.control k act = s :=
  takePacket_dead h ..

theorem routeMessage_dead {s : State} (h : s.live = false) (op : Nat) : s.routeMessage op = s := takeFabric_dead h ..

theorem fnCommand_dead {s : State} (h : s.served = false) (act : State → Nat → State) : s.fnCommand act = s := by
  simp [State.fnCommand, h]

theorem requestReset_dead {s : State} (h : s.served = false) (d : Domain) : s.requestReset d = s := by
  simp [State.requestReset, h]

theorem spdm_dead {s : State} (h : s.served = false) (k : Nat) (request extra : List Byte) : s.spdm k request extra = s := by
  simp [State.spdm, h]

theorem dirtyWrite_dead {s : State} (h : s.served = false) (g : Dirty → Dirty) : s.dirtyWrite g = s := by
  simp [State.dirtyWrite, h]

theorem atHost_idle {s : State} (h : s.activity ≠ .running) (e : HostEvent) : s.atHost e = s := by
  simp [State.atHost, not_live h, h]

theorem writeReg_idle {s : State} (h : s.activity ≠ .running) (f off v : Nat) : s.writeReg f off v = s := by
  simp [State.writeReg, not_live h, not_served (not_live h), not_dbgServed h]

theorem registerWrite_idle {s : State} (h : s.activity ≠ .running) (f off width v : Nat) : s.registerWrite f off width v = s := by
  unfold State.registerWrite
  simp only [writeReg_idle h, not_served (not_live h)]
  split
  · rfl
  · split
    · split <;> simp
    · rfl

theorem negotiate_dead {s : State} (h : s.live = false) (f : Nat) : exec (.negotiate f) s = .next s := by
  change execNegotiate f s = .next s
  rw [execNegotiate]
  cases s.boot.running with
  | none => exact ite_self _
  | some b =>
    change (if fnOk f = true then Host.Outcome.next (s.admin ..) else .next s) = _
    rw [admin_dead h, ite_self]

/-- A sweep or a re-read that finds nothing running takes in the stores. -/
theorem stores_of_dead {s : State} (h : s.live = false) (l : List HostStore) (x : State) : (if (s.withStores l).live = true then x else s.withStores l) = s.withStores l :=
  ite_of_false h ..

/-- A package in which nothing runs takes in what commanders stored before a command, and only the commands that reach it do anything else. -/
theorem exec_idle {s : State} (h : s.activity ≠ .running) {c : Instr} (hc : reachesIdle c = false) :
    exec c s = .next (s.withStores (storesOf c)) := by
  have hl := not_live h
  have hs := not_served hl
  have hd := not_dbgServed h
  have hb := not_loadServed h
  cases c
  case packageStart | porstNAssert | i3cNodeWrite | powerRemoval | clockLoss | tamper | thermalTrip => cases hc
  case sweepExpress l | sweepRegular l | sweepAdmin l => exact congrArg Host.Outcome.next (stores_of_dead hl l _)
  case ownerReread f q l | cqFullReread f q l =>
    rw [storesOf]; split <;> rename_i hw
    · exact (if_pos hw).trans (congrArg Host.Outcome.next (stores_of_dead hl l _))
    · exact if_neg hw
  case sqWake f q l | cqArm f q l =>
    rw [storesOf]; split <;> rename_i hw
    · exact (if_pos hw).trans (congrArg Host.Outcome.next (wake_dead (s := s.withStores l) h ..))
    · exact if_neg hw
  case errorQueueArm f l =>
    rw [storesOf]; split <;> rename_i hw
    · exact (if_pos hw).trans (congrArg Host.Outcome.next (wake_dead (s := s.withStores l) h ..))
    · exact if_neg hw
  case registerWrite => exact next_of_guard rfl (registerWrite_idle h ..)
  case negotiate f => exact negotiate_dead hl f
  case identify | createContext | destroyContext | createCq | destroyCq | createSq | destroySq | createErrorQueue | createSegment | withdrawSegment | querySegment
      | setFunctionGrant | createGroup | destroyGroup | fabricLocal | loadPlan | unloadPlan | createQp | connect | addPeers | removePeer | setError | modifyQpReset
      | setTimers | queryQp | destroyQp | loadTimetable | setTimetableLimits | setLatencyTolerance | catalogueUpdate | catalogueClear | getLog | readCounters =>
    exact next_of_guard rfl (admin_dead hl ..)
  case nop | put | get | putFinal | atomic | foldPut | send | recv | planRun => exact next_of_guard rfl (dispatch_dead hl ..)
  case allReduce | reduceScatter | allGather | broadcast | reduce | allToAll | barrier => exact next_of_guard rfl (dispatchColl_dead hl ..)
  case ack | readResp | atomicResp | write | readReq | atomicReq | fold | collData => exact next_of_eq rfl (takePacket_dead hl ..)
  case enter | first | done | report | decision | free | formed | ready | allEntered | entered => exact next_of_eq rfl (control_dead hl ..)
  case groupJoin | event | tree | reply | subtree => exact next_of_eq rfl (takeFabric_dead hl ..)
  case routeBegin | routeWrite | routeSeal | inject | retire | intermediates | address => exact next_of_eq rfl (routeMessage_dead hl ..)
  case credit | laneSwap | laneSwapDone | hello | helloAck => exact next_of_guard rfl (takeLink_dead hl ..)
  case functionEnable | functionDisable | quiesce | functionResume | functionReset => exact next_of_eq rfl (fnCommand_dead hs ..)
  case portReset | clusterReset | galleryReset => exact next_of_guard rfl (requestReset_dead hs ..)
  case getVersion | getCapabilities | negotiateAlgorithms | getDigests | getCertificate | challenge | getMeasurements => exact next_of_eq rfl (spdm_dead hs ..)
  case dirtyEnable | dirtyDisable | swap => exact next_of_eq rfl (dirtyWrite_dead hs ..)
  case pcieFlr | aerUncorrectableError | hostLinkUp | perstAssert | hotReset | hostLinkDown | ltrMessage => exact next_of_guard rfl (atHost_idle h ..)
  case vfEnableSet | vfEnableClear => exact next_of_eq rfl (atHost_idle h ..)
  case domainResetComplete d =>
    cases d with
    | package => rfl
    | function => exact next_of_guard rfl rfl
    | port | cluster | gallery => exact next_of_guard rfl (ite_of_false hl ..)
  case mboxSendToMgr | tenAck => exact next_of_guard rfl (by simp [State.boxServed, hs])
  case mboxSendToTen | mgrAck => exact next_of_guard rfl (by simp [State.mgrServed, hs])
  case gateCommit | gateEnable | statHalfClear | revoke => exact next_of_guard rfl (ite_and_of_false hs ..)
  case pauseExpire | memoryPortFailure | watchdogFire | ipcMessage | refresh => exact next_of_guard rfl (ite_and_of_false hl ..)
  case formationTimeout | chunkFoldComplete | bundleIssue | poweredTimeUpdate => exact next_of_eq rfl (ite_and_of_false hl ..)
  case treeTimer | treeStable | ddrTrainingComplete | startTimeout | boundaryWaitExpire => exact next_of_eq rfl (by simp [hl])
  case groupTimeout | decisionWaitTimeout | routeMessageRetry | agentRouteRetire | planStart | planResume | stageComplete | waitRelease | planEnd | triggerFire
      | flushComplete | powerMeasure | ladderStep | catalogueWrite | entropyFailure | snapshotTimer | stopHalt =>
    exact next_of_eq rfl (ite_of_false hl ..)
  case hpModeWrite | sign | agree | slotLoad | slotErase | commitSvn => exact next_of_eq rfl (ite_of_false hs ..)
  case adminEnable | gapClear | peerRegister | peerUnregister | peerProbeRequest | conservationRun => exact next_of_guard rfl (ite_of_false hs ..)
  case block | start | bootReport | clearFailures | clearService | packageReset => exact next_of_eq rfl (ite_of_false hb ..)
  case snapshotTake | snapshotRelease | stop | scan | stopResume | stopRelease => exact next_of_eq rfl (ite_of_false hd ..)
  case snapshotEdge | stopIn => exact next_of_eq rfl (if_neg h)
  case scanComplete => exact next_of_eq rfl (if_neg fun hr => h hr.1)
  all_goals exact next_of_guard rfl (ite_of_false hl ..)

end Sys2Proof.Laws
end

section
/-! PROOFS. A stopped package stays stopped, a package that waits to be started goes on waiting, and the state at reset (R40, R57, R418, R419). -/

namespace Sys2Proof.Laws

open Sys2Proof.Machine

theorem reachesIdle_cases {c : Instr} (h : reachesIdle c = true) :
    c = .packageStart ∨ c = .porstNAssert ∨ c = .powerRemoval ∨ c = .clockLoss ∨ (∃ k, c = .tamper k) ∨ (∃ v n, c = .i3cNodeWrite v n) ∨
      ∃ d r, c = .thermalTrip d r := by
  cases c
  case packageStart => exact .inl rfl
  case porstNAssert => exact .inr (.inl rfl)
  case powerRemoval => exact .inr (.inr (.inl rfl))
  case clockLoss => exact .inr (.inr (.inr (.inl rfl)))
  case tamper => exact .inr (.inr (.inr (.inr (.inl ⟨_, rfl⟩))))
  case i3cNodeWrite => exact .inr (.inr (.inr (.inr (.inr (.inl ⟨_, _, rfl⟩)))))
  case thermalTrip => exact .inr (.inr (.inr (.inr (.inr (.inr ⟨_, _, rfl⟩)))))
  all_goals exact absurd h Bool.false_ne_true

theorem exec_packageStart (s : State) :
    exec .packageStart s = .next (if s.activity = .held ∨ s.activity = .unpowered then s.startPackage else s) := rfl

theorem exec_porstNAssert (s : State) :
    exec .porstNAssert s = .next (if s.activity = .running ∨ s.activity = .stopped then s.porstHold else s) := rfl

theorem exec_powerRemoval (s : State) : exec .powerRemoval s = .next s.powerOff := rfl

/-! ### A stopped package (R40) -/

/-- Two states agree but for what a stopped package may change: commanders' memories, journal, lands and keys. -/
def SameStopped (s t : State) : Prop := t.activity = .stopped ∧ { t with host := s.host, nor := s.nor, lands := s.lands, sec := s.sec } = s

theorem SameStopped.refl {s : State} (h : s.activity = .stopped) : SameStopped s s := ⟨h, rfl⟩

theorem tamper_stopped {s : State} (h : s.activity = .stopped) (sources : BitVec 4) : SameStopped s (s.tamper sources) := by
  unfold State.tamper
  split
  · exact .refl h
  · exact ⟨rfl, by rw [← h]; rfl⟩

theorem thermalTrip_stopped {s t : State} (h : s.activity = .stopped) {die : Nat} {reading : W32} (e : exec (.thermalTrip die reading) s = .next t) :
    SameStopped s t := by
  change execThermalTrip die reading s = .next t at e
  unfold execThermalTrip at e
  split at e
  · split at e
    · cases e; exact ⟨rfl, by rw [← h]; rfl⟩
    · cases e; exact .refl h
  · cases e; exact .refl h

theorem stopped_ne_held {s : State} (h : s.activity = .stopped) : ¬ (s.activity = .held ∨ s.activity = .unpowered) := by simp [h]

theorem exec_stopped {c : Instr} {s t : State} (h : s.activity = .stopped) (hp : c ≠ .porstNAssert) (hr : c ≠ .powerRemoval) (e : exec c s = .next t) :
    SameStopped s t := by
  by_cases hc : reachesIdle c = false
  · rw [exec_idle (by simp [h]) hc] at e
    cases e
    exact ⟨h, rfl⟩
  · obtain rfl | rfl | rfl | rfl | ⟨_, rfl⟩ | ⟨_, _, rfl⟩ | ⟨_, _, rfl⟩ := reachesIdle_cases (Bool.not_eq_false _ ▸ hc)
    · rw [exec_packageStart, if_neg (stopped_ne_held h)] at e; cases e; exact .refl h
    · exact absurd rfl hp
    · exact absurd rfl hr
    · cases e; exact tamper_stopped h _
    · cases e; exact tamper_stopped h _
    · cases e; rw [if_neg (stopped_ne_held h)]; exact .refl h
    · exact thermalTrip_stopped h e

/-! ### A package that waits (R419) -/

/-- What `waiting` reads of a state is carried over, and nothing has begun to run. -/
theorem waiting_of_parts {s t : State} (h : s.waiting) (ha : t.activity ≠ .running) (hp : t.pending = s.pending) (ht : t.tiers.mem.wf = true)
    (hh : t.host.wf = true) (hw : t.boot.window.wf = true) : t.waiting :=
  ⟨ha, hp ▸ h.2.1, by simp [State.memOk, ht, hh, hw]⟩

theorem waiting_mems {s : State} (h : s.waiting) : s.tiers.mem.wf = true ∧ s.host.wf = true ∧ s.boot.window.wf = true := by
  obtain ⟨_, _, hm⟩ := h
  simpa [State.memOk, and_assoc] using hm

theorem withStores_waiting {s : State} (h : s.waiting) (l : List HostStore) : (s.withStores l).waiting := by
  obtain ⟨ht, hh, hw⟩ := waiting_mems h
  exact waiting_of_parts h h.1 rfl ht (withStores_wf hh l) hw

theorem tamper_waiting {s : State} (h : s.waiting) (sources : BitVec 4) : (s.tamper sources).waiting := by
  obtain ⟨ht, hh, hw⟩ := waiting_mems h
  unfold State.tamper
  split
  · exact h
  · exact waiting_of_parts h (by simp) rfl ht hh hw

theorem thermalTrip_waiting {s t : State} (h : s.waiting) {die : Nat} {reading : W32} (e : exec (.thermalTrip die reading) s = .next t) : t.waiting := by
  obtain ⟨ht, hh, hw⟩ := waiting_mems h
  change execThermalTrip die reading s = .next t at e
  unfold execThermalTrip at e
  split at e
  · split at e
    · cases e; exact waiting_of_parts h (by simp) rfl ht hh hw
    · cases e; exact h
  · cases e; exact h

theorem i3cNodeWrite_waiting {s t : State} (h : s.waiting) {valid : Bool} {node : BitVec 16} (e : exec (.i3cNodeWrite valid node) s = .next t) :
    t.waiting := by
  obtain ⟨ht, hh, hw⟩ := waiting_mems h
  cases e
  split
  · exact waiting_of_parts h h.1 rfl ht hh hw
  · exact h

/-- PORST_N on a stopped package: its memories are cleared, and those of the commanders stand (R444). -/
theorem porstHold_waiting {s : State} (h : s.waiting) : s.porstHold.waiting := by
  obtain ⟨_, hh, _⟩ := waiting_mems h
  unfold State.porstHold
  rw [if_neg h.1]
  exact waiting_of_parts h (by simp) rfl rfl hh rfl

theorem rewriteField_eq (s : State) (field : List CatEntry) : ∃ n k, s.rewriteField field = { s with nor := n, free := k } := by
  unfold State.rewriteField
  split
  · exact ⟨s.nor, s.free, rfl⟩
  · exact ⟨_, _, rfl⟩

/-- The entries written as power goes reach the NOR and draw secrets, and nothing else (R459, R476). -/
theorem rewriteFields_eq (l : List CatEntry) (s : State) :
    ∃ n k, l.foldl (fun (s : State) e => s.rewriteField (addEntry s.nor.field e).1) s = { s with nor := n, free := k } := by
  induction l generalizing s with
  | nil => exact ⟨s.nor, s.free, rfl⟩
  | cons e r ih =>
    obtain ⟨n, k, h⟩ := rewriteField_eq s (addEntry s.nor.field e).1
    obtain ⟨n', k', h'⟩ := ih { s with nor := n, free := k }
    exact ⟨n', k', by rw [List.foldl_cons, h, h']⟩

theorem powerOff_waiting {s : State} (h : s.waiting) : s.powerOff.waiting := by
  obtain ⟨_, hh, _⟩ := waiting_mems h
  obtain ⟨n, k, hk⟩ := rewriteFields_eq s.nor.unwritten s
  unfold State.powerOff
  rw [hk]
  exact waiting_of_parts h (by simp) rfl rfl hh rfl

theorem exec_waiting {c : Instr} {s t : State} (h : s.waiting) (hs : c ≠ .packageStart) (e : exec c s = .next t) : t.waiting := by
  by_cases hc : reachesIdle c = false
  · rw [exec_idle h.1 hc] at e
    cases e
    exact withStores_waiting h _
  · obtain rfl | rfl | rfl | rfl | ⟨_, rfl⟩ | ⟨_, _, rfl⟩ | ⟨_, _, rfl⟩ := reachesIdle_cases (Bool.not_eq_false _ ▸ hc)
    · exact absurd rfl hs
    · rw [exec_porstNAssert] at e
      cases e
      split
      · exact porstHold_waiting h
      · exact h
    · rw [exec_powerRemoval] at e; cases e; exact powerOff_waiting h
    · cases e; exact tamper_waiting h _
    · cases e; exact tamper_waiting h _
    · exact i3cNodeWrite_waiting h e
    · exact thermalTrip_waiting h e

theorem step_waiting {s t : State} (h : s.waiting) (e : step s = .next t) : t.waiting := by
  unfold step at e
  split at e
  · cases e
    rw [State.tick, if_pos h.1]
    exact h
  · next c r hp =>
    obtain ⟨ha, hq, hm⟩ := h
    rw [hp, List.mem_cons, not_or] at hq
    exact exec_waiting (s := { s with pending := r }) ⟨ha, hq.2, hm⟩ (Ne.symm hq.1) e

/-! ### At reset (R379, R386, R419) -/

theorem fn_reset_of_ne {f : Nat} (h : f ≠ 0) : State.reset.fn f = {} := by
  simp [State.fn, State.reset, tgetD, tget, h]

theorem reset_waiting : State.reset.waiting := by
  refine ⟨by decide, by decide, ?_⟩
  obtain ⟨ht, hh, hw⟩ := reset_wf
  simp [State.memOk, ht, hh, hw]

end Sys2Proof.Laws

/-- Settles O4: what is not of the board or of a sensor finds nothing running (`exec_idle`); a sensor's command stops the package anew. -/
theorem stoppedPackageStaysStopped : Obligations.StoppedPackageStaysStopped :=
  fun _ _ _ h hp hr e => Sys2Proof.Laws.exec_stopped h hp hr e

/-- Settles O6, as an invariant of `step`: what is not of the board or of a sensor takes in stores alone (`exec_idle`), and each of the others keeps what is waited for. -/
theorem unstartedPackageWaits : Obligations.UnstartedPackageWaits := fun _ _ => Sys2Proof.Laws.step_waiting

/-- Settles O7, from the fields of the state at reset. -/
theorem resetLeaves : Obligations.ResetLeaves := by
  refine ⟨Sys2Proof.Laws.reset_waiting, rfl, rfl, rfl, rfl, rfl, rfl, rfl, rfl, rfl, rfl, rfl, rfl, rfl, rfl, rfl, rfl, fun f hf => ?_⟩
  rw [Sys2Proof.Laws.fn_reset_of_ne hf]
  exact ⟨rfl, rfl⟩
end

section
/-! PROOFS. Registers and memories: reset values, words and bytes that read back, and writes through a segment that stay inside (R4, R5, R331, R390). -/

namespace Sys2Proof.Laws

open Sys2Proof.Machine

/-! ### Register words at reset -/

/-- No register word has been written at reset. -/
theorem word_reset (f off : Nat) : State.reset.word f off = regReset f off := rfl

/-- The words of a port's block, 0x4000 bytes from its start, are those of Tables 17.5 and 17.6. -/
theorem word_reset_port {p o off : Nat} (hp : p < 16) (ho : o < 0x4000) (e : off = 0x040000 + p * 0x4000 + o) :
    State.reset.word 0 off = portReset p o := by
  have hblock : (off - 0x040000) / 0x4000 = p := by omega
  have hword : (off - 0x040000) % 0x4000 = o := by omega
  rw [word_reset]
  simp (disch := omega) only [regReset, if_neg, if_pos, hblock, hword]

theorem word_reset_gallery {g o off : Nat} (hg : g < 6) (ho : o < 0x2000) (e : off = galBase g + o) : State.reset.word 0 off = galReset g o := by
  rw [word_reset, e, regReset_galBase hg ho]

/-- The rows of a port's table that are the same for every port. -/
theorem portReset_rows (p : Nat) :
    ∀ e ∈ [(0, 0xB8A60008), (8, 0x240014E4), (0xC, 0xFFFF), (0x18, 0x10000000), (0x20, 0x00010805), (0x28, 0x3DCADD92), (0x30, 0x20610200), (0x34, 0xE30A),
      (0x200, 0), (0x600, 0)], e.1 < 0x4000 ∧ portReset p e.1 = e.2 := by
  simp [portReset]

/-- A word of a sub-port's page. -/
theorem portReset_page {p o q : Nat} (hlo : 0x0800 ≤ o) (hhi : o < 0x4000) (e : (o - 0x0800) % 0x700 = q) :
    portReset p o = if 0x400 ≤ q ∧ q < 0x440 then (if q % 8 = 4 then 0x00004001 else if q = 0x438 then 0x64 else 0)
      else if q = 0x468 then 1000000 else 0 := by
  simp (disch := omega) only [portReset, if_neg, if_pos, e]

/-- The weights and quanta of a sub-port's traffic classes, at 0x400 of its page. -/
theorem portReset_class {p q t : Nat} (hq : q < 8) (ht : t < 8) :
    portReset p (0xC00 + 0x700 * q + 8 * t) = (if t = 7 then 0x64 else 0) ∧ portReset p (0xC04 + 0x700 * q + 8 * t) = 0x4001 := by
  constructor
  · rw [portReset_page (q := 0x400 + 8 * t) (by omega) (by omega) (by omega), if_pos (by omega), if_neg (by omega)]
    exact ite_congr (propext (by omega)) (fun _ => rfl) fun _ => rfl
  · rw [portReset_page (q := 0x404 + 8 * t) (by omega) (by omega) (by omega), if_pos (by omega), if_pos (by omega)]

theorem portReset_gateCycle {p q : Nat} (hq : q < 8) : portReset p (0xC68 + 0x700 * q) = 1000000 := by
  rw [portReset_page (q := 0x468) (by omega) (by omega) (by omega)]
  rfl

/-- The credits of a port's VCs. -/
theorem portReset_credits {p v : Nat} (hv : v < 12) :
    portReset p (0x40 + 4 * v) = if v < 6 then 0x800 else if v < 10 then 0x400 else 0 := by
  have hbase : portReset p (0x40 + 4 * v) =
      if 0x40 + 4 * v < 0x58 then 0x800 else if 0x40 + 4 * v < 0x68 then 0x400 else 0 := by
    simp (disch := omega) only [portReset, if_neg, if_pos]
  rw [hbase]
  exact ite_congr (propext (by omega)) (fun _ => rfl) fun _ => ite_congr (propext (by omega)) (fun _ => rfl) fun _ => rfl

/-- The MAC address of a port at reset is the fused base plus 8 for each port before it (R348). -/
theorem macAddr_reset {p : Nat} (hp : p < 16) : State.reset.macAddr p 0 = (Config.macBase.toNat + 8 * p) % 2 ^ 48 := by
  have hv : Config.macBase.toNat + 8 * p < 2 ^ 64 := by have := Config.macBase.isLt; omega
  calc State.reset.macAddr p 0
    _ = ((State.reset.word 0 (portBase p + 0x10) + 2 ^ 32 * State.reset.word 0 (portBase p + 0x10 + 4)) % 2 ^ 48 + 0) % 2 ^ 48 := rfl
    _ = ((portReset p 0x10 + 2 ^ 32 * portReset p 0x14) % 2 ^ 48 + 0) % 2 ^ 48 := by
      rw [word_reset_port (off := portBase p + 0x10) hp (o := 0x10) (by decide) rfl,
        word_reset_port (off := portBase p + 0x10 + 4) hp (o := 0x14) (by decide) rfl]
    _ = (wordOf (Config.macBase.toNat + 8 * p) 0 + 2 ^ 32 * wordOf (Config.macBase.toNat + 8 * p) 4) % 2 ^ 48 := by rw [Nat.add_zero, Nat.mod_mod]; rfl
    _ = (Config.macBase.toNat + 8 * p) % 2 ^ 48 := by rw [wordOf_add_wordOf hv]

/-- A function's set-up block is zero at reset. -/
theorem regReset_setup {off : Nat} (hlo : 0x1000 ≤ off) (hhi : off < 0x2000) (f : Nat) : regReset f off = 0 := by
  have hm : ∀ f, msixReset f off = 0 := by
    intro f
    have hin : inMsix f off = false := by
      rw [inMsix, decide_eq_false_iff_not, msixBase]
      split <;> omega
    simp [msixReset, hin]
  by_cases hf : f = 0
  · subst hf
    simp (disch := omega) only [regReset, if_neg, hm]
  · rw [regReset, if_pos hf, hm]

/-! ### A word written -/

theorem regKey_inj {f g off o : Nat} (ho : off < 2 ^ 23) (ho' : o < 2 ^ 23) : regKey g o = regKey f off ↔ g = f ∧ o = off := by
  unfold regKey
  omega

theorem word_setWord (s : State) {f off v g o : Nat} (hoff : off < 2 ^ 23) (ho : o < 2 ^ 23) (hv : v < 2 ^ 32) :
    (s.setWord f off v).word g o = if g = f ∧ o = off then v else s.word g o := by
  unfold State.word State.setWord
  simp only [tget_tset, regKey_inj hoff ho]
  by_cases h : g = f ∧ o = off
  · simp only [if_pos h, BitVec.toNat_ofNat]
    exact Nat.mod_eq_of_lt hv
  · simp only [if_neg h]

/-! ### Memory (R4) -/

theorem length_read (m : Mem) (a n : Nat) : (m.read a n).length = n := by simp [Mem.read]

/-- The bytes written are the ones read. -/
theorem read_write {m : Mem} (h : m.wf = true) (a : Nat) (l : List Byte) : (m.write a l).read a l.length = l := by
  refine List.ext_getElem (length_read ..) fun i hi hl => ?_
  have hget : ((m.write a l).read a l.length)[i] = (m.write a l).get (a + i) := by simp [Mem.read]
  rw [hget, get_write h, dif_pos ⟨by omega, by omega⟩]
  simp

theorem get_write_outside {m : Mem} (h : m.wf = true) {a c : Nat} {l : List Byte} (hc : c < a ∨ a + l.length ≤ c) : (m.write a l).get c = m.get c := by
  rw [get_write h, dif_neg (by omega)]

/-- Cells taken out by their addresses read as unlisted, and the others as before. -/
theorem cellGet_filter {l : List Host.Cell} (h : cellsRising l = true) (p : Nat → Bool) (c : Nat) :
    cellGet (l.filter fun x => p x.1) c = if p c then cellGet l c else none := by
  induction l with
  | nil => simp [cellGet]
  | cons x r ih =>
    obtain ⟨h1, h2⟩ := (cellsRising_cons _ _).mp h
    obtain ⟨k, v⟩ := x
    have hr : c ≤ k → cellGet r c = none := fun hck => cellGet_above fun y hy => Nat.lt_of_le_of_lt hck (h1 y hy)
    rw [List.filter_cons]
    by_cases hk : p k = true
    · rw [if_pos hk]
      simp only [cellGet, ih h2]
      by_cases hck : c = k
      · simp [hck, hk]
      · by_cases hlt : c < k <;> simp [hck, hlt]
    · rw [if_neg (by simpa using hk), ih h2]
      simp only [cellGet]
      by_cases hck : c = k
      · simp [hck, hk]
      · by_cases hlt : c < k
        · simp [hck, hlt, hr (Nat.le_of_lt hlt)]
        · simp [hck, hlt]

theorem undefByte_append (u v : List (Nat × Nat × Nat)) (c : Nat) : undefByte (u ++ v) c = (undefByte u c).or (undefByte v c) := by
  induction u with
  | nil => rfl
  | cons r u ih =>
    obtain ⟨b, n, e⟩ := r
    simp only [List.cons_append, undefByte]
    split
    · rfl
    · exact ih

/-- What a cut leaves of one undefined range. -/
theorem undefByte_cutRange (b n : Nat) (r : Nat × Nat × Nat) (c : Nat) :
    undefByte (cutRange b n r) c = if b ≤ c ∧ c < b + n then none else undefByte [r] c := by
  obtain ⟨x, y, e⟩ := r
  have hbelow : undefByte (if x < b then [(x, Nat.min (x + y) b - x, e)] else []) c =
      if x ≤ c ∧ c < x + y ∧ c < b then some (Config.freeByte e c) else none := by
    have hmin : Nat.min (x + y) b = min (x + y) b := rfl
    split
    · simp only [undefByte, hmin]
      exact ite_congr (propext (by omega)) (fun _ => rfl) fun _ => rfl
    · exact (if_neg (by omega)).symm
  have habove : undefByte (if b + n < x + y then [(Nat.max x (b + n), x + y - Nat.max x (b + n), e)] else []) c =
      if x ≤ c ∧ c < x + y ∧ b + n ≤ c then some (Config.freeByte e c) else none := by
    have hmax : Nat.max x (b + n) = max x (b + n) := rfl
    split
    · simp only [undefByte, hmax]
      exact ite_congr (propext (by omega)) (fun _ => rfl) fun _ => rfl
    · exact (if_neg (by omega)).symm
  rw [cutRange, undefByte_append, hbelow, habove]
  simp only [undefByte]
  by_cases hin : b ≤ c ∧ c < b + n
  · rw [if_neg (by omega), if_neg (by omega), if_pos hin]; rfl
  · rw [if_neg hin]
    by_cases hr : x ≤ c ∧ c < x + y
    · rw [if_pos hr]
      by_cases hb : c < b
      · rw [if_pos ⟨hr.1, hr.2, hb⟩]; rfl
      · rw [if_neg (by omega), if_pos (by omega)]; rfl
    · rw [if_neg (by omega), if_neg (by omega), if_neg hr]; rfl

theorem undefByte_cut (u : List (Nat × Nat × Nat)) (b n c : Nat) :
    undefByte (u.flatMap (cutRange b n)) c = if b ≤ c ∧ c < b + n then none else undefByte u c := by
  induction u with
  | nil => simp [undefByte]
  | cons r u ih =>
    rw [List.flatMap_cons, undefByte_append, undefByte_cutRange, ih]
    split
    · rfl
    · exact (undefByte_append [r] u c).symm

theorem get_clear {m : Mem} (h : m.wf = true) (a n c : Nat) : (m.clear a n).get c = if a ≤ c ∧ c < a + n then 0 else m.get c := by
  have hc := cellGet_filter ((wf_iff _).mp h).1 (fun k => !decide (a ≤ k ∧ k < a + n)) c
  simp only [Mem.get, Mem.clear, Mem.blank, hc, undefByte_cut]
  by_cases hin : a ≤ c ∧ c < a + n <;> simp [hin]

theorem get_undefine {m : Mem} (h : m.wf = true) (a n e c : Nat) :
    (m.undefine a n e).get c = if a ≤ c ∧ c < a + n then Config.freeByte e c else m.get c := by
  have hc := cellGet_filter ((wf_iff _).mp h).1 (fun k => !decide (a ≤ k ∧ k < a + n)) c
  simp only [Mem.get, Mem.undefine, Mem.blank, hc, undefByte]
  by_cases hin : a ≤ c ∧ c < a + n <;> simp [hin]

/-! ### Writes through a segment (R331, R390) -/

/-- The memory keeps its form, and every byte outside a range is as it was. -/
def KeepsOutside (m m' : Mem) (a n : Nat) : Prop := m'.wf = true ∧ ∀ b, b < a ∨ a + n ≤ b → m'.get b = m.get b

theorem KeepsOutside.refl {m : Mem} (h : m.wf = true) (a n : Nat) : KeepsOutside m m a n := ⟨h, fun _ _ => rfl⟩

/-- Ranges that lie inside a range, one after the other. -/
theorem KeepsOutside.trans {m m' m'' : Mem} {a n b k : Nat} (h : KeepsOutside m m' a n) (h' : KeepsOutside m' m'' b k) (hlo : a ≤ b) (hhi : b + k ≤ a + n) :
    KeepsOutside m m'' a n :=
  ⟨h'.1, fun c hc => (h'.2 c (by omega)).trans (h.2 c hc)⟩

theorem KeepsOutside.widen {m m' : Mem} {a n k : Nat} (h : KeepsOutside m m' a k) (hk : k ≤ n) : KeepsOutside m m' a n :=
  ⟨h.1, fun c hc => h.2 c (by omega)⟩

theorem writePiece_keepsOutside {s : State} (h : s.tiers.mem.wf = true) (v : Via) (a : Nat) (l : List Byte) :
    KeepsOutside s.tiers.mem (s.writePiece v a l).1.tiers.mem a l.length := by
  rcases writePiece_mem s v a l with e | e <;> rw [e]
  · exact .refl h _ _
  · exact ⟨write_wf h a l, fun b hb => get_write_outside h hb⟩

theorem writeGo_nil (fuel : Nat) (s : State) (v : Via) (a : Nat) : State.writeGo fuel s v a [] = (s, none) := by cases fuel <;> rfl

/-- A write whose first piece succeeds goes on with the rest. -/
theorem writeGo_next (fuel : Nat) {s t : State} {v : Via} {a : Nat} {l : List Byte} (hl : l ≠ [])
    (h : s.writePiece v a (l.take (64 - a % 64)) = (t, none)) :
    State.writeGo (fuel + 1) s v a l = State.writeGo fuel t v (a + (64 - a % 64)) (l.drop (64 - a % 64)) := by
  rw [State.writeGo, if_neg (by simpa using hl)]
  simp only [h]

/-- A write whose first piece fails goes no further. -/
theorem writeGo_stop (fuel : Nat) {s t : State} {v : Via} {a : Nat} {l : List Byte} {e : MemErr} (hl : l ≠ [])
    (h : s.writePiece v a (l.take (64 - a % 64)) = (t, some e)) : State.writeGo (fuel + 1) s v a l = (t, some e) := by
  rw [State.writeGo, if_neg (by simpa using hl)]
  simp only [h]

theorem writeGo_keepsOutside (fuel : Nat) {s : State} (h : s.tiers.mem.wf = true) (v : Via) (a : Nat) (l : List Byte) :
    KeepsOutside s.tiers.mem (State.writeGo fuel s v a l).1.tiers.mem a l.length := by
  induction fuel generalizing s a l with
  | zero => exact .refl h _ _
  | succ fuel ih =>
    by_cases hl : l = []
    · rw [hl, writeGo_nil]
      exact .refl h _ _
    have htake : (l.take (64 - a % 64)).length ≤ l.length := by rw [List.length_take]; omega
    have hpiece := (writePiece_keepsOutside h v a (l.take (64 - a % 64))).widen htake
    match hw : s.writePiece v a (l.take (64 - a % 64)) with
    | (t, some e) =>
      rw [hw] at hpiece
      rw [writeGo_stop fuel hl hw]
      exact hpiece
    | (t, none) =>
      rw [hw] at hpiece
      rw [writeGo_next fuel hl hw]
      by_cases hshort : l.length ≤ 64 - a % 64
      · simp only [List.drop_eq_nil_of_le hshort, writeGo_nil]
        exact hpiece
      · exact hpiece.trans (ih hpiece.1 _ _) (by omega) (by rw [List.length_drop]; omega)

theorem writeVia_keepsOutside {s : State} (h : s.tiers.mem.wf = true) (v : Via) (a : Nat) (l : List Byte) :
    KeepsOutside s.tiers.mem (s.writeVia v a l).1.tiers.mem a l.length :=
  writeGo_keepsOutside _ h v a l

end Sys2Proof.Laws

open Sys2Proof.Machine Sys2Proof.Laws

/-- Settles O8: no word has been written (`word_reset`), and each block's words are those of its table. -/
theorem registersReset : Obligations.RegistersReset := by
  refine ⟨?hub, ?congestion, fun p hp => ⟨fun e he => ?rows, macAddr_reset hp, fun v hv => ?credits, fun q hq t ht => ?classes,
    fun q hq => ?gates⟩, fun g hg => ?galleries, fun f off hlo hhi => regReset_setup hlo hhi f⟩
  case hub => decide
  case congestion => decide
  case rows =>
    obtain ⟨hlt, hv⟩ := portReset_rows p e he
    exact (word_reset_port hp hlt rfl).trans hv
  case credits =>
    exact (word_reset_port hp (o := 0x40 + 4 * v) (by omega) (by omega)).trans (portReset_credits hv)
  case classes =>
    obtain ⟨hlow, hhigh⟩ := portReset_class (p := p) hq ht
    exact ⟨(word_reset_port hp (o := 0xC00 + 0x700 * q + 8 * t) (by omega) (by omega)).trans hlow,
      (word_reset_port hp (o := 0xC04 + 0x700 * q + 8 * t) (by omega) (by omega)).trans hhigh⟩
  case gates =>
    exact (word_reset_port hp (o := 0xC68 + 0x700 * q) (by omega) (by omega)).trans (portReset_gateCycle hq)
  case galleries =>
    have hrow : ∀ o, o < 0x2000 → ∀ off, off = 0x100000 + g * 0x2000 + o → State.reset.word 0 off = galReset g o :=
      fun o ho off e => word_reset_gallery hg ho e
    exact ⟨hrow 0x008 (by decide) _ (by omega), hrow 0x010 (by decide) _ (by omega), hrow 0x014 (by decide) _ (by omega)⟩

/-- Settles O10: two keys of registers are equal for one word of one function only (`regKey_inj`). -/
theorem wordReadsBack : Obligations.WordReadsBack :=
  fun s _ _ _ _ _ hoff ho hv => ⟨word_setWord s hoff ho hv, rfl⟩

/-- Settles O11: what a write, a clearing and a making undefined leave each byte as (`get_write`, `get_clear`, `get_undefine`), and that each keeps the form. -/
theorem memoryReadsBack : Obligations.MemoryReadsBack :=
  fun _ a l h => ⟨read_write h a l, fun _ hc => get_write_outside h hc, fun n c => get_clear h a n c,
    fun n e c => get_undefine h a n e c, write_wf h a l, fun n => clear_wf h a n,
    fun n e => undefine_wf h a n e⟩

/-- Settles O12, piece by piece: each piece of a write leaves the bytes outside it alone (`writePiece_keepsOutside`). -/
theorem segmentWritesStayInside : Obligations.SegmentWritesStayInside := by
  intro s t v a l e h hw
  have hk := writeVia_keepsOutside h v a l
  rw [hw] at hk
  exact hk
end

section
/-! PROOFS. Sweeps of the doorbell records, and re-reads of entries and of full CQs (R91, R93, R99, R105–R107, R112). -/

namespace Sys2Proof.Laws

open Sys2Proof.Machine

/-! ### Commands of a live package -/

theorem queueOk_of {f q : Nat} (hf : fnOk f = true) (hq : q ≤ 65535) : (fnOk f && decide (q ≤ 65535)) = true := by simp [hf, hq]

/-- A command whose operands name what exists, over a package that is live. -/
theorem next_live {c : Instr} {s x y z : State} {p : Prop} [Decidable p] {b : Bool}
    (e : exec c s = if p then .next (if b = true then x else y) else .next z) (hp : p) (hb : b = true) : exec c s = .next x := by
  rw [e, if_pos hp, if_pos hb]

/-- The same for a command that names nothing that could be missing. -/
theorem next_live' {c : Instr} {s x y : State} {b : Bool} (e : exec c s = .next (if b = true then x else y)) (hb : b = true) : exec c s = .next x := by
  rw [e, if_pos hb]

/-! ### Sweeps (R105–R107) -/

theorem exec_sweepExpress {s : State} (hs : s.live = true) (l : List HostStore) :
    exec (.sweepExpress l) s = .next ((s.withStores l).sweepList .express) := next_live' (b := (s.withStores l).live) rfl hs

theorem exec_sweepRegular {s : State} (hs : s.live = true) (l : List HostStore) :
    exec (.sweepRegular l) s = .next ((s.withStores l).sweepList .regular) := next_live' (b := (s.withStores l).live) rfl hs

theorem exec_sweepAdmin {s : State} (hs : s.live = true) (l : List HostStore) :
    exec (.sweepAdmin l) s = .next (s.withStores l).sweepAdmins := next_live' (b := (s.withStores l).live) rfl hs

theorem qKey_div {f q : Nat} (hq : q ≤ 65535) : qKey f q / 65536 = f := by rw [qKey]; omega

theorem qKey_mod {f q : Nat} (hq : q ≤ 65535) : qKey f q % 65536 = q := by rw [qKey]; omega

theorem sweepOne_of_sq {pl : Place} {s : State} {c : Lines} {f q : Nat} {x y : Sq} (hq : q ≤ 65535) (hx : s.sq f q = some x) :
    State.sweepOne pl (s, c) (qKey f q, y) =
      if q = 0 ∨ y.place ≠ pl ∨ s.serving f = false then (s, c)
      else (State.sweepSq f q x ((s.sweepRead pl c f q x).1, (s.sweepRead pl c f q x).2.2), (s.sweepRead pl c f q x).2.1) := by
  simp only [State.sweepOne, qKey_div hq, qKey_mod hq, hx, Bool.not_eq_true']

theorem sweepOne_passed {pl : Place} {s : State} {c : Lines} {f q : Nat} {x y : Sq} (hq : q ≤ 65535) (hx : s.sq f q = some x)
    (h : q = 0 ∨ y.place ≠ pl ∨ s.serving f = false) : State.sweepOne pl (s, c) (qKey f q, y) = (s, c) := by
  rw [sweepOne_of_sq hq hx, if_pos h]

theorem sweepOne_served {pl : Place} {s u : State} {c d : Lines} {r : Option (List Byte)} {f q : Nat} {x y : Sq} (hq : q ≤ 65535) (hx : s.sq f q = some x)
    (h0 : q ≠ 0) (hp : y.place = pl) (hv : s.serving f = true) (hr : s.sweepRead pl c f q x = (u, d, r)) :
    State.sweepOne pl (s, c) (qKey f q, y) = (State.sweepSq f q x (u, r), d) := by
  rw [sweepOne_of_sq hq hx, if_neg (by simp [h0, hp, hv]), hr]

theorem sweepAdmin_passed {s : State} {f q : Nat} {y : Sq} (hq : q ≤ 65535) (h : q ≠ 0 ∨ s.serving f = false) : s.sweepAdmin (qKey f q, y) = s := by
  unfold State.sweepAdmin
  simp only [qKey_div hq, qKey_mod hq]
  split
  · rfl
  · exact if_pos (by simpa using h)

theorem sweepAdmin_served {s : State} {f : Nat} {x y : Sq} (hx : s.sq f 0 = some x) (hv : s.serving f = true) :
    s.sweepAdmin (qKey f 0, y) = State.sweepSq f 0 x (s.qRead f x.ctx 0 x.door 16) := by
  unfold State.sweepAdmin
  simp only [qKey_div (Nat.zero_le _), qKey_mod (Nat.zero_le _), hx]
  exact if_neg (by simp [hv])

theorem sweepRead_kept {s : State} {pl : Place} {c : Lines} {f q : Nat} {x : Sq} {e : (Nat × Nat) × Option (List Byte)}
    (h : (c.find? fun e => e.1 == (f, x.door / 64)) = some e) : s.sweepRead pl c f q x = (s, c, e.2.map fun b => slice b (x.door % 64) 16) := by
  simp only [State.sweepRead, h]

theorem sweepRead_line {s u : State} {pl : Place} {c : Lines} {f q : Nat} {x : Sq} {r : Option (List Byte)}
    (h : (c.find? fun e => e.1 == (f, x.door / 64)) = none) (hl : s.sharesLine pl f q x = true)
    (hr : s.qRead f x.ctx q (x.door / 64 * 64) 64 = (u, r)) :
    s.sweepRead pl c f q x = (u, ((f, x.door / 64), r) :: c, r.map fun b => slice b (x.door % 64) 16) := by
  simp only [State.sweepRead, h, hl, hr, if_true]

theorem sweepRead_alone {s u : State} {pl : Place} {c : Lines} {f q : Nat} {x : Sq} {r : Option (List Byte)}
    (h : (c.find? fun e => e.1 == (f, x.door / 64)) = none) (hl : s.sharesLine pl f q x = false) (hr : s.qRead f x.ctx q x.door 16 = (u, r)) :
    s.sweepRead pl c f q x = (u, c, r) := by
  simp only [State.sweepRead, h, hl, hr, Bool.false_eq_true, if_false]

section Door

variable {s : State} {f q : Nat} {x : Sq} {b : List Byte}

/-- A doorbell record that keeps the rules: P is taken over. -/
theorem takeDoor_of_good (hg : gap32 (BitVec.ofNat 32 (fld b 0 4)) x.c ≤ 2 ^ x.log2) (hz : zeroAt b 4 4 = true) :
    State.takeDoor f q x (s, some b) =
      (s.modSq f q fun y => { y with p := BitVec.ofNat 32 (fld b 0 4) }, BitVec.ofNat 32 (fld b 0 4) != x.p) := by
  simp only [State.takeDoor, if_neg (Nat.not_lt.mpr hg), hz, Bool.not_true, Bool.false_eq_true, if_false]

theorem sweepSq_moved (hg : gap32 (BitVec.ofNat 32 (fld b 0 4)) x.c ≤ 2 ^ x.log2) (hz : zeroAt b 4 4 = true) (hp : BitVec.ofNat 32 (fld b 0 4) ≠ x.p) :
    State.sweepSq f q x (s, some b) =
      ((s.modSq f q fun y => { y with p := BitVec.ofNat 32 (fld b 0 4) }).modSq f q fun y => { y with idle := 0 }).fetch f q := by
  have hm : (BitVec.ofNat 32 (fld b 0 4) != x.p) = true := bne_iff_ne.mpr hp
  rw [State.sweepSq, takeDoor_of_good hg hz, hm]

/-- The state once an SQ whose P has not moved has been given its turn: it has been idle for one sweep more, and what is left is fetched. -/
def idled (s : State) (f q : Nat) (b : List Byte) : State :=
  ((s.modSq f q fun y => { y with p := BitVec.ofNat 32 (fld b 0 4) }).modSq f q fun y => { y with idle := y.idle + 1 }).fetch f q

theorem sweepSq_unparked (hg : gap32 (BitVec.ofNat 32 (fld b 0 4)) x.c ≤ 2 ^ x.log2) (hz : zeroAt b 4 4 = true) (hp : BitVec.ofNat 32 (fld b 0 4) = x.p)
    (hidle : ∀ k y, x.threshold = some k → (idled s f q b).sq f q = some y → y.idle < k) : State.sweepSq f q x (s, some b) = idled s f q b := by
  have hm : (BitVec.ofNat 32 (fld b 0 4) != x.p) = false := by simp [hp]
  rw [State.sweepSq, takeDoor_of_good hg hz, hm]
  change (match (idled s f q b).sq f q, x.threshold with | some y, some t => _ | _, _ => _) = _
  split
  · next y t hy ht => exact if_neg fun hpark => Nat.not_lt.mpr hpark.2.1 (hidle t y ht hy)
  · rfl

theorem sweepSq_parked (hg : gap32 (BitVec.ofNat 32 (fld b 0 4)) x.c ≤ 2 ^ x.log2) (hz : zeroAt b 4 4 = true) (hp : BitVec.ofNat 32 (fld b 0 4) = x.p)
    (h0 : q ≠ 0) (hv : (idled s f q b).serving f = true) {k : Nat} {y : Sq} (hk : x.threshold = some k) (hy : (idled s f q b).sq f q = some y)
    (hle : k ≤ y.idle) : State.sweepSq f q x (s, some b) = (idled s f q b).parkSq f q := by
  have hm : (BitVec.ofNat 32 (fld b 0 4) != x.p) = false := by simp [hp]
  rw [State.sweepSq, takeDoor_of_good hg hz, hm]
  change (match (idled s f q b).sq f q, x.threshold with | some y, some t => _ | _, _ => _) = _
  rw [hy, hk]
  exact if_pos ⟨h0, hle, hv⟩

end Door

/-- The sweep of a list with one SQ in existence, which is on the list and served. -/
theorem sweepList_one {s t : State} {pl : Place} {f q : Nat} {x : Sq} {b : List Byte} (hone : s.sqs = [(qKey f q, x)]) (hq : q ≤ 65535)
    (hv : s.serving f = true) (h0 : q ≠ 0) (hp : x.place = pl) (hr : s.qRead f x.ctx q x.door 16 = (t, some b)) :
    s.sweepList pl = State.sweepSq f q x (t, some b) := by
  have hx : s.sq f q = some x := by simp [State.sq, hone, tget]
  have halone : s.sharesLine pl f q x = false := by simp [State.sharesLine, hone, qKey_mod hq]
  rw [State.sweepList, hone, List.foldl_cons, List.foldl_nil, sweepOne_served hq hx h0 hp hv (sweepRead_alone rfl halone hr)]

theorem sweepAdmins_one {s t : State} {f : Nat} {x : Sq} {b : List Byte} (hone : s.sqs = [(qKey f 0, x)]) (hv : s.serving f = true)
    (hr : s.qRead f x.ctx 0 x.door 16 = (t, some b)) : s.sweepAdmins = State.sweepSq f 0 x (t, some b) := by
  have hx : s.sq f 0 = some x := by simp [State.sq, hone, tget]
  rw [State.sweepAdmins, hone, List.foldl_cons, List.foldl_nil, sweepAdmin_served hx hv, hr]

/-! ### Re-reads (R91, R93, R112) -/

section Reread

variable {s : State} {f q : Nat} {x : Sq} {n : W32} {k due : Nat}

theorem exec_ownerReread (hf : fnOk f = true) (hq : q ≤ 65535) (hs : s.live = true) (l : List HostStore) :
    exec (.ownerReread f q l) s = .next ((s.withStores l).reread f q) :=
  next_live (b := (s.withStores l).live) rfl (queueOk_of hf hq) hs

theorem reread_early (hx : s.sq f q = some x) (hr : x.reread = some (n, k, due)) (ht : s.tclk < due) : s.reread f q = s := by
  simp only [State.reread, hx, hr, if_pos (Or.inl ht)]

/-! The entry read again, once its 250 ns are over: it cannot be read, its ownership bit is right, or it is still wrong. -/

theorem reread_unreadable {t : State} (hx : s.sq f q = some x) (hr : x.reread = some (n, k, due)) (ht : due ≤ s.tclk) (hv : s.serving f = true)
    (he : s.readEntry f q x n = (t, none)) : s.reread f q = t.halt f q causeAccess n none [] := by
  have hn : ¬ (s.tclk < due ∨ (!s.serving f) = true) := by simp [hv, ht]
  simp only [State.reread, hx, hr, if_neg hn, he]

theorem reread_right {t : State} {b : List Byte} (hx : s.sq f q = some x) (hr : x.reread = some (n, k, due)) (ht : due ≤ s.tclk) (hv : s.serving f = true)
    (he : s.readEntry f q x n = (t, some b)) (ho : entOwner b = ownerSense n x.log2) :
    s.reread f q = (t.modSq f q fun y => { y with reread := none }).fetch f q := by
  have hn : ¬ (s.tclk < due ∨ (!s.serving f) = true) := by simp [hv, ht]
  simp only [State.reread, hx, hr, if_neg hn, he, if_pos ho]

theorem reread_wrong {t : State} {b : List Byte} (hx : s.sq f q = some x) (hr : x.reread = some (n, k, due)) (ht : due ≤ s.tclk) (hv : s.serving f = true)
    (he : s.readEntry f q x n = (t, some b)) (ho : entOwner b ≠ ownerSense n x.log2) :
    s.reread f q = if k < 3 then t.modSq f q fun y => { y with reread := some (n, k + 1, t.tclk + 250) } else t.ownerBad f q x n b := by
  have hn : ¬ (s.tclk < due ∨ (!s.serving f) = true) := by simp [hv, ht]
  simp only [State.reread, hx, hr, if_neg hn, he, if_neg ho]

/-- The job whose entry's ownership bit stays wrong takes its place as its head shows it. -/
theorem ownerBad_of_reads {t u v : State} {b : List Byte} {h : Option (List Byte)} {d : Bool}
    (hh : (if n = x.c then (t, some b) else t.readEntry f q x x.c) = (u, h)) (hd : u.jobCmpl f q x (entNcont (h.getD [])) = (v, d)) :
    t.ownerBad f q x n b =
      ((v.passBad f q causeOwner (badJob f q x n (h.getD []))
        (if entNcont (h.getD []) ≤ 4 ∧ 1 + entNcont (h.getD []) ≤ gap32 x.p x.c then 1 + entNcont (h.getD []) else 1) d).halt f q causeOwner n
          (some (badJob f q x n (h.getD []))) b).echoSq f q := by
  unfold State.ownerBad
  simp only [hh, hd]

end Reread

section FullCq

variable {s : State} {f q : Nat} {c : Cq}

theorem exec_cqFullReread (hf : fnOk f = true) (hq : q ≤ 65535) (hs : s.live = true) (l : List HostStore) :
    exec (.cqFullReread f q l) s = .next ((s.withStores l).rereadCq f q) :=
  next_live (b := (s.withStores l).live) rfl (queueOk_of hf hq) hs

theorem readHead_of_ok {t : State} {r : Option (List Byte)} {h : W32} (hc : s.cq f q = some c) (hr : s.qRead f c.ctx q c.door 16 = (t, r))
    (hh : headOf r = .ok h) : s.readHead f q = t.modCq f q fun x => { x with h } := by
  simp only [State.readHead, hc, hr, hh]

theorem readHead_of_error {t : State} {r : Option (List Byte)} {e : Nat} (hc : s.cq f q = some c) (hr : s.qRead f c.ctx q c.door 16 = (t, r))
    (hh : headOf r = .error e) : s.readHead f q = t.haltCq f q e c.w := by
  simp only [State.readHead, hc, hr, hh]

theorem rereadCq_empty (hc : s.cq f q = some c) (hh : c.held = []) : s.rereadCq f q = s := by
  simp [State.rereadCq, hc, hh]

theorem rereadCq_held (hc : s.cq f q = some c) (hv : s.serving f = true) (hh : c.held ≠ []) :
    s.rereadCq f q = State.drainGo c.held.length (s.readHead f q) f q := by
  simp [State.rereadCq, hc, hh, hv]

end FullCq

end Sys2Proof.Laws

open Sys2Proof.Machine Sys2Proof.Laws

/-- Settles O14: the turn of an SQ in a sweep (`sweepOne_of_sq`, `sweepSq_moved`, `sweepSq_still`), the entry read again (`reread_due`), and the CQ read again
(`rereadCq_held`). -/
theorem sweepsAndRereads : Obligations.SweepsAndRereads := by
  refine ⟨⟨fun l s hs => ⟨exec_sweepExpress hs l, exec_sweepRegular hs l, exec_sweepAdmin hs l⟩, fun pl s c f q x y hq hx => ?turns, fun s f q x b hg hz => ?doors,
    fun l s t f q x b hs hone hq hv hr hg hz hp => ?single⟩, fun l s f q x n k due hf hq hs hx hr hv => ?entries,
    fun l s t f q c r hf hq hs hc hv => ⟨?empty, ?full, rfl, fun _ => rfl⟩⟩
  case turns =>
    refine ⟨sweepOne_passed hq hx, sweepAdmin_passed hq, fun h0 hp hv u d r hr => sweepOne_served hq hx h0 hp hv hr, fun h0 hv => ?_,
      fun e he => sweepRead_kept he, fun hn u r => ⟨sweepRead_line hn, sweepRead_alone hn⟩⟩
    subst h0
    exact sweepAdmin_served hx hv
  case doors =>
    exact ⟨sweepSq_moved hg hz, fun hp hidle => sweepSq_unparked hg hz hp hidle, fun hp h0 hv k y hk hy hle => sweepSq_parked hg hz hp h0 hv hk hy hle⟩
  case single =>
    refine ⟨fun h0 hpl => ?_, fun h0 hpl => ?_, fun h0 => ?_⟩
    · rw [exec_sweepExpress hs, sweepList_one hone hq hv h0 hpl hr, sweepSq_moved hg hz hp]
    · rw [exec_sweepRegular hs, sweepList_one hone hq hv h0 hpl hr, sweepSq_moved hg hz hp]
    · subst h0
      rw [exec_sweepAdmin hs, sweepAdmins_one hone hv hr, sweepSq_moved hg hz hp]
  case entries =>
    rw [exec_ownerReread hf hq hs]
    refine ⟨fun ht => by rw [reread_early (s := s.withStores l) hx hr ht], fun ht t r he => ⟨fun hn => ?_, fun b hb => ?_⟩⟩
    · subst hn
      rw [reread_unreadable (s := s.withStores l) hx hr ht hv he]
    · subst hb
      refine ⟨fun ho => by rw [reread_right (s := s.withStores l) hx hr ht hv he ho], fun ho hk => ?_, fun ho hk u v h d hh hd => ?_⟩
      · rw [reread_wrong (s := s.withStores l) hx hr ht hv he ho, if_pos hk]
      · rw [reread_wrong (s := s.withStores l) hx hr ht hv he ho, if_neg hk, ownerBad_of_reads hh hd]
  case empty => exact fun hh => by rw [exec_cqFullReread hf hq hs, rereadCq_empty (s := s.withStores l) hc hh]
  case full =>
    intro hh hr
    rw [exec_cqFullReread hf hq hs, rereadCq_held (s := s.withStores l) hc hv hh]
    exact ⟨fun h hok => by rw [readHead_of_ok (s := s.withStores l) hc hr hok], fun e he => by rw [readHead_of_error (s := s.withStores l) hc hr he]⟩
end

section
/-! PROOFS. State records and mirrors, wakes and arms of queues, and the start of the admin pair (R83, R85, R104, R109–R111, R139, R385). -/

namespace Sys2Proof.Laws

open Sys2Proof.Machine

/-! ### State records and mirrors (R104, R139) -/

theorem exec_stateRecordWrite {s : State} {f q : Nat} (hf : fnOk f = true) (hq : q ≤ 65535) (hs : s.live = true) (k : QueueKind) :
    exec (.stateRecordWrite f k q) s = .next (s.recordWrite f k q) :=
  next_live (b := s.live) rfl (queueOk_of hf hq) hs

theorem recordWrite_sq {s : State} {f q : Nat} {x : Sq} (hx : s.sq f q = some x) (hst : x.stale = true) :
    s.recordWrite f .sq q =
      (s.qWrite f x.ctx q x.srec (stateRecord x.c x.k x.cause x.haltSeq.toNat s.time)).modSq f q fun y => { y with stale := false } := by
  simp only [State.recordWrite, State.writeSqRecord, hx, Option.any_some, hst, if_true]

theorem recordWrite_cq {s : State} {f q : Nat} {x : Cq} (hx : s.cq f q = some x) (hst : x.stale = true) :
    s.recordWrite f .cq q =
      ((s.qWrite f x.ctx q x.srec (stateRecord x.w 0 x.cause x.haltSeq.toNat s.time)).modCq f q fun y => { y with stale := false }).echoCq f q := by
  simp only [State.recordWrite, State.writeCqRecord, hx, Option.any_some, hst, if_true]

theorem recordWrite_eq {s : State} {f : Nat} {x : Cq} (hx : tget s.eqs f = some x) (hst : x.stale = true) (q : Nat) :
    s.recordWrite f .eq q =
      ((s.qWrite f x.ctx 1 x.srec (stateRecord x.w 0 x.cause x.haltSeq.toNat s.time)).modEq f fun y => { y with stale := false }).echoEq f := by
  simp only [State.recordWrite, State.writeEqRecord, hx, Option.any_some, hst, if_true]

theorem exec_evcMirrorWrite {s : State} {c n : Nat} (hc : c ≤ 4095) (hn : n ≤ 255) (hs : s.live = true) :
    exec (.evcMirrorWrite c n) s = .next (s.mirrorWrite c n) :=
  next_live (b := s.live) rfl (by simp [hc, hn]) hs

theorem mirrorWrite_of_dirty {s : State} {c n : Nat} {x : Context} (hx : tget s.ctxs c = some x) (hd : n ∈ x.dirty) (hm : s.mirrored x.owner = true) :
    s.mirrorWrite c n =
      ((s.modCtx c fun y => { y with dirty := y.dirty.filter (· != n) }).writeHost x.owner (fnPort x.owner) (s.mirrorBase x.owner + c * 2048 + n * 8)
        (leBytes 8 (s.evc c n).toNat)).1 := by
  have hb : (x.dirty.contains n && s.mirrored x.owner) = true := by simp [hd, hm]
  have hv : (s.modCtx c fun y => { y with dirty := y.dirty.filter (· != n) }).evc c n = s.evc c n := by
    simp [State.evc, State.modCtx, tget_tmod, hx]
  simp only [State.mirrorWrite, hx, if_pos hb]
  rw [hv]
  rfl

/-! ### FN_WAKE (R109–R111, R385) -/

section Wake

variable {s : State} {f q : Nat} {l : List HostStore}

theorem exec_sqWake (hf : fnOk f = true) (hq : q ≤ 65535) : exec (.sqWake f q l) s = .next ((s.withStores l).wake f 0 q fun s => s.wakeSq f q) :=
  if_pos (queueOk_of hf hq)

theorem exec_cqArm (hf : fnOk f = true) (hq : q ≤ 65535) : exec (.cqArm f q l) s = .next ((s.withStores l).wake f 1 q fun s => s.armCq f q) :=
  if_pos (queueOk_of hf hq)

theorem exec_errorQueueArm (hf : fnOk f = true) : exec (.errorQueueArm f l) s = .next ((s.withStores l).wake f 2 0 fun s => s.armEq f) := if_pos hf

/-- A function that quiesces records the write. -/
theorem wake_quiescing (ha : s.activity = .running) (hh : (s.fn f).halted = false) (hq : (s.fn f).state = .quiescing ∨ (s.fn f).state = .quiesced)
    (kind q : Nat) (act : State → State) :
    s.wake f kind q act = s.modFn f fun x => { x with wakes := x.wakes ++ [BitVec.ofNat 32 (q + kind * 65536)] } := by
  have hn : ¬ (s.activity ≠ .running ∨ (s.fn f).halted = true) := by simp [ha, hh]
  have hr : (!s.live || (s.fn f).state == .quiescing || (s.fn f).state == .quiesced) = true := by
    rcases hq with hq | hq <;> simp [hq]
  simp only [State.wake, if_neg hn, if_pos hr]

theorem wake_halted (hh : (s.fn f).halted = true) (kind q : Nat) (act : State → State) : s.wake f kind q act = s := if_pos (.inr hh)

/-- What an SQ wake has fetched before the queue is returned to its list. -/
def wokenTo (t : State) (f q : Nat) (b : List Byte) : State :=
  let v := t.modSq f q fun y => { y with p := BitVec.ofNat 32 (fld b 0 4) }
  v.fetchUpTo f q ((v.sq f q).elim 0 fun y => gap32 y.p y.c)

theorem wakeSq_of_good {t : State} {x : Sq} {b : List Byte} (hx : s.sq f q = some x) (hr : s.qRead f x.ctx q x.door 16 = (t, some b))
    (hg : gap32 (BitVec.ofNat 32 (fld b 0 4)) x.c ≤ 2 ^ x.log2) (hz : zeroAt b 4 4 = true) :
    s.wakeSq f q =
      if (wokenTo t f q b).serving f = false then wokenTo t f q b
      else if x.place = .parked ∧ (wokenTo t f q b).listFree f x.home = true then
        ((wokenTo t f q b).modSq f q fun y => { y with place := y.home, idle := 0 }).echoSq f q
      else (wokenTo t f q b).echoSq f q := by
  simp only [State.wakeSq, hx, State.readDoor, hr, takeDoor_of_good hg hz, Bool.not_eq_true']
  rfl

theorem headOf_of_zero {b : List Byte} (hz : zeroAt b 4 4 = true) : headOf (some b) = .ok (BitVec.ofNat 32 (fld b 0 4)) := if_pos hz

/-- A CQ arm once H has been taken over and the held CQEs are written. -/
theorem armCq_of_head {t : State} {v : Nat} {c d : Cq} {b : List Byte} (hc : s.cq f q = some c) (hv : c.vector = some v)
    (hr : s.qRead f c.ctx q c.door 16 = (t, some b)) (hz : zeroAt b 4 4 = true) (ht : t.serving f = true) :
    let u := State.drainGo c.held.length (t.modCq f q fun x => { x with h := BitVec.ofNat 32 (fld b 0 4) }) f q
    u.cq f q = some d → s.armCq f q = if d.h ≠ d.w then u.interrupt f v else u.modCq f q fun x => { x with armed := true } := by
  intro u hd
  have hserve : (t.modCq f q fun x => { x with h := BitVec.ofNat 32 (fld b 0 4) }).serving f = true := ht
  simp only [State.armCq, hc, hv, readHead_of_ok hc hr (headOf_of_zero hz), hserve, Bool.not_true, Bool.false_eq_true, if_false]
  change (match u.cq f q with | none => _ | some _ => _) = _
  rw [hd]

theorem armEq_of_head {t : State} {v : Nat} {c d : Cq} {b : List Byte} (hc : tget s.eqs f = some c) (hv : c.vector = some v)
    (hr : s.qRead f c.ctx 1 c.door 16 = (t, some b)) (hz : zeroAt b 4 4 = true) (ht : t.serving f = true) :
    let u := t.modEq f fun x => { x with h := BitVec.ofNat 32 (fld b 0 4) }
    tget u.eqs f = some d → s.armEq f = if d.h ≠ d.w then u.interrupt f v else u.modEq f fun x => { x with armed := true } := by
  intro u hd
  have hread : s.readEqHead f = u := by simp only [State.readEqHead, hc, hr, headOf_of_zero hz]; rfl
  have hserve : u.serving f = true := ht
  simp only [State.armEq, hc, hv, hread, hserve, Bool.not_true, Bool.false_eq_true, if_false, hd]

end Wake

/-! ### FN_ADMIN_CFG (R83, R85) -/

theorem exec_adminEnable {s : State} {f : Nat} (hf : fnOk f = true) (hs : s.served = true) (value : W32) :
    exec (.adminEnable f value) s = .next (s.adminStart f value.toNat) := next_live (b := s.served) rfl hf hs

theorem adminStart_plain {s : State} {f : Nat} (hd : (s.fn f).state ≠ .disabled) {v : Nat} (h : (s.fn f).admin.enable = true ∨ bit v 16 = false) :
    s.adminStart f v = s.writeWord f (s.fn f) 0x1000 v := by
  have hb : ((s.fn f).admin.enable || !bit v 16) = true := by rcases h with h | h <;> simp [h]
  simp only [State.adminStart, if_neg hd, if_pos hb]

end Sys2Proof.Laws

open Sys2Proof.Machine Sys2Proof.Laws

/-- Settles O15: what each record and mirror is written as (`recordWrite_sq` and the others), and what a wake and an arm do of a function that is served, quiesces or
is halted. -/
theorem recordsWakesArms : Obligations.RecordsWakesArms := by
  refine ⟨⟨fun s f q x hf hq hs hx hst => ?sqRecord, fun s f q x hf hq hs hx hst => ?cqRecord, fun s f q x hf hq hs hx hst => ?eqRecord,
    fun s c n x hc hn hs hx hd hm => ?mirror⟩, fun l s t f q x b hf hq hs hv hx hr hg hz => ?wake, fun l s t f q v c d b hf hq hs hv hc hvec hr hz ht => ?cqArm,
    fun l s t f v c d b hf hs hv hc hvec hr hz ht => ?eqArm, fun l s f q ha hf hq hh hst => ?quiesces, fun l s f q hf hq hh => ?halted⟩
  case sqRecord => rw [exec_stateRecordWrite hf hq hs, recordWrite_sq hx hst]
  case cqRecord => rw [exec_stateRecordWrite hf hq hs, recordWrite_cq hx hst]
  case eqRecord => rw [exec_stateRecordWrite hf hq hs, recordWrite_eq hx hst]
  case mirror => rw [exec_evcMirrorWrite hc hn hs, mirrorWrite_of_dirty hx hd hm]
  case wake =>
    have hrun : exec (.sqWake f q l) s = .next ((s.withStores l).wakeSq f q) := by rw [exec_sqWake hf hq, wake_serving (s := s.withStores l) hs hv]
    rw [hrun, wakeSq_of_good (s := s.withStores l) hx hr hg hz]
    refine ⟨fun hv' hp hl => ?_, fun hv' hp => ?_, fun hv' => ?_⟩
    · exact congrArg _ ((if_neg (by rw [Bool.not_eq_false]; exact hv')).trans (if_pos ⟨hp, hl⟩))
    · refine congrArg _ ((if_neg (by rw [Bool.not_eq_false]; exact hv')).trans (if_neg fun hb => ?_))
      exact hp.elim (fun hn => hn hb.1) fun hn => Bool.noConfusion (hn.symm.trans hb.2)
    · exact congrArg _ (if_pos hv')
  case cqArm =>
    intro u hd
    rw [exec_cqArm hf hq, wake_serving (s := s.withStores l) hs hv, armCq_of_head (s := s.withStores l) hc hvec hr hz ht hd]
    exact ⟨fun hne => congrArg _ (if_pos hne), fun he => congrArg _ (if_neg (not_not_intro he))⟩
  case eqArm =>
    intro u hd
    rw [exec_errorQueueArm hf, wake_serving (s := s.withStores l) hs hv, armEq_of_head (s := s.withStores l) hc hvec hr hz ht hd]
    exact ⟨fun hne => congrArg _ (if_pos hne), fun he => congrArg _ (if_neg (not_not_intro he))⟩
  case quiesces =>
    rw [exec_sqWake hf hq, exec_cqArm hf hq, exec_errorQueueArm hf]
    simp only [wake_quiescing (s := s.withStores l) ha hh hst]
    exact ⟨by simp, by simp, by simp⟩
  case halted =>
    rw [exec_sqWake hf hq, exec_cqArm hf hq, exec_errorQueueArm hf]
    simp only [wake_halted (s := s.withStores l) hh, and_self]

/-- Settles O16: a write that does not start the pair is a plain one (`adminStart_plain`), and one that does is judged by the fields it left. -/
theorem adminPairStarts : Obligations.AdminPairStarts := by
  refine ⟨fun s f value hf hs hd h => ?plain, fun s f value hf hs hd he hb => ?start⟩
  case plain => rw [exec_adminEnable hf hs, adminStart_plain hd h]
  case start =>
    intro u a b legal
    have hn : ¬ ((s.fn f).admin.enable || !bit value.toNat 16) = true := by simp [he, hb]
    rw [exec_adminEnable hf hs]
    simp only [State.adminStart, if_neg hd, if_neg hn]
    refine ⟨fun hl => congrArg _ (if_neg ?_), fun hl => congrArg _ (if_pos ?_)⟩
    · rw [Bool.not_eq_true', decide_eq_false_iff_not]
      exact not_not_intro hl
    · rw [Bool.not_eq_true', decide_eq_false_iff_not]
      exact hl
end

section
/-! PROOFS. Plain writes of registers: which region takes one, and that it changes its word alone (R5, R372, R489, R497–R501). -/

namespace Sys2Proof.Laws

open Sys2Proof.Machine

section Registers

variable {s : State} {f off width : Nat}

/-! ### Words and widths -/

theorem exec_registerWrite (hf : fnOk f = true) (v : W64) : exec (.registerWrite f off width v) s = .next (s.registerWrite f off width v.toNat) := if_pos hf

theorem registerWrite_word (h4 : off % 4 = 0) (v : Nat) : s.registerWrite f off 4 v = s.writeReg f off (v % 2 ^ 32) := if_pos ⟨rfl, h4⟩

theorem exec_registerWrite_word (hf : fnOk f = true) (h4 : off % 4 = 0) (v : W64) :
    exec (.registerWrite f off 4 v) s = .next (s.writeReg f off (v.toNat % 2 ^ 32)) := by
  rw [exec_registerWrite hf, registerWrite_word h4]

theorem registerWrite_neither (h4 : ¬ (width = 4 ∧ off % 4 = 0)) (h8 : ¬ (width = 8 ∧ off % 8 = 0)) (v : Nat) : s.registerWrite f off width v = s := by
  rw [State.registerWrite, if_neg h4, if_neg h8]

theorem traceBaseOf_galBase {g : Nat} (hg : g < 6) : traceBaseOf (galBase g + 0x018) = some g := by
  have hall : ∀ g < 6, traceBaseOf (galBase g + 0x018) = some g := by decide
  exact hall g hg

theorem traceBaseOf_none (h : ∀ g < 6, off ≠ galBase g + 0x018) : traceBaseOf off = none := by
  rw [traceBaseOf, List.find?_eq_none]
  intro g hg
  simpa using h g (List.mem_range.mp hg)

theorem registerWrite_double (h8 : off % 8 = 0) (ht : traceBaseOf off = none) (v : Nat) :
    s.registerWrite f off 8 v = (s.writeReg f off (v % 2 ^ 32)).writeReg f (off + 4) (v / 2 ^ 32) := by
  rw [State.registerWrite, if_neg (by simp), if_pos ⟨rfl, h8⟩, ht]

theorem registerWrite_traceBase {g : Nat} (hg : g < 6) (hs : s.served = true) (v : W64) :
    s.registerWrite 0 (galBase g + 0x018) 8 v.toNat = s.writeTraceBase g (galBase g + 0x018) v.toNat := by
  have h8 : (galBase g + 0x018) % 8 = 0 := by rw [galBase]; omega
  rw [State.registerWrite, if_neg (by simp), if_pos ⟨rfl, h8⟩, traceBaseOf_galBase hg]
  exact (if_pos ⟨rfl, hs⟩).trans (by rw [Nat.mod_eq_of_lt v.isLt])

/-! ### The regions -/

theorem writeReg_core (h : off < 0x1000) (v : Nat) : s.writeReg f off v = s := if_pos h

theorem writeReg_function (hlo : 0x1000 ≤ off) (hhi : off < 0x2000) (hs : s.served = true) (hd : (s.fn f).state ≠ .disabled) (v : Nat) :
    s.writeReg f off v = s.writeWord f (s.fn f) off v := by
  rw [State.writeReg, if_neg (by omega), if_pos hhi, if_pos (by simp [hs, hd])]

theorem writeReg_table (hlo : 0x180000 ≤ off) (hhi : off < 0x1C0100) (hs : s.live = true) (hd : (s.fn f).state ≠ .disabled) (v : Nat) :
    s.writeReg f off v = (s.writeWord f (s.fn f) off v).unmask f off := by
  rw [State.writeReg, if_neg (by omega), if_neg (by omega), if_pos (by omega), if_pos (by simp [hs, hd])]

theorem writeReg_window (hlo : 0x080000 ≤ off) (hhi : off < 0x100000) (hs : s.live = true) (v : Nat) :
    s.writeReg 0 off v = s.modBoot fun b => { b with window := b.window.write (off - 0x080000) (leBytes 4 v) } := by
  rw [State.writeReg, if_neg (by omega), if_neg (by omega), if_neg (by omega), if_neg (by simp), if_pos ⟨hlo, hhi⟩, if_pos hs]

theorem writeReg_debug (hlo : 0x120000 ≤ off) (hhi : off < 0x130000) (hs : s.dbgServed = true) (v : Nat) : s.writeReg 0 off v = s.writeHub off v := by
  rw [State.writeReg, if_neg (by omega), if_neg (by omega), if_neg (by omega), if_neg (by simp), if_neg (by omega), if_pos ⟨hlo, hhi⟩, if_pos hs]

/-- The emulated registers of PF0 outside the load window, the MSI-X table and the DBG_ block. -/
theorem writeReg_hub (h : 0x4000 ≤ off ∧ off < 0x080000 ∨ 0x100000 ≤ off ∧ off < 0x120000) (hs : s.served = true) (v : Nat) :
    s.writeReg 0 off v = s.writeHub off v := by
  rw [State.writeReg, if_neg (by omega), if_neg (by omega), if_neg (by omega), if_neg (by simp), if_neg (by omega), if_neg (by omega), if_pos hs]

/-- An MSI-X table of a tenant ends before 0x3000 of its BAR. -/
theorem inMsix_tenant (hf : f ≠ 0) (hlo : 0x3000 ≤ off) : inMsix f off = false := by
  rw [inMsix, decide_eq_false_iff_not, msixBase, if_neg hf, vectorsOf, if_neg hf]
  split <;> omega

theorem writeReg_tenant (hf : f ≠ 0) (hlo : 0x3000 ≤ off) (v : Nat) : s.writeReg f off v = s := by
  have hin := inMsix_tenant hf hlo
  have hword : s.writeWord f (s.fn f) off v = s := by
    by_cases hb : off < 0x10000
    · have hnone : fnFields s f (s.fn f) off = [] := by
        rw [fnFields, if_neg (by omega), if_neg (by omega), if_neg (by omega), if_neg (by omega), if_neg (by omega), if_neg (by simp [hin])]
      simp only [State.writeWord, if_pos hb, hnone, List.isEmpty_nil, if_true]
    · simp only [State.writeWord, if_neg hb, if_neg hf, List.isEmpty_nil, if_true]
  have hmask : s.unmask f off = s := by simp [State.unmask, hin]
  rw [State.writeReg, if_neg (by omega), if_neg (by omega), hword, hmask, ite_self]
  exact ite_eq_left_iff.mpr fun _ => if_pos hf

/-! ### The word that a plain write changes -/

theorem writeWord_function (h : off < 0x10000) (v : Nat) :
    s.writeWord f (s.fn f) off v = if (fnFields s f (s.fn f) off).isEmpty then s
      else s.setWord f off (mergeFields (s.word f off) v (fnFields s f (s.fn f) off)) := by
  simp only [State.writeWord, if_pos h]

theorem writeWord_manager (h : 0x10000 ≤ off) (v : Nat) :
    s.writeWord 0 (s.fn 0) off v = if (pfFields s off).isEmpty then s else s.setWord 0 off (mergeFields (s.word 0 off) v (pfFields s off)) := by
  simp only [State.writeWord, if_neg (Nat.not_lt.mpr h), if_true]

/-- The block that PF0's plain words stand in: none of those that act. -/
theorem writeHub_plain (hpend : ¬ (0x010140 ≤ off ∧ off < 0x010168)) (hdirty : ¬ (off = 0x010180 ∨ (0x010188 ≤ off ∧ off < 0x0101B8)))
    (hport : ¬ (0x040000 ≤ off ∧ off < 0x080000))
    (htrace : ¬ (0x100000 ≤ off ∧ off < 0x10C000 ∧ 0x010 ≤ (off - 0x100000) % 0x2000 ∧ (off - 0x100000) % 0x2000 < 0x020)) (hview : off < 0x200000)
    (hpower : off ≠ 0x010448) (hsnap : off ≠ 0x120000) (v : Nat) : s.writeHub off v = s.writeWord 0 (s.fn 0) off v := by
  simp only [State.writeHub, if_neg hpend, if_neg hdirty, if_neg hport, if_neg htrace, if_neg (Nat.not_le.mpr hview), if_neg hpower, if_neg hsnap]

theorem writeHub_power (v : Nat) : s.writeHub 0x010448 v = (s.writeWord 0 (s.fn 0) 0x010448 v).wakeDeep := rfl

/-- A plain word leaves every other word as it was. -/
theorem word_writeWord_ne {o : Nat} (h : o ≠ off) (v : Nat) : (s.writeWord 0 (s.fn 0) off v).word 0 o = s.word 0 o := by
  have hk : regKey 0 o ≠ regKey 0 off := by rw [regKey, regKey]; omega
  have hset : ∀ w, (s.setWord 0 off w).word 0 o = s.word 0 o := fun w => by simp only [State.word, State.setWord, tget_tset_ne _ _ hk]
  unfold State.writeWord
  generalize (if off < 0x10000 then fnFields s 0 (s.fn 0) off else if (0 : Nat) = 0 then pfFields s off else []) = l
  by_cases hl : l.isEmpty = true
  · exact congrArg (fun t : State => t.word 0 o) (if_pos hl)
  · exact (congrArg (fun t : State => t.word 0 o) (if_neg hl)).trans (hset _)

/-- The plain words of a port, from its third word to its filters. -/
theorem writeHub_port {p : Nat} (hp : p < 16) (hlo : portBase p + 0x000C ≤ off) (hhi : off < portBase p + 0x0200) (v : Nat) :
    s.writeHub off v = s.writeWord 0 (s.fn 0) off v := by
  rw [portBase] at hlo hhi
  have hblock : (off - 0x040000) / 0x4000 = p := by omega
  have hword : (off - 0x040000) % 0x4000 = off - 0x040000 - p * 0x4000 := by omega
  have hbreak : (s.writeWord 0 (s.fn 0) off v).breakout p = s.breakout p := by
    rw [State.breakout, State.breakout, word_writeWord_ne (by rw [portBase]; omega)]
  have hmode : (s.writeWord 0 (s.fn 0) off v).portSwitched p = s.portSwitched p := by
    rw [State.portSwitched, State.portSwitched, word_writeWord_ne (by rw [portBase]; omega)]
  have hbefore : s.beforePortWrite p (off - 0x040000 - p * 0x4000) ((off - 0x040000 - p * 0x4000 - 0x0800) / 0x700)
      ((off - 0x040000 - p * 0x4000 - 0x0800) % 0x700) = s := by
    rw [State.beforePortWrite, if_neg (by omega), if_neg (by omega)]
  rw [State.writeHub, if_neg (by omega), if_neg (by omega), if_pos (by omega), State.writePort]
  simp only [hblock, hword, hbefore]
  rw [if_neg (by omega), if_neg (by omega), if_neg (c := off - 0x040000 - p * 0x4000 = 0x0008 ∧ _) (fun h => by omega),
    if_neg (c := 0x200 ≤ off - 0x040000 - p * 0x4000 ∧ _) (fun h => by omega), if_neg (by simp [hbreak, hmode])]

end Registers

end Sys2Proof.Laws

open Sys2Proof.Machine Sys2Proof.Laws

/-- Settles O17: the region that an offset lies in (`writeReg_function`, `writeReg_hub` and the others), and the word that it changes there
(`writeWord_function`, `writeWord_manager`). -/
theorem registerWriteKeepsTheRest : Obligations.RegisterWriteKeepsTheRest := by
  have h0 : Sys2Proof.fnOk 0 = true := rfl
  refine ⟨fun s f off v hf hs hd hlo hhi h4 hne => ?set, fun s f off v hf hs hd hlo hhi h4 hne => ?reserved, fun s off v h4 => ?manager,
    fun s f off width v hf h => ?outside, fun s f off v hf h8 hb => ⟨_, exec_registerWrite_word hf (by omega) v, ?double⟩, fun s g v hg hs => ?base,
    fun s off v hs hlo hhi h4 => ?window, fun s f off width v hf h4 h8 => ?neither⟩
  case set =>
    rw [exec_registerWrite_word hf h4, writeReg_function hlo hhi hs hd, writeWord_function (by omega), if_neg (by simp [hne])]
    rfl
  case reserved => rw [exec_registerWrite_word hf h4, writeReg_function hlo hhi hs hd, writeWord_function (by omega), if_pos hne]
  case manager =>
    intro t
    have hword : 0x10000 ≤ off → s.writeWord 0 (s.fn 0) off (v.toNat % 2 ^ 32) = t := fun h => writeWord_manager h _
    rw [exec_registerWrite_word h0 h4]
    refine ⟨fun hs h => ?_, fun hs h => ?_, fun hs p hp hlo hhi => ?_, fun hs g hg h => ?_, fun hs hlo hhi => ?_, fun hs hd hlo hhi => ?_⟩
    · rw [writeReg_hub (by omega) hs, writeHub_plain (by omega) (by omega) (by omega) (by omega) (by omega) (by omega) (by omega), hword (by omega)]
    · subst h
      rw [writeReg_hub (by omega) hs, writeHub_power, hword (by omega)]
    · have hbase : portBase p = 0x040000 + p * 0x4000 := rfl
      rw [writeReg_hub (by omega) hs, writeHub_port hp hlo hhi, hword (by omega)]
    · have hbase : galBase g = 0x100000 + g * 0x2000 := rfl
      rw [writeReg_hub (by omega) hs, writeHub_plain (by omega) (by omega) (by omega) (by omega) (by omega) (by omega) (by omega), hword (by omega)]
    · rw [writeReg_debug (by omega) hhi hs, writeHub_plain (by omega) (by omega) (by omega) (by omega) (by omega) (by omega) (by omega), hword (by omega)]
    · rw [writeReg_table hlo (by omega) hs hd, hword (by omega)]
  case outside =>
    rw [exec_registerWrite hf]
    have hone : ∀ o, o = off ∨ o = off + 4 ∧ off % 8 = 0 → ∀ (t : State) w, t.writeReg f o w = t := by
      intro o ho t w
      rcases h with h | ⟨hn, h⟩
      · exact writeReg_core (by omega) w
      · exact writeReg_tenant hn (by omega) w
    rw [State.registerWrite]
    split
    · rw [hone off (.inl rfl)]
    · split
      · next h8 =>
        split
        · next g hg =>
          rcases h with h | ⟨hn, _⟩
          · have := List.find?_some hg
            simp only [galBase, beq_iff_eq] at this
            omega
          · exact congrArg _ (if_neg fun hb => hn hb.1)
        · rw [hone off (.inl rfl), hone (off + 4) (.inr ⟨rfl, h8.2⟩)]
      · rfl
  case double =>
    have hhigh : (v >>> 32).toNat % 2 ^ 32 = v.toNat / 2 ^ 32 := by
      rw [BitVec.toNat_ushiftRight, Nat.shiftRight_eq_div_pow]
      exact Nat.mod_eq_of_lt (by have := v.isLt; omega)
    rw [exec_registerWrite hf, registerWrite_double h8 (traceBaseOf_none hb), exec_registerWrite_word hf (by omega), hhigh]
  case base =>
    intro off t
    rw [exec_registerWrite h0, registerWrite_traceBase hg hs]
    rfl
  case window => rw [exec_registerWrite_word h0 h4, writeReg_window hlo hhi hs]; rfl
  case neither => rw [exec_registerWrite hf, registerWrite_neither h4 h8]
end

section
/-! PROOFS. Admin commands over contexts, completion queues, the error queue and segments (R65, R66, R78, R84, R117, R118). -/

namespace Sys2Proof.Laws

open Sys2Proof.Machine

/-- An admin command that is ready, from what its own part answers over the state without it. -/
theorem exec_admin {c : Instr} {s u : State} {f op : Nat} {used : List (Nat × Nat)} {j : Job} {r : List Job} {act : State → Job → State × Answer} {a : Answer}
    (e : exec c s = if fnOk f = true then .next (s.admin f op none used act) else .next s) (h : s.adminReady f op used j r)
    (ha : act (s.adminRest f r) j = (u, a)) : exec c s = .next (u.answer j a) := by
  rw [e, if_pos h.exists_, admin_next h ha]

section Parts

variable {t : State} {j : Job}

/-! ### Contexts -/

theorem doCreateContext_ok {f : Nat} (hn : tfree t.ctxs 0 ≤ 4095) (hg : f = 0 ∨ t.ctxsOf f < (t.fn f).grant.contexts) :
    t.doCreateContext f = ({ t with ctxs := tset t.ctxs (tfree t.ctxs 0) { owner := f } }, .ok (tfree t.ctxs 0)) := by
  have hgrant : ¬ (f ≠ 0 ∧ (t.fn f).grant.contexts ≤ t.ctxsOf f) := fun ⟨h0, hle⟩ => hg.elim h0 (Nat.not_lt.mpr hle)
  simp only [State.doCreateContext, if_neg (Nat.not_lt.mpr hn), if_neg hgrant]

theorem doDestroyContext_ok (ho : t.ownsCtx j.f (j.arg 16 2) = true) (hu : t.ctxInUse (j.arg 16 2) = false) :
    t.doDestroyContext j = (t.dropCtx (j.arg 16 2), .ok 0) := by
  simp only [State.doDestroyContext, ho, hu, Bool.not_true, Bool.false_eq_true, if_false]

/-! ### Completion queues and the error queue -/

/-- The CQ, or the error queue, that a command describes. -/
def cqOf (j : Job) (ring door srec : Nat) (refs : List Ref) : Cq :=
  { ctx := j.arg 40 2, log2 := j.arg 42 1, ring := ring, door := door, srec := srec, refs := refs, vector := if j.arg 44 2 = 0xFFFF then none else some (j.arg 44 2) }

theorem doCreateCq_ok {ring door srec : Nat} {refs : List Ref} (hq : t.queueArgs j = none) (hv : vectorOk j.f (j.arg 44 2) = true)
    (hp : t.queueParts j 32 [.write] = .ok (ring, door, srec, refs)) (hroom : t.cqs.length < 65536) (hn : freeQueue t.cqs j.f ≤ 65535)
    (hg : j.f = 0 ∨ queuesOf t.cqs j.f < (t.fn j.f).grant.cqs) :
    t.doCreateCq j =
      (({ t with cqs := tset t.cqs (qKey j.f (freeQueue t.cqs j.f)) (cqOf j ring door srec refs) }).writeCqRecord j.f (freeQueue t.cqs j.f),
        .ok (freeQueue t.cqs j.f)) := by
  have hlimit : ¬ (65536 ≤ t.cqs.length ∨ 65535 < freeQueue t.cqs j.f) := by omega
  have hgrant : ¬ (j.f ≠ 0 ∧ (t.fn j.f).grant.cqs ≤ queuesOf t.cqs j.f) := fun ⟨h0, hle⟩ => hg.elim h0 (Nat.not_lt.mpr hle)
  simp only [State.doCreateCq, hq, hv, hp, if_neg hlimit, if_neg hgrant, Bool.not_true, Bool.false_eq_true, if_false]
  rfl

theorem doDestroyCq_ok {c d : Cq} (hc : t.cq j.f (j.arg 16 2) = some c) (h0 : j.arg 16 2 ≠ 0)
    (hs : (t.sqs.any fun e => decide (e.1 / 65536 = j.f ∧ e.1 % 65536 ≠ 0) && e.2.cq == j.arg 16 2) = false) (hh : c.held = []) :
    let u := if t.serving j.f then t.readHead j.f (j.arg 16 2) else t
    u.cq j.f (j.arg 16 2) = some d → d.h = d.w → t.doDestroyCq j = ({ u with cqs := tdel u.cqs (qKey j.f (j.arg 16 2)) }, .ok 0) := by
  intro u hd hw
  simp only [State.doDestroyCq, hc, if_neg h0, hs, Bool.false_eq_true, if_false]
  exact if_neg (by rw [hd]; simp [hw, hh])

theorem doCreateEq_ok {ring door srec : Nat} {refs : List Ref} (hq : t.queueArgs j = none) (he : tget t.eqs j.f = none)
    (hv : vectorOk j.f (j.arg 44 2) = true) (hp : t.queueParts j 32 [.write] = .ok (ring, door, srec, refs)) :
    t.doCreateEq j = (({ t with eqs := tset t.eqs j.f (cqOf j ring door srec refs) }).writeEqRecord j.f, .ok 0) := by
  simp only [State.doCreateEq, hq, he, hv, hp, Option.isSome_none, Bool.not_true, Bool.false_eq_true, if_false]
  rfl

/-! ### Segments -/

section Segments

variable (hn : j.arg 18 1 ≤ 15) (ho : t.ownsCtx j.f (j.arg 16 2) = true)

include hn ho

theorem doCreateSegment_ok {g : Segment} (hfree : (t.segment (j.arg 16 2) (j.arg 18 1)).state = .free) (hr : Segment.read? (slice j.head 24 32) = some g)
    (hok : t.segmentOk j.f g = true) :
    t.doCreateSegment j = ((t.modSeg (j.arg 16 2) (j.arg 18 1) fun _ => g).wakeDeep, .ok (t.segGen (j.arg 16 2) (j.arg 18 1))) := by
  simp only [State.doCreateSegment, if_neg (Nat.not_lt.mpr hn), ho, hfree, hr, hok, Bool.not_true, Bool.false_eq_true, if_false, ne_eq, not_true_eq_false, if_true]

/-- The generation is incremented, and the old one decides whether the segment is free at once (R78). -/
theorem doWithdraw_active (ha : (t.segment (j.arg 16 2) (j.arg 18 1)).state = .active) :
    t.doWithdraw j =
      let s := t.bumpGen (j.arg 16 2) (j.arg 18 1)
      if s.referred (j.arg 16 2) (j.arg 18 1) (t.segGen (j.arg 16 2) (j.arg 18 1)) = true then
        (s.modSeg (j.arg 16 2) (j.arg 18 1) fun g => { g with state := .withdrawing, ticket := some j, askedAt := s.tclk }, .later)
      else (s.freeSeg (j.arg 16 2) (j.arg 18 1), .ok (s.segGen (j.arg 16 2) (j.arg 18 1))) := by
  simp only [State.doWithdraw, if_neg (Nat.not_lt.mpr hn), ho, ha, Bool.not_true, Bool.false_eq_true, if_false, ne_eq, not_true_eq_false]

theorem doQuerySegment_ok :
    t.doQuerySegment j = t.adminWrite j (t.firstCtx j.f) (j.arg 24 8)
      ((t.segment (j.arg 16 2) (j.arg 18 1)).bytes (t.segGen (j.arg 16 2) (j.arg 18 1))) (.ok 0) := by
  simp only [State.doQuerySegment, if_neg (Nat.not_lt.mpr hn), ho, Bool.not_true, Bool.false_eq_true, if_false]

end Segments

theorem segGen_bumpGen (s : State) (c i : Nat) : (s.bumpGen c i).segGen c i = (s.segGen c i + 1) % 16 := by
  simp [State.segGen, State.bumpGen, tgetD, tget_tset_self]

theorem withdrawn_unreferred {s : State} {c n : Nat} (hw : (s.segment c n).state = .withdrawing) (hr : s.referred c n ((s.segGen c n + 15) % 16) = false)
    (ht : (s.segment c n).ticket = some j) : s.withdrawn c n = (s.freeSeg c n).answer j (.ok (s.segGen c n)) := by
  have hcond : ¬ ((s.segment c n).state ≠ .withdrawing ∨ s.referred c n ((s.segGen c n + 15) % 16) = true) := by simp [hw, hr]
  simp only [State.withdrawn, if_neg hcond, ht]
  rfl

end Parts

end Sys2Proof.Laws

open Sys2Proof.Machine Sys2Proof.Laws

/-- Settles O18, each command from what its own part answers (`doCreateContext_ok`, `doCreateCq_ok`, `doWithdraw_active` and the others). -/
theorem contextsAndSegments : Obligations.ContextsAndSegments := by
  refine ⟨fun s f j r => ?objects, fun s f j r => ?segments⟩
  case objects =>
    intro t
    refine ⟨fun h hn hg => ?_, fun h ho hu => ?_, fun ring door srec refs h hq hv hp hroom hn hg => ?_, fun c d h hc h0 hs hh => ?_,
      fun ring door srec refs h hq he hv hp => ?_⟩
    · obtain rfl := h.owner
      exact exec_admin rfl h (doCreateContext_ok hn hg)
    · obtain rfl := h.owner
      exact exec_admin rfl h (doDestroyContext_ok ho hu)
    · obtain rfl := h.owner
      exact exec_admin rfl h (doCreateCq_ok hq hv hp hroom hn hg)
    · obtain rfl := h.owner
      intro u hd hw
      exact exec_admin rfl h (doDestroyCq_ok hc h0 hs hh hd hw)
    · obtain rfl := h.owner
      exact exec_admin rfl h (doCreateEq_ok hq he hv hp)
  case segments =>
    intro t c n
    refine ⟨fun g h hn ho hfree hr hok => ?_, fun h hn ho ha hr => ?_, fun h hn ho ha hr => ?_, fun c n hc hn hs hw hr ht => ?_, fun u h hn ho hw => ?_⟩
    · obtain rfl := h.owner
      exact exec_admin rfl h (doCreateSegment_ok (t := t) hn ho hfree hr hok)
    · obtain rfl := h.owner
      have hgen : (t.bumpGen c n).segGen c n = (s.segGen c n + 1) % 16 := segGen_bumpGen t c n
      rw [← hgen]
      exact exec_admin rfl h ((doWithdraw_active (t := t) hn ho ha).trans (if_neg (Bool.not_eq_true _ ▸ hr)))
    · obtain rfl := h.owner
      exact exec_admin rfl h ((doWithdraw_active (t := t) hn ho ha).trans (if_pos hr))
    · exact (next_live (b := s.live) rfl (by simp [hc, hn]) hs).trans (congrArg _ (withdrawn_unreferred hw hr ht))
    · obtain rfl := h.owner
      exact exec_admin rfl h ((doQuerySegment_ok (t := t) hn ho).trans hw)
end

section
/-! PROOFS. Admin commands IDENTIFY and NEGOTIATE, and those over submission queues and grants (R117, R118, R377, R378, R428, R429). -/

namespace Sys2Proof.Laws

open Sys2Proof.Machine

section Parts

variable {t : State} {j : Job}

/-! ### Submission queues -/

/-- The list that a new SQ asks for, and where it is placed (R105). -/
def homeOf (j : Job) : Place := if j.arg 46 1 = 0 then .express else .regular

def placeFor (t : State) (j : Job) : Place := if j.arg 46 1 ≠ 2 ∧ t.listFree j.f (homeOf j) then homeOf j else .parked

/-- The number by which CREATE_SQ answers the place. -/
def placeCode : Place → Nat
  | .express => 0
  | .regular => 1
  | .parked => 2

def sqOf (t : State) (j : Job) (ring door srec : Nat) (refs : List Ref) : Sq :=
  { ctx := j.arg 40 2, cq := j.arg 44 2, log2 := j.arg 42 1, ring := ring, door := door, srec := srec, refs := refs, raw := bit (j.arg 43 1) 0,
    flushOff := bit (j.arg 43 1) 2, home := homeOf j, place := placeFor t j, park := j.arg 48 2 }

theorem doCreateSq_ok {ring door srec : Nat} {refs : List Ref} (hq : t.queueArgs j = none) (hkind : j.arg 43 1 % 4 ≤ 1) (hrsvd : j.arg 43 1 / 8 = 0)
    (hpos : j.arg 46 1 ≤ 2) (hcq0 : j.arg 44 2 ≠ 0) (hcq : (t.cq j.f (j.arg 44 2)).isNone = false)
    (hp : t.queueParts j 64 [.read] = .ok (ring, door, srec, refs)) (hroom : t.sqs.length < 65536) (hn : freeQueue t.sqs j.f ≤ 65535)
    (hg : j.f = 0 ∨ queuesOf t.sqs j.f < (t.fn j.f).grant.sqs) :
    t.doCreateSq j =
      ((({ t with sqs := tset t.sqs (qKey j.f (freeQueue t.sqs j.f)) (sqOf t j ring door srec refs) }).writeSqRecord j.f (freeQueue t.sqs j.f)).echoSq j.f
        (freeQueue t.sqs j.f), .ok (freeQueue t.sqs j.f + 65536 * placeCode (placeFor t j))) := by
  have hargs : ¬ (j.arg 43 1 % 4 > 1 ∨ j.arg 43 1 / 8 ≠ 0 ∨ j.arg 46 1 > 2) := by omega
  have hnamed : ¬ (j.arg 44 2 = 0 ∨ (t.cq j.f (j.arg 44 2)).isNone = true) := by simp [hcq0, hcq]
  have hlimit : ¬ (65536 ≤ t.sqs.length ∨ 65535 < freeQueue t.sqs j.f) := by omega
  have hgrant : ¬ (j.f ≠ 0 ∧ (t.fn j.f).grant.sqs ≤ queuesOf t.sqs j.f) := fun ⟨h0, hle⟩ => hg.elim h0 (Nat.not_lt.mpr hle)
  simp only [State.doCreateSq, hq, if_neg hargs, if_neg hnamed, hp, if_neg hlimit, if_neg hgrant]
  rfl

theorem doDestroySq_ok {x y : Sq} (hx : t.sq j.f (j.arg 16 2) = some x) (h0 : j.arg 16 2 ≠ 0) :
    let u := if t.serving j.f then (t.readDoor j.f (j.arg 16 2) x).1 else t
    u.sq j.f (j.arg 16 2) = some y → y.k = y.c → y.c = y.p → t.doDestroySq j = ({ u with sqs := tdel u.sqs (qKey j.f (j.arg 16 2)) }, .ok 0) := by
  intro u hy hk hc
  simp only [State.doDestroySq, hx, if_neg h0]
  exact if_neg (by rw [hy]; simp [hk, hc])

/-! ### IDENTIFY and NEGOTIATE -/

theorem doIdentify_ok (ha : j.arg 16 8 % 4096 = 0) :
    t.doIdentify j = ((({ t with free := t.free + 1 }).writeHost j.f (fnPort j.f) (j.arg 16 8) (t.identityPage j.f t.free)).1, .ok 0) :=
  if_neg (not_not_intro ha)

theorem exec_negotiate {s : State} {b : Bundle} (hb : s.boot.running = some b) (f : Nat) :
    exec (.negotiate f) s =
      if fnOk f = true then .next (s.admin f 0x02 none [(16, 4), (24, 32)] fun s j => s.doNegotiate j b) else .next s := by
  simp only [exec, execNegotiate, hb]

section Negotiate

variable {b : Bundle} (hneg : (t.fn j.f).neg = .none) (hlo : j.arg 16 1 ≠ 0) (hle : j.arg 16 1 ≤ j.arg 17 1)
  (hneed : BitVec.ofNat 128 (j.arg 40 16) &&& BitVec.ofNat 128 (j.arg 24 16) = BitVec.ofNat 128 (j.arg 40 16))

/-- NEGOTIATE fails, with a detail and a record (R429). -/
def negFailed (t : State) (j : Job) (b : Bundle) (d : Nat) : State :=
  (t.modFn j.f fun x => { x with neg := .failed }).record 0 (negRecord d j.f (j.arg 16 1) (j.arg 17 1) b.lowMajor b.highMajor t.time)

include hneg hlo hle hneed

/-- What decides a NEGOTIATE whose arguments are right: the greatest common major version, and then the features. -/
theorem doNegotiate_of_args :
    t.doNegotiate j b =
      if Nat.min (j.arg 17 1) b.highMajor < j.arg 16 1 ∨ Nat.min (j.arg 17 1) b.highMajor < b.lowMajor then (negFailed t j b 1, .fail .devNegFailed 1)
      else if BitVec.ofNat 128 (j.arg 40 16) &&& b.features ≠ BitVec.ofNat 128 (j.arg 40 16) then (negFailed t j b 2, .fail .devNegFailed 2)
      else
        let minor := if Nat.min (j.arg 17 1) b.highMajor = b.highMajor then b.minor else 0
        (t.modFn j.f fun x => { x with neg := .agreed (Nat.min (j.arg 17 1) b.highMajor) minor (BitVec.ofNat 128 (j.arg 24 16) &&& b.features) },
          .ok (Nat.min (j.arg 17 1) b.highMajor + 256 * minor)) := by
  have hargs : ¬ (j.arg 16 1 = 0 ∨ j.arg 17 1 < j.arg 16 1 ∨
      BitVec.ofNat 128 (j.arg 40 16) &&& BitVec.ofNat 128 (j.arg 24 16) ≠ BitVec.ofNat 128 (j.arg 40 16)) := by
    rintro (h | h | h)
    · exact hlo h
    · exact Nat.not_lt.mpr hle h
    · exact h hneed
  simp only [State.doNegotiate, hneg, if_neg hargs]
  rfl

end Negotiate

/-! ### Grants -/

theorem doGrant_ok {u : State} {b : List Byte} {g : Grant} (hr : t.adminRead j (t.firstCtx 0) (j.arg 24 8) 128 = (u, .ok b)) (h0 : j.arg 16 2 ≠ 0)
    (hf : fnOk (j.arg 16 2) = true) (hd : (u.fn (j.arg 16 2)).state ≠ .disabled) (hg : Grant.read? b = some g)
    (hranges : g.ranges.all (u.rangeOk (j.arg 16 2)) = true) (hex : u.placesGranted .express - (u.fn (j.arg 16 2)).grant.express + g.express ≤ 240)
    (hreg : u.placesGranted .regular - (u.fn (j.arg 16 2)).grant.regular + g.regular ≤ 1920) (hw : u.within (j.arg 16 2) g = true) :
    t.doGrant j = (State.armHeld (u.modFn (j.arg 16 2) fun x => { x with grant := g }), .ok 0) := by
  have hnamed : ¬ ((!fnOk (j.arg 16 2)) = true ∨ (u.fn (j.arg 16 2)).state = .disabled) := by simp [hf, hd]
  have hplaces : ¬ ((!g.ranges.all (u.rangeOk (j.arg 16 2))) = true ∨ 240 < u.placesGranted .express - (u.fn (j.arg 16 2)).grant.express + g.express ∨
      1920 < u.placesGranted .regular - (u.fn (j.arg 16 2)).grant.regular + g.regular) := by
    rintro (h | h | h)
    · simp [hranges] at h
    · exact Nat.not_lt.mpr hex h
    · exact Nat.not_lt.mpr hreg h
  simp only [State.doGrant, hr, if_neg h0, if_neg hnamed, hg, if_neg hplaces, hw, Bool.not_true, Bool.false_eq_true, if_false]

end Parts

end Sys2Proof.Laws

open Sys2Proof.Machine Sys2Proof.Laws

/-- Settles O19, each command from what its own part answers (`doCreateSq_ok`, `doNegotiate_of_args`, `doGrant_ok` and the others). -/
theorem sqsVersionsGrants : Obligations.SqsVersionsGrants := by
  intro s f j r t
  refine ⟨fun ring door srec refs h hq hk hz hpos hc0 hc hp hroom hn hg => ?create, fun x y h hx h0 => ?destroy, fun h ha => ?identify,
    fun b hb h hneg => ?negotiate, fun u b g h hr h0 hf hd hg hranges hex hreg hw => ?grant⟩
  case create =>
    obtain rfl := h.owner
    exact exec_admin rfl h (doCreateSq_ok (t := t) hq hk hz hpos hc0 hc hp hroom hn hg)
  case destroy =>
    obtain rfl := h.owner
    intro u hy hkc hcp
    exact exec_admin rfl h (doDestroySq_ok (t := t) hx h0 hy hkc hcp)
  case identify =>
    obtain rfl := h.owner
    exact exec_admin rfl h (doIdentify_ok (t := t) ha)
  case negotiate =>
    obtain rfl := h.owner
    intro need req major minor hlo hle hneed
    have hrun := doNegotiate_of_args (t := t) (b := b) hneg hlo hle hneed
    refine ⟨fun hmaj => ?_, fun hlow hhigh hfeat => ?_, fun hlow hhigh hfeat => ?_⟩
    · exact exec_admin (exec_negotiate hb j.f) h (hrun.trans (if_pos hmaj))
    · exact exec_admin (exec_negotiate hb j.f) h
        (hrun.trans ((if_neg (not_or.mpr ⟨Nat.not_lt.mpr hlow, Nat.not_lt.mpr hhigh⟩)).trans (if_neg (not_not_intro hfeat))))
    · exact exec_admin (exec_negotiate hb j.f) h
        (hrun.trans ((if_neg (not_or.mpr ⟨Nat.not_lt.mpr hlow, Nat.not_lt.mpr hhigh⟩)).trans (if_pos hfeat)))
  case grant =>
    obtain rfl := h.owner
    exact exec_admin rfl h (doGrant_ok (t := t) hr h0 hf hd hg hranges hex hreg hw)
end

section
/-! PROOFS. The admin commands over queue pairs (R175, R183, R185–R189): what each answers, and O20. -/

namespace Sys2Proof.Laws
open Sys2Proof.Machine

/-- A form of MODIFY_QP whose conditions hold answers what its own part answers, over the state in which what has arrived for the QP has acted. -/
theorem exec_modifyQp {c : Instr} {s u : State} {f n : Nat} {used : List (Nat × Nat)} {j : Job} {r : List Job} {part : State → Job → State × Answer}
    {a : Answer}
    (e : exec c s = if fnOk f = true then .next (s.admin f 0x19 (some n) used fun s j => part (s.latchQp (j.arg 12 3)) j) else .next s)
    (h : s.adminReady f 0x19 used j r) (hn : j.arg 16 1 = n) (ha : part ((s.adminRest f r).latchQp (j.arg 12 3)) j = (u, a)) :
    exec c s = .next (u.answer j a) := by
  rw [e, if_pos h.exists_, admin_next_sub h hn ha]

section Parts

variable {t : State} {j : Job} {x : Qp} {e : Endpoint}

theorem addQp_number (t : State) (x : Qp) : (t.addQp x).2 = tfree t.qps 1 := rfl

theorem doCreateQp_ok {P : Nat} {tm : Nat × Nat × Nat} (hP : payloadOf (j.arg 22 1) = some P)
    (htm : timersOf (j.arg 23 1) (j.arg 28 2) (j.arg 30 2) = some tm) (ho : t.ownsCtx j.f (j.arg 16 2) = true) (hty : j.arg 18 1 ≤ 1)
    (hfl : j.arg 19 1 / 8 = 0) (hc : j.arg 16 2 ≤ 4095) (hr : j.arg 23 1 ≤ 15) (htc : j.arg 26 1 ≤ 7) (hd : j.arg 38 1 ≤ 64)
    (hb : badRef (j.arg 36 2) = false) (hcap : if (j.arg 18 1 == 1) = true then 1 ≤ j.arg 32 4 ∧ j.arg 32 4 ≤ 65536 else j.arg 32 4 = 0)
    (henc : bit (j.arg 19 1) 2 = true → (j.arg 18 1 == 1) = false ∧ (t.fn j.f).feature 1 = true ∧ t.slotGrants (j.arg 20 2) (j.arg 16 2) = true)
    (hplain : bit (j.arg 19 1) 2 = false → j.arg 20 2 = 0) (hhome : j.arg 24 2 = 0xFFFF ∨ t.present (j.arg 24 2) = true)
    (hfree : tfree t.qps 1 ≤ 0xFFFFF)
    (hx : x = { ctx := j.arg 16 2, f := j.f, omnibus := j.arg 18 1 == 1, pinned := bit (j.arg 19 1) 0, wide := bit (j.arg 19 1) 1,
                    encrypted := bit (j.arg 19 1) 2, slot := j.arg 20 2, payload := P, retry := tm.1,
                    home := j.arg 24 2, tc := j.arg 26 1, rtoMin := tm.2.1, rtoMax := tm.2.2, capacity := j.arg 32 4, arrival := j.arg 36 2,
                    ackDelay := if j.arg 38 1 = 0 then 8 else j.arg 38 1 })
    (hroom : t.qpRoom j.f x.contexts (bit (j.arg 19 1) 0) = none) : t.doCreateQp j = ((t.addQp x).1, .ok (tfree t.qps 1)) := by
  have hform : ¬ (4095 < j.arg 16 2 ∨ 1 < j.arg 18 1 ∨ j.arg 19 1 / 8 ≠ 0 ∨ 15 < j.arg 23 1 ∨ 7 < j.arg 26 1 ∨ 64 < j.arg 38 1 ∨
      badRef (j.arg 36 2) = true ∨
      (if (j.arg 18 1 == 1) = true then j.arg 32 4 = 0 ∨ 65536 < j.arg 32 4 else j.arg 32 4 ≠ 0) ∨
      (j.arg 20 2 ≠ 0 ∧ (!bit (j.arg 19 1) 2) = true) ∨ (bit (j.arg 19 1) 2 = true ∧ (!(t.fn j.f).feature 1) = true)) := by
    rintro (h | h | h | h | h | h | h | h | ⟨h, h'⟩ | ⟨h, h'⟩)
    · omega
    · omega
    · exact h hfl
    · omega
    · omega
    · omega
    · simp [hb] at h
    · split at hcap <;> rename_i ht
      · rw [if_pos ht] at h; omega
      · rw [if_neg ht] at h; exact h hcap
    · exact h (hplain (by simpa using h'))
    · simp [(henc h).2.1] at h'
  have hplace : ¬ ((j.arg 24 2 ≠ 0xFFFF ∧ (!t.present (j.arg 24 2)) = true) ∨
      (bit (j.arg 19 1) 2 = true ∧ ((j.arg 18 1 == 1) = true ∨ (!t.slotGrants (j.arg 20 2) (j.arg 16 2)) = true))) := by
    rintro (⟨h, h'⟩ | ⟨h, h'⟩)
    · obtain hh | hh := hhome
      · exact h hh
      · simp [hh] at h'
    · obtain ⟨homni, _, hslot⟩ := henc h
      simp [homni, hslot] at h'
  simp only [State.doCreateQp, if_neg hform, hP, htm, ho, Bool.not_true, Bool.false_eq_true, if_false, if_neg hplace]
  simp only [← hx, hroom, if_neg (Nat.not_lt.mpr hfree), addQp_number]

/-- A change of a QP is told by what it makes of the QP that is there. -/
theorem modQp_congr {q : Nat} {g k : Qp → Qp} (hx : tget t.qps q = some x) (hg : g x = k x) : t.modQp q g = t.modQp q k := by
  simp only [State.modQp, tmod, hx, hg]

theorem namedQp_tget (h : t.namedQp j = .ok x) : tget t.qps (j.arg 12 3) = some x := by
  simp only [State.namedQp] at h
  split at h
  · exact nomatch h
  · split at h
    · exact nomatch h
    · split at h
      · exact nomatch h
      · obtain rfl := Except.ok.inj h
        assumption

theorem doConnect_ok (h1 : j.arg 16 1 = 1) (hq : qpNumOk (j.arg 24 3) = true) (hn : t.namedQp j = .ok x) (ho : x.omnibus = false) (he : x.ends = [])
    (hk : x.encrypted = true → (t.keySlot x.slot).state = .loaded) :
    t.doConnect j = (t.modQp (j.arg 12 3) fun x => { x with
        node := j.arg 20 2
        ends := [(j.arg 20 2, t.freshEnd x (j.arg 24 3) (BitVec.ofNat 32 (j.arg 28 4)) (BitVec.ofNat 32 (j.arg 32 4)))] }, .ok 0) := by
  have hform : ¬ (j.arg 16 1 ≠ 1 ∨ (!qpNumOk (j.arg 24 3)) = true) := by simp [h1, hq]
  have hstate : ¬ (x.omnibus = true ∨ (!x.ends.isEmpty) = true ∨ (x.encrypted = true ∧ (t.keySlot x.slot).state ≠ .loaded)) := by
    rw [ho, he]
    simpa using hk
  simp only [State.doConnect, if_neg hform, hn, if_neg hstate]
  exact congrArg (·, _) (modQp_congr (namedQp_tget hn) rfl)

theorem doAddPeers_ok {u : State} {b : List Byte} {ends : Tab Endpoint} (hn : t.namedQp j = .ok x) (ho : x.omnibus = true)
    (hc : x.ends.length + j.arg 32 4 ≤ x.capacity) (hr : t.adminRead j x.ctx (j.arg 24 8) (16 * j.arg 32 4) = (u, .ok b))
    (hp : u.peersGo x ((List.range (j.arg 32 4)).map fun k => slice b (16 * k) 16) x.ends = some ends) :
    t.doAddPeers j = (u.modQp (j.arg 12 3) fun x => { x with ends := ends }, .ok 0) := by
  simp only [State.doAddPeers, hn, ho, Bool.not_true, Bool.false_eq_true, if_false, if_neg (Nat.not_lt.mpr hc), hr, hp]

theorem doRemovePeer_ok (hn : t.namedQp j = .ok x) (ho : x.omnibus = true) (he : tget x.ends (j.arg 20 2) = some e)
    (hops : t.opsOn (j.arg 12 3) (j.arg 20 2) = []) : t.doRemovePeer j = (t.dropPeer (j.arg 12 3) (j.arg 20 2), .ok 0) := by
  simp only [State.doRemovePeer, hn, ho, he, hops, Option.isNone_some, List.isEmpty_nil, Bool.not_true, Bool.false_eq_true, if_false]

theorem doSetTimers_ok {tm : Nat × Nat × Nat} (htm : timersOf (j.arg 23 1) (j.arg 28 2) (j.arg 30 2) = some tm) (hn : t.namedQp j = .ok x) :
    t.doSetTimers j = (t.modQp (j.arg 12 3) fun x => { x with retry := tm.1, rtoMin := tm.2.1, rtoMax := tm.2.2 }, .ok 0) := by
  simp only [State.doSetTimers, htm, hn]

theorem doSetError_ok (hn : t.namedEnd j .ready = .ok (x, e)) : t.doSetError j = (t.qpError (j.arg 12 3) (x.named j) .xportQpError, .ok 0) := by
  simp only [State.doSetError, hn]

theorem doResetQp_ok (hn : t.namedEnd j .error = .ok (x, e)) (hops : t.opsOn (j.arg 12 3) (x.named j) = []) :
    t.doResetQp j = (if x.omnibus = true then t.dropPeer (j.arg 12 3) (x.named j)
      else t.modQp (j.arg 12 3) fun x => { x with ends := [], node := 0 }, .ok 0) := by
  simp only [State.doResetQp, hn, hops, List.isEmpty_nil, Bool.not_true, Bool.false_eq_true, if_false]
  split <;> rfl

/-- QUERY_QP asks for the record of the end that it names, or of one in its first state where an RC QP has none. -/
theorem doQueryQp_ok (hx : tget t.qps (j.arg 12 3) = some x) (h0 : j.arg 12 3 ≠ 0) (hf : x.f = j.f) (hz : x.omnibus = false → j.arg 16 2 = 0)
    (he : tget x.ends (if x.omnibus = true then j.arg 16 2 else x.node) = some e ∨
      (x.omnibus = false ∧ tget x.ends (if x.omnibus = true then j.arg 16 2 else x.node) = none ∧ e = {})) :
    t.doQueryQp j = t.adminWrite j x.ctx (j.arg 24 8)
      (t.qpStatus (j.arg 12 3) (if x.omnibus = true then j.arg 16 2 else x.node) x e) (.ok 0) := by
  have howner : ¬ (j.arg 12 3 = 0 ∨ x.f ≠ j.f) := by simp [h0, hf]
  have hform : ¬ ((!x.omnibus) = true ∧ j.arg 16 2 ≠ 0) := by
    rintro ⟨ho, hn⟩
    exact hn (hz (by simpa using ho))
  obtain he | ⟨ho, he, rfl⟩ := he
  · simp only [State.doQueryQp, hx, if_neg howner, if_neg hform, he]
  · simp only [State.doQueryQp, hx, if_neg howner, if_neg hform, he]
    simp only [ho, Bool.false_eq_true, if_false]

theorem doDestroyQp_ok (hn : t.namedQp j = .ok x) (hu : ((t.ops ++ t.spent).any fun o => o.qp == j.arg 12 3) = false) :
    t.doDestroyQp j = ((t.orphanJobs (j.arg 12 3)).dropQp (j.arg 12 3), .ok 0) := by
  simp only [State.doDestroyQp, hn, hu, Bool.false_eq_true, if_false]

end Parts

end Sys2Proof.Laws

open Sys2Proof.Machine Sys2Proof.Laws

/-- Settles O20, each command from what its own part answers; those of MODIFY_QP over the state in which what has arrived has acted. -/
theorem qpCommands : Obligations.QpCommands := by
  refine ⟨fun s f j r => ?changes, fun s f j r => ?states⟩
  case changes =>
    intro t q n v
    refine ⟨fun P tm h hP htm => ?_, fun x h h1 hq hn ho he hk => ?_, fun x u b ends h h2 hn ho hc hr hp => ?_, fun x e h h3 hn ho he hops => ?_,
      fun x tm h h6 htm hn => ?_⟩
    · obtain rfl := h.owner
      intro omni enc ho hty hfl hc hr htc hd hb hcap henc hplain hhome x hroom hfree
      have h1 : t.ownsCtx j.f (j.arg 16 2) = true := ho
      have h2 : j.arg 24 2 = 0xFFFF ∨ t.present (j.arg 24 2) = true := hhome
      have h3 : tfree t.qps 1 ≤ 0xFFFFF := hfree
      have h4 : bit (j.arg 19 1) 2 = true → (j.arg 18 1 == 1) = false ∧ (t.fn j.f).feature 1 = true ∧ t.slotGrants (j.arg 20 2) (j.arg 16 2) = true := henc
      have := doCreateQp_ok (t := t) hP htm h1 hty hfl hc hr htc hd hb hcap h4 hplain h2 h3 (x := x) rfl hroom
      exact exec_admin rfl h this
    · exact exec_modifyQp (part := State.doConnect) rfl h h1 (doConnect_ok (t := v) h1 hq hn ho he hk)
    · exact exec_modifyQp (part := State.doAddPeers) rfl h h2 (doAddPeers_ok (t := v) hn ho hc hr hp)
    · exact exec_modifyQp (part := State.doRemovePeer) rfl h h3 (doRemovePeer_ok (t := v) hn ho he hops)
    · exact exec_modifyQp (part := State.doSetTimers) rfl h h6 (doSetTimers_ok (t := v) htm hn)
  case states =>
    intro t q v
    refine ⟨fun x e h h4 hn => ?_, fun x e h h5 hn hops => ?_, fun x e u h hx h0 hf hz => ?_, fun x h hn hu => ?_⟩
    · exact exec_modifyQp (part := State.doSetError) rfl h h4 (doSetError_ok (t := v) hn)
    · exact exec_modifyQp (part := State.doResetQp) rfl h h5 (doResetQp_ok (t := v) hn hops)
    · obtain rfl := h.owner
      intro n he hw
      exact exec_admin rfl h ((doQueryQp_ok (t := t) hx h0 hf hz he).trans hw)
    · exact exec_admin rfl h (doDestroyQp_ok (t := t) hn hu)
end

section
/-! PROOFS. The admin commands over plans and groups (R237, R238, R285–R288): what each answers, and O21. -/

namespace Sys2Proof.Laws
open Sys2Proof.Machine

section Parts

variable {t u : State} {j : Job} {b : List Byte}

theorem addPlan_ok {f : Nat} {p : Plan} (hn : t.plans.length < 1024) (hs : t.storeUsed + p.size ≤ 0x10000000)
    (hg : f = 0 ∨ t.plansOf f < (t.fn f).grant.plans) :
    t.addPlan f p = ({ t with plans := tset t.plans (tfree t.plans 0) p }, .ok (tfree t.plans 0)) := by
  have hroom : ¬ (1024 ≤ t.plans.length ∨ 0x10000000 < t.storeUsed + p.size) := by omega
  have hgrant : ¬ (f ≠ 0 ∧ (t.fn f).grant.plans ≤ t.plansOf f) := by omega
  simp only [State.addPlan, if_neg hroom, if_neg hgrant]

theorem doLoadPlan_family (hc : j.arg 16 2 ≤ 4095) (ho : t.ownsCtx j.f (j.arg 16 2) = true) (h1 : 1 ≤ j.arg 18 1) (h3 : j.arg 18 1 ≤ 3)
    (hf : (t.fn j.f).feature 2 = true) (ha : j.arg 24 8 = 0) (hl : j.arg 32 4 = 0) :
    t.doLoadPlan j = t.addPlan j.f { ctx := j.arg 16 2, family := j.arg 18 1 } := by
  have hform : ¬ ((!(t.fn j.f).feature 2) = true ∨ j.arg 24 8 ≠ 0 ∨ j.arg 32 4 ≠ 0) := by simp [hf, ha, hl]
  simp only [State.doLoadPlan, if_neg (Nat.not_lt.mpr hc), ho, if_neg (Nat.not_lt.mpr h3), if_neg (show j.arg 18 1 ≠ 0 by omega), if_neg hform,
    Bool.not_true, Bool.false_eq_true, if_false]

theorem doLoadPlan_container (hc : j.arg 16 2 ≤ 4095) (ho : t.ownsCtx j.f (j.arg 16 2) = true) (h0 : j.arg 18 1 = 0) :
    t.doLoadPlan j = t.loadContainer j (j.arg 16 2) := by
  simp [State.doLoadPlan, Nat.not_lt.mpr hc, ho, h0]

section Container

variable {c : Nat} {x : Trans} (hlo : 528 ≤ j.arg 32 4) (hhi : j.arg 32 4 ≤ 2 ^ 21) (hb : t.adminBuf j.f c (j.arg 24 8) (j.arg 32 4) .planExec = .ok x)
  (hr : t.adminRead j c (j.arg 24 8) (j.arg 32 4) = (u, .ok b)) (hf : containerFault b = none)
include hlo hhi hb hr hf

theorem loadContainer_refuses
    (h : signedOk b = false ∨ ((tget u.ctxs c).bind (·.planKey)).any (fun k => k != keyDigest b) = true) :
    t.loadContainer j c = (u, .fail .locPlanSignature 0) := by
  have hlen : ¬ (j.arg 32 4 < 528 ∨ 2 ^ 21 < j.arg 32 4) := by omega
  have hsig : (!signedOk b) = true ∨ ((tget u.ctxs c).bind (·.planKey)).any (fun k => k != keyDigest b) = true := by simpa using h
  simp only [State.loadContainer, if_neg hlen, hb, hr, hf, if_pos hsig]

theorem loadContainer_ok (h : signedOk b = true) (hm : ((tget u.ctxs c).bind (·.planKey)).any (fun k => k != keyDigest b) = false)
    (hn : u.plans.length < 1024) (hs : u.storeUsed + roundUp (j.arg 32 4) 65536 ≤ 0x10000000)
    (hg : j.f = 0 ∨ u.plansOf j.f < (u.fn j.f).grant.plans) :
    t.loadContainer j c =
      (State.modCtx { u with
          plans := tset u.plans (tfree u.plans 0) { ctx := c, addr := j.arg 24 8, bytes := b, size := roundUp (j.arg 32 4) 65536 } } c fun x => { x with planKey := some (keyDigest b) },
        .ok (tfree u.plans 0)) := by
  have hlen : ¬ (j.arg 32 4 < 528 ∨ 2 ^ 21 < j.arg 32 4) := by omega
  have hsig : ¬ ((!signedOk b) = true ∨ ((tget u.ctxs c).bind (·.planKey)).any (fun k => k != keyDigest b) = true) := by simp [h, hm]
  have hadd := addPlan_ok (p := { ctx := c, addr := j.arg 24 8, bytes := b, size := roundUp (j.arg 32 4) 65536 }) hn hs hg
  simp only [State.loadContainer, if_neg hlen, hb, hr, hf, if_neg hsig, hadd]

end Container

theorem doUnloadPlan_ok (ho : t.ownsCtx j.f (j.arg 16 2) = true) (hp : ((tget t.plans (j.arg 18 2)).any fun p => p.ctx == j.arg 16 2) = true)
    (hu : ((t.ops ++ t.spent).any fun o => o.job.runsPlan (j.arg 18 2)) = false) :
    t.doUnloadPlan j = ({ t with plans := tdel t.plans (j.arg 18 2) }, .ok 0) := by
  have hnamed : ¬ ((!t.ownsCtx j.f (j.arg 16 2)) = true ∨ (!((tget t.plans (j.arg 18 2)).any fun p => p.ctx == j.arg 16 2)) = true) := by
    simp [ho, hp]
  simp only [State.doUnloadPlan, if_neg hnamed, hu, Bool.false_eq_true, if_false]

theorem doCreateGroup_ok {g g' : Group} {members : List Nat} (ha : t.groupArgs j = some g) (ho : t.ownsCtx j.f g.ctx = true)
    (he : g.encrypted = true → t.slotGrants g.slot g.ctx = true) (hr : t.adminRead j g.ctx (j.arg 24 8) (8 * j.arg 20 4) = (u, .ok b))
    (hm : u.memberList b (j.arg 20 4) = some members) (hg : u.groupMemory j g = .ok g')
    (hl : landingBytes g' (neighbourList g'.sizes (members.idxOf u.node)).length ≤ g'.regionLen)
    (hreg : u.regionOk g'.serving g'.region g'.regionLen = true) (hfree : tget u.groups (j.arg 18 2) = none) (hn : u.groups.length < 4096)
    (hgrant : j.f = 0 ∨ u.groupsOf j.f < (u.fn j.f).grant.groups)
    (hq : u.qpRoom j.f (neighbourList g'.sizes (members.idxOf u.node)).length false = none) :
    t.doCreateGroup j =
      (((u.undefineRange j.f g'.region g'.regionLen).startForming (j.arg 18 2)
          { g' with
            members := members
            me := members.idxOf u.node
            crc := BitVec.ofNat 32 (crc32c (leBytes 2 (j.arg 18 2) ++ slice j.head 20 4 ++ slice j.head 32 8 ++ slice j.head 40 4 ++
              slice j.head 46 2 ++ slice (j.conts.headD []) 12 3 ++ b)) }).tryFormed (j.arg 18 2), .later) := by
  have hslot : (g.encrypted && !t.slotGrants g.slot g.ctx) = false := by
    cases h : g.encrypted
    · rfl
    · simp [he h]
  have hregion : ¬ (g'.regionLen < landingBytes g' (neighbourList g'.sizes (members.idxOf u.node)).length ∨
      (!u.regionOk g'.serving g'.region g'.regionLen) = true) := by
    simp [hreg, Nat.not_lt.mpr hl]
  have hlimit : ¬ (j.f ≠ 0 ∧ (u.fn j.f).grant.groups ≤ u.groupsOf j.f) := by omega
  simp only [State.doCreateGroup, ha, ho, hslot, hr, hm, hg, if_neg hregion, hfree, Option.isSome_none, if_neg (Nat.not_le.mpr hn), if_neg hlimit, hq,
    Bool.not_true, Bool.false_eq_true, if_false]

theorem doDestroyGroup_ok {g : Group} (hc : j.arg 16 2 ≤ 4095) (hg : tget t.groups (j.arg 18 2) = some g) (hctx : g.ctx = j.arg 16 2)
    (hf : g.f = j.f) (hs : g.state ≠ .forming) (hb : t.groupBusy (j.arg 18 2) g = false) :
    t.doDestroyGroup j = ((t.dropGroup (j.arg 18 2)).advanceAll, .ok 0) := by
  have howner : ¬ (g.ctx ≠ j.arg 16 2 ∨ g.f ≠ j.f) := by simp [hctx, hf]
  simp only [State.doDestroyGroup, if_neg (Nat.not_lt.mpr hc), hg, if_neg howner, if_neg hs, hb, Bool.false_eq_true, if_false]

end Parts

end Sys2Proof.Laws

open Sys2Proof.Machine Sys2Proof.Laws

/-- Settles O21, each command from what its own part answers (`doLoadPlan_family`, `loadContainer_ok`, `doCreateGroup_ok` and the others). -/
theorem plansAndGroupsMade : Obligations.PlansAndGroupsMade := by
  refine fun s f j r => ?_
  intro t c
  refine ⟨fun h hc ho h1 h3 hf ha hl hn hs hg => ?family, fun u b x h hc ho h0 hlo hhi hb hr hfault => ?container, fun h ho hp hu => ?unload,
    fun u g g' b members h ha ho he hr hm hg => ?create, fun g h hc hg hctx hf hs hb => ?destroy⟩
  case family =>
    obtain rfl := h.owner
    exact exec_admin rfl h ((doLoadPlan_family (t := t) hc ho h1 h3 hf ha hl).trans (addPlan_ok (t := t) hn hs hg))
  case container =>
    obtain rfl := h.owner
    intro mixed hn hs hg p
    refine ⟨fun hsig hm => ?_, fun hbad => ?_⟩
    · exact exec_admin rfl h ((doLoadPlan_container (t := t) hc ho h0).trans (loadContainer_ok hlo hhi hb hr hfault hsig hm hn hs hg))
    · exact exec_admin rfl h ((doLoadPlan_container (t := t) hc ho h0).trans (loadContainer_refuses hlo hhi hb hr hfault hbad))
  case unload =>
    obtain rfl := h.owner
    exact exec_admin rfl h (doUnloadPlan_ok (t := t) ho hp hu)
  case create =>
    obtain rfl := h.owner
    intro me nb hl hreg hfree hn hgrant hq crc
    exact exec_admin rfl h (doCreateGroup_ok (t := t) ha ho he hr hm hg hl hreg hfree hn hgrant hq)
  case destroy =>
    exact exec_admin rfl h (doDestroyGroup_ok (t := t) hc hg hctx (hf.trans h.owner.symm) hs hb)
end

section
/-! PROOFS. The admin commands over galleries, logs, counters, routes and the catalogue (R50, R51, R451, R452, R461, R471, R482): what each
answers, and O22. -/

namespace Sys2Proof.Laws
open Sys2Proof.Machine

section Parts

variable {t u : State} {j : Job} {b : List Byte}

theorem doSetLimits_ok (hg : j.arg 16 1 ≤ 5) :
    t.doSetLimits j = (t.modGal (j.arg 16 1) fun x => { x with
      limits := (List.range 8).map fun k => (k + 1, (j.arg (24 + 4 * k) 2, j.arg (26 + 4 * k) 2)) }, .ok 0) := by
  simp only [State.doSetLimits, if_neg (Nat.not_lt.mpr hg)]

/-- The tables that a LOAD_TIMETABLE brings, by their masks. -/
def tablesOf (ks : List Nat) (b : List Byte) : List (Nat × List Byte) :=
  (ks.zip (List.range ks.length)).map fun x => (x.1, slice b (256 * x.2) 256)

theorem doLoadTimetable_ok (hg : j.arg 16 1 ≤ 5) (hw : (bitsSet 16 (j.arg 20 2)).any (fun k => !t.hasWindow (j.arg 16 1) k) = false)
    (hr : t.adminRead j (t.firstCtx j.f) (j.arg 24 8) (256 * (bitsSet 16 (j.arg 20 2)).length) = (u, .ok b))
    (ha : (tablesOf (bitsSet 16 (j.arg 20 2)) b).any (fun e => !(u.gal (j.arg 16 1)).accepts e.1 e.2) = false) :
    t.doLoadTimetable j =
      (u.modGal (j.arg 16 1) fun x => { x with
        tables := (tablesOf (bitsSet 16 (j.arg 20 2)) b).foldl
          (fun t e => tmodD t e.1 { live := defaultTable } fun y => { y with shadow := some e.2 }) (u.gal (j.arg 16 1)).tables
        hold := some (u.tclk, j) }, .later) := by
  have hform : ¬ (5 < j.arg 16 1 ∨ (bitsSet 16 (j.arg 20 2)).any (fun k => !t.hasWindow (j.arg 16 1) k) = true) := by
    rw [hw]
    simpa using hg
  unfold tablesOf at ha
  simp only [State.doLoadTimetable, if_neg hform, hr, ha, Bool.false_eq_true, if_false, tablesOf]

theorem doGetLog_boot (hf : j.f = 0) (h1 : j.arg 16 1 = 1) (hi : j.arg 17 1 = 0) (hm : j.arg 18 1 = 0) :
    t.doGetLog j = t.adminWrite j (t.firstCtx j.f) (j.arg 24 8) t.bootReport (.ok 0) := by
  simp [State.doGetLog, hf, h1, hi, hm]

theorem doGetLog_graph {l : List Byte} (h2 : j.arg 16 1 = 2) (hm : j.arg 18 1 ≤ 1)
    (hl : (t.graphNow j).recov.graphs[j.arg 17 1]? = some l) :
    t.doGetLog j = (t.graphNow j).adminWrite j ((t.graphNow j).firstCtx j.f) (j.arg 24 8) (graphFor j.f l) (.ok 0) := by
  simp only [State.doGetLog, if_neg (Nat.not_lt.mpr hm), h2, hl]
  rfl

/-- A sample of counters draws from the free values and leaves the rest of the state alone. -/
theorem adminBuf_sampleCounters (s : State) (c : Tab W64) (id n f k dev len : Nat) (r : Right) :
    (s.sampleCounters c id n).2.adminBuf f k dev len r = s.adminBuf f k dev len r := rfl

theorem firstCtx_sampleCounters (s : State) (c : Tab W64) (id n f : Nat) : (s.sampleCounters c id n).2.firstCtx f = s.firstCtx f := rfl

theorem doReadCounters_ok {x : Trans} (hfl : j.arg 22 1 ≤ 2) (h1 : 1 ≤ j.arg 20 2) (hn : j.arg 20 2 ≤ 512) (hid : j.arg 16 4 % 4096 + j.arg 20 2 ≤ 4096)
    (hown : j.f = 0 ∨ (j.arg 16 4 / 2 ^ 24 = 7 ∧ j.arg 16 4 / 2 ^ 12 % 2 ^ 12 = j.f))
    (hb : t.adminBuf j.f (t.firstCtx j.f) (j.arg 24 8) (8 * j.arg 20 2) .write = .ok x) :
    let old := bit (j.arg 22 1) 0
    let d := t.sampleCounters (if old then t.dbg.shadow else t.allCounters) (j.arg 16 4) (j.arg 20 2)
    let v := if bit (j.arg 22 1) 1 then d.2.clearCounters (j.arg 16 4) (j.arg 20 2) else d.2
    t.doReadCounters j = v.adminWrite j (v.firstCtx j.f) (j.arg 24 8) (d.1.flatMap fun v => leBytes 8 v.toNat)
      (.ok (if old then d.2.dbg.snapSeq else d.2.time)) := by
  intro old d v
  have hform : ¬ (2 < j.arg 22 1 ∨ j.arg 20 2 = 0 ∨ 512 < j.arg 20 2 ∨ 4096 < j.arg 16 4 % 4096 + j.arg 20 2) := by omega
  have hother : ¬ (j.f ≠ 0 ∧ (j.arg 16 4 / 2 ^ 24 ≠ 0x07 ∨ j.arg 16 4 / 2 ^ 12 % 2 ^ 12 ≠ j.f)) := by omega
  simp only [State.doReadCounters, if_neg hform, if_neg hother, adminBuf_sampleCounters, firstCtx_sampleCounters, hb]
  rfl

theorem doFabricLocal_ok (h4 : 4 ≤ j.arg 16 2) (hn : j.arg 16 2 ≤ 1024)
    (hr : t.adminRead j (t.firstCtx j.f) (j.arg 24 8) (j.arg 16 2) = (u, .ok b)) (h1 : 1 ≤ fld b 0 1) (h7 : fld b 0 1 ≤ 7) :
    t.doFabricLocal j =
      ({ (u.routeOnce 65536 b).1 with agent := { (u.routeOnce 65536 b).1.agent with acted := true } }, .ok (u.routeOnce 65536 b).2) := by
  have hlen : ¬ (j.arg 16 2 < 4 ∨ 1024 < j.arg 16 2) := by omega
  have hop : ¬ (fld b 0 1 = 0 ∨ 7 < fld b 0 1) := by omega
  simp only [State.doFabricLocal, if_neg hlen, hr, if_neg hop]

theorem doCatalogueUpdate_ok (hr : t.adminRead j (t.firstCtx j.f) (j.arg 24 8) (j.arg 16 4) = (u, .ok b)) (h : u.fuses.refuses b = none) :
    t.doCatalogueUpdate j = (u.modNor fun n => { n with updates := n.updates ++ [b] }, .ok 0) := by
  simp only [State.doCatalogueUpdate, hr, h, Option.isSome_none, Bool.false_eq_true, if_false]

theorem doCatalogueUpdate_refused (hr : t.adminRead j (t.firstCtx j.f) (j.arg 24 8) (j.arg 16 4) = (u, .ok b)) (h : u.fuses.refuses b ≠ none) :
    t.doCatalogueUpdate j = (u, .refuse .argument) := by
  simp only [State.doCatalogueUpdate, hr, if_pos (Option.isSome_iff_ne_none.mpr h)]

end Parts

end Sys2Proof.Laws

open Sys2Proof.Machine Sys2Proof.Laws

/-- Settles O22, each command from what its own part answers (`doSetLimits_ok`, `doGetLog_graph`, `doReadCounters_ok` and the others). -/
theorem adminOverTheDevice : Obligations.AdminOverTheDevice := by
  refine fun s f j r => ?_
  intro t g
  refine ⟨fun h => ?tolerance, fun h hg => ?limits, fun u b h hg hw hr => ?timetable, fun u h hf h1 hi hm hw => ?report,
    fun u l h h2 hm hl hw => ?graph, fun u x h hfl h1 hn hid hown hb => ?counters, fun u b h h4 hn hr h1 h7 => ?routes,
    fun u b h hr => ⟨fun hok => ?update, fun hbad => ?refused⟩, fun h hg => ?clear⟩
  case tolerance =>
    obtain rfl := h.owner
    exact exec_admin (act := State.doTolerance) rfl h rfl
  case limits => exact exec_admin rfl h (doSetLimits_ok (t := t) hg)
  case timetable =>
    obtain rfl := h.owner
    intro ks new ha shadows
    exact exec_admin rfl h (doLoadTimetable_ok (t := t) hg hw hr ha)
  case report =>
    obtain rfl := h.owner
    exact exec_admin rfl h ((doGetLog_boot (t := t) hf h1 hi hm).trans hw)
  case graph =>
    obtain rfl := h.owner
    exact exec_admin rfl h ((doGetLog_graph (t := t) h2 hm hl).trans hw)
  case counters =>
    obtain rfl := h.owner
    intro old d v res hw
    exact exec_admin rfl h ((doReadCounters_ok (t := t) hfl h1 hn hid hown hb).trans hw)
  case routes =>
    obtain rfl := h.owner
    intro y
    exact exec_admin rfl h (doFabricLocal_ok (t := t) h4 hn hr h1 h7)
  case update =>
    obtain rfl := h.owner
    exact exec_admin rfl h (doCatalogueUpdate_ok (t := t) hr hok)
  case refused =>
    obtain rfl := h.owner
    exact exec_admin rfl h (doCatalogueUpdate_refused (t := t) hr hbad)
  case clear =>
    intro keep u y v
    exact exec_admin (act := State.doCatalogueClear) rfl h (if_neg (Nat.not_lt.mpr hg))
end

section
/-! PROOFS. The operations NOP, PUT, PUT_FINAL, GET, ATOMIC and FOLD_PUT (R123, R126–R132, R148, R170): what each does once step 1 of R518
has ended, and O23. -/

namespace Sys2Proof.Laws
open Sys2Proof.Machine

/-- The command of an operation whose job is ready runs it over the state that the dispatch leaves. -/
theorem exec_dispatch {c : Instr} {s : State} {f q op : Nat} {j : Job} {run : State → Job → State}
    (e : exec c s = if (fnOk f && decide (q ≤ 65535)) = true then .next (s.dispatch f q op run) else .next s) (h : s.jobReady f q op j) :
    exec c s = .next (run (s.dispatched f q j) j) := by
  obtain ⟨hf, hq, _⟩ := id h
  rw [e, if_pos (by simp [hf, hq]), dispatch_ready h]

section Runs

variable {t : State} {j : Job} {c : Checked} {x : Qp} {e : Status}

/-- A PUT without a flag, or with one that lies apart from what is written, starts. -/
theorem runPut_ok {final : Bool} (hc : t.checkAddresses j (if j.inline then 0 else j.len) .read j.len .write final = .ok c)
    (hnear : c.near.any (fun a => t.cutOff j.f a j.len) = false) (hfar : t.cutOff (t.farFn j) c.far j.len = false)
    (hflag : c.flag.any (fun a => t.cutOff (t.farFn j) a 8) = false) (hapart : c.flag.any (fun a => overlaps a.addr 8 c.far.addr j.len) = false)
    (he : t.checkEnd j c (packetsFor j.len) = .ok x) :
    t.runPut j final = (t.startOp (c.op j (.push (packetsFor j.len x.payload) 0 (ofBool final))) .write (packetsFor j.len x.payload)).1 := by
  simp only [State.runPut, hc, hnear, hfar, hflag, hapart, he, Bool.or_self, Bool.false_eq_true, if_false]

theorem runPut_fails {final : Bool} (hc : t.checkAddresses j (if j.inline then 0 else j.len) .read j.len .write final = .error e) :
    t.runPut j final = t.failJob j e := by
  simp only [State.runPut, hc]

theorem runGet_ok (hc : t.checkAddresses j j.len .write j.len .read false = .ok c) (hnear : c.near.any (fun a => t.cutOff j.f a j.len) = false)
    (hfar : t.cutOff (t.farFn j) c.far j.len = false)
    (he : t.checkEnd j c (fun p => packetsFor (ceilDiv j.len (Nat.max 1 p)) 64) = .ok x) :
    t.runGet j = (t.startOp (c.op j (.get (ceilDiv j.len (Nat.max 1 x.payload)) 0)) .readReq (ceilDiv j.len (Nat.max 1 x.payload))).1 := by
  simp only [State.runGet, hc, hnear, hfar, he, Bool.or_self, Bool.false_eq_true, if_false]

theorem runGet_fails (hc : t.checkAddresses j j.len .write j.len .read false = .error e) : t.runGet j = t.failJob j e := by
  simp only [State.runGet, hc]

theorem runAtomic_ok (hw : j.len = atomicWidth (fld j.head 40 1))
    (hc : t.checkAddresses j (if j.near = 0 then 0 else j.len) .write j.len .atomic false = .ok c)
    (hnear : c.near.any (fun a => t.cutOff j.f a j.len) = false) (hfar : t.cutOff (t.farFn j) c.far j.len = false) (ha : c.far.addr % j.len = 0)
    (hn : c.near.any (fun a => a.addr % j.len != 0) = false) (he : t.checkEnd j c (fun _ => 1) = .ok x) :
    t.runAtomic j = (t.startOp (c.op j .atomic) .atomic 1).1 := by
  have hlen : ¬ (j.len ≠ j.len ∨ c.far.addr % j.len ≠ 0 ∨ c.near.any (fun a => a.addr % j.len != 0) = true) := by simp [ha, hn]
  simp only [State.runAtomic, ← hw, hc, hnear, hfar, if_neg hlen, he, Bool.or_self, Bool.false_eq_true, if_false]

theorem runAtomic_fails (hc : t.checkAddresses j (if j.near = 0 then 0 else atomicWidth (fld j.head 40 1)) .write j.len .atomic false = .error e) :
    t.runAtomic j = t.failJob j e := by
  simp only [State.runAtomic, hc]

theorem runFold_ok (hc : t.checkAddresses j j.len .read (foldSpan (fld j.head 40 1) j.len) .fold false = .ok c)
    (hnear : c.near.any (fun a => t.cutOff j.f a j.len) = false)
    (hfar : t.cutOff (t.farFn j) c.far (foldSpan (fld j.head 40 1) j.len) = false) (hl : j.len % Nat.max 1 (elemSize (fld j.head 40 1 % 16)) = 0)
    (hr : bits (fld j.head 40 1) 6 4 ≠ 6) (he : t.checkEnd j c (packetsFor j.len) = .ok x) :
    let n := packetsFor j.len x.payload
    let r := t.startOp (c.op j (.push n 0 0)) .fold n
    t.runFold j = r.1.modOp r.2 fun o => { o with kind := .push n 0 o.msgs } := by
  have hlen : ¬ (j.len % Nat.max 1 (elemSize (fld j.head 40 1 % 16)) ≠ 0 ∨ (bits (fld j.head 40 1) 6 4 = 6 ∧ c.far.addr % 8 ≠ 0)) := by simp [hl, hr]
  simp only [State.runFold, hc, hnear, hfar, if_neg hlen, he, Bool.or_self, Bool.false_eq_true, if_false]

theorem runFold_fails (hc : t.checkAddresses j j.len .read (foldSpan (fld j.head 40 1) j.len) .fold false = .error e) :
    t.runFold j = t.failJob j e := by
  simp only [State.runFold, hc]

end Runs

end Sys2Proof.Laws

open Sys2Proof.Machine Sys2Proof.Laws

/-- Settles O23, each operation from what its job does once dispatched (`runPut_ok`, `runGet_ok`, `runAtomic_ok`, `runFold_ok`). -/
theorem operationsStart : Obligations.OperationsStart := by
  refine fun s f q j => ?_
  intro t m
  refine ⟨fun h => exec_dispatch (run := State.runNop) rfl h, fun c x h hc hnear hfar hflag he => ?put,
    fun c x fl h hc hnear hfar hflag hcut hapart he => ?putFinal, fun c x h hc hnear hfar he => ?get,
    fun c x h hw hc hnear hfar ha hn he => ?atomic, fun c x h hc hnear hfar hl hr he => ?fold,
    fun e h hc => ?putFails, fun e h hc => ?getFails, fun e h hc => ?putFinalFails, fun e h hc => ?atomicFails, fun e h hc => ?foldFails⟩
  case put =>
    exact (exec_dispatch rfl h).trans (congrArg _ (runPut_ok hc hnear hfar (by rw [hflag]; rfl) (by rw [hflag]; rfl) he))
  case putFinal =>
    exact (exec_dispatch rfl h).trans (congrArg _ (runPut_ok hc hnear hfar (by rw [hflag]; exact hcut) (by rw [hflag]; exact hapart) he))
  case get => exact (exec_dispatch rfl h).trans (congrArg _ (runGet_ok hc hnear hfar he))
  case atomic => exact (exec_dispatch rfl h).trans (congrArg _ (runAtomic_ok hw hc hnear hfar ha hn he))
  case fold => exact (exec_dispatch rfl h).trans (congrArg _ (runFold_ok hc hnear hfar hl hr he))
  case putFails => exact (exec_dispatch rfl h).trans (congrArg _ (runPut_fails hc))
  case getFails => exact (exec_dispatch rfl h).trans (congrArg _ (runGet_fails hc))
  case putFinalFails => exact (exec_dispatch rfl h).trans (congrArg _ (runPut_fails hc))
  case atomicFails => exact (exec_dispatch rfl h).trans (congrArg _ (runAtomic_fails hc))
  case foldFails => exact (exec_dispatch rfl h).trans (congrArg _ (runFold_fails hc))
end

section
/-! PROOFS. SEND, RECV and PLAN_RUN (R133, R290, R294, R352): where each takes its place, and O24. -/

namespace Sys2Proof.Laws
open Sys2Proof.Machine

section Runs

variable {t u : State} {j : Job} {l : List Byte} {a : Machine.Trans}

/-- The frame of an operation put in the class queue of raw frames of its sub-port. -/
def queueFrame (u : State) (j : Job) (a : Option Machine.Trans) (l : List Byte) : State :=
  let p := fld j.head 40 1 % 16
  let o : Op := { id := u.nextOp, job := j, kind := .send, near := a.elim 0 fun x => localOf x.addr, seg := a.elim 16 fun x => x.via.seg,
                  refs := a.toList.map (·.ref), bytes := j.len }
  let v := { u with ops := u.ops ++ [o], nextOp := u.nextOp + 1 }
  (v.wakePort p).modSub p ((u.subOf p l).getD 0) fun x => { x with
    queue := x.queue ++ [({ cls := u.rawTc p, kind := .raw u.nextOp, bytes := l ++ List.replicate (60 - l.length) 0, at_ := u.tclk } : TxFrame)] }

section Send

variable (hok : u.sendRefused j.f (fld j.head 40 1 % 16) l = false)
  (hup : (u.port (fld j.head 40 1 % 16)).parked = true ∨ (u.sub (fld j.head 40 1 % 16) ((u.subOf (fld j.head 40 1 % 16) l).getD 0)).up = true)
include hok hup

theorem send_allowed : (u.sendRefused j.f (fld j.head 40 1 % 16) l ||
    !((u.port (fld j.head 40 1 % 16)).parked || (u.sub (fld j.head 40 1 % 16) ((u.subOf (fld j.head 40 1 % 16) l).getD 0)).up)) = false := by
  rw [hok]
  obtain h | h := hup <;> simp [h]

variable (hlo : 14 ≤ j.len) (hhi : j.len ≤ 9212)
include hlo hhi

/-- An inline frame is the job's own payload. -/
theorem runSend_inline (hi : j.inline = true) (hu : u = t) (hl : l = j.payload) : t.runSend j = queueFrame u j none l := by
  subst hu hl
  have hallowed := send_allowed hok hup
  simp only [State.runSend, hi, true_or, if_true, if_neg (show ¬ (j.len < 14 ∨ 9212 < j.len) by omega), hallowed, Option.any_none, Bool.false_eq_true,
    if_false]
  rfl

/-- Any other frame is what its buffer holds. -/
theorem runSend_buffer (hi : j.inline = false) (ha : t.translateLocal j.f j.ctx j.near j.len .read = .ok a) (hc : t.cutOff j.f a j.len = false)
    (hr : t.readVia a.via (localOf a.addr) j.len = (u, l, none)) : t.runSend j = queueFrame u j (some a) l := by
  have hallowed := send_allowed hok hup
  simp only [State.runSend, hi, Bool.false_eq_true, false_or, if_neg (show j.len ≠ 0 by omega), ha, Option.any_some, hc, if_false,
    if_neg (show ¬ (j.len < 14 ∨ 9212 < j.len) by omega), hr, hallowed]
  rfl

end Send

theorem runRecv_ok (ha : t.translateLocal j.f j.ctx j.near j.len .write = .ok a) (hc : t.cutOff j.f a j.len = false) (hl : 64 ≤ j.len) :
    let o : Op := { id := t.nextOp, job := j, kind := .recv (localOf a.addr) j.len, near := localOf a.addr, seg := a.via.seg, refs := [a.ref] }
    t.runRecv j = State.modSq { t with ops := t.ops ++ [o], nextOp := t.nextOp + 1 } j.f j.q fun x => { x with recvs := x.recvs ++ [t.nextOp] } := by
  simp only [State.runRecv, ha, hc, if_neg (Nat.not_lt.mpr hl), Bool.false_eq_true, if_false]
  rfl

/-- A plan run put in the queue for its gang. -/
def queuePlan (t : State) (j : Job) (a : Machine.Trans) (box : Option Machine.Trans) : State :=
  let o : Op := { id := t.nextOp, job := j, kind := .plan t.nextRun, near := localOf a.addr, seg := a.via.seg, refs := a.ref :: box.toList.map (·.ref) }
  let run : PlanRun := { id := t.nextRun, op := t.nextOp, plan := fld j.head 48 2, ctx := j.ctx, f := j.f, gang := t.jobClusters j, q := j.q, at_ := t.tclk }
  { t with ops := t.ops ++ [o], nextOp := t.nextOp + 1, runs := queueRun run t.runs, nextRun := t.nextRun + 1 }

section Plan

variable {p : Plan} (hp : tget t.plans (fld j.head 48 2) = some p) (hctx : p.ctx = j.ctx) (haddr : p.addr = j.far)
  (ha : t.translateLocal j.f j.ctx j.near 512 .read = .ok a) (hl : j.len = 512) (hc : t.cutOff j.f a 512 = false)
include hp hctx haddr ha hl hc

/-- A family plan has no container to translate. -/
theorem runPlan_family (hf : p.family ≠ 0) : t.runPlan j = queuePlan t j a none := by
  have hplan : (tget t.plans (fld j.head 48 2)).filter (fun p => p.ctx == j.ctx && p.addr == j.far) = some p := by simp [hp, hctx, haddr]
  simp only [State.runPlan, hplan, hl, ha, if_pos hf, hc, Option.any_none, Bool.or_self, Bool.false_eq_true, if_false, ne_eq, not_true_eq_false]
  rfl

theorem runPlan_container {b : Machine.Trans} (hf : p.family = 0) (hb : t.translateLocal j.f j.ctx j.far p.bytes.length .planExec = .ok b)
    (hcb : t.cutOff j.f b p.bytes.length = false) : t.runPlan j = queuePlan t j a (some b) := by
  have hplan : (tget t.plans (fld j.head 48 2)).filter (fun p => p.ctx == j.ctx && p.addr == j.far) = some p := by simp [hp, hctx, haddr]
  simp only [State.runPlan, hplan, hl, ha, hf, hb, hc, hcb, Option.any_some, Bool.or_self, Bool.false_eq_true, if_false, ne_eq, not_true_eq_false]
  rfl

end Plan

end Runs

end Sys2Proof.Laws

open Sys2Proof.Machine Sys2Proof.Laws

/-- Settles O24: SEND by where its bytes come from, PLAN_RUN by what its plan is. -/
theorem framesBuffersPlans : Obligations.FramesBuffersPlans := by
  refine fun s f q j => ?_
  intro t p
  refine ⟨fun a u l h hsrc hlo hhi hok => ?send, fun a h ha hc hl => ?recv, fun p a box h hp hctx haddr hbox ha hl hc hcb => ?plan⟩
  case send =>
    intro sub hup
    refine (exec_dispatch (run := State.runSend) rfl h).trans (congrArg _ ?_)
    cases hi : j.inline with
    | true =>
      rw [hi] at hsrc
      obtain ⟨rfl, hu, hl⟩ := hsrc
      exact runSend_inline hok hup hlo hhi hi hu hl
    | false =>
      rw [hi] at hsrc
      obtain ⟨x, rfl, ha, hc, hr⟩ := hsrc
      exact runSend_buffer hok hup hlo hhi hi ha hc hr
  case recv => exact (exec_dispatch (run := State.runRecv) rfl h).trans (congrArg _ (runRecv_ok ha hc hl))
  case plan =>
    refine (exec_dispatch (run := State.runPlan) rfl h).trans (congrArg _ ?_)
    by_cases hf : p.family = 0
    · rw [if_pos hf] at hbox
      obtain ⟨b, rfl, hb⟩ := hbox
      exact runPlan_container hp hctx haddr ha hl hc hf hb hcb
    · rw [if_neg hf] at hbox
      obtain rfl := hbox
      exact runPlan_family hp hctx haddr ha hl hc hf
end

section
/-! PROOFS. The seven collectives (R240–R244, R251, R253): what a collective job does, and O25. -/

namespace Sys2Proof.Laws
open Sys2Proof.Machine

/-- The command of each collective dispatches the next job under its opcode. -/
theorem exec_collective {f q op : Nat} {i : Instr} (s : State)
    (h : (i, op) ∈ [(Instr.allReduce f q, 0x10), (.reduceScatter f q, 0x11), (.allGather f q, 0x12), (.broadcast f q, 0x13), (.reduce f q, 0x14),
      (.allToAll f q, 0x15), (.barrier f q, 0x16)]) :
    exec i s = if (fnOk f && decide (q ≤ 65535)) = true then .next (s.dispatchColl f q op) else .next s := by
  simp only [List.mem_cons, Prod.mk.injEq, List.not_mem_nil, or_false] at h
  rcases h with ⟨rfl, rfl⟩ | ⟨rfl, rfl⟩ | ⟨rfl, rfl⟩ | ⟨rfl, rfl⟩ | ⟨rfl, rfl⟩ | ⟨rfl, rfl⟩ | ⟨rfl, rfl⟩ <;> rfl

/-- A collective job that is ready runs where its group is in the middle of no other. -/
theorem dispatchColl_ready {s : State} {f q op : Nat} {j : Job} {g : Group} (h : s.jobReady f q op j)
    (hg : tget s.groups (fld j.head 56 2) = some g) (hc : g.cur = none) : s.dispatchColl f q op = (s.dispatched f q j).runColl j := by
  rw [← dispatch_ready h fun s j => s.runColl j]
  simp only [State.dispatchColl, h.next, hg, Option.any_some, hc, Option.isSome_none, Bool.false_eq_true, if_false]

section Runs

variable {t : State} {j : Job} {g : Group} (hg : tget t.groups (fld j.head 56 2) = some g) (hctx : g.ctx = j.ctx)
include hg hctx

theorem collGroup_named : (tget t.groups (fld j.head 56 2)).filter (fun g => g.ctx == j.ctx) = some g := by simp [hg, hctx]

theorem runColl_down (hk : g.decisions.find? (fun d => d.1 == g.next) = none) (hs : g.state ≠ .ready) : t.runColl j = t.failJob j .collGroupDown := by
  have hnamed := collGroup_named hg hctx
  simp only [State.runColl, hnamed, hk, if_pos hs]

section Decided

variable {d : W32 × Status × Nat} (hk : g.decisions.find? (fun d => d.1 == g.next) = some d)
include hk

theorem runColl_decidedOk (hd : d.2.1 = .ok) :
    t.runColl j = (t.modGroup (fld j.head 56 2) fun g' => { g' with next := g.next + 1 }).failJob j .ok := by
  obtain ⟨seq, st, cause⟩ := d
  have hnamed := collGroup_named hg hctx
  obtain rfl : st = .ok := hd
  simp only [State.runColl, hnamed, hk, if_true]

/-- What a job does for whose number an abort was decided, over the state with its result left as it ended. -/
def abortDecided (v : State) (gid : Nat) (g : Group) (j : Job) (st : Status) (cause : Nat) : State :=
  let w := v.failJob j st
  (w.freeHeld gid g.next).abortAt gid g { seq := g.next, sig := 0, layer := j.layer, oper := j.oper, at_ := w.time } st cause

theorem runColl_aborted (hd : d.2.1 ≠ .ok) {c : Coll} {refs : List Ref}
    (hb : (t.modGroup (fld j.head 56 2) fun g' => { g' with next := g.next + 1 }).collBuffers g j (collOf g j t.tclk) = .ok (c, refs)) :
    t.runColl j = abortDecided ((t.modGroup (fld j.head 56 2) fun g' => { g' with next := g.next + 1 }).undefineRange g.f c.result c.rlen)
      (fld j.head 56 2) g j d.2.1 d.2.2 := by
  obtain ⟨seq, st, cause⟩ := d
  have hnamed := collGroup_named hg hctx
  simp only [State.runColl, hnamed, hk, if_neg (show st ≠ .ok from hd), hb, abortDecided]

theorem runColl_aborted_untranslated (hd : d.2.1 ≠ .ok) {e : Status}
    (hb : (t.modGroup (fld j.head 56 2) fun g' => { g' with next := g.next + 1 }).collBuffers g j (collOf g j t.tclk) = .error e) :
    t.runColl j = abortDecided (t.modGroup (fld j.head 56 2) fun g' => { g' with next := g.next + 1 }) (fld j.head 56 2) g j d.2.1 d.2.2 := by
  obtain ⟨seq, st, cause⟩ := d
  have hnamed := collGroup_named hg hctx
  simp only [State.runColl, hnamed, hk, if_neg (show st ≠ .ok from hd), hb, abortDecided]

end Decided

section Undecided

/-- The state in which a job has taken its group's number. -/
def numberTaken (t : State) (gid : Nat) (g : Group) : State :=
  t.modGroup gid fun g' => { g' with next := g.next + 1, enters := g'.enters.filter fun e => decide (gap32 e.seq g.next < 2 ^ 31) }

variable (hk : g.decisions.find? (fun d => d.1 == g.next) = none) (hs : g.state = .ready)
include hk hs

theorem runColl_untranslated {e : Status} (hb : (numberTaken t (fld j.head 56 2) g).collBuffers g j (collOf g j t.tclk) = .error e) :
    let gid := fld j.head 56 2
    let u := numberTaken t gid g
    let c := { collOf g j t.tclk with fault := some e, overAt := u.time }
    let w := (((u.failJob j e).modGroup gid fun g => { g with cur := some c }).sendEnters gid g c).sendFirst gid g.next g.me
    t.runColl j = (((if g.leader then w.startTimer gid g.next else w).compareEnters gid g c).reportUp gid g.next 4 g.me).takeHeld gid g.next := by
  have hnamed := collGroup_named hg hctx
  unfold numberTaken at hb
  simp only [State.runColl, hnamed, hk, hs, ne_eq, not_true_eq_false, if_false, hb, numberTaken]

theorem runColl_enters {c : Coll} {refs : List Ref}
    (hb : (numberTaken t (fld j.head 56 2) g).collBuffers g j (collOf g j t.tclk) = .ok (c, refs)) :
    let gid := fld j.head 56 2
    let u := numberTaken t gid g
    let c' := { c with op := u.nextOp, owed := ((List.range (chunksOf g c)).filter fun k => (placeOf g c g.me k).isSome).length }
    let o : Op := { id := u.nextOp, job := j, kind := .coll gid, near := c.result, seg := c.resSeg, refs := refs }
    let w := ((State.modGroup { u with ops := u.ops ++ [o], nextOp := u.nextOp + 1 } gid fun g => { g with cur := some c' }).sendEnters gid g
      c').sendFirst gid g.next g.me
    let x := (if g.leader then w.startTimer gid g.next else w.modRound gid g.next fun r => { r with lastIn := g.me }).compareEnters gid g c'
    t.runColl j = if ((tget x.groups gid).bind (·.cur)).all (·.seq != g.next) = true then x.advanceAll
      else (((((x.contribute gid g c').takeHeld gid g.next).tryEntered gid g.next).checkPlaced gid).advance gid).decideNow gid g.next := by
  have hnamed := collGroup_named hg hctx
  unfold numberTaken at hb
  simp only [State.runColl, hnamed, hk, hs, ne_eq, not_true_eq_false, if_false, hb, numberTaken]
  rfl

end Undecided

end Runs

end Sys2Proof.Laws

open Sys2Proof.Machine Sys2Proof.Laws

/-- Settles O25, by what is kept of the group's next number and whether the job's buffers are translated. -/
theorem collectivesEnter : Obligations.CollectivesEnter := by
  refine fun s f q op i j g => ?_
  intro t gid hi h hgroup hctx hcur kept u began
  have hg : tget t.groups gid = some g := (congrArg (tget · gid) (dispatched_groups s f q j)).trans hgroup
  have hrun : exec i s = .next (t.runColl j) := by
    obtain ⟨hf, hq, _⟩ := id h
    rw [exec_collective s hi, if_pos (by simp [hf, hq]), dispatchColl_ready h hgroup hcur]
  rw [hrun]
  refine ⟨fun hk hs => ?down, fun d hk => ⟨fun hd => ?decided, fun hd c refs hb => ?aborted, fun hd e hb => ?untranslatedAborted⟩,
    fun e hk hs hb => ?untranslated, fun c refs hk hs hb => ?enters⟩
  case down => exact congrArg _ (runColl_down hg hctx hk hs)
  case decided => exact congrArg _ (runColl_decidedOk hg hctx hk hd)
  case aborted => exact congrArg _ (runColl_aborted hg hctx hk hd hb)
  case untranslatedAborted => exact congrArg _ (runColl_aborted_untranslated hg hctx hk hd hb)
  case untranslated => exact congrArg _ (runColl_untranslated hg hctx hk hs hb)
  case enters =>
    intro owed c' o w x ended
    have hentered := runColl_enters hg hctx hk hs hb
    exact ⟨fun he => congrArg _ (hentered.trans (if_pos he)), fun he => congrArg _ (hentered.trans (if_neg (Bool.eq_false_iff.mp he)))⟩
end

section
/-! PROOFS. What a target does with WRITE, READ_REQ, ATOMIC_REQ and FOLD packets (R73, R131, R149, R150, R171, R278), and O26 and O27. -/

namespace Sys2Proof.Laws
open Sys2Proof.Machine

/-- The command of a request whose PSN is new acts on it and acknowledges it. -/
theorem exec_request {c : Instr} {s u : State} {test : Packet → Bool} {i : Inbound} (act again : State → Inbound → State)
    (e : exec c s = .next (s.takePacket test fun s i => s.takeRequest i (fun s => act s i) fun s => again s i)) (h : s.requestReady test u i) :
    exec c s = .next ((act u i).afterAccept i) := by
  rw [e, request_ready h act again]

theorem exec_write {s u t : State} {i : Inbound} (h : s.requestReady (fun p => p.ty == 1) u i) (ht : u.placeWrite i = t) :
    exec .write s = .next (t.afterAccept i) := ht ▸ exec_request State.placeWrite (fun s _ => s) rfl h

theorem exec_readReq {s u t : State} {i : Inbound} (h : s.requestReady (fun p => p.ty == 2) u i) (ht : u.takeRead i = t) :
    exec .readReq s = .next (t.afterAccept i) := ht ▸ exec_request State.takeRead State.readAgain rfl h

theorem exec_atomicReq {s u t : State} {i : Inbound} (h : s.requestReady (fun p => p.ty == 3) u i) (ht : u.takeAtomic i = t) :
    exec .atomicReq s = .next (t.afterAccept i) := ht ▸ exec_request State.takeAtomic State.atomicAgain rfl h

theorem exec_fold {s u t : State} {i : Inbound} (h : s.requestReady s.foldNext u i) (ht : u.takeFold i = t) :
    exec .fold s = .next (t.afterAccept i) := ht ▸ exec_request State.takeFold (fun s _ => s) rfl h

theorem exec_write_duplicate {s u : State} {i : Inbound} (h : s.packetReady (fun p => p.ty == 1) u i) (hj : i.e.judge i.pkt.psn = .duplicate) :
    exec .write s = .next (u.owe i.q i.n ackDuplicate 0 0 0 i.pkt.ts) := by
  refine congrArg _ ((take_ready h fun s i => s.takeRequest i (fun s => s.placeWrite i) id).trans ?_)
  simp only [State.takeRequest, hj, id]

theorem exec_write_beyond {s u : State} {i : Inbound} (h : s.packetReady (fun p => p.ty == 1) u i) (hj : i.e.judge i.pkt.psn = .beyond) :
    exec .write s = .next (u.discard i.port 0x4F) := by
  refine congrArg _ ((take_ready h fun s i => s.takeRequest i (fun s => s.placeWrite i) id).trans ?_)
  simp only [State.takeRequest, hj]

section Writes

variable {u : State} {i : Inbound}

theorem placeWrite_again (hr : ((u.noteRx i).rxOf i).refused ≠ none) : u.placeWrite i = (u.noteRx i).settleAll i := by
  simp only [State.placeWrite, if_pos (Option.isSome_iff_ne_none.mpr hr)]

section Admitted

variable (hr : ((u.noteRx i).rxOf i).refused = none)
include hr

theorem placeWrite_refused {st : Status} {c : Nat} (hc : (u.noteRx i).remoteCheck i.x.ctx i.pkt.handle i.pkt.raddr i.pkt.plen .write = .error (st, c)) :
    u.placeWrite i = (((u.noteRx i).noteRefusal i st c i.pkt.handle).refuse i st c).settleAll i := by
  simp only [State.placeWrite, hr, Option.isSome_none, Bool.false_eq_true, if_false, hc]

variable {r : Ref} (hc : (u.noteRx i).remoteCheck i.x.ctx i.pkt.handle i.pkt.raddr i.pkt.plen .write = .ok r)
include hc

theorem placeWrite_flagRefused {st : Status} {c : Nat} (hf : (u.noteRx i).checkFinal i = .error (st, c)) :
    u.placeWrite i = (((u.noteRx i).noteRefusal i st c (fld i.pkt.body 16 2)).refuse i st c).settleAll i := by
  simp only [State.placeWrite, hr, Option.isSome_none, Bool.false_eq_true, if_false, hc, hf]

/-- The state with the flag of a FINAL extension held for its message. -/
def holdFinal (v : State) (i : Inbound) (h : Option HeldFinal) : State :=
  match h with
  | some f => v.setRx i { v.rxOf i with final := some f }
  | none => v

variable {h : Option HeldFinal} (hf : (u.noteRx i).checkFinal i = .ok h)
include hf

theorem placeWrite_empty (hn : i.pkt.plen = 0) : u.placeWrite i = (holdFinal (u.noteRx i) i h).settleAll i := by
  cases h <;> simp only [State.placeWrite, hr, Option.isSome_none, Bool.false_eq_true, if_false, hc, hf, if_pos hn, holdFinal]

theorem placeWrite_placed {w : State} (hn : i.pkt.plen ≠ 0)
    (hw : (holdFinal (u.noteRx i) i h).writeVia (i.via i.pkt.handle) (localOf i.pkt.raddr) i.pkt.payload = (w, none)) :
    u.placeWrite i =
      (((w.wrote i (w.pathOf i.x.f (localOf i.pkt.raddr))).countFn i.x.f 2 i.pkt.plen).traceTarget i i.pkt.plen).settleAll i := by
  cases h <;> simp only [holdFinal, hr] at hw <;>
    simp only [State.placeWrite, hr, Option.isSome_none, Bool.false_eq_true, if_false, hc, hf, if_neg hn, hw]

theorem placeWrite_unreadable {w : State} {e : MemErr} (hn : i.pkt.plen ≠ 0)
    (hw : (holdFinal (u.noteRx i) i h).writeVia (i.via i.pkt.handle) (localOf i.pkt.raddr) i.pkt.payload = (w, some e)) :
    u.placeWrite i = (w.refuseUnc i e).settleAll i := by
  cases h <;> simp only [holdFinal, hr] at hw <;>
    simp only [State.placeWrite, hr, Option.isSome_none, Bool.false_eq_true, if_false, hc, hf, if_neg hn, hw]

end Admitted

end Writes

section Reads

variable {u : State} {i : Inbound}

theorem takeRead_again {st c : Nat} (hr : ((u.noteRx i).rxOf i).refused = some (st, c)) :
    u.takeRead i = ((u.noteRx i).turnDown i (statusOf st) c).settleAll i := by
  simp only [State.takeRead, hr]

variable (hr : ((u.noteRx i).rxOf i).refused = none)
include hr

theorem takeRead_refused {st : Status} {c : Nat} (hc : (u.noteRx i).remoteCheck i.x.ctx i.pkt.handle i.pkt.raddr
      (askedBytes i.x.payload (fld i.pkt.body 8 4) (fld i.pkt.body 12 2) (fld i.pkt.body 14 2)) .read = .error (st, c)) :
    u.takeRead i = (((u.noteRx i).noteRefusal i st c i.pkt.handle).refuse i st c).settleAll i := by
  simp only [State.takeRead, hr, State.serveRead, hc]

variable {r : Ref} (hc : (u.noteRx i).remoteCheck i.x.ctx i.pkt.handle i.pkt.raddr
  (askedBytes i.x.payload (fld i.pkt.body 8 4) (fld i.pkt.body 12 2) (fld i.pkt.body 14 2)) .read = .ok r)
include hc

theorem takeRead_none (hn : fld i.pkt.body 14 2 = 0) : u.takeRead i = ((u.noteRx i).traceTarget i
    (askedBytes i.x.payload (fld i.pkt.body 8 4) (fld i.pkt.body 12 2) (fld i.pkt.body 14 2))).settleAll i := by
  simp only [State.takeRead, hr, State.serveRead, hc, if_pos hn]

theorem takeRead_owed (hn : fld i.pkt.body 14 2 ≠ 0) :
    let p := i.pkt
    let first := fld p.body 12 2
    u.takeRead i = (((u.noteRx i).traceTarget i (askedBytes i.x.payload (fld p.body 8 4) first (fld p.body 14 2))).modEnd i.q i.n fun e => { e with
      replies := e.replies ++ [.read p.psn p.ts p.msg p.layer p.oper (localOf p.raddr) (fld p.body 0 8) first (first + fld p.body 14 2)
        (fld p.body 8 4) 0 r.ctx r.seg r.gen] }).settleAll i := by
  simp only [State.takeRead, hr, State.serveRead, hc, if_neg hn]

end Reads

section Atomics

variable {u : State} {i : Inbound}

theorem takeAtomic_again (hr : ((u.noteRx i).rxOf i).refused ≠ none) : u.takeAtomic i = (u.noteRx i).settleAll i := by
  simp only [State.takeAtomic, if_pos (Option.isSome_iff_ne_none.mpr hr)]

variable (hr : ((u.noteRx i).rxOf i).refused = none)
include hr

theorem takeAtomic_refused {st : Status} {c : Nat}
    (hc : (u.noteRx i).remoteCheck i.x.ctx i.pkt.handle i.pkt.raddr (atomicWidth (fld i.pkt.body 0 1)) .atomic = .error (st, c)) :
    u.takeAtomic i = ((((u.noteRx i).noteRefusal i st c i.pkt.handle).refuse i st c).keepAtomic i (.refused st.code c)).settleAll i := by
  simp only [State.takeAtomic, hr, Option.isSome_none, Bool.false_eq_true, if_false, hc]

/-- The target word updated is read, and its result written where there is one. -/
theorem takeAtomic_answered {r : Ref} {x : State} {old : List Byte}
    (hc : (u.noteRx i).remoteCheck i.x.ctx i.pkt.handle i.pkt.raddr (atomicWidth (fld i.pkt.body 0 1)) .atomic = .ok r)
    (hw : (u.noteRx i).updateWord i (fld i.pkt.body 0 1) (atomicWidth (fld i.pkt.body 0 1)) = (x, .ok old)) :
    let l := if fld i.pkt.body 24 8 = 0 then [] else old
    u.takeAtomic i = (((x.keepAtomic i (.word l)).answerAtomic i l r).traceTarget i (atomicWidth (fld i.pkt.body 0 1))).settleAll i := by
  simp only [State.takeAtomic, hr, Option.isSome_none, Bool.false_eq_true, if_false, hc, hw]

end Atomics

section Words

variable {v w x : State} {i : Inbound} {m n : Nat} {old : List Byte} (hr : v.readVia (i.via i.pkt.handle) (localOf i.pkt.raddr) n = (w, old, none))
include hr

theorem updateWord_written {res : Nat} (hres : atomicResult m (leNat old) (fld i.pkt.body 8 8) (fld i.pkt.body 16 8) = some res)
    (hw : w.writeVia (i.via i.pkt.handle) (localOf i.pkt.raddr) (leBytes n res) = (x, none)) : v.updateWord i m n = (x, .ok old) := by
  simp only [State.updateWord, hr, hres, hw]

theorem updateWord_kept (hres : atomicResult m (leNat old) (fld i.pkt.body 8 8) (fld i.pkt.body 16 8) = none) : v.updateWord i m n = (w, .ok old) := by
  simp only [State.updateWord, hr, hres]

end Words

section Folds

variable {u : State} {i : Inbound}

/-- The state in which the message of a FOLD packet is noted as one that folds. -/
def noteFold (u : State) (i : Inbound) : State := (u.noteRx i).setRx i { (u.noteRx i).rxOf i with fold := true }

theorem takeFold_again (hr : ((noteFold u i).rxOf i).refused ≠ none) : u.takeFold i = (noteFold u i).settleAll i := by
  unfold noteFold at hr
  simp only [State.takeFold, if_pos (Option.isSome_iff_ne_none.mpr hr), noteFold]

variable (hr : ((noteFold u i).rxOf i).refused = none)
include hr

theorem takeFold_refused {st : Status} {c : Nat}
    (hc : (noteFold u i).remoteCheck i.x.ctx i.pkt.handle i.pkt.raddr (foldSpan (fld i.pkt.body 0 1) i.pkt.plen) .fold = .error (st, c)) :
    u.takeFold i = (((noteFold u i).noteRefusal i st c i.pkt.handle).refuse i st c).settleAll i := by
  unfold noteFold at hr hc
  simp only [State.takeFold, hr, Option.isSome_none, Bool.false_eq_true, if_false, hc, noteFold]

variable {r : Ref} (hc : (noteFold u i).remoteCheck i.x.ctx i.pkt.handle i.pkt.raddr (foldSpan (fld i.pkt.body 0 1) i.pkt.plen) .fold = .ok r)
include hc

theorem takeFold_empty (hn : i.pkt.plen = 0) : u.takeFold i = (noteFold u i).settleAll i := by
  unfold noteFold at hr hc
  simp only [State.takeFold, hr, Option.isSome_none, Bool.false_eq_true, if_false, hc, if_pos hn, noteFold]

theorem takeFold_folded {w x : State} {old : List Byte} (hn : i.pkt.plen ≠ 0)
    (hread : (noteFold u i).readVia (i.via i.pkt.handle) (localOf i.pkt.raddr) (foldSpan (fld i.pkt.body 0 1) i.pkt.plen) = (w, old, none))
    (hw : w.writeVia (i.via i.pkt.handle) (localOf i.pkt.raddr) (foldBytes (fld i.pkt.body 0 1) old i.pkt.payload) = (x, none)) :
    u.takeFold i = (((x.wrote i (x.pathOf i.x.f (localOf i.pkt.raddr))).countFn i.x.f 4
      (i.pkt.plen / Nat.max 1 (elemSize (fld i.pkt.body 0 1 % 16)))).traceTarget i i.pkt.plen).settleAll i := by
  unfold noteFold at hr hc hread
  simp only [State.takeFold, hr, Option.isSome_none, Bool.false_eq_true, if_false, hc, if_neg hn, hread, hw]

end Folds

end Sys2Proof.Laws

open Sys2Proof.Machine Sys2Proof.Laws

/-- Settles O26, by whether the message is refused already, what the checks of R73 answer for payload and flag, and how the write ends. -/
theorem writesPlaced : Obligations.WritesPlaced := by
  refine fun s u i => ?_
  intro v p a
  refine ⟨fun h hr => ⟨fun r f hc hf => ?admitted, fun r st c hc hf => ?flag, fun st c hc => ?refused⟩, fun h hr => ?again,
    fun h => ⟨fun hj => exec_write_duplicate h hj, fun hj => exec_write_beyond h hj⟩⟩
  case admitted =>
    intro y
    refine ⟨fun hn => ?_, fun w hn hw => ?_, fun w e hn hw => ?_⟩
    · exact exec_write h (placeWrite_empty hr hc hf hn)
    · exact exec_write h (placeWrite_placed hr hc hf hn hw)
    · exact exec_write h (placeWrite_unreadable hr hc hf hn hw)
  case flag => exact exec_write h (placeWrite_flagRefused hr hc hf)
  case refused => exact exec_write h (placeWrite_refused hr hc)
  case again => exact exec_write h (placeWrite_again hr)

/-- Settles O27: for each kind of request by whether its message is refused already and what the remote check answers. -/
theorem requestsServed : Obligations.RequestsServed := by
  refine fun s u i => ?_
  intro v p a via
  refine ⟨fun h => ?read, fun h => ?atomic, fun h => ?fold⟩
  case read =>
    intro len first n asked
    refine ⟨fun r hr hc => ⟨fun hn => ?_, fun hn => ?_⟩, fun st c hr hc => ?_, fun st c hr => ?_⟩
    · exact exec_readReq h (takeRead_owed hr hc hn)
    · exact exec_readReq h (takeRead_none hr hc hn)
    · exact exec_readReq h (takeRead_refused hr hc)
    · exact exec_readReq h (takeRead_again hr)
  case atomic =>
    intro m
    refine ⟨fun r w old hr hc hread => ?_, fun st c hr hc => ?_, fun hr => ?_⟩
    · intro l
      refine ⟨fun x res hres hw => ?_, fun hres => ?_⟩
      · exact exec_atomicReq h (takeAtomic_answered hr hc (updateWord_written hread hres hw))
      · exact exec_atomicReq h (takeAtomic_answered hr hc (updateWord_kept hread hres))
    · exact exec_atomicReq h (takeAtomic_refused hr hc)
    · exact exec_atomicReq h (takeAtomic_again hr)
  case fold =>
    intro m y
    refine ⟨fun r hr hc => ⟨fun w x old hn hread hw => ?_, fun hn => ?_⟩, fun st c hr hc => ?_, fun hr => ?_⟩
    · exact exec_fold h (takeFold_folded hr hc hn hread hw)
    · exact exec_fold h (takeFold_empty hr hc hn)
    · exact exec_fold h (takeFold_refused hr hc)
    · exact exec_fold h (takeFold_again hr)
end

section
/-! PROOFS. What an initiator does with READ_RESP, ATOMIC_RESP and ACK packets (R145, R151, R172, R182), and O28 and O29. -/

namespace Sys2Proof.Laws
open Sys2Proof.Machine

theorem exec_ack {s t : State} {i : Inbound} (h : s.packetReady (fun p => p.ty == 0x10) t i) : exec .ack s = .next (t.ackIn i) :=
  congrArg _ (take_ready h State.ackIn)

theorem exec_readResp {s t : State} {i : Inbound} (h : s.packetReady (fun p => p.ty == 0x11) t i) :
    exec .readResp s = .next (t.scatter i State.readRespIn) := congrArg _ (take_ready h fun s i => s.scatter i State.readRespIn)

theorem exec_atomicResp {s t : State} {i : Inbound} (h : s.packetReady (fun p => p.ty == 0x12) t i) :
    exec .atomicResp s = .next (t.scatter i State.atomicRespIn) := congrArg _ (take_ready h fun s i => s.scatter i State.atomicRespIn)

section Responses

variable {t u : State} {i : Inbound} {e : Outstanding} {o : Op}

theorem scatter_now (act : State → Inbound → State) (h : i.pkt.plen = 0 ∨ t.meFree i.x.home = true) : t.scatter i act = act t i := if_pos h

/-- Where no ME is free a response of an outstanding request is carried by a run of a dispatch channel. -/
theorem scatter_later (act : State → Inbound → State) (hp : i.pkt.plen ≠ 0) (hm : t.meFree i.x.home = false)
    (hf : i.e.out.find? (fun o => o.psn == i.pkt.psn) = some e) :
    t.scatter i act = t.serveLater i.x.home e.op (some (i.q, i.n, { port := i.port, pkt := i.pkt })) := by
  have hbusy : ¬ (i.pkt.plen = 0 ∨ t.meFree i.x.home = true) := by simp [hp, hm]
  simp only [State.scatter, if_neg hbusy, hf]

/-- A READ_RESP is in the range of its request, of its length, and at its initiator address. -/
def fitsRead (i : Inbound) (e : Outstanding) : Prop :=
  e.first ≤ i.pkt.idx ∧ i.pkt.idx < e.first + e.n ∧ i.pkt.raddr = (fld e.pkt.body 0 8 + i.pkt.idx * i.x.payload) % 2 ^ 64 ∧
    i.pkt.plen = Nat.min i.x.payload (fld e.pkt.body 8 4 - i.pkt.idx * i.x.payload)

theorem fitsRead_iff : fitsRead i e ↔
    ¬ (i.pkt.idx < e.first ∨ e.first + e.n ≤ i.pkt.idx ∨ i.pkt.raddr ≠ (fld e.pkt.body 0 8 + i.pkt.idx * i.x.payload) % 2 ^ 64 ∨
      i.pkt.plen ≠ Nat.min i.x.payload (fld e.pkt.body 8 4 - i.pkt.idx * i.x.payload)) := by
  simp only [fitsRead, not_or, Nat.not_lt, Nat.not_le, Classical.not_not]

theorem readRespIn_unknown (hf : i.e.out.find? (fun o => o.psn == i.pkt.psn && o.pkt.ty == 2) = none) :
    t.readRespIn i = t.discard i.port 0x50 := by
  simp only [State.readRespIn, hf]

section Found

variable (hf : i.e.out.find? (fun o => o.psn == i.pkt.psn && o.pkt.ty == 2) = some e)
include hf

theorem readRespIn_unfit (h : ¬ fitsRead i e) : t.readRespIn i = t.discard i.port 0x50 := by
  simp only [State.readRespIn, hf, if_pos (Classical.not_not.mp (mt fitsRead_iff.mpr h))]

variable (h : fitsRead i e)
include h

theorem readRespIn_again (hp : e.placed.contains i.pkt.idx = true) : t.readRespIn i = t := by
  simp only [State.readRespIn, hf, if_neg (fitsRead_iff.mp h), hp, if_true]

variable (hp : e.placed.contains i.pkt.idx = false) (ho : t.op e.op = some o)
include hp ho

theorem readRespIn_unwritten (hw : t.placeNear o i.pkt.raddr i.pkt.payload = (u, false)) : t.readRespIn i = u := by
  simp only [State.readRespIn, hf, if_neg (fitsRead_iff.mp h), hp, Bool.false_eq_true, if_false, ho, hw]

theorem readRespIn_placed {total placed : Nat} (hk : o.kind = .get total placed) (hw : t.placeNear o i.pkt.raddr i.pkt.payload = (u, true)) :
    let v := (u.countFn o.job.f 1 i.pkt.plen).modOut i.q i.n i.pkt.psn fun x => { x with placed := i.pkt.idx :: x.placed, sampled := true }
    let v := if e.sampled then v else v.modEnd i.q i.n fun y => v.sample i.x y ((v.tclk - e.sentAt) * 8) i.pkt.plen
    let w := (v.modEnd i.q i.n Endpoint.settle).modOp o.id fun x => { x with kind := .get total (placed + 1) }
    t.readRespIn i = if placed + 1 = total then w.endQpOp o.id {} else w := by
  simp only [State.readRespIn, hf, if_neg (fitsRead_iff.mp h), hp, Bool.false_eq_true, if_false, ho, hw, hk]

end Found

/-- An ATOMIC_RESP brings the word that its request fetches, to where it fetches it. -/
def fitsAtomic (i : Inbound) (e : Outstanding) : Prop :=
  i.pkt.idx = 0 ∧ i.pkt.raddr = fld e.pkt.body 24 8 ∧ i.pkt.plen = if i.pkt.raddr = 0 then 0 else atomicWidth (fld e.pkt.body 0 1)

theorem fitsAtomic_iff : fitsAtomic i e ↔
    ¬ (i.pkt.idx ≠ 0 ∨ i.pkt.raddr ≠ fld e.pkt.body 24 8 ∨
      i.pkt.plen ≠ if fld e.pkt.body 24 8 = 0 then 0 else atomicWidth (fld e.pkt.body 0 1)) := by
  simp only [fitsAtomic, not_or, Classical.not_not]
  constructor
  · rintro ⟨h0, ha, hl⟩
    exact ⟨h0, ha, ha ▸ hl⟩
  · rintro ⟨h0, ha, hl⟩
    exact ⟨h0, ha, by rw [ha]; exact hl⟩

theorem atomicRespIn_unknown (hf : i.e.out.find? (fun o => o.psn == i.pkt.psn && o.pkt.ty == 3 && o.answer) = none) :
    t.atomicRespIn i = t.discard i.port 0x50 := by
  simp only [State.atomicRespIn, hf]

section FoundAtomic

variable (hf : i.e.out.find? (fun o => o.psn == i.pkt.psn && o.pkt.ty == 3 && o.answer) = some e)
include hf

theorem atomicRespIn_unfit (h : ¬ fitsAtomic i e) : t.atomicRespIn i = t.discard i.port 0x50 := by
  simp only [State.atomicRespIn, hf, if_pos (Classical.not_not.mp (mt fitsAtomic_iff.mpr h))]

variable (h : fitsAtomic i e) (ho : t.op e.op = some o)
include h ho

theorem atomicRespIn_unwritten (hw : t.placeNear o i.pkt.raddr i.pkt.payload = (u, false)) : t.atomicRespIn i = u := by
  simp only [State.atomicRespIn, hf, if_neg (fitsAtomic_iff.mp h), ho, hw]

theorem atomicRespIn_placed (hw : t.placeNear o i.pkt.raddr i.pkt.payload = (u, true)) :
    t.atomicRespIn i = ((u.modOut i.q i.n i.pkt.psn fun x => { x with answer := false }).modEnd i.q i.n Endpoint.settle).endQpOp o.id {} := by
  simp only [State.atomicRespIn, hf, if_neg (fitsAtomic_iff.mp h), ho, hw]

end FoundAtomic

end Responses

section Acks

variable {t : State} {i : Inbound}

/-- The state with what an ACK covers acknowledged at its end. -/
def ackCovered (t : State) (i : Inbound) : State := t.modEnd i.q i.n fun _ => t.ackEnd i

/-- The operations whose packets an ACK covers for the first time going on. -/
def ackGoOn (i : Inbound) (s : State) : State := i.fresh.foldl (fun s o => s.packetAcked o.op) s

theorem ackIn_unnamed (h : fld i.pkt.body 4 1 % 4 = 0 ∨ (ackCovered t i).opOfMsg i.q i.n i.pkt.msg = none) :
    t.ackIn i = ackGoOn i (ackCovered t i) := by
  have hnamed : (if fld i.pkt.body 4 1 % 4 = 0 then none else (ackCovered t i).opOfMsg i.q i.n i.pkt.msg) = none := by
    split
    · rfl
    · exact h.resolve_left ‹_›
  unfold ackCovered at hnamed
  simp only [State.ackIn, hnamed, ackGoOn, ackCovered]

section Named

variable {o : Op} (h0 : fld i.pkt.body 4 1 % 4 ≠ 0) (ho : (ackCovered t i).opOfMsg i.q i.n i.pkt.msg = some o)
include h0 ho

theorem ackIn_complete (hb : bit (fld i.pkt.body 4 1) 1 = false) : t.ackIn i = (ackGoOn i (ackCovered t i)).messageDone o.id := by
  unfold ackCovered at ho
  simp only [State.ackIn, if_neg h0, ho, hb, Bool.false_eq_true, if_false, ackGoOn, ackCovered]

theorem ackIn_refused (hb : bit (fld i.pkt.body 4 1) 1 = true) :
    t.ackIn i = ackGoOn i ((ackCovered t i).endQpOp o.id { status := statusOf (fld i.pkt.body 5 1), detail := fld i.pkt.body 6 1 }) := by
  unfold ackCovered at ho
  simp only [State.ackIn, if_neg h0, ho, hb, if_true, ackGoOn, ackCovered]

end Named

end Acks

end Sys2Proof.Laws

open Sys2Proof.Machine Sys2Proof.Laws

/-- Settles O28: a response by the request that it names, and, where no ME is free, by its PSN alone. -/
theorem responsesPlaced : Obligations.ResponsesPlaced := by
  refine fun s t u i e o => ?_
  intro p
  refine ⟨fun h hme => ?read, fun h hme => ?atomic, fun hp hm hf => ?later⟩
  case read =>
    have hexec : exec .readResp s = .next (t.readRespIn i) := (exec_readResp h).trans (congrArg _ (scatter_now _ hme))
    rw [hexec]
    intro found fits
    exact ⟨fun total placed hf hfit hp ho hk hw => congrArg _ (readRespIn_placed hf hfit hp ho hk hw),
      fun hf hfit hp => congrArg _ (readRespIn_again hf hfit hp), fun hf hfit hp ho hw => congrArg _ (readRespIn_unwritten hf hfit hp ho hw),
      fun hf hfit => congrArg _ (readRespIn_unfit hf hfit), fun hf => congrArg _ (readRespIn_unknown hf)⟩
  case atomic =>
    have hexec : exec .atomicResp s = .next (t.atomicRespIn i) := (exec_atomicResp h).trans (congrArg _ (scatter_now _ hme))
    rw [hexec]
    intro found fits
    exact ⟨fun hf hfit ho hw => congrArg _ (atomicRespIn_placed hf hfit ho hw), fun hf hfit ho hw => congrArg _ (atomicRespIn_unwritten hf hfit ho hw),
      fun hf hfit => congrArg _ (atomicRespIn_unfit hf hfit), fun hf => congrArg _ (atomicRespIn_unknown hf)⟩
  case later =>
    exact ⟨fun h => (exec_readResp h).trans (congrArg _ (scatter_later _ hp hm hf)),
      fun h => (exec_atomicResp h).trans (congrArg _ (scatter_later _ hp hm hf))⟩

/-- Settles O29, by whether the ACK names an operation, and how. -/
theorem acksCover : Obligations.AcksCover := by
  refine fun s t i h => ?_
  rw [exec_ack h]
  exact ⟨fun hn => congrArg _ (ackIn_unnamed hn), fun o h0 hb ho => congrArg _ (ackIn_complete h0 ho hb),
    fun o hb h0 ho => congrArg _ (ackIn_refused h0 ho hb)⟩
end

section
/-! PROOFS. Frames received (R159, R349, R361), and the ends of waits: triggers, flushing reads and context fetches (R140, R152, R177); O32, O33. -/

namespace Sys2Proof.Laws
open Sys2Proof.Machine

section Frames

variable {s : State} {p sub : Nat} {x : Frame}

theorem frameIn_down (h : s.subCount p ≤ sub ∨ (s.sub p sub).up = false) : s.frameIn p sub x = s := by
  have hdown : s.subCount p ≤ sub ∨ (!(s.sub p sub).up) = true := by simpa using h
  simp only [State.frameIn, if_pos hdown]

/-- The octets, codewords and aborted forwarding that a frame counts on a sub-port that is up. -/
def frameCounted (s : State) (p sub : Nat) (x : Frame) : State :=
  (((s.abortOut p x).mac p sub 0x20 x.fixed).mac p sub 0x21 x.lost).mac p sub 0x01 (x.bytes.length + 4)

/-- The state that a good frame is taken in. -/
def frameGood (s : State) (p sub : Nat) (x : Frame) : State :=
  (frameCounted s p sub x).macFrame p sub 0x00 0x02 0x10 (x.bytes.length + 4) x.bytes

section Up

variable (hsub : sub < s.subCount p) (hup : (s.sub p sub).up = true)
include hsub hup

theorem frame_taken : ¬ (s.subCount p ≤ sub ∨ (!(s.sub p sub).up) = true) := by simp [hup, hsub]

theorem frameIn_short (hn : x.bytes.length + 4 < 64) :
    s.frameIn p sub x = (frameCounted s p sub x).mac p sub (if x.fcsOk then 0x1C else 0x1D) 1 := by
  have htaken := frame_taken hsub hup
  simp only [State.frameIn, if_neg htaken, if_pos hn, frameCounted]

variable (hn : 64 ≤ x.bytes.length + 4)
include hn

theorem frameIn_long (hm : (frameCounted s p sub x).maxFrame p < x.bytes.length + 4) :
    s.frameIn p sub x = (frameCounted s p sub x).mac p sub (if x.fcsOk then 0x1E else 0x1F) 1 := by
  have htaken := frame_taken hsub hup
  unfold frameCounted at hm
  simp only [State.frameIn, if_neg htaken, if_neg (Nat.not_lt.mpr hn), if_pos hm, frameCounted]

variable (hm : x.bytes.length + 4 ≤ (frameCounted s p sub x).maxFrame p)
include hm

theorem frameIn_bad (hf : x.fcsOk = false) : s.frameIn p sub x = (frameCounted s p sub x).mac p sub 0x1B 1 := by
  have htaken := frame_taken hsub hup
  unfold frameCounted at hm
  simp only [State.frameIn, if_neg htaken, if_neg (Nat.not_lt.mpr hn), if_neg (Nat.not_lt.mpr hm), hf, Bool.not_false, if_true, frameCounted]

theorem frameIn_good (hf : x.fcsOk = true) {t : State} (ht : (frameGood s p sub x).goodFrame p sub x.bytes = t) :
    s.frameIn p sub x = t.pfcCheck p := by
  have htaken := frame_taken hsub hup
  unfold frameGood frameCounted at ht
  unfold frameCounted at hm
  simp only [State.frameIn, if_neg htaken, if_neg (Nat.not_lt.mpr hn), if_neg (Nat.not_lt.mpr hm), hf, Bool.not_true, Bool.false_eq_true, if_false, ht]

end Up

end Frames

section Steps

variable {v : State} {p sub : Nat} {l : List Byte}

theorem goodFrame_control (ht : beNat (slice l 12 2) = 0x8808) : v.goodFrame p sub l = v.macControl p sub l := by
  simp only [State.goodFrame, if_pos ht]

section Zft

variable (ht : beNat (slice l 12 2) = 0x88B5)
include ht

theorem goodFrame_switched (hs : v.portSwitched p = true) : v.goodFrame p sub l = v.mac p sub 0x26 1 := by
  simp only [State.goodFrame, ht, hs, if_true]
  rfl

theorem goodFrame_here (hs : v.portSwitched p = false) (hd : dmacOf l = v.macAddr p 0) :
    v.goodFrame p sub l = (v.mac p sub 0x19 1).zftIn p (l.drop 14) := by
  simp only [State.goodFrame, ht, hs, hd, Bool.false_eq_true, if_false, if_true, ne_eq, not_true_eq_false]
  rfl

theorem goodFrame_elsewhere (hs : v.portSwitched p = false) (hd : dmacOf l ≠ v.macAddr p 0) :
    v.goodFrame p sub l = ((v.mac p sub 0x19 1).mac p sub 0x26 1).discard p 0x44 := by
  simp only [State.goodFrame, ht, hs, if_pos hd, Bool.false_eq_true, if_false, if_true]
  rfl

end Zft

section Other

variable (hc : beNat (slice l 12 2) ≠ 0x8808) (hz : beNat (slice l 12 2) ≠ 0x88B5)
include hc hz

/-- A UDP datagram that carries a packet has no checksum, or a good one. -/
def datagramGood (src dst udp : List Byte) : Prop :=
  beNat (slice udp 6 2) = 0 ∨ fold16 8 (onesGo (src ++ dst ++ beBytes 4 udp.length ++ beBytes 4 17 ++ udp) 0) = 65535

theorem goodFrame_datagram {src dst udp : List Byte} (hu : v.zftDatagram p l = some (src, dst, udp)) (hg : datagramGood src dst udp) :
    v.goodFrame p sub l = (v.mac p sub 0x19 1).zftIn p (udp.drop 8) := by
  unfold datagramGood at hg
  simp only [State.goodFrame, if_neg hc, if_neg hz, hu, if_pos hg]

theorem goodFrame_datagramBad {src dst udp : List Byte} (hu : v.zftDatagram p l = some (src, dst, udp)) (hg : ¬ datagramGood src dst udp) :
    v.goodFrame p sub l = (v.mac p sub 0x19 1).discard p 0x45 := by
  unfold datagramGood at hg
  simp only [State.goodFrame, if_neg hc, if_neg hz, hu, if_neg hg]

theorem goodFrame_lldp (hu : v.zftDatagram p l = none) (ht : beNat (slice l 12 2) = 0x88CC ∧ dmacOf l = 0x0180C200000E) :
    v.goodFrame p sub l = v.modPort p fun y => { y with lldpIn := y.lldpIn ++ [(sub, l)] } := by
  simp only [State.goodFrame, if_neg hc, if_neg hz, hu, if_pos ht]

theorem goodFrame_steered (hu : v.zftDatagram p l = none) (ht : ¬ (beNat (slice l 12 2) = 0x88CC ∧ dmacOf l = 0x0180C200000E)) :
    v.goodFrame p sub l = v.steer p sub l (dmacOf l == v.macAddr p sub || destKind l != 0) := by
  simp only [State.goodFrame, if_neg hc, if_neg hz, hu, if_neg ht]

end Other

end Steps

section Waits

variable {s : State}

theorem exec_triggerFire (h : s.live = true) : exec .triggerFire s = .next s.fire := congrArg _ (if_pos h)

theorem exec_flushComplete (n : Nat) (h : s.live = true) : exec (.flushComplete n) s = .next (s.flushDone n) := congrArg _ (if_pos h)

theorem fire_none (h : s.nextArmed = none) : s.fire = s := by
  simp only [State.fire, h]

/-- The state without an armed job, and with the jobs that waited for its place armed. -/
def unarmed (s : State) (j : Job) : State :=
  State.armHeld { s with armed := s.armed.filter fun b => !(b.job.f == j.f && b.job.q == j.q && b.job.seq == j.seq) }

section Armed

variable {a : Armed} (ha : s.nextArmed = some a)
include ha

theorem fire_marked (hm : (a.marked || evcMarked (s.evc a.job.ctx a.job.trigCounter)) = true) :
    s.fire = (unarmed s a.job).failJob a.job .locTriggerAborted := by
  simp only [State.fire, ha, hm, if_true, unarmed]

variable (hm : (a.marked || evcMarked (s.evc a.job.ctx a.job.trigCounter)) = false)
include hm

theorem fire_fenced (hf : (unarmed s a.job).jobFenced a.job = true) : s.fire = (unarmed s a.job).failJob a.job .devFenced := by
  unfold unarmed at hf
  simp only [State.fire, ha, hm, hf, Bool.false_eq_true, if_false, if_true, unarmed]

theorem fire_runs (hf : (unarmed s a.job).jobFenced a.job = false) :
    s.fire = (((unarmed s a.job).resetSignal a.job).rouseJob a.job).runJob a.job := by
  unfold unarmed at hf
  simp only [State.fire, ha, hm, hf, Bool.false_eq_true, if_false, unarmed]

end Armed

theorem flushDone_none {n : Nat} (h : (s.flags.find? fun p => p.id == n) = none) : s.flushDone n = s := by
  simp only [State.flushDone, h]

theorem flushDone_some {n : Nat} {p : PendingFlag} (h : (s.flags.find? fun p => p.id == n) = some p) :
    s.flushDone n = State.flushed { s with flags := s.flags.filter fun x => x.id != n } p := by
  simp only [State.flushDone, h]

theorem flushed_folded {p : PendingFlag} {q m msg : Nat} {echo : W32} {x : Qp} {e : Endpoint} (hp : p.flag = .folded q m msg echo)
    (hx : tget s.qps q = some x) (he : s.endpoint q m = some e) : s.flushed p = if e.state = .ready then s.finalEffect q m x msg echo else s := by
  simp only [State.flushed, hp, hx, he]

theorem exec_contextFetchComplete {q n : Nat} (h : s.live = true) (hq : q < 16777216) (hn : n ≤ 65535) (bad : Bool) :
    exec (.contextFetchComplete q n bad) s = .next (s.fetched q n bad) := next_live (b := s.live) rfl (by simp [hq, hn]) h

theorem fetched_gone {q n : Nat} {bad : Bool} (h : tget s.qps q = none) : s.fetched q n bad = s := by
  simp only [State.fetched, h]

section Fetched

variable {q n : Nat} {x : Qp} (hx : tget s.qps q = some x)
include hx

theorem fetched_good :
    let u0 := s.unside 0 q x n
    let u1 := u0.2.unside 1 q x n
    s.fetched q n false = if (u0.1 ++ u1.1).isEmpty = true then u1.2 else (u0.1 ++ u1.1).foldl (fun s a => s.fromSiding a) (u1.2.touch q x n) := by
  simp only [State.fetched, hx, Bool.false_eq_true, if_false]

theorem fetched_bad :
    let u1 := (s.unside 0 q x n).2.unside 1 q x n
    s.fetched q n true =
      (u1.2.fetchError.2.endedBy u1.2.fetchError.1 x.f 0 0).qpError q (if x.omnibus then n else x.node) .memUncorrectable := by
  simp only [State.fetched, hx, if_true]

end Fetched

end Waits

end Sys2Proof.Laws

open Sys2Proof.Machine Sys2Proof.Laws

/-- Settles O32, by the length and check of the frame, and then by what it carries. -/
theorem framesTaken : Obligations.FramesTaken := by
  refine fun s p sub x h hp hs => ?_
  intro n l u v ty z
  have hexec : exec (.frameReceive p sub x) s = .next (s.frameIn p sub x) := next_live (b := s.live) rfl (by simp [hp, hs]) h
  refine ⟨fun hd => hexec.trans (congrArg _ (frameIn_down hd)), fun hsub hup => ⟨fun hn => hexec.trans (congrArg _ (frameIn_short hsub hup hn)),
    fun hn hm => hexec.trans (congrArg _ (frameIn_long hsub hup hn hm)), fun hn hm hf => hexec.trans (congrArg _ (frameIn_bad hsub hup hn hm hf)),
    fun hn hm hf => ?_⟩⟩
  have good : ∀ {t : State}, (frameGood s p sub x).goodFrame p sub x.bytes = t → exec (.frameReceive p sub x) s = .next (t.pfcCheck p) :=
    fun ht => hexec.trans (congrArg _ (frameIn_good hsub hup hn hm hf ht))
  have other : ty = 0x88CC → beNat (slice x.bytes 12 2) ≠ 0x8808 ∧ beNat (slice x.bytes 12 2) ≠ 0x88B5 := fun ht => by
    rw [show beNat (slice x.bytes 12 2) = 0x88CC from ht]
    decide
  exact ⟨fun ht => good (goodFrame_control ht), fun ht hw => good (goodFrame_switched ht hw), fun ht hw hd => good (goodFrame_here ht hw hd),
    fun ht hw hd => good (goodFrame_elsewhere ht hw hd),
    fun src dst udp hc hz hu => ⟨fun hg => good (goodFrame_datagram hc hz hu hg), fun hg => good (goodFrame_datagramBad hc hz hu hg)⟩,
    fun ht hd hu => good (goodFrame_lldp (other ht).1 (other ht).2 hu ⟨ht, hd⟩), fun hc hz hu ht => good (goodFrame_steered hc hz hu ht)⟩

/-- Settles O33: the trigger by its job, the flushing read by what it announces, the context fetch by the packets that wait. -/
theorem waitsEnd : Obligations.WaitsEnd := by
  refine fun s h => ⟨fun ha => ?idle, fun a ha => ?fire, fun n hn => ?noFlag, fun n p hp => ?flag, fun q n hq hn => ?context⟩
  case idle => rw [exec_triggerFire h, fire_none ha]
  case fire =>
    rw [exec_triggerFire h]
    exact ⟨fun hm => congrArg _ (fire_marked ha hm), fun hm hf => congrArg _ (fire_fenced ha hm hf), fun hm hf => congrArg _ (fire_runs ha hm hf)⟩
  case noFlag => rw [exec_flushComplete n h, flushDone_none hn]
  case flag =>
    rw [exec_flushComplete n h, flushDone_some hp]
    intro t
    exact ⟨fun op j r hf => by simp only [State.flushed, hf]; rfl, fun r j c k a hf => by simp only [State.flushed, hf]; rfl,
      fun q m msg addr value c sg g l o echo hf => by simp only [State.flushed, hf]; rfl,
      fun q m msg echo x e hf hx he => congrArg _ (flushed_folded hf hx he), fun gid seq hf => by simp only [State.flushed, hf]; rfl,
      fun key st moved hf => by simp only [State.flushed, hf]; rfl⟩
  case context =>
    refine ⟨fun bad hx => (exec_contextFetchComplete h hq hn bad).trans (congrArg _ (fetched_gone hx)), fun x hx => ?_⟩
    rw [exec_contextFetchComplete h hq hn false, exec_contextFetchComplete h hq hn true, fetched_good hx, fetched_bad hx]
    intro u0 u1
    exact ⟨fun hne => congrArg _ (if_neg (by simpa using hne)), fun he => congrArg _ (if_pos (by simpa using he)), rfl⟩
end

section
/-! PROOFS. Data messages of collectives, and the folded chunks (R248–R250, R262, R444): O34. -/

namespace Sys2Proof.Laws
open Sys2Proof.Machine

section Data

variable {u : State} {i : Inbound} {gid : Nat} {g : Group} {n : Neighbour}

theorem exec_collData {s u t : State} {i : Inbound} (h : s.requestReady (fun p => p.ty == 8 && (s.kindOf p).isNone) u i) (ht : u.collPacket i = t) :
    exec .collData s = .next (t.afterAccept i) := ht ▸ exec_request State.collPacket (fun s _ => s) rfl h

theorem collPacket_stranger (hs : u.sender i = none) : u.collPacket i = u.discard i.port 0x51 := by
  simp only [State.collPacket, hs]

/-- The state in which a neighbour has been heard from. -/
def heardFrom (u : State) (gid : Nat) (n : Neighbour) : State := u.modNbr gid n.idx fun n => { n with moved := u.tclk }

/-- A message that a packet may belong to. -/
def mayJoin (n : Neighbour) (i : Inbound) (m : CollMsg) : Bool := m.src == n.idx && m.msg == i.pkt.msg && !m.whole

/-- The message that a packet belongs to, with the packet in it. -/
def joined (g : Group) (n : Neighbour) (i : Inbound) : CollMsg :=
  let p := i.pkt
  let fresh : CollMsg := { src := n.idx, msg := p.msg, level := n.level, chunk := p.chunk, seq := BitVec.ofNat 32 (fld p.body 4 4),
                           sig := BitVec.ofNat 32 (fld p.body 8 4), addr := localOf p.raddr - p.idx * i.x.payload, landing := false }
  let m0 := (g.msgs.find? (mayJoin n i)).getD fresh
  { m0 with parts := tset m0.parts p.idx p.payload, lastIdx := (if p.last then some p.idx else m0.lastIdx), landing := landsIn g n m0.addr 1 }

/-- The state without that message as it was, and without what its sender has given up in its slot. -/
def madeRoom (u : State) (gid : Nat) (g : Group) (n : Neighbour) (i : Inbound) : State :=
  let m := joined g n i
  let stale := fun (x : CollMsg) => !g.msgs.any (mayJoin n i) && x.dead && x.src == n.idx && x.landing && m.landing && g.slotAt n x.addr == g.slotAt n m.addr
  (heardFrom u gid n).modGroup gid fun g => { g with msgs := g.msgs.filter fun x => !mayJoin n i x && !stale x }

variable (hs : u.sender i = some (gid, g, n))
include hs

theorem collPacket_reserved (hk : 0xFFFFFF00 ≤ i.pkt.chunk) : u.collPacket i = (heardFrom u gid n).discard i.port 0x51 := by
  simp only [State.collPacket, hs, if_pos hk, heardFrom]

variable (hk : i.pkt.chunk < 0xFFFFFF00)
include hk

/-- A whole message is acted on, unless it was discarded; a message of which more is to come is kept. -/
def takeJoined (s : State) (gid : Nat) (m : CollMsg) (port : Nat) : State :=
  if !m.whole then (s.modGroup gid fun g => { g with msgs := g.msgs ++ [m] }).advanceAll
  else if m.dead then s.advanceAll
  else (s.takeMsg gid m (some port)).advanceAll

/-- A packet joins its message, which is discarded, and its slot freed, where it is for an earlier collective. -/
theorem collPacket_message : u.collPacket i =
    let m := joined g n i
    let past := !g.msgs.any (mayJoin n i) && g.past m.seq
    let t := if past then (madeRoom u gid g n i).discard i.port 0x51 else madeRoom u gid g n i
    takeJoined (if past && m.landing then t.freeSlot gid n.idx (g.slotAt n m.addr) else t) gid { m with dead := m.dead || past } i.port := by
  simp only [State.collPacket, hs, if_neg (Nat.not_le.mpr hk)]
  rfl

theorem collPacket_joins (hp : (!g.msgs.any (mayJoin n i) && g.past (joined g n i).seq) = false) :
    u.collPacket i = takeJoined (madeRoom u gid g n i) gid (joined g n i) i.port := by
  rw [collPacket_message hs hk]
  simp only [hp, Bool.false_and, Bool.or_false, Bool.false_eq_true, if_false]

theorem collPacket_late (hp : (!g.msgs.any (mayJoin n i) && g.past (joined g n i).seq) = true) :
    let m := joined g n i
    let d := (madeRoom u gid g n i).discard i.port 0x51
    u.collPacket i = takeJoined (if m.landing then d.freeSlot gid n.idx (g.slotAt n m.addr) else d) gid { m with dead := true } i.port := by
  rw [collPacket_message hs hk]
  simp only [hp, Bool.true_and, Bool.or_true, if_true]

end Data

section Taken

variable {s : State} {gid port : Nat} {m : CollMsg}

theorem takeJoined_part (h : m.whole = false) : takeJoined s gid m port = (s.modGroup gid fun g => { g with msgs := g.msgs ++ [m] }).advanceAll := by
  simp only [takeJoined, h, Bool.not_false, if_true]

theorem takeJoined_dead (h : m.whole = true) (hd : m.dead = true) : takeJoined s gid m port = s.advanceAll := by
  simp only [takeJoined, h, hd, Bool.not_true, Bool.false_eq_true, if_false, if_true]

theorem takeJoined_whole (h : m.whole = true) (hd : m.dead = false) : takeJoined s gid m port = (s.takeMsg gid m (some port)).advanceAll := by
  simp only [takeJoined, h, hd, Bool.not_true, Bool.false_eq_true, if_false]

end Taken

section Folds

variable {s : State} {gid level chunk : Nat} {g : Group} {c : Coll} {f : Fold}

theorem exec_chunkFoldComplete (h : s.live = true) : exec (.chunkFoldComplete gid level ⟨chunk, none⟩) s = .next (s.foldDone gid level chunk) :=
  congrArg _ (if_pos (by simp [h]))

theorem exec_chunkFoldComplete_bad {k : Nat} (h : s.live = true) (hk : k ≤ 3) : exec (.chunkFoldComplete gid level ⟨chunk, some k⟩) s =
    .next ((s.foldClusters gid level chunk k).foldl State.innerError (s.foldBad gid level chunk k)) :=
  congrArg _ (if_pos (by simp [h, hk]))

theorem fold_complete (hok : c.fault = none) (hn : g.sizes.getD level 1 ≤ f.got.length) :
    ¬ (c.fault.isSome = true ∨ f.got.length < g.sizes.getD level 1) := by simpa [hok] using hn

variable (hg : tget s.groups gid = some g) (hc : g.cur = some c) (hf : (c.folds.find? fun f => f.level == level && f.chunk == chunk) = some f)
include hg hc hf

theorem foldDone_waits (h : c.fault.isSome = true ∨ f.got.length < g.sizes.getD level 1) : s.foldDone gid level chunk = s := by
  simp only [State.foldDone, hg, hc, hf, if_pos h]

/-- The state in which a fold is over: its record in the trace, its files freed. -/
def foldEnded (s : State) (gid level chunk : Nat) (g : Group) (c : Coll) (f : Fold) : State :=
  ((s.trace (f.cluster / 8) 0x04 f.cluster c.job.layer c.job.oper g.f
    (leBytes 2 gid ++ leBytes 1 level ++ leBytes 1 0 ++ leBytes 4 c.seq.toNat ++ leBytes 4 chunk ++ leBytes 4 f.got.length)).modCur gid fun c =>
      { c with folds := c.folds.filter fun x => !(x.level == level && x.chunk == chunk) }).keepAccs f

theorem foldFound : ((tget s.groups gid).bind fun g => g.cur.bind fun c => c.folds.find? fun f => f.level == level && f.chunk == chunk) = some f := by
  simp only [hg, hc, hf, Option.bind_some]

/-- A fold that finds its file uncorrectable reports it, and its cluster begins a reset. -/
theorem foldBad_resets (k : Nat) : (s.foldClusters gid level chunk k).foldl State.innerError (s.foldBad gid level chunk k) =
    if f.units.contains k then
      ((s.draw.2.badAccs f.cluster k (Config.freeNat s.draw.1)).collFault gid .memUncorrectable).innerError f.cluster
    else s := by
  have hfound := foldFound hg hc hf
  simp only [State.foldClusters, State.foldBad, hfound]
  split <;> rfl

section Complete

variable (hok : c.fault = none) (hn : g.sizes.getD level 1 ≤ f.got.length)
include hok hn

theorem foldDone_up (hl : level + 1 ≠ g.sizes.length) (hj : ownerFrom g.sizes g.me chunk (level + 1) ≠ g.me) :
    let records := f.acc.map fun a => (Acc.ofNat a).epf
    let parts := if c.exact then pieces records (2 ^ g.chunkLog - 8) else [elemBytes c.es f.acc]
    s.foldDone gid level chunk =
      (parts.foldl (fun s l => s.outMsg gid (ownerFrom g.sizes g.me chunk (level + 1)) { level := level + 1, chunk, what := .bytes l, up := true })
        (foldEnded s gid level chunk g c f)).advanceAll := by
  have hdone := fold_complete hok hn
  simp only [State.foldDone, hg, hc, hf, if_neg hdone, if_neg hl, if_neg hj, foldEnded]

theorem foldDone_here (hl : level + 1 ≠ g.sizes.length) (hj : ownerFrom g.sizes g.me chunk (level + 1) = g.me) :
    let records := f.acc.map fun a => (Acc.ofNat a).epf
    let l := if c.exact then (pieces records (sum (records.map (·.length)))).headD [] else elemBytes c.es f.acc
    s.foldDone gid level chunk = ((foldEnded s gid level chunk g c f).giveFold gid
      { level := level + 1, chunk, pos := posOf g.sizes g.me (level + 1), what := .bytes l }).advanceAll := by
  have hdone := fold_complete hok hn
  simp only [State.foldDone, hg, hc, hf, if_neg hdone, if_neg hl, if_pos hj, foldEnded]

/-- The rounded result of a fold at the top level. -/
def foldResult (c : Coll) (f : Fold) : List Byte :=
  elemBytes c.es (if c.exact then f.acc.map fun a => ((elemFmt c.elem).elim 0 fun t => (Acc.ofNat a).round t) else f.acc)

variable (hl : level + 1 = g.sizes.length)
include hl

theorem foldDone_placed {u : State} {off : Nat} (hp : placeOf g c g.me chunk = some off)
    (hw : (foldEnded s gid level chunk g c f).collStore gid g c off (foldResult c f) = (u, true)) :
    s.foldDone gid level chunk = ((u.collPlaced gid).handOn gid g c chunk g.sizes.length (.bytes (foldResult c f))).advanceAll := by
  have hdone := fold_complete hok hn
  unfold foldEnded foldResult at hw
  simp only [State.foldDone, hg, hc, hf, if_neg hdone, if_pos hl, hp, hw, foldResult]

theorem foldDone_unplaced {u : State} {off : Nat} (hp : placeOf g c g.me chunk = some off)
    (hw : (foldEnded s gid level chunk g c f).collStore gid g c off (foldResult c f) = (u, false)) :
    s.foldDone gid level chunk = (u.handOn gid g c chunk g.sizes.length (.bytes (foldResult c f))).advanceAll := by
  have hdone := fold_complete hok hn
  unfold foldEnded foldResult at hw
  simp only [State.foldDone, hg, hc, hf, if_neg hdone, if_pos hl, hp, hw, foldResult]

theorem foldDone_elsewhere (hp : placeOf g c g.me chunk = none) :
    s.foldDone gid level chunk =
      ((foldEnded s gid level chunk g c f).handOn gid g c chunk g.sizes.length (.bytes (foldResult c f))).advanceAll := by
  have hdone := fold_complete hok hn
  simp only [State.foldDone, hg, hc, hf, if_neg hdone, if_pos hl, hp, foldEnded, foldResult]

end Complete

end Folds

end Sys2Proof.Laws

open Sys2Proof.Machine Sys2Proof.Laws

/-- Settles O34: a packet by whether its message is new, late or whole, a fold by whether it is complete and where its result goes. -/
theorem chunksMove : Obligations.ChunksMove := by
  refine ⟨fun s u i h => ?data, fun s gid level chunk g c f h hg hc hf => ?folds⟩
  case data =>
    intro heard
    refine ⟨fun hs => exec_collData h (collPacket_stranger hs), fun gid g n hs hk => exec_collData h (collPacket_reserved hs hk), fun gid g n hs hk => ?_⟩
    intro p mine fresh m0 m seen stale v d e
    refine ⟨fun hnew => ?_, fun hseen hpast => ?_⟩
    · have hp : (!seen && g.past m.seq) = false := by
        rw [Bool.and_eq_false_iff, Bool.not_eq_false']
        by_cases hs : seen = false
        · exact .inr (Bool.eq_false_iff.mpr fun hp => hnew ⟨hs, hp⟩)
        · exact .inl (eq_true_of_ne_false hs)
      have hjoins := collPacket_joins hs hk hp
      exact ⟨fun hw => exec_collData h (hjoins.trans (takeJoined_part hw)), fun hw hd => exec_collData h (hjoins.trans (takeJoined_dead hw hd)),
        fun hw hd => exec_collData h (hjoins.trans (takeJoined_whole hw hd))⟩
    · have hp : (!seen && g.past m.seq) = true := by rw [hseen, hpast]; rfl
      have hlate := collPacket_late hs hk hp
      exact ⟨fun hw => exec_collData h (hlate.trans (takeJoined_part hw)), fun hw => exec_collData h (hlate.trans (takeJoined_dead hw rfl))⟩
  case folds =>
    refine ⟨fun hw => ?_, fun hok hn => ⟨fun hl hj => ?_, fun hl hj => ?_, fun hl => ⟨fun u off hp hw => ?_, fun u off hp hw => ?_, fun hp => ?_⟩⟩,
      fun k hk => ?_⟩
    · exact (exec_chunkFoldComplete h).trans (congrArg _ (foldDone_waits hg hc hf hw))
    · exact (exec_chunkFoldComplete h).trans (congrArg _ (foldDone_up hg hc hf hok hn hl hj))
    · exact (exec_chunkFoldComplete h).trans (congrArg _ (foldDone_here hg hc hf hok hn hl hj))
    · exact (exec_chunkFoldComplete h).trans (congrArg _ (foldDone_placed hg hc hf hok hn hl hp hw))
    · exact (exec_chunkFoldComplete h).trans (congrArg _ (foldDone_unplaced hg hc hf hok hn hl hp hw))
    · exact (exec_chunkFoldComplete h).trans (congrArg _ (foldDone_elsewhere hg hc hf hok hn hl hp))
    · exact (exec_chunkFoldComplete_bad h hk).trans (congrArg _ (foldBad_resets hg hc hf k))
end

section
/-! PROOFS. The control records of collectives (R233, R251–R254, R257): O35. -/

namespace Sys2Proof.Laws
open Sys2Proof.Machine

section Control

variable {s u : State} {kind gid : Nat} {i : Inbound} {g : Group} {n : Neighbour} {seq : W32} {l : List Byte}

/-- The command of a control record acts on the one that is ready. -/
theorem exec_control {c : Instr} (h : s.controlReady kind u i gid g n seq l) (act : State → Nat → Group → Neighbour → W32 → List Byte → State)
    (e : exec c s = .next (s.control kind act)) : exec c s = .next ((act u gid g n seq l).afterAccept i) := by
  rw [e, control_ready h]

theorem reportIn_up {p : Nat} (hp : g.parent = some p) : u.reportIn gid g seq l = u.sendRecord gid p 0x04 seq l := by
  simp only [State.reportIn, hp]

theorem reportIn_leader (hp : g.parent = none) : u.reportIn gid g seq l = (u.reportUp gid seq (fld l 2 1) (fld l 6 2)).advanceAll := by
  simp only [State.reportIn, hp]
  rfl

theorem decisionIn_parent {st : Status} (hp : g.parent = some n.idx) (hd : decisionOf (fld l 3 1) = some st) :
    u.decisionIn gid g n seq l = ((u.sendAll gid g.children 0x05 st.code seq (fld l 6 2)).act gid seq st (fld l 6 2)).advanceAll := by
  simp only [State.decisionIn, ctlStatus, hd, hp, ne_eq, not_true_eq_false, if_false]
  rfl

theorem decisionIn_other (h : g.parent ≠ some n.idx ∨ decisionOf (fld l 3 1) = none) : u.decisionIn gid g n seq l = u := by
  cases hd : decisionOf (fld l 3 1) with
  | none => simp only [State.decisionIn, ctlStatus, hd]
  | some st =>
    have hp : g.parent ≠ some n.idx := h.resolve_right (by simp [hd])
    simp only [State.decisionIn, ctlStatus, hd, if_pos hp]

theorem allEnteredIn_parent (hp : g.parent = some n.idx) :
    let v := u.sendAll gid g.children 0x09 0 seq 0
    u.allEnteredIn gid g n seq = if g.cur.any fun c => c.seq == seq then v.addWait gid else v :=
  if_neg (Classical.not_not.mpr hp)

theorem allEnteredIn_other (hp : g.parent ≠ some n.idx) : u.allEnteredIn gid g n seq = u := if_pos hp

/-- A control record of none of this member's groups is discarded. -/
theorem control_stranger {act : State → Nat → Group → Neighbour → W32 → List Byte → State}
    (h : s.requestReady (fun p => p.ty == 8 && s.kindOf p == some kind) u i) (hc : u.controlOf i kind = none) :
    s.control kind act = (u.discard i.port 0x51).afterAccept i := by
  refine (request_ready h (fun s i => s.controlPacket i kind act) fun s _ => s).trans ?_
  simp only [State.controlPacket, hc]

/-- The command of each kind of control record. -/
theorem exec_controlOf {c : Instr}
    (h : (c, kind) ∈ [(Instr.enter, 1), (.first, 2), (.done, 3), (.report, 4), (.decision, 5), (.free, 6), (.formed, 7), (.ready, 8), (.allEntered, 9),
      (.entered, 10)]) : ∃ act, exec c s = .next (s.control kind act) := by
  simp only [List.mem_cons, Prod.mk.injEq, List.not_mem_nil, or_false] at h
  rcases h with ⟨rfl, rfl⟩ | ⟨rfl, rfl⟩ | ⟨rfl, rfl⟩ | ⟨rfl, rfl⟩ | ⟨rfl, rfl⟩ | ⟨rfl, rfl⟩ | ⟨rfl, rfl⟩ | ⟨rfl, rfl⟩ | ⟨rfl, rfl⟩ | ⟨rfl, rfl⟩ <;>
    exact ⟨_, rfl⟩

end Control

end Sys2Proof.Laws

open Sys2Proof.Machine Sys2Proof.Laws

/-- Settles O35, each record by what its own part does, a stranger's by `control_stranger`. -/
theorem controlRecordsActed : Obligations.ControlRecordsActed := by
  refine ⟨fun s u i gid g n seq l => ?members, fun s u i c kind hc h hs => ?strangers⟩
  case members =>
    refine ⟨fun h => exec_control h State.enterIn rfl, fun h => exec_control h (fun s gid g _ seq l => s.firstIn gid g seq l) rfl,
      fun h => exec_control h (fun s gid _ n seq l => s.doneIn gid n seq l) rfl, fun h => ?report, fun h => ?decision,
      fun h => exec_control h (fun s gid _ n _ l => s.freeIn gid n l) rfl, fun h => exec_control h (fun s gid _ n seq l => s.enteredIn gid n seq l) rfl,
      fun h => ?allEntered⟩
    case report =>
      have hexec : exec .report s = .next ((u.reportIn gid g seq l).afterAccept i) := exec_control h (fun s gid g _ seq l => s.reportIn gid g seq l) rfl
      exact ⟨fun p hp => by rw [hexec, reportIn_up hp], fun hp => by rw [hexec, reportIn_leader hp]⟩
    case decision =>
      have hexec : exec .decision s = .next ((u.decisionIn gid g n seq l).afterAccept i) := exec_control h State.decisionIn rfl
      exact ⟨fun st hp hd => by rw [hexec, decisionIn_parent hp hd], fun hn => by rw [hexec, decisionIn_other hn]⟩
    case allEntered =>
      have hexec : exec .allEntered s = .next ((u.allEnteredIn gid g n seq).afterAccept i) :=
        exec_control h (fun s gid g n seq _ => s.allEnteredIn gid g n seq) rfl
      exact ⟨fun hp => by rw [hexec, allEnteredIn_parent hp], fun hp => by rw [hexec, allEnteredIn_other hp]⟩
  case strangers =>
    obtain ⟨act, hexec⟩ := exec_controlOf (s := s) hc
    rw [hexec, control_stranger h hs]
end

section
/-! PROOFS. Route messages of the manager's node (R209, R212–R214): O37. -/

namespace Sys2Proof.Laws
open Sys2Proof.Machine

/-! ### Messages answered once (R213) -/

/-- An answer kept among the 256 of its source. -/
def keepAnswer (t : State) (src id st : Nat) : State := { t with
  answered := ({ src, id, status := st } : Answered) :: (List.take 255 (List.filter (fun (b : Answered) => b.src == src) t.answered) ++
    List.filter (fun (b : Answered) => b.src != src) t.answered) }

section Once

variable {s t : State} {src id st : Nat} {act : State → State × Nat}

theorem once_answered {k : Answered} (h : (s.answered.find? fun a => a.src == src && a.id == id) = some k) : s.once src id act = (s, k.status) := by
  simp only [State.once, h]

theorem once_new (h : (s.answered.find? fun a => a.src == src && a.id == id) = none) (e : act s = (t, st)) :
    s.once src id act = (keepAnswer t src id st, st) := by
  simp only [State.once, h, e]
  rfl

end Once

/-! ### The manager's node (R212) -/

theorem managedBy_named {s : State} {src n : Nat} (h : s.fmNode = some n) : s.managedBy src = true ↔ src = n := by
  simp only [State.managedBy, h, beq_iff_eq]
  exact eq_comm

theorem managedBy_root {s : State} {src : Nat} (h : s.fmNode = none) :
    s.managedBy src = true ↔ s.agent.acted = false ∧ src = s.agent.root ∧ src ≠ s.node := by
  simp only [State.managedBy, h, Bool.and_eq_true, Bool.not_eq_true', beq_iff_eq, bne_iff_ne, ne_eq, and_assoc]
  exact and_congr_right fun _ => and_congr_left fun _ => eq_comm

/-! ### What a route message does (Table 6.5) -/

section Apply

variable {s : State} {l : List Byte} {e : Nat}

theorem applyRoute_malformed (h : routeForm (s.slot (fld l 1 1 % 2)) l = false) : s.applyRoute l = (s, replyArgument) := by
  simp only [State.applyRoute, h, Bool.not_false, if_true]

variable (h : routeForm (s.slot (fld l 1 1 % 2)) l = true)
include h

section Loading

variable (hs : (s.slot (fld l 1 1 % 2)).state = .loading)
include hs

theorem applyRoute_write (hop : fld l 0 1 = 2) : s.applyRoute l = (s.modSlot (fld l 1 1 % 2) fun r =>
    { r with table := putFrom {} r.table (fld l 4 2) ((readAll 16 RouteEntry.read? l (fld l 8 2)).getD []) }, replyOk) := by
  simp only [State.applyRoute, h, hs, hop, Bool.not_true, Bool.false_eq_true, if_false]

theorem applyRoute_intermediates (hop : fld l 0 1 = 6) : s.applyRoute l = (s.modSlot (fld l 1 1 % 2) fun r =>
    { r with inter := putInter r.inter (fld l 10 2) ((List.range (fld l 8 2)).map fun i => fld l (16 + 4 * i) 2) }, replyOk) := by
  simp only [State.applyRoute, h, hs, hop, Bool.not_true, Bool.false_eq_true, if_false]

theorem applyRoute_address (hop : fld l 0 1 = 7) : s.applyRoute l = (s.modSlot (fld l 1 1 % 2) fun r =>
    { r with addrs := putFrom {} r.addrs (fld l 4 2) ((readAll 32 AddrEntry.read? l (fld l 8 2)).getD []) }, replyOk) := by
  simp only [State.applyRoute, h, hs, hop, Bool.not_true, Bool.false_eq_true, if_false]

theorem applyRoute_seal (hop : fld l 0 1 = 3) (hc : (s.slot (fld l 1 1 % 2)).crc = fld l 8 4) :
    s.applyRoute l = ((s.modSlot (fld l 1 1 % 2) fun r => { r with state := .sealed_ }).wakeNamed.greet (fld l 1 1 % 2), replyOk) := by
  simp only [State.applyRoute, h, hs, hop, hc, if_true, Bool.not_true, Bool.false_eq_true, if_false]

theorem applyRoute_sealCrc (hop : fld l 0 1 = 3) (hc : (s.slot (fld l 1 1 % 2)).crc ≠ fld l 8 4) : s.applyRoute l = (s, replyCrc) := by
  simp only [State.applyRoute, h, hs, hop, if_neg hc, Bool.not_true, Bool.false_eq_true, if_false]

end Loading

section Sealed

variable (hs : (s.slot (fld l 1 1 % 2)).state = .sealed_)
include hs

theorem applyRoute_beginSealed (hop : fld l 0 1 = 1) : s.applyRoute l = (s, replyState) := by
  simp only [State.applyRoute, h, hs, hop, Bool.not_true, Bool.false_eq_true, if_false]

theorem applyRoute_sealAgain (hop : fld l 0 1 = 3) :
    s.applyRoute l = (s, if (s.slot (fld l 1 1 % 2)).crc = fld l 8 4 then replyOk else replyCrc) := by
  simp only [State.applyRoute, h, hs, hop, Bool.not_true, Bool.false_eq_true, if_false]

theorem applyRoute_inject (hop : fld l 0 1 = 4) : s.applyRoute l = ({ s with epoch := fld l 1 1 % 2 }, replyOk) := by
  simp only [State.applyRoute, h, hs, hop, Bool.not_true, Bool.false_eq_true, if_false]

theorem applyRoute_retire (hop : fld l 0 1 = 5) (he : s.epoch ≠ fld l 1 1 % 2) :
    s.applyRoute l = (s.modSlot (fld l 1 1 % 2) fun _ => {}, replyOk) := by
  simp only [State.applyRoute, h, hs, hop, if_neg he, Bool.not_true, Bool.false_eq_true, if_false]

theorem applyRoute_retireUsed (hop : fld l 0 1 = 5) (he : s.epoch = fld l 1 1 % 2) : s.applyRoute l = (s, replyInUse) := by
  simp only [State.applyRoute, h, hs, hop, if_pos he, Bool.not_true, Bool.false_eq_true, if_false]

end Sealed

theorem applyRoute_begin (hop : fld l 0 1 = 1) (hs : (s.slot (fld l 1 1 % 2)).state ≠ .sealed_) :
    s.applyRoute l = (s.modSlot (fld l 1 1 % 2) fun _ => { state := .loading }, replyOk) := by
  cases hst : (s.slot (fld l 1 1 % 2)).state <;>
    simp only [State.applyRoute, h, hst, hop, Bool.not_true, Bool.false_eq_true, if_false] at hs ⊢
  exact absurd rfl hs

theorem applyRoute_notLoading (hop : fld l 0 1 = 2 ∨ fld l 0 1 = 6 ∨ fld l 0 1 = 7) (hs : (s.slot (fld l 1 1 % 2)).state ≠ .loading) :
    s.applyRoute l = (s, replyState) := by
  obtain hop | hop | hop := hop <;> cases hst : (s.slot (fld l 1 1 % 2)).state <;>
    simp [State.applyRoute, h, hst, hop] at hs ⊢

theorem applyRoute_sealEmpty (hop : fld l 0 1 = 3) (hs : (s.slot (fld l 1 1 % 2)).state ≠ .loading) (hs' : (s.slot (fld l 1 1 % 2)).state ≠ .sealed_) :
    s.applyRoute l = (s, replyState) := by
  cases hst : (s.slot (fld l 1 1 % 2)).state <;> simp [State.applyRoute, h, hst, hop] at hs hs' ⊢

theorem applyRoute_notSealed (hop : fld l 0 1 = 4 ∨ fld l 0 1 = 5) (hs : (s.slot (fld l 1 1 % 2)).state ≠ .sealed_) :
    s.applyRoute l = (s, replyState) := by
  obtain hop | hop := hop <;> cases hst : (s.slot (fld l 1 1 % 2)).state <;> simp [State.applyRoute, h, hst, hop] at hs ⊢

end Apply

/-! ### The seven commands -/

section Commands

variable {s u : State} {a : Arrival} {i : Instr} {op : Nat}

theorem exec_routeMessage
    (h : (i, op) ∈ [(Instr.routeBegin, 1), (.routeWrite, 2), (.routeSeal, 3), (.inject, 4), (.retire, 5), (.intermediates, 6), (.address, 7)]) :
    exec i s = .next (s.routeMessage op) := by
  simp only [List.mem_cons, Prod.mk.injEq, List.not_mem_nil, or_false] at h
  rcases h with ⟨rfl, rfl⟩ | ⟨rfl, rfl⟩ | ⟨rfl, rfl⟩ | ⟨rfl, rfl⟩ | ⟨rfl, rfl⟩ | ⟨rfl, rfl⟩ | ⟨rfl, rfl⟩ <;> rfl

variable (h : s.fabricReady (fun l => fld l 0 1 == op) u a)
include h

theorem routeMessage_stranger (hm : u.managedBy a.pkt.src = false) : s.routeMessage op = u.discard a.port 0x4C := by
  refine (fabric_ready h _).trans ?_
  simp only [hm, Bool.not_false, if_true]

/-- The state that says that the manager has acted, where one is named. -/
def managerActs (u t : State) : State := { t with agent := { t.agent with acted := t.agent.acted || u.fmNode.isSome } }

variable (hm : u.managedBy a.pkt.src = true)
include hm

theorem routeMessage_manager {t : State} {st : Nat} (ho : u.routeOnce a.pkt.src a.pkt.body = (t, st)) :
    s.routeMessage op = (managerActs u t).replyFabric a.pkt.src a.pkt.body st := by
  refine (fabric_ready h _).trans ?_
  simp only [hm, ho, Bool.not_true, Bool.false_eq_true, if_false]
  rfl

end Commands

end Sys2Proof.Laws

open Sys2Proof.Machine Sys2Proof.Laws

/-- Settles O37: a message of the manager's node by what the slot's state makes of it, one answered before by its answer. -/
theorem routeMessagesApply : Obligations.RouteMessagesApply := by
  refine fun s u a i op hi h => ?_
  intro l src e r count acts keep done
  have hexec : exec i s = .next (s.routeMessage op) := exec_routeMessage hi
  refine ⟨fun hm => hexec.trans (congrArg _ (routeMessage_stranger h hm)), fun n hn => managedBy_named hn, fun hn => managedBy_root hn,
    fun k hm hk => hexec.trans (congrArg _ (routeMessage_manager h hm (once_answered hk))), fun hm hk hop => ?_⟩
  have new : ∀ {t : State} {st : Nat}, u.applyRoute l = (t, st) → done t st := fun ha =>
    hexec.trans (congrArg _ (routeMessage_manager h hm (once_new hk ha)))
  refine ⟨fun hf => new (applyRoute_malformed hf), fun hf => ?_⟩
  exact ⟨fun ho hs => new (applyRoute_begin hf (hop.trans ho) hs), fun ho hs => new (applyRoute_beginSealed hf hs (hop.trans ho)),
    fun ho hs => new (applyRoute_notLoading hf (hop ▸ ho) hs), fun ho hs hs' => new (applyRoute_sealEmpty hf (hop.trans ho) hs hs'),
    fun ho hs => new (applyRoute_notSealed hf (hop ▸ ho) hs), fun ho hs => new (applyRoute_sealAgain hf hs (hop.trans ho)),
    fun ho hs => new (applyRoute_write hf hs (hop.trans ho)), fun ho hs hc => new (applyRoute_seal hf hs (hop.trans ho) hc),
    fun ho hs hc => new (applyRoute_sealCrc hf hs (hop.trans ho) hc), fun ho hs => new (applyRoute_inject hf hs (hop.trans ho)),
    fun ho hs he => new (applyRoute_retire hf hs (hop.trans ho) he), fun ho hs he => new (applyRoute_retireUsed hf hs (hop.trans ho) he),
    fun ho hs => new (applyRoute_intermediates hf hs (hop.trans ho)), fun ho hs => new (applyRoute_address hf hs (hop.trans ho))⟩
end

section
/-! PROOFS. GROUP_JOIN, REPLY, ROUTE_MESSAGE_RETRY and EVENT (R205, R213), the forming of groups and their timers (R237, R253, R255): O36. -/

namespace Sys2Proof.Laws
open Sys2Proof.Machine

/-! ### Answers to those who are not the manager -/

/-- An answer kept where it is one to the manager's node. -/
def keepFrom (u t : State) (src id st : Nat) : State := if u.managedBy src then keepAnswer t src id st else t

section Once

variable {s t : State} {src id st : Nat} {act : State → State × Nat}

theorem onceFrom_answered {k : Answered} (hm : s.managedBy src = true) (h : (s.answered.find? fun a => a.src == src && a.id == id) = some k) :
    s.onceFrom src id act = (s, k.status) := by
  simp only [State.onceFrom, hm, if_true, once_answered h]

theorem onceFrom_new (h : s.managedBy src = false ∨ (s.answered.find? fun a => a.src == src && a.id == id) = none) (e : act s = (t, st)) :
    s.onceFrom src id act = (keepFrom s t src id st, st) := by
  cases hm : s.managedBy src with
  | false => simp only [State.onceFrom, keepFrom, hm, Bool.false_eq_true, if_false, e]
  | true =>
    have hnew := h.resolve_left (by simp [hm])
    simp only [State.onceFrom, keepFrom, hm, if_true, once_new hnew e]

end Once

/-! ### GROUP_JOIN (R237) -/

section Join

variable {u : State} {l : List Byte} {src : Nat}

/-- A GROUP_JOIN of the form that Table 7.10 gives it. -/
def joinGood (l : List Byte) : Prop :=
  l.length = 32 ∧ zeroAt l 1 1 = true ∧ zeroAt l 6 2 = true ∧ zeroAt l 14 2 = true ∧ zeroAt l 19 1 = true ∧ zeroAt l 28 4 = true

theorem joinGood_iff : joinGood l ↔ ¬ (l.length ≠ 32 ∨ (!zeroAt l 1 1) = true ∨ (!zeroAt l 6 2) = true ∨ (!zeroAt l 14 2) = true ∨
    (!zeroAt l 19 1) = true ∨ (!zeroAt l 28 4) = true) := by
  simp only [joinGood, not_or, ne_eq, Classical.not_not, Bool.not_eq_true', Bool.not_eq_false]

theorem joinIn_malformed (h : ¬ joinGood l) : u.joinIn src l = (u, 4) := by
  simp only [State.joinIn, if_pos (Classical.not_not.mp (mt joinGood_iff.mpr h))]

variable (h : joinGood l)
include h

theorem joinIn_noGroup (hg : tget u.groups (fld l 4 2) = none) : u.joinIn src l = (u, 1) := by
  simp only [State.joinIn, if_neg (joinGood_iff.mp h), hg]

variable {g : Group} (hg : tget u.groups (fld l 4 2) = some g)
include hg

theorem joinIn_otherList (hc : BitVec.ofNat 32 (fld l 8 4) ≠ g.crc) : u.joinIn src l = (u, 2) := by
  simp only [State.joinIn, if_neg (joinGood_iff.mp h), hg, if_pos hc]

variable (hc : BitVec.ofNat 32 (fld l 8 4) = g.crc)
include hc

theorem joinIn_stranger (hn : ∀ n, g.nbr (fld l 12 2) = some n → n.node ≠ src) : u.joinIn src l = (u, 3) := by
  cases hj : g.nbr (fld l 12 2) with
  | none => simp only [State.joinIn, if_neg (joinGood_iff.mp h), hg, hc, ne_eq, not_true_eq_false, if_false, hj]
  | some n => simp only [State.joinIn, if_neg (joinGood_iff.mp h), hg, hc, ne_eq, not_true_eq_false, if_false, hj, if_pos (hn n hj)]

theorem joinIn_neighbour {n : Neighbour} (hj : g.nbr (fld l 12 2) = some n) (hn : n.node = src) :
    u.joinIn src l = ((u.modNbr (fld l 4 2) (fld l 12 2) fun n => { n with
      remoteQp := some (n.remoteQp.getD (fld l 16 3)), remote := fld l 20 8 }).tryConnect (fld l 4 2) (fld l 12 2), 0) := by
  simp only [State.joinIn, if_neg (joinGood_iff.mp h), hg, hc, ne_eq, not_true_eq_false, if_false, hj, hn]

end Join

section Messages

variable {s u t : State} {a : Arrival} {st : Nat}

theorem exec_groupJoin (h : s.fabricReady (fun l => fld l 0 1 == 0x20) u a)
    (ht : u.onceFrom a.pkt.src (fld a.pkt.body 2 2) (fun s => s.joinIn a.pkt.src a.pkt.body) = (t, st)) :
    exec .groupJoin s = .next (t.replyFabric a.pkt.src a.pkt.body st) := by
  refine congrArg _ ((fabric_ready h _).trans ?_)
  simp only [ht]

theorem exec_event (h : s.fabricReady (fun l => fld l 0 1 == 0x10) u a)
    (ht : u.onceFrom a.pkt.src (fld a.pkt.body 2 2)
      (fun s => ({ s with passed := s.passed ++ [({ src := a.pkt.src, data := a.pkt.body } : Passed)] }, replyOk)) = (t, st)) :
    exec .event s = .next (t.replyFabric a.pkt.src a.pkt.body st) := by
  refine congrArg _ ((fabric_ready h _).trans ?_)
  simp only [ht]

section Replies

variable (h : s.fabricReady (fun l => fld l 0 1 == 0x80) u a)
include h

theorem exec_reply_unasked (hr : (u.requests.find? fun r => r.id == fld a.pkt.body 2 2 && r.dst == a.pkt.src) = none) :
    exec .reply s = .next u := by
  refine congrArg _ ((fabric_ready h _).trans ?_)
  simp only [hr]

variable {r : Request} (hr : (u.requests.find? fun r => r.id == fld a.pkt.body 2 2 && r.dst == a.pkt.src) = some r)
include hr

theorem exec_reply_change (hq : r.qpOf = none) :
    exec .reply s = .next (State.changeReply { u with requests := u.requests.filter fun x => x != r } r.id (fld a.pkt.body 4 1)) := by
  refine congrArg _ ((fabric_ready h _).trans ?_)
  simp only [hr, hq]

theorem exec_reply_join {g k : Nat} (hq : r.qpOf = some (g, k)) :
    exec .reply s = .next (State.joinReply { u with requests := u.requests.filter fun x => x != r } g k (fld a.pkt.body 4 1) r) := by
  refine congrArg _ ((fabric_ready h _).trans ?_)
  simp only [hr, hq]

end Replies

theorem joinReply_refused {v : State} {g k n : Nat} {r : Request} (h : 3 ≤ n) : v.joinReply g k n r = v.formFail g 3 := by
  obtain ⟨m, rfl⟩ := Nat.exists_eq_add_of_le' h
  rfl

theorem exec_routeMessageRetry_none {q : Nat} (h : s.live = true) (hr : (s.requests.find? fun r => r.id == q) = none) :
    exec (.routeMessageRetry q) s = .next s := by
  refine congrArg _ ((if_pos h).trans ?_)
  simp only [hr]

theorem exec_routeMessageRetry_early {q : Nat} {r : Request} (h : s.live = true) (hr : (s.requests.find? fun r => r.id == q) = some r)
    (ht : s.tclk < r.at_ + 100000) : exec (.routeMessageRetry q) s = .next s := by
  refine congrArg _ ((if_pos h).trans ?_)
  simp only [hr, if_neg (Nat.not_le.mpr ht)]

/-- A request sent again: to the neighbour at its port, or through the fabric. -/
def sendRequest (v : State) (r : Request) : State := r.port.elim (v.sendFabric r.dst r.data) fun p => v.sendNear p r.data

theorem exec_routeMessageRetry_due {q : Nat} {r : Request} (h : s.live = true) (hr : (s.requests.find? fun r => r.id == q) = some r)
    (ht : r.at_ + 100000 ≤ s.tclk) :
    exec (.routeMessageRetry q) s =
      .next (sendRequest { s with requests := updAll (fun x => x == r) (fun x => { x with at_ := s.tclk }) s.requests } r) := by
  refine congrArg _ ((if_pos h).trans ?_)
  simp only [hr, if_pos ht]
  cases hp : r.port <;> simp only [sendRequest, hp, Option.elim]

end Messages

/-! ### Forming and timers (R237, R253, R255) -/

section Groups

variable {s : State} {gid : Nat} {g : Group}

theorem groupReady_forming (hg : tget s.groups gid = some g) (hs : g.state = .forming) :
    let v := (s.sendAll gid g.children 0x08 0 0 0).modGroup gid fun g => { g with state := .ready, ticket := none }
    (∀ j, g.ticket = some j → s.groupReady gid = v.answer j (.ok (landingBytes g g.nbrs.length + 2 ^ 32 * g.nbrs.length))) ∧
      (g.ticket = none → s.groupReady gid = v) := by
  refine ⟨fun j hj => ?_, fun hj => ?_⟩ <;> simp only [State.groupReady, hg, hs, ne_eq, not_true_eq_false, if_false, hj]

theorem groupReady_other (h : ∀ g, tget s.groups gid = some g → g.state ≠ .forming) : s.groupReady gid = s := by
  cases hg : tget s.groups gid with
  | none => simp only [State.groupReady, hg]
  | some g => simp only [State.groupReady, hg, if_pos (h g hg)]

theorem readyIn_parent {n : Neighbour} (hp : g.parent = some n.idx) : s.readyIn gid g n = s.groupReady gid := if_pos hp

theorem readyIn_other {n : Neighbour} (hp : g.parent ≠ some n.idx) : s.readyIn gid g n = s := if_neg hp

theorem exec_formationTimeout_due (h : s.live = true) (hg : tget s.groups gid = some g) (ht : g.formBy ≤ s.tclk) :
    exec (.formationTimeout gid) s = .next (s.formFail gid 1) := congrArg _ (if_pos (by simp [h, hg, ht]))

theorem exec_formationTimeout_early (ht : ∀ g, tget s.groups gid = some g → s.tclk < g.formBy) : exec (.formationTimeout gid) s = .next s := by
  refine congrArg _ (if_neg ?_)
  cases hg : tget s.groups gid with
  | none => simp
  | some g => simp [ht g hg]

theorem exec_groupTimeout (h : s.live = true) : exec (.groupTimeout gid) s = .next (s.groupTimeout gid) := congrArg _ (if_pos h)

theorem exec_decisionWaitTimeout (h : s.live = true) : exec (.decisionWaitTimeout gid) s = .next (s.decisionWait gid) := congrArg _ (if_pos h)

theorem exec_formationTimeout_none (hg : tget s.groups gid = none) : exec (.formationTimeout gid) s = .next s :=
  exec_formationTimeout_early fun g h => absurd (hg ▸ h) (by simp)

theorem exec_groupTimeout_none (hg : tget s.groups gid = none) : exec (.groupTimeout gid) s = .next s :=
  congrArg _ (show (if s.live = true then s.groupTimeout gid else s) = s by simp only [State.groupTimeout, hg, ite_self])

theorem exec_decisionWaitTimeout_none (hg : tget s.groups gid = none) : exec (.decisionWaitTimeout gid) s = .next s :=
  congrArg _ (show (if s.live = true then s.decisionWait gid else s) = s by simp only [State.decisionWait, hg, ite_self])

variable (hg : tget s.groups gid = some g)
include hg

theorem formFail_forming (hs : g.state = .forming) (d : Nat) :
    (∀ j, g.ticket = some j → s.formFail gid d = (s.dropGroup gid).answer j (.fail .collFormFailed d)) ∧
      (g.ticket = none → s.formFail gid d = s.dropGroup gid) := by
  refine ⟨fun j hj => ?_, fun hj => ?_⟩ <;> simp only [State.formFail, hg, hs, ne_eq, not_true_eq_false, if_false, hj]

theorem formFail_other (hs : g.state ≠ .forming) (d : Nat) : s.formFail gid d = s := by
  simp only [State.formFail, hg, if_pos hs]

theorem groupTimeout_leader (hl : g.leader = true) (hn : g.laggard = false) (hs : g.state = .ready) :
    s.groupTimeout gid = ((g.rounds.filter fun r => r.decided.isNone && r.timerAt.any fun t => decide (t + g.timeout * 1000000 ≤ s.tclk)).foldl
      (fun s r => (s.decideNow gid r.seq).decideAs gid r.seq .collAbortTimeout 0) s).advanceAll := by
  have hcond : (!g.leader || g.laggard || g.state != .ready) = false := by simp [hl, hn, hs]
  simp only [State.groupTimeout, hg, hcond, Bool.false_eq_true, if_false]

theorem groupTimeout_other (h : g.leader = false ∨ g.laggard = true ∨ g.state ≠ .ready) : s.groupTimeout gid = s := by
  have hcond : (!g.leader || g.laggard || g.state != .ready) = true := by
    rcases h with h | h | h <;> simp [h]
  simp only [State.groupTimeout, hg, hcond, if_true]

theorem decisionWait_due {c : Coll} (hc : g.cur = some c) (hn : g.laggard = false) (ht : c.startAt + 2 * g.timeout * 1000000 ≤ s.tclk) :
    s.decisionWait gid = ((s.collEndEarly gid).modGroup gid fun g => { g with state := .failed }).advanceAll := by
  have hcond : ¬ (g.laggard = true ∨ s.tclk < c.startAt + 2 * g.timeout * 1000000) := by simp [hn, ht]
  simp only [State.decisionWait, hg, hc, if_neg hcond]

theorem decisionWait_other (h : g.cur = none ∨ g.laggard = true ∨ ∃ c, g.cur = some c ∧ s.tclk < c.startAt + 2 * g.timeout * 1000000) :
    s.decisionWait gid = s := by
  cases hc : g.cur with
  | none => simp only [State.decisionWait, hg, hc]
  | some c =>
    have hcond : g.laggard = true ∨ s.tclk < c.startAt + 2 * g.timeout * 1000000 := by
      rcases h with h | h | ⟨c', h, ht⟩
      · exact absurd (hc.symm.trans h) (by simp)
      · exact .inl h
      · obtain rfl := Option.some.inj (h.symm.trans hc)
        exact .inr ht
    simp only [State.decisionWait, hg, hc, if_pos hcond]

end Groups

end Sys2Proof.Laws

open Sys2Proof.Machine Sys2Proof.Laws

/-- Settles O36: messages by what is answered or asked already, READY and the timers by the group's own state. -/
theorem groupsForm : Obligations.GroupsForm := by
  refine ⟨fun s u a => ?messages, fun s u i gid g n seq l => ?records, fun s gid g h hg => ?timers, fun s gid hg => ?none⟩
  case messages =>
    intro l src gid j good kept keep
    refine ⟨fun h => ?join, fun h => ?reply, fun h q => ?retry, fun h => ?event⟩
    case join =>
      refine ⟨fun k hm hk => exec_groupJoin h (onceFrom_answered hm hk), fun hk => ?_⟩
      intro done
      have new : ∀ {t : State} {st : Nat}, u.joinIn src l = (t, st) → done t st := fun hj => exec_groupJoin h (onceFrom_new hk hj)
      exact ⟨fun hn => new (joinIn_malformed hn), fun hgood hg => new (joinIn_noGroup hgood hg), fun g hgood hg hc => new (joinIn_otherList hgood hg hc),
        fun g hgood hg hc hn => new (joinIn_stranger hgood hg hc hn), fun g n hgood hg hc hj hn => new (joinIn_neighbour hgood hg hc hj hn)⟩
    case reply =>
      intro asked
      refine ⟨fun hr => exec_reply_unasked h hr, fun r hr => ?_⟩
      intro v id
      refine ⟨fun hq => exec_reply_change h hr hq, fun g k hq => ?_⟩
      rw [exec_reply_join h hr hq]
      exact ⟨fun hs => by rw [show fld a.pkt.body 4 1 = 0 from hs]; rfl, fun hs => by rw [show fld a.pkt.body 4 1 = 1 from hs]; rfl,
        fun hs => by rw [show fld a.pkt.body 4 1 = 2 from hs]; rfl, fun hs => congrArg _ (joinReply_refused hs)⟩
    case retry =>
      intro asked
      refine ⟨fun hr => ?_, fun r hr ht => ?_⟩
      · obtain hr | ⟨r, hr, ht⟩ := hr
        · exact exec_routeMessageRetry_none h hr
        · exact exec_routeMessageRetry_early h hr ht
      · rw [exec_routeMessageRetry_due h hr ht]
        intro v
        cases hp : r.port <;> simp only [sendRequest, hp, Option.elim] <;> rfl
    case event =>
      intro m
      exact ⟨fun k hm hk => exec_event h (onceFrom_answered hm hk), fun hk => exec_event h (onceFrom_new hk rfl)⟩
  case records =>
    refine ⟨fun h => exec_control h (fun s gid _ n _ _ => s.formedIn gid n) rfl, fun h => ?_⟩
    have hexec : exec .ready s = .next ((u.readyIn gid g n).afterAccept i) := exec_control h (fun s gid g n _ _ => s.readyIn gid g n) rfl
    refine ⟨fun k hp hg hs => ?_, fun ho => ?_⟩
    · rw [hexec, readyIn_parent hp]
      have hready := groupReady_forming hg hs
      exact ⟨fun j hj => by rw [hready.1 j hj], fun hj => by rw [hready.2 hj]⟩
    · rw [hexec]
      by_cases hp : g.parent = some n.idx
      · rw [readyIn_parent hp, groupReady_other (ho.resolve_left (Classical.not_not.mpr hp))]
      · rw [readyIn_other hp]
  case timers =>
    refine ⟨fun ht hs => ?_, fun ho => ?_, fun hl hn hs => ?_, fun ho => ?_, fun c hc hn ht => ?_, fun ho => ?_⟩
    · rw [exec_formationTimeout_due h hg ht]
      have hfail := formFail_forming hg hs 1
      exact ⟨fun j hj => congrArg _ (hfail.1 j hj), fun hj => congrArg _ (hfail.2 hj)⟩
    · by_cases ht : g.formBy ≤ s.tclk
      · rw [exec_formationTimeout_due h hg ht, formFail_other hg (ho.resolve_left (Nat.not_lt.mpr ht))]
      · exact exec_formationTimeout_early fun g' hg' => Option.some.inj (hg.symm.trans hg') ▸ Nat.not_le.mp ht
    · exact (exec_groupTimeout h).trans (congrArg _ (groupTimeout_leader hg hl hn hs))
    · exact (exec_groupTimeout h).trans (congrArg _ (groupTimeout_other hg ho))
    · exact (exec_decisionWaitTimeout h).trans (congrArg _ (decisionWait_due hg hc hn ht))
    · exact (exec_decisionWaitTimeout h).trans (congrArg _ (decisionWait_other hg ho))
  case none => exact ⟨exec_formationTimeout_none hg, exec_groupTimeout_none hg, exec_decisionWaitTimeout_none hg⟩
end

section
/-! PROOFS. Heads of input buffers forwarded, on the escape, or aged out (R202, R203, R211, R331): O31. -/

namespace Sys2Proof.Laws
open Sys2Proof.Machine

/-! ### The first pool that anything is done for -/

/-- One pool served, where none before it was. -/
def serveFirst (f : State → Nat → State × Bool) (x : State × Bool) (pool : Nat) : State × Bool := if x.2 then x else f x.1 pool

section Fold

variable {f : State → Nat → State × Bool} {s t : State}

theorem foldl_serveFirst_done (l : List Nat) : l.foldl (serveFirst f) (t, true) = (t, true) := by
  induction l with
  | nil => rfl
  | cons x l ih => exact ih

theorem foldl_serveFirst_idle {l : List Nat} (h : ∀ x ∈ l, f s x = (s, false)) : l.foldl (serveFirst f) (s, false) = (s, false) := by
  induction l with
  | nil => rfl
  | cons x l ih =>
    have hx : serveFirst f (s, false) x = (s, false) := h x (by simp)
    rw [List.foldl_cons, hx, ih fun y hy => h y (by simp [hy])]

/-- The pools before the one that is served change nothing, and those behind it are not looked at. -/
theorem foldl_serveFirst_of {l before after : List Nat} {pool : Nat} (hl : l = before ++ pool :: after) (hb : ∀ x ∈ before, f s x = (s, false))
    (hp : f s pool = (t, true)) : l.foldl (serveFirst f) (s, false) = (t, true) := by
  have hx : serveFirst f (s, false) pool = (t, true) := hp
  rw [hl, List.foldl_append, foldl_serveFirst_idle hb, List.foldl_cons, hx, foldl_serveFirst_done]

end Fold

section Heads

variable {s : State} {inport pool vc : Nat}

/-- The head of a pool of an input buffer. -/
def headOfPool (u : State) (inport pool : Nat) : Option Waiting := (u.inputOf inport).find? fun w => poolOf w.pkt.vc w.pkt.epoch == pool

theorem exec_packetForward (h : s.live = true) (hi : inOk inport = true) (hv : vc ≤ 11) {t : State} {done : Bool}
    (ht : (poolsOf vc).foldl (serveFirst fun u pool => u.forwardPool inport pool) (s, false) = (t, done)) :
    exec (.packetForward inport ⟨vc, false⟩) s = .next t :=
  (next_live (b := s.live) rfl (by simp [hi, hv]) h).trans (congrArg (fun x : State × Bool => Host.Outcome.next x.1) ht)

theorem exec_packetForward_bad (h : s.live = true) (hi : inOk inport = true) (hv : vc ≤ 11) {t : State} {done : Bool}
    (ht : (poolsOf vc).foldl (serveFirst fun u pool => u.flitBad inport pool) (s, false) = (t, done)) :
    exec (.packetForward inport ⟨vc, true⟩) s = .next t :=
  (next_live (b := s.live) rfl (by simp [hi, hv]) h).trans (congrArg (fun x : State × Bool => Host.Outcome.next x.1) ht)

theorem forwardPool_stays (h : headOfPool s inport pool = none ∨ ∃ w, headOfPool s inport pool = some w ∧ s.grant inport w = .wait) :
    s.forwardPool inport pool = (s, false) := by
  obtain h | ⟨w, h, hw⟩ := h <;> unfold headOfPool at h
  · simp only [State.forwardPool, h]
  · simp only [State.forwardPool, h, hw]

theorem flitBad_none (h : headOfPool s inport pool = none) : s.flitBad inport pool = (s, false) := by
  have hnone : (s.inputOf inport).any (fun w => poolOf w.pkt.vc w.pkt.epoch == pool) = false := by simpa [headOfPool] using h
  simp only [State.flitBad, hnone, Bool.false_eq_true, if_false]

section Head

variable {w : Waiting} (hw : headOfPool s inport pool = some w)
include hw

theorem flitBad_head : s.flitBad inport pool = ((s.unbuffer inport pool).discard inport 0x4D, true) := by
  have hsome : (s.inputOf inport).any (fun w => poolOf w.pkt.vc w.pkt.epoch == pool) = true :=
    List.any_eq_true.mpr ⟨w, List.mem_of_find?_eq_some hw, List.find?_some (p := fun w : Waiting => poolOf w.pkt.vc w.pkt.epoch == pool) hw⟩
  simp only [State.flitBad, hsome, if_true]

theorem forwardPool_discards {i : Nat} (hg : s.grant inport w = .discard i) :
    s.forwardPool inport pool = ((s.unbuffer inport pool).discard inport i, true) := by
  unfold headOfPool at hw
  simp only [State.forwardPool, hw, hg]

variable {p via : Nat} {k : Packet} (hg : s.grant inport w = .go p k via)
include hg

theorem forwardPool_tooLong (hl : (s.unbuffer inport pool).portPayload p < k.plen) :
    s.forwardPool inport pool = ((s.unbuffer inport pool).discard inport 0x43, true) := by
  unfold headOfPool at hw
  simp only [State.forwardPool, hw, hg, if_pos hl]

theorem forwardPool_goes (hl : k.plen ≤ (s.unbuffer inport pool).portPayload p) :
    let q := ((s.unbuffer inport pool).modPort inport fun x => { x with lastPick := 2 * p + ofBool (k.phase == 3) }).queueOut p inport w.tc k via
    let c := if inport = 16 then q else q.count 0x05 p (0x20 + k.vc) 1
    s.forwardPool inport pool = (c.traceHop inport p k (c.tclk - w.entered), true) := by
  unfold headOfPool at hw
  simp only [State.forwardPool, hw, hg, if_neg (Nat.not_lt.mpr hl)]

end Head

theorem residenceExpire_eq :
    s.residenceExpire inport vc = (poolsOf vc).foldl (fun u pool =>
      if (headOfPool u inport pool).any fun w => decide (w.entered + u.hopResidence ≤ u.tclk) then (u.unbuffer inport pool).discard inport 0x49 else u)
        (if inport = 16 then (List.range 16).foldl (fun u p => u.nearExpire p vc) s else s) := by
  refine congrArg (fun f : State → Nat → State =>
    (poolsOf vc).foldl f (if inport = 16 then (List.range 16).foldl (fun u p => u.nearExpire p vc) s else s)) ?_
  funext u pool
  unfold headOfPool
  cases (u.inputOf inport).find? (fun w => poolOf w.pkt.vc w.pkt.epoch == pool) <;> simp

end Heads

end Sys2Proof.Laws

open Sys2Proof.Machine Sys2Proof.Laws

/-- Settles O31, by the first pool of the VC whose head is granted a port or is to be discarded. -/
theorem headsForwarded : Obligations.HeadsForwarded := by
  refine fun s inport vc h hi hv => ?_
  intro headOf stays
  have idle : ∀ x, stays x → s.forwardPool inport x = (s, false) := fun x hx => forwardPool_stays hx
  have served : ∀ {before after : List Nat} {pool : Nat} {t : State}, poolsOf vc = before ++ pool :: after → (∀ x ∈ before, stays x) →
      s.forwardPool inport pool = (t, true) → exec (.packetForward inport ⟨vc, false⟩) s = .next t := fun hl hb hp =>
    exec_packetForward h hi hv (foldl_serveFirst_of hl (fun x hx => idle x (hb x hx)) hp)
  refine ⟨fun before pool after w hl hb hw => ?head, fun hb => ?none, fun before pool after w hl hb hw => ?badHead, fun hb => ?badNone, ?escape, ?residence⟩
  case head =>
    intro b
    exact ⟨fun p k via hg hfit => served hl hb (forwardPool_goes hw hg hfit), fun p k via hg hlong => served hl hb (forwardPool_tooLong hw hg hlong),
      fun i hg => served hl hb (forwardPool_discards hw hg)⟩
  case none => exact exec_packetForward h hi hv (foldl_serveFirst_idle fun x hx => idle x (hb x hx))
  case badHead => exact exec_packetForward_bad h hi hv (foldl_serveFirst_of hl (fun x hx => flitBad_none (hb x hx)) (flitBad_head hw))
  case badNone => exact exec_packetForward_bad h hi hv (foldl_serveFirst_idle fun x hx => flitBad_none (hb x hx))
  case escape => exact next_live (b := s.live) rfl (by simp [hi, hv]) h
  case residence =>
    have hexec : exec (.residenceExpire inport vc) s = .next (s.residenceExpire inport vc) := next_live (b := s.live) rfl (by simp [hi, hv]) h
    exact hexec.trans (congrArg _ residenceExpire_eq)
end

section
/-! PROOFS. The timers of a QP end, and what PACKET_INJECT sends (R145, R169, R178, R180–R183, R200, R223, R225, R331): O30. -/

namespace Sys2Proof.Laws
open Sys2Proof.Machine

/-! ### Timers (R180, R182, R183) -/

section Timers

variable {s : State} {q n : Nat} {x : Qp} {e : Endpoint}

theorem exec_retransmitTimeout (h : s.live = true) (hq : q < 16777216) (hn : n ≤ 65535) : exec (.retransmitTimeout q n) s = .next (s.expire q n) :=
  next_live (b := s.live) rfl (by simp [hq, hn]) h

/-- Where no response has arrived for an end, none acts before its timer is compared. -/
theorem latchResponses_none
    (h : (s.arrived.any fun a => a.pkt.qp == q && decide (0x10 ≤ a.pkt.ty ∧ a.pkt.ty ≤ 0x12) && (tget s.qps q).any fun x => x.peer a.pkt == n) = false)
    (i : Nat) : State.latchResponses i s q n = s := by
  cases i with
  | zero => rfl
  | succ i => simp only [State.latchResponses, h, Bool.false_eq_true, if_false]

theorem timer_due {d : Nat} (hs : e.state = .ready) (hd : d ≤ s.tclk) (ho : e.out ≠ []) :
    ¬ (s.tclk < d ∨ e.state ≠ .ready ∨ e.out.isEmpty = true) := by
  simp [hs, hd, ho]

section Expiry

variable (hx : tget (State.latchResponses s.arrived.length s q n).qps q = some x)
  (he : (State.latchResponses s.arrived.length s q n).endpoint q n = some e)
include hx he

theorem expire_untimed (ht : e.timer = none) : s.expire q n = State.latchResponses s.arrived.length s q n := by
  simp only [State.expire, hx, he, ht]

theorem expire_early {d : Nat} (ht : e.timer = some d) (h : (State.latchResponses s.arrived.length s q n).tclk < d ∨ e.out = []) :
    s.expire q n = State.latchResponses s.arrived.length s q n := by
  have hidle : (State.latchResponses s.arrived.length s q n).tclk < d ∨ e.state ≠ .ready ∨ e.out.isEmpty = true := by
    rcases h with h | h
    · exact .inl h
    · exact .inr (.inr (by rw [h]; rfl))
  simp only [State.expire, hx, he, ht, if_pos hidle]

variable {d : Nat} (hs : e.state = .ready) (ht : e.timer = some d) (hd : d ≤ (State.latchResponses s.arrived.length s q n).tclk) (ho : e.out ≠ [])
include hs ht hd ho

theorem expire_again (hr : e.retries < x.retry) :
    let u := State.latchResponses s.arrived.length s q n
    let e' := u.shrink x { e.redoAll with retries := e.retries + 1 }
    s.expire q n = u.modEnd q n fun _ => { e' with timer := some (u.tclk + rtoNow x e') } := by
  have hdue := timer_due hs hd ho
  simp only [State.expire, hx, he, ht, if_neg hdue, if_neg (Nat.not_le.mpr hr)]

theorem expire_gives_up (hr : x.retry ≤ e.retries) :
    s.expire q n = (State.latchResponses s.arrived.length s q n).qpError q n .xportRetryExceeded := by
  have hdue := timer_due hs hd ho
  simp only [State.expire, hx, he, ht, if_neg hdue, if_pos hr]

end Expiry

section Delay

variable (h : s.live = true) (hq : q < 16777216) (hn : n ≤ 65535) (he : s.endpoint q n = some e)
include h hq hn he

theorem exec_ackDelayExpire_due {d : Nat} (hs : e.state = .ready) (ht : e.ackDue = some d) (hd : d ≤ s.tclk) :
    exec (.ackDelayExpire q n) s = .next (s.owe q n 0 0 0 0 e.ackEcho) := by
  refine (next_live (b := s.live) rfl (by simp [hq, hn]) h).trans (congrArg _ ?_)
  simp only [he, ht, hd, hs, and_self, if_true]

theorem exec_ackDelayExpire_early (ht : e.ackDue = none ∨ e.state ≠ .ready ∨ ∃ k, e.ackDue = some k ∧ s.tclk < k) :
    exec (.ackDelayExpire q n) s = .next s := by
  refine (next_live (b := s.live) rfl (by simp [hq, hn]) h).trans (congrArg _ ?_)
  cases hk : e.ackDue with
  | none => simp only [he, hk]
  | some k =>
    have hidle : ¬ (k ≤ s.tclk ∧ e.state = .ready) := by
      rintro ⟨hle, hready⟩
      rcases ht with ht | ht | ⟨k', ht, hlt⟩
      · exact absurd (hk.symm.trans ht) (by simp)
      · exact ht hready
      · obtain rfl := Option.some.inj (hk.symm.trans ht)
        omega
    simp only [he, hk, if_neg hidle]

end Delay

end Timers

/-! ### PACKET_INJECT (R145, R200) -/

section Inject

variable {s : State} {q n : Nat} {x : Qp} {e : Endpoint}

theorem exec_packetInject (h : s.live = true) (hq : q < 16777216) (hn : n ≤ 65535) : exec (.packetInject q n) s = .next (s.injectPacket q n) :=
  next_live (b := s.live) rfl (by simp [hq, hn]) h

/-- An operation gathers at once where it needs no channel, or an ME is free. -/
theorem gathers_now (h : e.gathers x = none ∨ s.meFree x.home = true) : (e.gathers x).bind (s.gatherWaits x.home) = none := by
  obtain h | h := h
  · rw [h]
    rfl
  · cases e.gathers x with
    | none => rfl
    | some id => simp only [Option.bind_some, State.gatherWaits, h, Bool.true_or, if_true]

theorem gathers_later {id : Nat} (hg : e.gathers x = some id) (hf : s.meFree x.home = false) (hs : s.meServes x.home id = false)
    (hr : ((mesOf x.home).any fun u => (tgetD s.mes u {}).ready.any fun r => r.serves == some id && r.pkt.isNone) = false) :
    (e.gathers x).bind (s.gatherWaits x.home) = some (s.serveLater x.home id none) := by
  simp only [hg, Option.bind_some, State.gatherWaits, hf, hs, hr, Bool.or_self, Bool.false_eq_true, if_false]

variable (hx : tget s.qps q = some x) (he : s.endpoint q n = some e) (hs : e.state = .ready)
include hx he hs

theorem injectPacket_owed {r : Reply} {l : List Reply} (hr : e.replies = r :: l) : s.injectPacket q n = s.sendReply x q n e r := by
  simp only [State.injectPacket, hx, he, hs, ne_eq, not_true_eq_false, if_false, hr]

variable (hr : e.replies = [])
include hr

theorem injectPacket_gathers {t : State} (hw : (e.gathers x).bind (s.gatherWaits x.home) = some t) : s.injectPacket q n = t := by
  simp only [State.injectPacket, hx, he, hs, ne_eq, not_true_eq_false, if_false, hr, hw]

variable (hw : (e.gathers x).bind (s.gatherWaits x.home) = none)
include hw

theorem injectPacket_again {o : Outstanding} (ho : (e.out.find? fun o => !o.again.isEmpty) = some o) :
    s.injectPacket q n = if e.paced (o.countAgain x.payload) s.tclk then s.sendAgain x q n o else s := by
  simp only [State.injectPacket, hx, he, hs, ne_eq, not_true_eq_false, if_false, hr, hw, ho]

theorem injectPacket_next (ho : (e.out.find? fun o => !o.again.isEmpty) = none) : s.injectPacket q n = s.sendNext x q n e := by
  simp only [State.injectPacket, hx, he, hs, ne_eq, not_true_eq_false, if_false, hr, hw, ho]

end Inject

/-! ### The next new packet (R178, R223, R225) -/

section Next

variable {s : State} {q n : Nat} {x : Qp} {e : Endpoint}

theorem sendNext_empty (hq : e.queue = []) : s.sendNext x q n e = s := by
  simp only [State.sendNext, hq]

variable {m : Msg} {rest : List Msg} (hq : e.queue = m :: rest)
include hq

theorem sendNext_waits (hm : e.mayStart m (s.opFor m) = false) : s.sendNext x q n e = s := by
  simp only [State.sendNext, hq, hm, Bool.not_false, if_true]

variable {t : State} (hm : e.mayStart m (s.opFor m) = true)
include hm

theorem sendNext_unread {err : MemErr} (hb : s.build x m (s.opFor m) = (t, .error err)) :
    s.sendNext x q n e =
      (t.endedBy err (s.opFor m).job.f (s.opFor m).job.layer (s.opFor m).job.oper).endQpOp (s.opFor m).id { status := .memUncorrectable } := by
  simp only [State.sendNext, hq, hm, hb, Bool.not_true, Bool.false_eq_true, if_false]

variable {b : Built} (hb : s.build x m (s.opFor m) = (t, .ok b))
include hb

theorem sendNext_held (h : 512 < e.packets + 1 + b.n ∨ e.admits b.bytes s.tclk = false) : s.sendNext x q n e = s := by
  have hheld : 512 < e.packets + 1 + b.n ∨ (!e.admits b.bytes s.tclk) = true := by simpa using h
  simp only [State.sendNext, hq, hm, hb, Bool.not_true, Bool.false_eq_true, if_false, if_pos hheld]

theorem sendNext_sent (hn : e.packets + 1 + b.n ≤ 512) (ha : e.admits b.bytes s.tclk = true) :
    let p := { b.pkt with psn := e.psn, ackreq := b.pkt.last || (e.sinceReq + 1) % 64 == 0 }
    let d := t.drawFor n x.tc p.idx m.inter
    let m' := { m with next := m.next + b.step, inter := d.2 }
    let entry : Outstanding := { psn := e.psn, op := m.op, pkt := p, bytes := b.bytes, first := b.first, n := b.n, answer := p.ty == 3, sentAt := d.1.tclk }
    let u := d.1.modEnd q n fun y => { y with
      psn := y.psn + 1, sinceReq := e.sinceReq + 1, out := y.out ++ [entry], tLast := d.1.tclk
      timer := if y.out.isEmpty then some (d.1.tclk + rtoBase x y) else y.timer
      queue := if m'.count ≤ m'.next then rest else m' :: rest }
    let v := if p.ty = 1 ∨ p.ty = 4 ∨ m'.carriesData then u.countFn x.f 0 p.plen else u
    s.sendNext x q n e = (v.noteNonce x n m').sendCopy x q n p d.2 := by
  have hfree : ¬ (512 < e.packets + 1 + b.n ∨ (!e.admits b.bytes s.tclk) = true) := by simp [ha, hn]
  simp only [State.sendNext, hq, hm, hb, Bool.not_true, Bool.false_eq_true, if_false, if_neg hfree]

end Next

end Sys2Proof.Laws

open Sys2Proof.Machine Sys2Proof.Laws

/-- Settles O30: the timers over the state in which what has arrived has acted, the injection in the order of what an end sends. -/
theorem endsSendAndExpire : Obligations.EndsSendAndExpire := by
  refine ⟨fun s q n d x e h hq hn => ?timers, fun s q n x e h hq hn hx he hs => ?inject⟩
  case timers =>
    refine ⟨?_, fun i ha => latchResponses_none ha i, fun _ he hs ht hd => exec_ackDelayExpire_due h hq hn he hs ht hd,
      fun _ he ht => exec_ackDelayExpire_early h hq hn he ht⟩
    intro u hx he hs
    have hexec := exec_retransmitTimeout (s := s) h hq hn
    refine ⟨fun ht hd ho hr => hexec.trans (congrArg _ (expire_again hx he hs ht hd ho hr)),
      fun ht hd ho hr => hexec.trans (congrArg _ (expire_gives_up hx he hs ht hd ho hr)), fun hi => hexec.trans (congrArg _ ?_)⟩
    cases ht : e.timer with
    | none => exact expire_untimed hx he ht
    | some k =>
      refine expire_early hx he ht ?_
      rcases hi with hi | hi | ⟨k', hi, hlt⟩
      · exact absurd (ht.symm.trans hi) (by simp)
      · exact .inr hi
      · exact .inl (Option.some.inj (ht.symm.trans hi) ▸ hlt)
  case inject =>
    intro waits again
    have hexec := exec_packetInject (s := s) h hq hn
    refine ⟨fun r l hr => hexec.trans (congrArg _ (injectPacket_owed hx he hs hr)), fun t hr hw => hexec.trans (congrArg _ (injectPacket_gathers hx he hs hr hw)),
      gathers_now, fun id => gathers_later, fun o hr hw ho => hexec.trans (congrArg _ (injectPacket_again hx he hs hr hw ho)),
      fun hr hw ho hm => hexec.trans (congrArg _ ((injectPacket_next hx he hs hr hw ho).trans (sendNext_empty hm))), fun m rest hr hw ho hm => ?_⟩
    have new : ∀ {t : State}, s.sendNext x q n e = t → exec (.packetInject q n) s = .next t := fun ht =>
      hexec.trans (congrArg _ ((injectPacket_next hx he hs hr hw ho).trans ht))
    exact ⟨fun h0 => new (sendNext_waits hm h0), fun t b h1 hb hfit ha => new (sendNext_sent hm h1 hb hfit ha),
      fun t b h1 hb hno => new (sendNext_held hm h1 hb hno), fun t err h1 hb => new (sendNext_unread hm h1 hb)⟩
end

section
/-! PROOFS. Plans start, issue, stage, wait, resume and end (R258, R292, R298, R300, R306–R311, R328): O43. -/

namespace Sys2Proof.Laws
open Sys2Proof.Machine

/-! ### The commands -/

section Commands

variable {s : State} (h : s.live = true) (id i : Nat)
include h

theorem exec_planStart : exec (.planStart id) s = .next (s.startRun id) := congrArg _ (if_pos h)

theorem exec_stageComplete (n : Nat) : exec (.stageComplete id i n) s = .next (s.stageDone id i n) := congrArg _ (if_pos h)

theorem exec_waitRelease : exec (.waitRelease id) s = .next (s.waitDone id) := congrArg _ (if_pos h)

theorem exec_planResume : exec (.planResume id) s = .next (s.resumeRun id) := congrArg _ (if_pos h)

theorem exec_planEnd : exec (.planEnd id) s = .next (s.finishRun id) := congrArg _ (if_pos h)

theorem exec_bundleIssue : exec (.bundleIssue id ⟨i, none⟩) s = .next (s.issue id i) := congrArg _ (if_pos (by simp [h]))

end Commands

/-! ### PLAN_START (R292) -/

section Start

variable {s t : State} {id : Nat} {r : PlanRun} {p : Plan} {o : Op} {l : List Byte}

theorem startRun_waits (hr : s.run id = some r) (hw : r.started = true ∨ s.gangFree r = false) : s.startRun id = s := by
  have hcond : (r.started || !s.gangFree r) = true := by
    rcases hw with hw | hw <;> simp [hw]
  simp only [State.startRun, hr, hcond, if_true]

theorem startRun_begins (hr : s.run id = some r) (hs : r.started = false) (hf : s.gangFree r = true) (hp : tget s.plans r.plan = some p)
    (ho : s.op r.op = some o) : s.startRun id = s.beginRun r p o := by
  simp only [State.startRun, hr, hs, hf, Bool.not_true, Bool.or_self, Bool.false_eq_true, if_false, hp, ho]

theorem beginRun_unread {e : MemErr} (h : s.readVia { f := r.f, ctx := r.ctx, seg := o.seg } o.near 512 = (t, l, some e)) :
    s.beginRun r p o = (t.endedBy e r.f o.job.layer o.job.oper).endRun r { status := .memUncorrectable } := by
  simp only [State.beginRun, h]

/-- The argument block keeps R292, and its masked registers name ACTIVE segments. -/
def argsGood (t : State) (r : PlanRun) (p : Plan) (l : List Byte) : Prop :=
  argsBad p l = false ∧ ((bitsSet 16 (argMask l)).all fun k => decide ((t.segment r.ctx (argA l k / 2 ^ 60 % 16)).state = .active)) = true

theorem argsGood_iff : argsGood t r p l ↔
    (argsBad p l || !((bitsSet 16 (argMask l)).all fun k => decide ((t.segment r.ctx (argA l k / 2 ^ 60 % 16)).state = .active))) = false := by
  simp only [argsGood, Bool.or_eq_false_iff, Bool.not_eq_false']

section Read

variable (h : s.readVia { f := r.f, ctx := r.ctx, seg := o.seg } o.near 512 = (t, l, none))
include h

theorem beginRun_badArgs (hg : ¬ argsGood t r p l) : s.beginRun r p o = t.endRun r { status := .locPlanArgs } := by
  have hbad := eq_true_of_ne_false (mt argsGood_iff.mpr hg)
  simp only [State.beginRun, h, hbad, if_true]

variable (hg : argsGood t r p l)
include hg

theorem beginRun_inactive
    (hs : ((startSegs (argMask l) (gangMembers r.gang l) p.moves).all fun i => decide ((t.segment r.ctx i).state = .active)) = false) :
    s.beginRun r p o = t.endRun r { status := .locSeg } := by
  have hgood := argsGood_iff.mp hg
  simp only [State.beginRun, h, hgood, hs, Bool.false_eq_true, if_false, Bool.not_false, if_true]

/-- The state in which a run has started with an argument block. -/
def runStarted (t : State) (r : PlanRun) (p : Plan) (l : List Byte) : State :=
  let members := gangMembers r.gang l
  let segs := startSegs (argMask l) members p.moves
  let refs := segs.map fun i => ({ ctx := r.ctx, seg := i, gen := t.segGen r.ctx i } : Ref)
  let slots := (List.range 16).map fun k => if bit p.mask k then some (argRef l k % 256) else none
  t.modRun r.id fun r => { r with
    started := true, startAt := t.tclk, startCycle := t.aclkNow (r.gang.headD 0 / 8), members, slots, mask := argMask l, segs, refs }

theorem beginRun_starts
    (hs : ((startSegs (argMask l) (gangMembers r.gang l) p.moves).all fun i => decide ((t.segment r.ctx i).state = .active)) = true) :
    let members := gangMembers r.gang l
    let u := runStarted t r p l
    let chans : List (Nat × Channel) :=
      (members.zip (List.range members.length)).flatMap fun x => memberChannels u.tclk r.id r.ctx x.2 x.1 p.moves
    s.beginRun r p o = (State.tracePlans { u with channels := chans.foldl (fun t e => tset t e.1 e.2) u.channels } r 0 0).countersChanged := by
  have hgood := argsGood_iff.mp hg
  simp only [State.beginRun, h, hgood, hs, Bool.false_eq_true, if_false, Bool.not_true]
  rfl

end Read

end Start

/-! ### BUNDLE_ISSUE (R298, R307, R308, R328) -/

section Issue

variable {s t : State} {id i : Nat} {r : PlanRun} {p : Plan} {m : Member}

/-- A member that issues nothing now, whatever its bundle. -/
def memberIdle (s : State) (id : Nat) (r : PlanRun) (m : Member) : Prop :=
  r.paused = true ∨ r.failed.isSome = true ∨ m.ended = true ∨ m.waiting.isSome = true ∨ s.runHeld id = true

theorem memberIdle_iff : memberIdle s id r m ↔ (r.paused || r.failed.isSome || m.ended || m.waiting.isSome || s.runHeld id) = true := by
  simp only [memberIdle, Bool.or_eq_true, or_assoc]

/-- A member stands at a plan boundary that it has not passed. -/
def atBoundary (p : Plan) (m : Member) : Prop := (m.pc = 0 ∨ bBoundary (p.bundleAt m.pc) = true) ∧ m.passed = false

theorem atBoundary_iff : atBoundary p m ↔ ((decide (m.pc = 0) || bBoundary (p.bundleAt m.pc)) && !m.passed) = true := by
  simp only [atBoundary, Bool.and_eq_true, Bool.or_eq_true, decide_eq_true_eq, Bool.not_eq_true']

section Member

variable (hr : s.run id = some r) (hp : tget s.plans r.plan = some p) (hm : r.members[i]? = some m)
include hr hp hm

theorem issue_idle (h : memberIdle s id r m) : s.issue id i = s := by
  simp only [State.issue, hr, hp, hm, if_pos (memberIdle_iff.mp h)]

variable (h : ¬ memberIdle s id r m)
include h

theorem issue_last (hpc : p.length ≤ m.pc) : s.issue id i = (s.modMember id i fun m => { m with ended := true }).checkStop := by
  simp only [State.issue, hr, hp, hm, if_neg (mt memberIdle_iff.mpr h), if_pos hpc]

variable (hpc : m.pc < p.length)
include hpc

theorem issue_turn (hb : ¬ atBoundary p m) : s.issue id i = s.issueTurn r p i m := by
  simp only [State.issue, hr, hp, hm, if_neg (mt memberIdle_iff.mpr h), if_neg (Nat.not_le.mpr hpc), if_neg (mt atBoundary_iff.mpr hb)]

theorem issue_boundary (hb : atBoundary p m) {r' : PlanRun} {m' : Member}
    (hr' : ((if m.atBound then s else s.reachBoundary r i m).passBoundary id).run id = some r') (hm' : r'.members[i]? = some m') :
    let t := (if m.atBound then s else s.reachBoundary r i m).passBoundary id
    s.issue id i = if m'.passed then t.issueTurn r' p i m' else t := by
  simp only [State.issue, hr, hp, hm, if_neg (mt memberIdle_iff.mpr h), if_neg (Nat.not_le.mpr hpc), if_pos (atBoundary_iff.mp hb), hr', hm']
  cases m'.passed <;> rfl

end Member

theorem issueTurn_other (ht : r.turn i m = false) : s.issueTurn r p i m = s := by
  simp only [State.issueTurn, ht, Bool.not_false, if_true]

theorem issueTurn_family (ht : r.turn i m = true) (hf : p.family ≠ 0) : s.issueTurn r p i m = s.issueFamily r p i m := by
  simp only [State.issueTurn, ht, Bool.not_true, Bool.false_eq_true, if_false, if_neg hf]

theorem issueTurn_now (ht : r.turn i m = true) (hf : p.family = 0) : s.issueTurn r p i m = s.issueNow r p i m := by
  simp only [State.issueTurn, ht, Bool.not_true, Bool.false_eq_true, if_false, if_pos hf]

theorem stageWaits_iff {b : Nat} : s.stageWaits r m b = true ↔
    (4 ≤ bLop b ∧ bLop b ≤ 6) ∧ (32 ≤ m.stages.length ∨ s.stageHeld r m (stageOf m b r.nextStage []) = true) := by
  simp only [State.stageWaits, Bool.and_eq_true, Bool.or_eq_true, decide_eq_true_eq]

theorem issueNow_waits (hw : s.stageWaits r m (p.bundleAt m.pc) = true) : s.issueNow r p i m = s := by
  simp only [State.issueNow, hw, if_true]

section Now

variable (hw : s.stageWaits r m (p.bundleAt m.pc) = false)
include hw

theorem issueNow_fails {e : Status} {dev : Nat} (hl : s.loadStore r i m (p.bundleAt m.pc) = (t, .error (e, dev))) :
    s.issueNow r p i m = t.failRun r.id e 0 m.cluster m.pc dev := by
  simp only [State.issueNow, hw, Bool.false_eq_true, if_false, hl]

theorem issueNow_issues {loaded : List (Nat × Tile)} (hl : s.loadStore r i m (p.bundleAt m.pc) = (t, .ok loaded)) :
    let b := p.bundleAt m.pc
    let step := if bLp b = true ∧ 1 ≤ bLop b ∧ bLop b ≤ 3 then (if bLop b = 3 then 256 else 4096) else 0
    let v := t.modMember r.id i fun x => Member.control { x with
      tiles := (loaded ++ computed m b).foldl (fun t e => tset t e.1 e.2) m.tiles, passed := false, issued := x.issued + 1, moved := t.tclk
      a := x.a.set (bLa b) ((x.a.getD (bLa b) 0 + step) % 2 ^ 64) } p.bundles b
    s.issueNow r p i m = if bCop b = 5 then v.signalOut r i b else v.checkStop := by
  simp only [State.issueNow, hw, Bool.false_eq_true, if_false, hl, Bool.and_eq_true, decide_eq_true_eq]

end Now

/-! ### A tile that is uncorrectable (R328, R331) -/

/-- A member whose bundle issues now, with a slot that reads a tile. -/
def readsTile (s : State) (id i : Nat) (r : PlanRun) (p : Plan) (m : Member) (k : Nat) : Prop :=
  ¬ memberIdle s id r m ∧ m.pc < p.length ∧ ¬ atBoundary p m ∧ r.turn i m = true ∧ slotReads p (p.bundleAt m.pc) k = true ∧
    s.stageWaits r m (p.bundleAt m.pc) = false

theorem readsTile_iff {k : Nat} : readsTile s id i r p m k ↔
    (r.paused || r.failed.isSome || m.ended || m.waiting.isSome || s.runHeld id || decide (p.length ≤ m.pc) ||
      ((decide (m.pc = 0) || bBoundary (p.bundleAt m.pc)) && !m.passed) || !r.turn i m || !slotReads p (p.bundleAt m.pc) k ||
        s.stageWaits r m (p.bundleAt m.pc)) = false := by
  unfold readsTile
  rw [memberIdle_iff, atBoundary_iff, Bool.not_eq_true, Bool.not_eq_true]
  generalize (r.paused || r.failed.isSome || m.ended || m.waiting.isSome || s.runHeld id) = idle
  generalize ((decide (m.pc = 0) || bBoundary (p.bundleAt m.pc)) && !m.passed) = bound
  simp only [Bool.or_eq_false_iff, decide_eq_false_iff_not, Nat.not_le, Bool.not_eq_false', and_assoc]

/-- A tile read for a member found uncorrectable. -/
def tileRead (s : State) (r : PlanRun) (m : Member) : State :=
  s.draw.2.endedBy { source := 3, tier := 0, unit := m.cluster, position := 0, addr := Config.freeNat s.draw.1 } r.f
    (s.draw.2.jobOf r).layer (s.draw.2.jobOf r).oper

section Bad

variable {k : Nat} (hr : s.run id = some r) (hp : tget s.plans r.plan = some p) (hm : r.members[i]? = some m)
include hr hp hm

theorem tileBad_idle (h : ¬ readsTile s id i r p m k) : s.tileBad id i k = s := by
  have hidle := eq_true_of_ne_false (mt readsTile_iff.mpr h)
  simp only [State.tileBad, hr, hp, hm, hidle, if_true]

variable (h : readsTile s id i r p m k)
include h

theorem tileBad_address {e : Status} (h0 : k = 0) (hf : p.family = 0) (hc : s.tileCheck r (tileAddr m (p.bundleAt m.pc)) (p.bundleAt m.pc) = .error e) :
    s.tileBad id i k = (tileRead s r m).failRun id e 0 m.cluster m.pc (tileAddr m (p.bundleAt m.pc)) := by
  have hreads := readsTile_iff.mp h
  simp only [State.tileBad, hr, hp, hm, hreads, Bool.false_eq_true, if_false, if_pos h0, if_pos hf, hc]
  rfl

theorem tileBad_store (h0 : k = 0) (hc : p.family ≠ 0 ∨ ∃ a, s.tileCheck r (tileAddr m (p.bundleAt m.pc)) (p.bundleAt m.pc) = .ok a) :
    s.tileBad id i k = (tileRead s r m).failRun id .memUncorrectable 0 m.cluster m.pc 0 := by
  have hreads := readsTile_iff.mp h
  have hok : ∃ a, (if p.family = 0 then s.tileCheck r (tileAddr m (p.bundleAt m.pc)) (p.bundleAt m.pc) else .ok 0) = .ok a := by
    by_cases hf : p.family = 0
    · rw [if_pos hf]
      exact hc.resolve_left (Classical.not_not.mpr hf)
    · exact ⟨0, if_neg hf⟩
  obtain ⟨a, ha⟩ := hok
  simp only [State.tileBad, hr, hp, hm, hreads, Bool.false_eq_true, if_false, if_pos h0, ha]
  rfl

theorem tileBad_load {e : Status} {dev : Nat} (h0 : k ≠ 0) (hl : s.loadStore r i m (p.bundleAt m.pc) = (t, .error (e, dev))) :
    s.tileBad id i k = (tileRead t r m).failRun id e 0 m.cluster m.pc dev := by
  have hreads := readsTile_iff.mp h
  simp only [State.tileBad, hr, hp, hm, hreads, Bool.false_eq_true, if_false, if_neg h0, hl]
  rfl

theorem tileBad_slot {l : List (Nat × Tile)} (h0 : k ≠ 0) (hl : s.loadStore r i m (p.bundleAt m.pc) = (t, .ok l)) :
    s.tileBad id i k = (tileRead t r m).failRun id .memUncorrectable k m.cluster m.pc 0 := by
  have hreads := readsTile_iff.mp h
  simp only [State.tileBad, hr, hp, hm, hreads, Bool.false_eq_true, if_false, if_neg h0, hl]
  rfl

end Bad

section Command

variable {k : Nat} (h : s.live = true) (hk : k ≤ 4) (hr : s.run id = some r) (hm : r.members[i]? = some m)
include h hk hr

theorem exec_bundleIssue_idle (ht : s.tileBad id i k = s) : exec (.bundleIssue id ⟨i, some k⟩) s = .next s := by
  refine congrArg _ ((if_pos (by simp [h, hk])).trans ?_)
  simp only [ht, hr, Option.any_some]
  cases r.failed <;> rfl

include hm

/-- The cluster of a tile that fails its plan begins a reset. -/
theorem exec_bundleIssue_bad {w : State} (hf : r.failed.isSome = false) (hw : s.tileBad id i k = w) :
    exec (.bundleIssue id ⟨i, some k⟩) s = .next (if (w.run id).any (·.failed.isSome) then w.innerError m.cluster else w) := by
  have hnone : r.failed.isNone = true := by simpa using hf
  refine congrArg _ ((if_pos (by simp [h, hk])).trans ?_)
  simp only [hw, hr, Option.any_some, hnone, Bool.true_and, State.memberAt, Option.bind_some, hm, Option.elim, List.foldl_cons, List.foldl_nil]

end Command

end Issue

/-! ### STAGE_COMPLETE, WAIT_RELEASE, PLAN_RESUME and PLAN_END (R258, R300, R306, R308, R310) -/

section Steps

variable {s t : State} {id i : Nat} {r : PlanRun} (hr : s.run id = some r)
include hr

section Stage

variable {n : Nat} {m : Member} {st : Stage} (hm : r.members[i]? = some m) (hst : (m.stages.find? fun x => x.id == n) = some st)
include hm hst

theorem stageDone_ok (hc : s.copyStage r st = (t, .ok ())) :
    let u := t.modMember id i fun m => { m with
      stages := m.stages.filter fun x => x.id != n
      signals := m.signals.map fun x => (x.1, x.2.1, x.2.2.filter (· != n))
      stored := if st.op = 5 ∧ st.len * st.rows ≠ 0 then addPath (t.pathOf r.f (t.planLocal r st.far)) m.stored else m.stored }
    let v := (u.countFn r.f 11 (st.rows * st.len)).releaseSignals r i
    s.stageDone id i n = (r.slots.getD st.slot none).elim v fun c => v.addEvc r.ctx c 1 := by
  simp only [State.stageDone, hr, hm, hst, hc]

theorem stageDone_fails {e : Status} {dev : Nat} (hc : s.copyStage r st = (t, .error (e, dev))) :
    let u := t.modMember id i fun m => { m with
      stages := m.stages.filter fun x => x.id != n
      signals := m.signals.filter fun x => !x.2.2.contains n }
    s.stageDone id i n = ((r.slots.getD st.slot none).elim u fun c => u.markEvc r.ctx c).failRun id e 4 m.cluster st.bundle dev := by
  simp only [State.stageDone, hr, hm, hst, hc]

end Stage

/-- The members of a run that have not ended. -/
def runningMembers (r : PlanRun) : List Member := r.members.filter fun m => !m.ended

/-- Every member that has not ended waits. -/
def allWait (r : PlanRun) : Prop := runningMembers r ≠ [] ∧ r.failed = none ∧ (runningMembers r).all (·.waiting.isSome) = true

theorem waitDone_some (h : ¬ allWait r) : s.waitDone id = s := by
  have hcond : ((runningMembers r).isEmpty || r.failed.isSome || !(runningMembers r).all (·.waiting.isSome)) = true := by
    rw [← Bool.not_eq_false]
    refine fun hc => h ?_
    simpa [Bool.or_eq_false_iff, and_assoc, allWait] using hc
  unfold runningMembers at hcond
  simp only [State.waitDone, hr, hcond, if_true]

omit hr in
theorem allWait_cond (h : allWait r) : ((runningMembers r).isEmpty || r.failed.isSome || !(runningMembers r).all (·.waiting.isSome)) = false := by
  obtain ⟨hne, hf, hw⟩ := h
  simp [hne, hf, hw]

section All

variable (h : allWait r)
include h

theorem waitDone_marked {m : Member}
    (hm : ((runningMembers r).find? fun m => m.waiting.any fun w => (r.slots.getD w.1 none).any fun c => evcMarked (s.evc r.ctx c)) = some m) :
    s.waitDone id = s.failRun id .locTriggerAborted 3 m.cluster (m.pc - 1) 0 := by
  have hcond := allWait_cond h
  unfold runningMembers at hcond hm
  simp only [State.waitDone, hr, hcond, Bool.false_eq_true, if_false, hm]

theorem waitDone_over
    (hm : ((runningMembers r).find? fun m => m.waiting.any fun w => (r.slots.getD w.1 none).any fun c => evcMarked (s.evc r.ctx c)) = none) :
    s.waitDone id = if (runningMembers r).all fun m => m.waiting.all (s.waitOver r) then
      s.modRun id fun r => { r with members := r.members.map fun m => { m with waiting := none } } else s := by
  have hcond := allWait_cond h
  unfold runningMembers at hcond hm ⊢
  simp only [State.waitDone, hr, hcond, Bool.false_eq_true, if_false, hm]

end All

/-- A paused run may go on. -/
def mayResume (s : State) (r : PlanRun) : Prop := r.paused = true ∧ s.stopWaits = false ∧ (r.gang.any fun c => s.inService c || s.wantsCluster c) = false

omit hr in
theorem mayResume_iff : mayResume s r ↔ (!r.paused || s.stopWaits || r.gang.any (fun c => s.inService c || s.wantsCluster c)) = false := by
  simp only [mayResume, Bool.or_eq_false_iff, Bool.not_eq_false', and_assoc]

theorem resumeRun_resumes (h : mayResume s r) : s.resumeRun id = (s.modRun id fun r => { r with
    paused := false
    members := r.members.map fun m => if m.ended then m else { m with atBound := false, passed := true } }).tracePlans r 3
      (r.members.headD { cluster := 0 }).pc := by
  have hmay := mayResume_iff.mp h
  simp only [State.resumeRun, hr, hmay, Bool.false_eq_true, if_false]

theorem resumeRun_waits (h : ¬ mayResume s r) : s.resumeRun id = s := by
  have hmay := eq_true_of_ne_false (mt mayResume_iff.mpr h)
  simp only [State.resumeRun, hr, hmay, if_true]

/-- A run of which nothing is left to do. -/
def runFinished (s : State) (id : Nat) (r : PlanRun) : Prop :=
  r.started = true ∧ (r.failed.isSome || r.members.all (·.ended)) = true ∧ s.runQuiet r = true ∧ s.runHeld id = false

omit hr in
theorem runFinished_iff : runFinished s id r ↔
    (!r.started || !(r.failed.isSome || r.members.all (·.ended)) || !s.runQuiet r || s.runHeld id) = false := by
  simp only [runFinished, Bool.or_eq_false_iff, Bool.not_eq_false', and_assoc]

theorem finishRun_ends (h : runFinished s id r) :
    s.finishRun id = (s.tracePlans r 4 (r.members.headD { cluster := 0 }).pc).endRun r { status := r.failed.getD .ok } := by
  have hdone := runFinished_iff.mp h
  simp only [State.finishRun, hr, hdone, Bool.false_eq_true, if_false]

theorem finishRun_waits (h : ¬ runFinished s id r) : s.finishRun id = s := by
  have hdone := eq_true_of_ne_false (mt runFinished_iff.mpr h)
  simp only [State.finishRun, hr, hdone, if_true]

end Steps

end Sys2Proof.Laws

open Sys2Proof.Machine Sys2Proof.Laws

/-- Settles O43, each step of a run from what its own part does (`startRun_begins`, `issue_turn`, `tileBad_slot`, `stageDone_ok` and the others). -/
theorem planStepsTaken : Obligations.PlanStepsTaken := by
  refine fun s id i r h hr => ⟨fun hw => ?waits, fun p o hs hf hp ho => ?start, fun p m hp hm => ?issue, fun n m st hm hst => ?stage, ?wait, ?resume, ?finish⟩
  case waits => exact (exec_planStart h id).trans (congrArg _ (startRun_waits hr hw))
  case start =>
    intro read
    have hbegin : ∀ {u : State}, s.beginRun r p o = u → exec (.planStart id) s = .next u := fun hu =>
      (exec_planStart h id).trans (congrArg _ ((startRun_begins hr hs hf hp ho).trans hu))
    refine ⟨fun t l e hread => hbegin (beginRun_unread hread), fun t l hread => ?_⟩
    exact ⟨fun hg => hbegin (beginRun_badArgs hread hg), fun hg hs => hbegin (beginRun_inactive hread hg hs),
      fun hg hs => hbegin (beginRun_starts hread hg hs)⟩
  case issue =>
    intro idle b atBound
    have issues : ∀ {u : State}, s.issue id i = u → exec (.bundleIssue id ⟨i, none⟩) s = .next u := fun hu =>
      (exec_bundleIssue h id i).trans (congrArg _ hu)
    refine ⟨fun hi => issues (issue_idle hr hp hm hi), fun hi hpc => issues (issue_last hr hp hm hi hpc),
      fun hi hpc hb r' m' hr' hm' => issues (issue_boundary hr hp hm hi hpc hb hr' hm'),
      fun hi hpc hb ht => issues ((issue_turn hr hp hm hi hpc hb).trans (issueTurn_other ht)),
      fun hi hpc hb ht => ⟨fun hf => issues ((issue_turn hr hp hm hi hpc hb).trans (issueTurn_family ht hf)), fun hf => ?_⟩, stageWaits_iff,
      fun k hk => ?_⟩
    · intro st staged got
      have now : ∀ {u : State}, s.issueNow r p i m = u → exec (.bundleIssue id ⟨i, none⟩) s = .next u := fun hu =>
        issues ((issue_turn hr hp hm hi hpc hb).trans ((issueTurn_now ht hf).trans hu))
      exact ⟨fun hw => now (issueNow_waits hw), fun t e dev hw hl => now (issueNow_fails hw hl), fun t loaded hw hl => now (issueNow_issues hw hl)⟩
    · intro reads read fails
      have bad : ∀ {w : State}, reads → s.tileBad id i k = w →
          exec (.bundleIssue id ⟨i, some k⟩) s = .next (if (w.run id).any (·.failed.isSome) then w.innerError m.cluster else w) := fun hreads hw =>
        exec_bundleIssue_bad h hk hr hm (Bool.eq_false_iff.mpr fun hf => hreads.1 (.inr (.inl hf))) hw
      exact ⟨fun e hreads h0 hf hc => bad hreads (tileBad_address hr hp hm hreads h0 hf hc), fun hreads h0 hc => bad hreads (tileBad_store hr hp hm hreads h0 hc),
        fun t e dev hreads h0 hl => bad hreads (tileBad_load hr hp hm hreads h0 hl), fun t l hreads h0 hl => bad hreads (tileBad_slot hr hp hm hreads h0 hl),
        fun hn => exec_bundleIssue_idle h hk hr (tileBad_idle hr hp hm hn)⟩
  case stage =>
    exact ⟨fun t hc => (exec_stageComplete h id i n).trans (congrArg _ (stageDone_ok hr hm hst hc)),
      fun t e dev hc => (exec_stageComplete h id i n).trans (congrArg _ (stageDone_fails hr hm hst hc))⟩
  case wait =>
    exact ⟨fun ha => (exec_waitRelease h id).trans (congrArg _ (waitDone_some hr ha)),
      fun m ha hm => (exec_waitRelease h id).trans (congrArg _ (waitDone_marked hr ha hm)),
      fun ha hm => (exec_waitRelease h id).trans (congrArg _ (waitDone_over hr ha hm))⟩
  case resume =>
    exact ⟨fun hm => (exec_planResume h id).trans (congrArg _ (resumeRun_resumes hr hm)),
      fun hm => (exec_planResume h id).trans (congrArg _ (resumeRun_waits hr hm))⟩
  case finish =>
    exact ⟨fun hm => (exec_planEnd h id).trans (congrArg _ (finishRun_ends hr hm)),
      fun hm => (exec_planEnd h id).trans (congrArg _ (finishRun_waits hr hm))⟩
end

section
/-! PROOFS. Fences end; hangs, long waits and the replay of suspects (R442, R445, R446, R448–R453, R463): O50. -/

namespace Sys2Proof.Laws
open Sys2Proof.Machine

/-! ### The end of a fence's drain (R445) -/

section Drain

variable {s : State} {d : Domain} {x : Fence}

theorem drain_over (h : x.drainBy ≤ s.tclk ∨ s.quietDomain d = true) : ¬ (s.tclk < x.drainBy ∧ (!s.quietDomain d) = true) := by
  rintro ⟨ht, hq⟩
  rcases h with h | h
  · omega
  · simp [h] at hq

variable (hx : (s.recov.fences.find? fun x => x.domain == d && !x.ended) = some x)
include hx

theorem drainEnd_early (ht : s.tclk < x.drainBy) (hq : s.quietDomain d = false) : s.drainEnd d = s := by
  have hcond : s.tclk < x.drainBy ∧ (!s.quietDomain d) = true := ⟨ht, by rw [hq]; rfl⟩
  simp only [State.drainEnd, hx, if_pos hcond]

variable (h : x.drainBy ≤ s.tclk ∨ s.quietDomain d = true)
include h

theorem drainEnd_package (hd : d = .package) : s.drainEnd d = s.packageEnd := by
  have hover := drain_over h
  subst hd
  simp only [State.drainEnd, hx, if_neg hover]

theorem drainEnd_retires {c k : Nat} (hd : d = .cluster c) (hk : x.retire = some k) : s.drainEnd d = s.retireEnd c k := by
  have hover := drain_over h
  subst hd
  simp only [State.drainEnd, hx, if_neg hover, hk]

theorem drainEnd_answers (hd : d ≠ .package) (hk : x.retire = none) : s.drainEnd d =
    (s.answerWork d).modRecov fun r => { r with fences := updAll (fun x => x.domain == d) (fun x => { x with ended := true }) r.fences } := by
  have hover := drain_over h
  cases d with
  | package => exact absurd rfl hd
  | function f => simp only [State.drainEnd, hx, if_neg hover]
  | port p => simp only [State.drainEnd, hx, if_neg hover]
  | cluster c => simp only [State.drainEnd, hx, if_neg hover, hk]
  | gallery g => simp only [State.drainEnd, hx, if_neg hover]

end Drain

theorem exec_fenceDrainEnd {s : State} (h : s.live = true) {d : Domain} (hd : d.ok = true) : exec (.fenceDrainEnd d) s = .next (s.drainEnd d) :=
  next_live (b := s.live) rfl hd h

/-! ### The end of a reset (R446, R463) -/

section Reset

variable {s : State} {d : Domain}

/-- The state in which the fence of a domain is lifted and the domain cleared. -/
def fenceLifted (s : State) (d : Domain) : State :=
  (s.modRecov fun r => { r with
    fences := r.fences.filter fun x => x.domain != d
    replays := updAll (fun x => (domClusters d).contains x.cluster) (fun x => { x with ready := true, startAt := s.tclk }) r.replays }).clearDomain d

theorem resetDone_none (hx : (s.recov.fences.find? fun x => x.domain == d && x.ended) = none) : s.resetDone d = s := by
  simp only [State.resetDone, hx]

theorem resetDone_port {p : Nat} {x : Fence} (hx : (s.recov.fences.find? fun x => x.domain == .port p && x.ended) = some x) :
    s.resetDone (.port p) = ((((fenceLifted s (.port p)).retireLate (.port p)).endRequest (.port p) 0).advanceAll).checkStop := by
  simp only [State.resetDone, hx, fenceLifted]

theorem resetDone_gallery {g : Nat} {x : Fence} (hx : (s.recov.fences.find? fun x => x.domain == .gallery g && x.ended) = some x) :
    s.resetDone (.gallery g) = ((((fenceLifted s (.gallery g)).retireLate (.gallery g)).endRequest (.gallery g) 0).advanceAll).checkStop := by
  simp only [State.resetDone, hx, fenceLifted]

/-- A cluster reset for the third time in 10 minutes is retired, unless its suspects are to be replayed. -/
theorem resetDone_cluster {c : Nat} {x : Fence} (hx : (s.recov.fences.find? fun x => x.domain == .cluster c && x.ended) = some x) :
    let u := fenceLifted s (.cluster c)
    let v := if 3 ≤ ((u.cluster c).recent u.tclk).length ∧ u.replaying c = false then
        (u.modRecov fun r => { r with retires := r.retires.filter fun x => x.1 != c }).switchCluster c 3
      else u.retireLate (.cluster c)
    s.resetDone (.cluster c) = ((v.endRequest (.cluster c) 0).advanceAll).checkStop := by
  intro u v
  have hcond : (decide (3 ≤ ((u.cluster c).recent u.tclk).length) && !u.replaying c) = true ↔
      3 ≤ ((u.cluster c).recent u.tclk).length ∧ u.replaying c = false := by
    rw [Bool.and_eq_true, decide_eq_true_eq, Bool.not_eq_true']
  have hv : v = if decide (3 ≤ ((u.cluster c).recent u.tclk).length) && !u.replaying c then
        (u.modRecov fun r => { r with retires := r.retires.filter fun x => x.1 != c }).switchCluster c 3
      else u.retireLate (.cluster c) := (ite_congr (propext hcond) (fun _ => rfl) fun _ => rfl).symm
  simp only [State.resetDone, hx]
  rw [hv]
  rfl

end Reset

/-! ### Hangs and long waits (R448–R450) -/

section Hangs

variable {s : State} {e : Engine}

theorem hang_reported (hh : s.hangs e = true) (hr : s.resetting (engineDomain e) = false) :
    let u := (s.keepGraph 1 (s.engineNode e)).event 4
    s.hang e = (if u.replayOn && !(domClusters (engineDomain e)).any s.replaying then u.holdSuspects e else u).beginReset (engineDomain e) := by
  simp only [State.hang, hh, hr, Bool.not_true, Bool.or_self, Bool.false_eq_true, if_false]

theorem hang_none (h : s.hangs e = false ∨ s.resetting (engineDomain e) = true) : s.hang e = s := by
  have hcond : (!s.hangs e || s.resetting (engineDomain e)) = true := by
    rcases h with h | h <;> simp [h]
  simp only [State.hang, hcond, if_true]

theorem exec_engineHang (h : s.live = true) (he : e.ok = true) : exec (.engineHang e) s = .next (s.hang e) := next_live (b := s.live) rfl he h

theorem exec_engineHang_none (hn : s.hangs e = false ∨ s.resetting (engineDomain e) = true) : exec (.engineHang e) s = .next s := by
  have hexec : exec (.engineHang e) s = if e.ok = true then .next (if s.live = true then s.hang e else s) else .next s := rfl
  rw [hexec, hang_none hn, ite_self, ite_self]

theorem exec_longWait_reported {w : LongWaiter} {n : WNode} (h : s.live = true) (hw : w.ok = true) (hn : s.longRoot w = some n) :
    exec (.longWait w) s = .next (s.keepGraph 2 n) := by
  refine (next_live (b := s.live) rfl hw h).trans (congrArg _ ?_)
  simp only [hn]

theorem exec_longWait_none {w : LongWaiter} (h : s.live = true) (hw : w.ok = true) (hn : s.longRoot w = none) : exec (.longWait w) s = .next s := by
  refine (next_live (b := s.live) rfl hw h).trans (congrArg _ ?_)
  simp only [hn]

end Hangs

/-! ### The replay of suspects (R453) -/

section Replays

variable {s : State} {c : Nat} {r : Replay} (hr : s.replayOf c = some r)
include hr

section Suspect

variable {x : Nat × Nat} {rest : List (Nat × Nat)} (ht : r.todo = x :: rest) (hready : r.ready = true)
include ht hready

theorem nextSuspect_early (hd : s.tclk < r.startAt + s.replayTimeout) : s.nextSuspect c true = s := by
  simp only [State.nextSuspect, hr, ht, hready, hd, and_self, or_true, if_true]

theorem nextSuspect_guilty (hd : r.startAt + s.replayTimeout ≤ s.tclk) :
    s.nextSuspect c true = s.modReplay c fun r => { r with todo := rest, startAt := s.tclk, guilty := r.guilty ++ [x] } := by
  simp only [State.nextSuspect, hr, ht, hready, Bool.not_true, Bool.false_eq_true, false_or, true_and, if_neg (Nat.not_lt.mpr hd), if_true]

theorem nextSuspect_cleared :
    s.nextSuspect c false = s.modReplay c fun r => { r with todo := rest, startAt := s.tclk, clean := r.clean ++ [x] } := by
  simp only [State.nextSuspect, hr, ht, hready, Bool.not_true, Bool.false_eq_true, false_and, or_self, if_false]

end Suspect

/-- What is held for a replay is released once no suspect is left, and a cluster that is to be retired is. -/
theorem endReplay_ends (hready : r.ready = true) (ht : r.todo = []) :
    let all := r.clean.isEmpty && decide (2 ≤ r.guilty.length)
    let st := fun (k : Nat × Nat) => if all then some Status.devFenced else if r.guilty.contains k then some .devGuilty else none
    let t := s.modRecov fun x => { x with replays := x.replays.filter fun y => y.cluster != c }
    let u := r.runs.foldl (fun (s : State) x => s.releaseRun (fun y => st (s.runCtx y)) x) t
    let w := (r.plan.bind u.run).elim u fun p => u.releasePlan (st (p.f, p.ctx)) c p.id
    let v := w.keepGraph 4 (w.engineNode (.tve c)) r.guilty
    s.endReplay c = (if all then v.retire c 3 else if 3 ≤ ((v.cluster c).recent v.tclk).length then v.retire c 3 else v).advanceAll.checkStop := by
  intro all st t u w v
  have hcond : ¬ ((!r.ready) = true ∨ (!r.todo.isEmpty) = true) := by
    rw [hready, ht]
    simp
  cases hp : r.plan.bind u.run with
  | none =>
    simp only [u, t, st, all] at hp
    simp only [State.endReplay, hr, if_neg hcond, hp, v, w, u, t, st, all, Option.elim]
  | some p =>
    simp only [u, t, st, all] at hp
    simp only [State.endReplay, hr, if_neg hcond, hp, v, w, u, t, st, all, Option.elim]

end Replays

section Commands

variable {s : State} (h : s.live = true)
include h

theorem exec_resetComplete_port {p : Nat} (hp : portOk p = true) :
    exec (.domainResetComplete (.port p)) s = .next (s.resetDone (.port p)) :=
  (if_pos (show (Domain.port p).ok = true from hp)).trans (congrArg _ (if_pos h))

theorem exec_resetComplete_cluster {c : Nat} (hc : clusterOk c = true) :
    exec (.domainResetComplete (.cluster c)) s = .next (s.resetDone (.cluster c)) :=
  (if_pos (show (Domain.cluster c).ok = true from hc)).trans (congrArg _ (if_pos h))

theorem exec_resetComplete_gallery {g : Nat} (hg : galOk g = true) :
    exec (.domainResetComplete (.gallery g)) s = .next (s.resetDone (.gallery g)) :=
  (if_pos (show (Domain.gallery g).ok = true from hg)).trans (congrArg _ (if_pos h))

/-- Where no reset of a domain is under way, none ends. -/
theorem exec_resetComplete_none {d : Domain} (hd : d.ok = true) (hx : (s.recov.fences.find? fun x => x.domain == d && x.ended) = none) :
    exec (.domainResetComplete d) s = .next s := by
  cases d with
  | package => rfl
  | function f => exact if_pos hd
  | port p => rw [exec_resetComplete_port h hd, resetDone_none hx]
  | cluster c => rw [exec_resetComplete_cluster h hd, resetDone_none hx]
  | gallery g => rw [exec_resetComplete_gallery h hd, resetDone_none hx]

theorem exec_replayTimeout {c : Nat} (hc : clusterOk c = true) : exec (.replayTimeout c) s = .next (s.nextSuspect c true) :=
  next_live (b := s.live) rfl hc h

theorem exec_suspectReplayComplete {c : Nat} (hc : clusterOk c = true) : exec (.suspectReplayComplete c) s = .next (s.nextSuspect c false) :=
  next_live (b := s.live) rfl hc h

theorem exec_replayComplete {c : Nat} (hc : clusterOk c = true) : exec (.replayComplete c) s = .next (s.endReplay c) :=
  next_live (b := s.live) rfl hc h

end Commands

end Sys2Proof.Laws

open Sys2Proof.Machine Sys2Proof.Laws

/-- Settles O50, each event from what its own part does (`drainEnd_answers`, `resetDone_cluster`, `hang_reported`, `endReplay_ends` and the others). -/
theorem hangsAndReplays : Obligations.HangsAndReplays := by
  refine fun s h => ?_
  intro cleared
  refine ⟨fun d x hd hx => ?drain, fun p x hp hx => (exec_resetComplete_port h hp).trans (congrArg _ (resetDone_port hx)),
    fun c x hc hx => (exec_resetComplete_cluster h hc).trans (congrArg _ (resetDone_cluster hx)),
    fun g x hg hx => (exec_resetComplete_gallery h hg).trans (congrArg _ (resetDone_gallery hx)), fun d hd hx => exec_resetComplete_none h hd hx,
    fun e he hh hr => (exec_engineHang h he).trans (congrArg _ (hang_reported hh hr)), fun e hn => exec_engineHang_none hn,
    fun w hw => ⟨fun n hn => exec_longWait_reported h hw hn, fun hn => exec_longWait_none h hw hn⟩, fun c r x rest hc hr ht hready => ?suspect,
    fun c r hc hr hready ht => (exec_replayComplete h hc).trans (congrArg _ (endReplay_ends hr hready ht))⟩
  case drain =>
    have hexec := exec_fenceDrainEnd h hd
    exact ⟨fun ho => ⟨fun hp => hexec.trans (congrArg _ (drainEnd_package hx ho hp)), fun c k hc hk => hexec.trans (congrArg _ (drainEnd_retires hx ho hc hk)),
      fun hp hk => hexec.trans (congrArg _ (drainEnd_answers hx ho hp hk))⟩, fun ht hq => hexec.trans (congrArg _ (drainEnd_early hx ht hq))⟩
  case suspect =>
    exact ⟨fun hd => (exec_replayTimeout h hc).trans (congrArg _ (nextSuspect_guilty hr ht hready hd)),
      fun hd => (exec_replayTimeout h hc).trans (congrArg _ (nextSuspect_early hr ht hready hd)),
      (exec_suspectReplayComplete h hc).trans (congrArg _ (nextSuspect_cleared hr ht hready))⟩
end

section
/-! PROOFS. The manager's commands over a function (R384–R387): O56; functions quiesce, reset, and are enabled and disabled (R365, R385–R388, R445): O57. -/

namespace Sys2Proof.Laws
open Sys2Proof.Machine

/-! ### A command over the selected function (R384) -/

section Command

variable {s : State} {act : State → Nat → State}

theorem fnCommand_busy (hb : (s.fns.any fun e => e.2.busy) = true) : s.fnCommand act = s := by
  simp only [State.fnCommand, hb, Bool.or_true, if_true]

section Free

variable (hs : s.served = true) (hb : (s.fns.any fun e => e.2.busy) = false)
include hs hb

theorem fnCommand_absent (hp : s.fnPresent s.fnSel = false) : s.fnCommand act = s.fnRefused s.fnSel 4 := by
  simp only [State.fnCommand, hs, hb, hp, Bool.not_true, Bool.not_false, Bool.or_self, Bool.false_eq_true, if_false, if_true]

theorem fnCommand_pf0 (hf : s.fnSel = 0) : s.fnCommand act = s.fnRefused s.fnSel (if s.fnPresent s.fnSel then 2 else 4) := by
  cases hp : s.fnPresent s.fnSel with
  | false => exact fnCommand_absent hs hb hp
  | true => simp only [State.fnCommand, hs, hb, hp, if_pos hf, Bool.not_true, Bool.or_self, Bool.false_eq_true, if_false, if_true]

theorem fnCommand_acts (hp : s.fnPresent s.fnSel = true) (hf : s.fnSel ≠ 0) : s.fnCommand act = act s s.fnSel := by
  simp only [State.fnCommand, hs, hb, hp, if_neg hf, Bool.not_true, Bool.or_self, Bool.false_eq_true, if_false]

end Free

end Command

/-- The commands of the manager, each with what it does to a function that is there and is not PF0. -/
theorem exec_fnCommand {i : Instr}
    (hi : i ∈ [Instr.functionEnable, .functionDisable, .quiesce, .functionResume, .functionReset true, .functionReset false]) (s : State) :
    ∃ act, exec i s = .next (s.fnCommand act) := by
  simp only [List.mem_cons, List.not_mem_nil, or_false] at hi
  obtain rfl | rfl | rfl | rfl | rfl | rfl := hi <;> exact ⟨_, rfl⟩

/-! ### What a command does in each state (R385, R386) -/

section States

variable {s : State} {f : Nat}

theorem fnEnable_disabled (h : (s.fn f).state = .disabled) :
    s.fnEnable f = (s.modFn f fun x => { x with state := .active, grant := {} }).fnDone f := if_pos h

theorem fnEnable_other (h : (s.fn f).state ≠ .disabled) : s.fnEnable f = s.fnRefused f 2 := if_neg h

theorem fnQuiesce_active (h : (s.fn f).state = .active) :
    s.fnQuiesce f = (s.modFn f fun x => { x with state := .quiescing, quiesceAt := s.tclk }).fnDone f := if_pos h

theorem fnQuiesce_other (h : (s.fn f).state ≠ .active) : s.fnQuiesce f = s.fnRefused f 2 := if_neg h

theorem fnResume_other (h : (s.fn f).state ≠ .quiesced) : s.fnResume f = s.fnRefused f 2 := if_neg h

theorem fnResume_quiesced (h : (s.fn f).state = .quiesced) :
    let t := (s.modFn f fun x => { x with state := .active }).reorderArmed f
    s.fnResume f = (((t.readDoors f).actWakes f).armHeld).fnDone f := if_pos h

theorem fnDisable_disabled (h : (s.fn f).state = .disabled) : s.fnDisable f = s.fnRefused f 2 := by simp only [State.fnDisable, h]
theorem fnDisable_resetting (h : (s.fn f).state = .resetting) : s.fnDisable f = s.fnRefused f 2 := by simp only [State.fnDisable, h]
theorem fnDisable_active (h : (s.fn f).state = .active) : s.fnDisable f = s.fnRefused f 1 := by simp only [State.fnDisable, h]
theorem fnDisable_quiescing (h : (s.fn f).state = .quiescing) : s.fnDisable f = s.fnRefused f 1 := by simp only [State.fnDisable, h]
theorem fnDisable_quiesced (h : (s.fn f).state = .quiesced) : s.fnDisable f = s.fnManaged f 3 := by simp only [State.fnDisable, h]

theorem fnReset_disabled {b : Bool} (h : (s.fn f).state = .disabled) : s.fnReset b f = s.fnRefused f 2 := by simp only [State.fnReset, h]
theorem fnReset_resetting {b : Bool} (h : (s.fn f).state = .resetting) : s.fnReset b f = s.fnRefused f 2 := by simp only [State.fnReset, h]
theorem fnReset_active {b : Bool} (h : (s.fn f).state = .active) : s.fnReset b f = s.fnRefused f 1 := by simp only [State.fnReset, h]
theorem fnReset_quiesced {b : Bool} (h : (s.fn f).state = .quiesced) : s.fnReset b f = s.fnManaged f 1 := by simp only [State.fnReset, h]

section Quiescing

variable (h : (s.fn f).state = .quiescing)
include h

theorem fnReset_waits : s.fnReset false f = s.fnRefused f 1 := by
  simp only [State.fnReset, h, Bool.not_false, if_true]

theorem fnReset_early (ht : s.tclk < (s.fn f).quiesceAt + 10000000) : s.fnReset true f = s.fnRefused f 3 := by
  simp only [State.fnReset, h, Bool.not_true, Bool.false_eq_true, if_false, if_pos ht]

theorem fnReset_forced (ht : (s.fn f).quiesceAt + 10000000 ≤ s.tclk) : s.fnReset true f = s.fnManaged f 1 := by
  simp only [State.fnReset, h, Bool.not_true, Bool.false_eq_true, if_false, if_neg (Nat.not_lt.mpr ht)]

end Quiescing

end States

/-! ### Events of functions (R365, R385–R388, R445) -/

section Events

variable {s : State} {f : Nat}

theorem fnQuiesced_reports (h : (s.fn f).state = .quiescing) (hn : s.inFlight f = 0) :
    s.fnQuiesced f = (s.modFn f fun x => { x with state := .quiesced }).fnEvent f 1 0 := if_pos ⟨h, hn⟩

theorem fnQuiesced_none (h : (s.fn f).state ≠ .quiescing) : s.fnQuiesced f = s := if_neg fun hc => h hc.1

theorem fnResetDone_none (hx : (s.recov.fences.find? fun x => x.domain == .function f && x.ended) = none) : s.fnResetDone f = s := by
  simp only [State.fnResetDone, hx]

theorem fnResetDone_ends {x : Fence} (hx : (s.recov.fences.find? fun x => x.domain == .function f && x.ended) = some x) :
    let y := s.fn f
    let t := (s.destroyFn f).modRecov fun r => { r with fences := r.fences.filter fun y => y.domain != .function f }
    let off := decide (3 ≤ y.resetFrom)
    let u := t.modFn f fun z => { z with
      state := if off then .disabled else .active, grant := if off then {} else z.grant
      dirty := if y.resetFrom = 3 then { z.dirty with enable := false } else z.dirty
      resetFrom := 0, fenced := 0, busy := false, result := if y.busy then 0 else z.result }
    s.fnResetDone f = (((u.fnEvent f (if off then 5 else 2) y.fenced).advanceAll).armHeld).checkStop := by
  simp only [State.fnResetDone, hx]

/-- What a host does is acted on at once where the package is live. -/
theorem atHost_live (h : s.live = true) (e : HostEvent) : s.atHost e = s.hostActs e := if_pos h

/-- In an inventory stop it is kept for the resume. -/
theorem atHost_stopped (hr : s.activity = .running) (h : s.live = false) (e : HostEvent) :
    s.atHost e = s.modDbg fun d => { d with kept := d.kept ++ [e] } := by
  simp only [State.atHost, h, hr, Bool.false_eq_true, if_false, if_true]

theorem flr_vf (hf : f ≠ 0) : s.flr f = s.forceReset f false := by simp only [State.flr, if_neg hf]

/-- An FLR of PF0 disables every VF before it resets PF0. -/
theorem flr_pf0 : s.flr 0 = (((List.range 255).map (· + 1)).foldl (fun (s : State) n => s.disableVf n) s).forceReset 0 false := by
  simp only [State.flr, if_true, State.disableVfs]

theorem exec_flr_pf0 (h : s.live = true) :
    exec (.pcieFlr 0) s = .next ((((List.range 255).map (· + 1)).foldl (fun (s : State) n => s.disableVf n) s).forceReset 0 false) := by
  rw [← flr_pf0]
  exact congrArg Host.Outcome.next (atHost_live h (.flr 0))

section Commands

variable (hf : fnOk f = true)
include hf

theorem exec_quiesced (h : s.live = true) : exec (.quiesced f) s = .next (s.fnQuiesced f) := next_live (b := s.live) rfl hf h

theorem exec_functionResetComplete (h : s.live = true) : exec (.functionResetComplete f) s = .next (s.fnResetDone f) :=
  next_live (b := s.live) rfl hf h

theorem exec_pcieFlr : exec (.pcieFlr f) s = .next (s.atHost (.flr f)) := if_pos hf

theorem exec_aerUncorrectableError : exec (.aerUncorrectableError f) s = .next (s.atHost (.aer f)) := if_pos hf

end Commands

/-- Each host event of functions goes to the host side of the package. -/
theorem exec_hostEvent (hf : fnOk f = true) {i : Instr} {e : HostEvent}
    (hi : (i, e) ∈ [(Instr.pcieFlr f, HostEvent.flr f), (.vfEnableSet 3, .vfSet 3), (.vfEnableClear, .vfClear), (.aerUncorrectableError f, .aer f)]) :
    exec i s = .next (s.atHost e) := by
  simp only [List.mem_cons, List.not_mem_nil, or_false, Prod.mk.injEq] at hi
  obtain ⟨rfl, rfl⟩ | ⟨rfl, rfl⟩ | ⟨rfl, rfl⟩ | ⟨rfl, rfl⟩ := hi
  · exact exec_pcieFlr hf
  · rfl
  · rfl
  · exact exec_aerUncorrectableError hf

end Events

end Sys2Proof.Laws

open Sys2Proof.Machine Sys2Proof.Laws

/-- Settles O56: a command that is let through does what its state lets it (`fnEnable_disabled`, `fnReset_forced` and the others). -/
theorem managerCommands : Obligations.ManagerCommands := by
  refine fun s => ?_
  intro f x
  refine ⟨fun hs hb hp hf => ?_, fun i hi => ?refused⟩
  case refused =>
    obtain ⟨act, he⟩ := exec_fnCommand hi s
    exact ⟨fun hb => he.trans (congrArg _ (fnCommand_busy hb)), fun hs hb =>
      ⟨fun hp => he.trans (congrArg _ (fnCommand_absent hs hb hp)), fun hf => he.trans (congrArg _ (fnCommand_pf0 hs hb hf))⟩⟩
  have acts : ∀ {act : State → Nat → State} {t : State}, act s f = t → (Host.Outcome.next (s.fnCommand act) : Host.Outcome State Fault Refusal) = .next t := fun ht =>
    congrArg Host.Outcome.next ((fnCommand_acts hs hb hp hf).trans ht)
  refine ⟨fun h => ⟨acts (fnEnable_disabled h), acts (fnDisable_disabled h), acts (fnResume_other (by rw [h]; decide)), fun b => acts (fnReset_disabled h)⟩,
    fun h => ⟨acts (fnDisable_resetting h), fun b => acts (fnReset_resetting h)⟩, fun h => acts (fnEnable_other h), fun h => acts (fnQuiesce_other h),
    fun h => acts (fnResume_other h),
    fun h => ⟨acts (fnQuiesce_active h), acts (fnDisable_active h), acts (fnEnable_other (by rw [h]; decide)), fun b => acts (fnReset_active h)⟩,
    fun h => ⟨acts (fnDisable_quiescing h), acts (fnReset_waits h), fun ht => acts (fnReset_early h ht), fun ht => acts (fnReset_forced h ht)⟩,
    fun h => ⟨fun b => acts (fnReset_quiesced h), acts (fnDisable_quiesced h), acts (fnResume_quiesced h)⟩⟩

/-- Settles O57: what quiescing, the end of a reset and each host event do to a function (`fnResetDone_ends`, `atHost_live`, `atHost_stopped`). -/
theorem functionEvents : Obligations.FunctionEvents := by
  refine fun s f h hf => ⟨fun hq hn => (exec_quiesced hf h).trans (congrArg _ (fnQuiesced_reports hq hn)),
    fun hq => (exec_quiesced hf h).trans (congrArg _ (fnQuiesced_none hq)),
    fun x hx => (exec_functionResetComplete hf h).trans (congrArg _ (fnResetDone_ends hx)),
    fun h0 => (exec_pcieFlr hf).trans (congrArg _ ((atHost_live h _).trans (flr_vf h0))),
    exec_flr_pf0 h, fun n => congrArg Host.Outcome.next (atHost_live h (.vfSet n)),
    congrArg Host.Outcome.next (atHost_live h .vfClear), fun u hr hu i e hi => (exec_hostEvent hf hi).trans (congrArg _ (atHost_stopped hr hu e)),
    fun hx => (exec_functionResetComplete hf h).trans (congrArg _ (fnResetDone_none hx)),
    (exec_aerUncorrectableError hf).trans (congrArg _ (atHost_live h _))⟩
end

section
/-! PROOFS. Resets of ports, clusters and galleries begin with a fence (R444–R447): O49; what the security island and the trip sensors do
(R40, R57, R396, R416, R418): O52; peers are registered, removed and probed (R155, R156, R383): O39. -/

namespace Sys2Proof.Laws
open Sys2Proof.Machine

/-! ### HUB_RESET_CTRL (R444–R447) -/

section Resets

variable {s : State} {d : Domain}

theorem requestReset_busy (hb : s.recov.busy = true) : s.requestReset d = s := by
  simp only [State.requestReset, hb, Bool.or_true, if_true]

section Free

variable (hs : s.served = true) (hb : s.recov.busy = false)
include hs hb

theorem requestReset_absent (ht : s.targetOk d = false) : s.requestReset d = (s.modRecov fun r => { r with result := 1 }).interrupt 0 3 := by
  simp only [State.requestReset, hs, hb, ht, Bool.not_true, Bool.not_false, Bool.or_self, Bool.false_eq_true, if_false, if_true]

theorem requestReset_again (ht : s.targetOk d = true) (hr : s.resetting d = true) :
    s.requestReset d = (s.modRecov fun r => { r with result := 2 }).interrupt 0 3 := by
  simp only [State.requestReset, hs, hb, ht, hr, Bool.not_true, Bool.or_self, Bool.false_eq_true, if_false, if_true]

theorem requestReset_begins (ht : s.targetOk d = true) (hr : s.resetting d = false) :
    s.requestReset d = (s.modRecov fun r => { r with busy := true, request := some d }).beginReset d := by
  simp only [State.requestReset, hs, hb, ht, hr, Bool.not_true, Bool.or_self, Bool.false_eq_true, if_false]

end Free

/-- A write of HUB_RESET_CTRL asks for the reset of its target. -/
theorem exec_reset {i : Instr}
    (hi : (∃ p, i = .portReset p ∧ d = .port p ∧ p ≤ 63) ∨ (∃ c, i = .clusterReset c ∧ d = .cluster c ∧ c ≤ 63) ∨
      (∃ g, i = .galleryReset g ∧ d = .gallery g ∧ g ≤ 63)) : exec i s = .next (s.requestReset d) := by
  obtain ⟨p, rfl, rfl, hp⟩ | ⟨c, rfl, rfl, hc⟩ | ⟨g, rfl, rfl, hg⟩ := hi
  · exact if_pos hp
  · exact if_pos hc
  · exact if_pos hg

theorem exec_memoryPortFailure {g : Nat} (hg : galOk g = true) (h : s.live = true) :
    exec (.memoryPortFailure g) s = .next (if s.resetting (.gallery g) = true then s else s.beginReset (.gallery g)) := by
  refine (if_pos hg).trans (congrArg Host.Outcome.next ?_)
  cases hr : s.resetting (.gallery g) <;> simp [h]

end Resets

/-! ### Fuses (R396) -/

section Fuses

variable {s : State}

theorem mayRevoke_iff {b : Bundle} (hb : s.boot.running = some b) {k : Nat} :
    s.mayRevoke k = true ↔ k < b.keyIndex ∧ s.fuses.revoked.getLsbD b.keyIndex = false := by
  rw [State.mayRevoke, hb, Option.any_some, Bool.and_eq_true, decide_eq_true_eq, Bool.not_eq_true']

theorem mayRevoke_none (hb : s.boot.running = none) {k : Nat} : s.mayRevoke k = false := by rw [State.mayRevoke, hb, Option.any_none]

theorem exec_commitSvn {b : Bundle} (hs : s.served = true) (hb : s.boot.running = some b) :
    exec .commitSvn s = .next { s with fuses := { s.fuses with minSvn := Nat.max s.fuses.minSvn b.svn } } := by
  refine congrArg Host.Outcome.next ((if_pos hs).trans ?_)
  simp only [hb]

theorem exec_commitSvn_none (hb : s.boot.running = none) : exec .commitSvn s = .next s := by
  refine congrArg Host.Outcome.next ?_
  simp only [hb, ite_self]

theorem exec_revoke {k : Nat} (hk : k ≤ 3) (hs : s.served = true) (hm : s.mayRevoke k = true) :
    exec (.revoke k) s = .next { s with fuses := { s.fuses with revoked := s.fuses.revoked ||| (1#4 <<< k) } } :=
  next_live (b := s.served && s.mayRevoke k) rfl hk (by rw [hs, hm]; decide)

theorem exec_revoke_none {k : Nat} (hk : k ≤ 3) (hm : s.mayRevoke k = false) : exec (.revoke k) s = .next s := by
  refine (if_pos hk).trans (congrArg Host.Outcome.next ?_)
  simp [hm]

end Fuses

/-! ### Tamper conditions and the trip sensors (R40, R57, R418) -/

section Sensors

variable {s : State} (h : s.activity = .running ∨ s.activity = .stopped)
include h

theorem sensing_of : s.sensing = true := decide_eq_true h

theorem tamper_stops {m : BitVec 4} (hm : m ≠ 0) :
    let first := !s.lands.alarm
    let u := s.modJournal fun n => { n with
      tamper := if first then m else n.tamper ||| m, tamperAt := if first then s.time else n.tamperAt, tamperNew := true }
    s.tamper m = { u with sec := u.sec.erased, lands := { u.lands with alarm := true }, activity := .stopped } := by
  have hz : (m == 0) = false := beq_eq_false_iff_ne.mpr hm
  simp only [State.tamper, sensing_of h, hz, Bool.not_true, Bool.or_self, Bool.false_eq_true, if_false]

theorem exec_thermalTrip {die : Nat} {v : W32} (hd : die ≤ 2) :
    exec (.thermalTrip die v) s =
      .next { (s.modJournal fun n => { n with trip := some (die, v) }) with lands := { s.lands with thermtrip := true }, activity := .stopped } :=
  next_live (b := s.sensing) rfl hd (sensing_of h)

end Sensors

/-! ### The registers of a peer (R383) -/

section Registers

variable {s : State} {n v : Nat}

/-- The range that a write makes valid overlaps another valid peer's. -/
def rangeMeets (s : State) (n v : Nat) : Bool :=
  s.peers.any fun e => e.1 != n && e.2.valid && overlaps (s.peerBase e.1) (s.peerSize e.1) (s.peerBase n) (v % 2 ^ 32 * 4096)

section Invalid

variable (hx : (s.peer n).valid = false)
include hx

theorem peerWrite_registers (hv : bit v 32 = true) (hm : rangeMeets s n v = false) :
    s.peerWrite n v = ((s.setWord 0 (0x010200 + 16 * n + 8) (v % 2 ^ 32)).modPeer n fun _ => { valid := true }).probe n := by
  unfold rangeMeets at hm
  simp only [State.peerWrite, hx, hv, hm, Bool.not_false, Bool.and_self, Bool.false_eq_true, if_false, if_true]

theorem peerWrite_overlaps (hv : bit v 32 = true) (hm : rangeMeets s n v = true) : s.peerWrite n v = s := by
  unfold rangeMeets at hm
  simp only [State.peerWrite, hx, hv, hm, Bool.not_false, Bool.and_self, if_true]

theorem peerWrite_size (hv : bit v 32 = false) : s.peerWrite n v = s.setWord 0 (0x010200 + 16 * n + 8) (v % 2 ^ 32) := by
  simp only [State.peerWrite, hx, hv, Bool.false_and, Bool.false_eq_true, if_false]

end Invalid

section Valid

variable (hx : (s.peer n).valid = true)
include hx

theorem peerWrite_removes (hv : bit v 32 = false) : s.peerWrite n v = s.modPeer n fun _ => {} := by
  simp only [State.peerWrite, hx, hv, Bool.false_and, Bool.not_false, Bool.and_self, Bool.false_eq_true, if_false, if_true]

theorem peerWrite_probes (hv : bit v 32 = true) : s.peerWrite n v = if bit v 33 then s.probe n else s := by
  simp only [State.peerWrite, hx, hv, Bool.not_true, Bool.and_false, Bool.false_eq_true, if_false, if_true]

end Valid

/-- Each of the three commands is a write of the second word of the peer's register. -/
theorem exec_peerWrite {w : W64} (hn : n ≤ 31) (hs : s.served = true) {c : Instr}
    (hc : c ∈ [Instr.peerRegister n w, .peerUnregister n w, .peerProbeRequest n w]) : exec c s = .next (s.peerWrite n w.toNat) := by
  simp only [List.mem_cons, List.not_mem_nil, or_false] at hc
  obtain rfl | rfl | rfl := hc <;> exact next_live (b := s.served) rfl hn hs

end Registers

/-! ### A probe (R155, R156) -/

section Probes

variable {s : State} {n : Nat}

theorem probeRead_issues (hp : (s.peer n).probing = true) (hi : (s.peer n).issued < 16) (ht : (s.peer n).nextAt ≤ s.tclk) :
    s.probeRead n = s.modPeer n fun y => { y with issued := y.issued + 1, nextAt := s.tclk + 1000 } := by
  simp only [State.probeRead, hp, hi, ht, decide_true, Bool.and_self, if_true]

theorem probeRead_waits (h : (s.peer n).probing = false ∨ 16 ≤ (s.peer n).issued ∨ s.tclk < (s.peer n).nextAt) : s.probeRead n = s := by
  have hcond : ((s.peer n).probing && decide ((s.peer n).issued < 16) && decide ((s.peer n).nextAt ≤ s.tclk)) = false := by
    rcases h with h | h | h
    · rw [h, Bool.false_and, Bool.false_and]
    · rw [decide_eq_false (Nat.not_lt.mpr h), Bool.and_false, Bool.false_and]
    · rw [decide_eq_false (Nat.not_le.mpr h), Bool.and_false]
  simp only [State.probeRead, hcond, Bool.false_eq_true, if_false]

theorem probeEnd_none {ts : List (Option Nat)} (h : (s.peer n).probing = false ∨ (s.peer n).issued ≠ 16) : s.probeEnd n ts = s := by
  have hcond : ((s.peer n).probing && (s.peer n).issued == 16) = false := by
    rcases h with h | h
    · rw [h, Bool.false_and]
    · rw [beq_eq_false_iff_ne.mpr h, Bool.and_false]
  simp only [State.probeEnd, hcond, Bool.false_eq_true, if_false]

theorem returned_map_some (ts : List Nat) : (ts.map some).filterMap id = ts := by
  induction ts with
  | nil => rfl
  | cons t ts ih => rw [List.map_cons, List.filterMap_cons_some (f := id) (b := t) rfl, ih]

section Ends

variable (hp : (s.peer n).probing = true) (hi : (s.peer n).issued = 16)
include hp hi

/-- Every read came back: the peer is reachable where each did so within 50 µs, and the median is that of the round trips. -/
theorem probeEnd_returned {ts : List Nat} (hl : ts.length = 16) :
    s.probeEnd n (ts.map some) = s.modPeer n fun y => { y with
      probing := false, state := (if ts.all fun t => decide (t ≤ 50000) then 1 else 2), rtt := Nat.min 0xFFFF (median16 ts / 10) } := by
  simp only [State.probeEnd, hp, hi, beq_self_eq_true, Bool.and_self, if_true, returned_map_some, List.length_map, hl, decide_true, Bool.true_and,
    List.all_map, Function.comp_def, Option.any_some]

/-- A read that did not come back leaves the median free. -/
theorem probeEnd_lost {ts : List (Option Nat)} (hl : (ts.filterMap id).length ≠ 16) :
    s.probeEnd n ts = s.draw.2.modPeer n fun y => { y with
      probing := false
      state := if decide (ts.length = 16) && ts.all fun r => r.any fun t => decide (t ≤ 50000) then 1 else 2
      rtt := Config.freeNat s.draw.1 % 65536 } := by
  simp only [State.probeEnd, hp, hi, beq_self_eq_true, Bool.and_self, if_true, if_neg hl]

end Ends

/-- Reads that all came back leave as many round trips as there were reads. -/
theorem returned_length {ts : List (Option Nat)} (h : ts.all fun r => r.any fun t => decide (t ≤ 50000)) : (ts.filterMap id).length = ts.length := by
  induction ts with
  | nil => rfl
  | cons r ts ih =>
    rw [List.all_cons, Bool.and_eq_true] at h
    cases r with
    | none => exact absurd h.1 (by simp)
    | some t => rw [List.filterMap_cons_some (f := id) (b := t) rfl, List.length_cons, List.length_cons, ih h.2]

/-- A probe one of whose reads did not come back leaves its peer UNREACHABLE. -/
theorem unreachable_of_lost {ts : List (Option Nat)} (hl : (ts.filterMap id).length ≠ 16) (ht : ts.length = 16) :
    (if decide (ts.length = 16) && ts.all fun r => r.any fun t => decide (t ≤ 50000) then 1 else 2) = 2 := by
  refine if_neg fun hc => hl ?_
  rw [Bool.and_eq_true] at hc
  rw [returned_length hc.2, ht]

section Commands

variable (hn : n ≤ 31) (h : s.live = true)
include hn h

theorem exec_peerProbeRead : exec (.peerProbeRead n) s = .next (s.probeRead n) := next_live (b := s.live) rfl hn h

theorem exec_peerProbeDone {ts : List (Option Nat)} : exec (.peerProbeDone n ts) s = .next (s.probeEnd n ts) := next_live (b := s.live) rfl hn h

end Commands

end Probes

end Sys2Proof.Laws

open Sys2Proof.Machine Sys2Proof.Laws

/-- Settles O49 from what a request for a reset does (`requestReset_begins`, `requestReset_again`, `requestReset_absent`, `requestReset_busy`). -/
theorem domainsFenced : Obligations.DomainsFenced := by
  intro s i d hi
  have hexec := exec_reset (s := s) hi
  refine ⟨fun p hd => hd ▸ rfl, fun c hd => hd ▸ rfl, fun g hd => hd ▸ rfl, fun hs hb => ⟨fun ht hr => ?_, fun ht hr => ?_, fun ht => ?_⟩, fun hb => ?_,
    fun g hg h => exec_memoryPortFailure hg h⟩
  · exact hexec.trans (congrArg _ (requestReset_begins hs hb ht hr))
  · exact hexec.trans (congrArg _ (requestReset_again hs hb ht hr))
  · exact hexec.trans (congrArg _ (requestReset_absent hs hb ht))
  · exact hexec.trans (congrArg _ (requestReset_busy hb))

/-- Settles O52: the fuses by who may revoke (`mayRevoke_iff`), the sensors by what a tamper condition stops (`tamper_stops`). -/
theorem islandReacts : Obligations.IslandReacts := by
  intro s
  refine ⟨fun b hs hb => ⟨exec_commitSvn hs hb, fun k hk hl hr => exec_revoke hk hs ((mayRevoke_iff hb).mpr ⟨hl, hr⟩), fun k hk hn => ?older⟩,
    fun hb => ⟨exec_commitSvn_none hb, fun k hk => exec_revoke_none hk (mayRevoke_none hb)⟩, fun h => next_live' (b := s.live) rfl h, fun h => ?sensors⟩
  case older =>
    refine exec_revoke_none hk (Bool.eq_false_iff.mpr fun hm => ?_)
    obtain ⟨hl, hr⟩ := (mayRevoke_iff hb).mp hm
    rcases hn with hn | hn
    · omega
    · rw [hr] at hn; cases hn
  case sensors =>
    exact ⟨fun m hm => congrArg Host.Outcome.next (tamper_stops h hm), congrArg Host.Outcome.next (tamper_stops h (m := 2) (by decide)),
      fun die v hd => exec_thermalTrip h hd⟩

/-- Settles O39: what a write of a peer's register does (`peerWrite_registers` and the others), and how a probe issues and ends (`probeEnd_returned`,
`probeEnd_lost`). -/
theorem peersProbed : Obligations.PeersProbed := by
  refine fun s n w hn => ?_
  intro x v
  refine ⟨fun hs c hc => ?_, fun h => ⟨fun hp hi ht => ?_, fun hw => ?_, fun ts hp hi hl => ?_, fun ts hp hi hl => ?_, fun ts hq => ?_⟩⟩
  · have hexec := exec_peerWrite hn hs hc
    intro meets sized
    exact ⟨fun hx hv hm => hexec.trans (congrArg _ (peerWrite_registers hx hv hm)), fun hx hv hm => hexec.trans (congrArg _ (peerWrite_overlaps hx hv hm)),
      fun hx hv => hexec.trans (congrArg _ (peerWrite_size hx hv)), fun hx hv => hexec.trans (congrArg _ (peerWrite_removes hx hv)),
      fun hx hv => hexec.trans (congrArg _ (peerWrite_probes hx hv))⟩
  · exact (exec_peerProbeRead hn h).trans (congrArg _ (probeRead_issues hp hi ht))
  · exact (exec_peerProbeRead hn h).trans (congrArg _ (probeRead_waits hw))
  · exact (exec_peerProbeDone hn h).trans (congrArg _ (probeEnd_returned hp hi hl))
  · exact ⟨_, unreachable_of_lost hl, (exec_peerProbeDone hn h).trans (congrArg _ (probeEnd_lost hp hi hl))⟩
  · exact (exec_peerProbeDone hn h).trans (congrArg _ (probeEnd_none hq))
end

section
/-! PROOFS. PACKAGE_START, PORST_N, the I3C node and the removal of power (R396, R419, R420, R444, R458, R476): O53. -/

namespace Sys2Proof.Laws
open Sys2Proof.Machine

/-! ### What the start sequence keeps (R419) -/

/-- The parts of a state that neither the journal nor the entries of the boot report touch. -/
structure StartKept where
  activity : Activity
  tclk : Nat
  lands : Lands
  fuses : Fuses
  host : Mem
  sqs : Tab Sq
  cqs : Tab Cq
  qps : Tab Qp
  ctxs : Tab Context
  ops : List Op
  regs : Tab W32
  node : BitVec 16
  source : Nat

def startKept (s : State) : StartKept :=
  { activity := s.activity, tclk := s.tclk, lands := s.lands, fuses := s.fuses, host := s.host, sqs := s.sqs, cqs := s.cqs, qps := s.qps, ctxs := s.ctxs,
    ops := s.ops, regs := s.regs, node := s.boot.node, source := s.boot.source }

section Kept

variable (s : State)

@[simp] theorem startKept_modNor (g : Nor → Nor) : startKept (s.modNor g) = startKept s := rfl
@[simp] theorem startKept_modJournal (g : Nor → Nor) : startKept (s.modJournal g) = startKept s := startKept_modNor ..
@[simp] theorem startKept_stampPowered : startKept s.stampPowered = startKept s := startKept_modJournal ..

/-- A change of the boot state that leaves the node ID and its source alone. -/
theorem startKept_modBoot {g : Boot → Boot} (hn : (g s.boot).node = s.boot.node) (hs : (g s.boot).source = s.boot.source) :
    startKept (s.modBoot g) = startKept s := by
  simp only [startKept, State.modBoot, hn, hs]

@[simp] theorem startKept_bootEvent (event cause unit detail : Nat) : startKept (s.bootEvent event cause unit detail) = startKept s :=
  (startKept_modBoot s.stampPowered rfl rfl).trans (startKept_stampPowered s)

/-- The processors are none of what is kept. -/
theorem startKept_procs (procs : Tab Proc) : startKept { s with procs } = startKept s := rfl

@[simp] theorem startKept_enterVestibule : startKept s.enterVestibule = startKept s := by
  rw [State.enterVestibule, startKept_procs, startKept_bootEvent, startKept_modBoot _ rfl rfl, startKept_modJournal]

@[simp] theorem startKept_failedStart (event cause unit detail : Nat) : startKept (s.failedStart event cause unit detail) = startKept s := by
  have hu : startKept ((s.modBoot fun b => { b with cause }).bootEvent event cause unit detail) = startKept s := by
    rw [startKept_bootEvent, startKept_modBoot _ rfl rfl]
  unfold State.failedStart
  dsimp only
  split
  · rw [startKept_enterVestibule, startKept_modJournal, hu]
  · rw [startKept_modJournal, hu]

@[simp] theorem startKept_rewriteField (field : List CatEntry) : startKept (s.rewriteField field) = startKept s := by
  obtain ⟨n, k, h⟩ := rewriteField_eq s field
  rw [h]
  rfl

theorem startKept_applyUpdate (u : List Byte) : startKept (s.applyUpdate u) = startKept s := by
  unfold State.applyUpdate
  split
  · rfl
  · dsimp only
    split
    · exact startKept_rewriteField ..
    · rfl

theorem startKept_applyAll (l : List (List Byte)) : startKept (l.foldl (fun (s : State) u => s.applyUpdate u) s) = startKept s := by
  induction l generalizing s with
  | nil => rfl
  | cons u l ih => rw [List.foldl_cons, ih, startKept_applyUpdate]

@[simp] theorem startKept_applyUpdates : startKept s.applyUpdates = startKept s := (startKept_modNor _ _).trans (startKept_applyAll s _)

@[simp] theorem startKept_countReset : startKept s.countReset = startKept s := by
  unfold State.countReset
  split
  · exact startKept_modJournal ..
  · dsimp only
    split
    · rw [startKept_modJournal, startKept_modJournal, startKept_stampPowered]
    · rw [startKept_modJournal, startKept_stampPowered]

end Kept

/-- The catalogue is applied, and hard repairs are made where it verifies (steps 2 to 4 of Table 14.1). -/
def catalogued (s : State) : State := if s.applyUpdates.catalogueOk then s.applyUpdates.hardRepairs else s.applyUpdates

theorem startKept_catalogued (s : State) : startKept (catalogued s) = startKept s := by
  unfold catalogued State.hardRepairs
  split
  · rw [startKept_rewriteField, startKept_applyUpdates]
  · exact startKept_applyUpdates s

/-- The boot events of a start over the machine that step 4 leaves: what began it, a trip, a tamper condition, and whether the catalogue verified. -/
def startEvents (s : State) (trip : Option (Nat × W32)) (tampered ok : Bool) (event : Nat) : State :=
  let s := s.bootEvent event 0 0 0
  let s := match trip with
    | some (die, reading) => (s.bootEvent 15 0 die reading.toNat).modJournal fun n => { n with trip := none }
    | none => s
  let s := if tampered then (s.bootEvent 13 0 0 0).modJournal fun n => { n with tamperNew := false } else s
  if ok then s.bootEvent 3 0 0 0 else s.failedStart 4 1 0 0

theorem startKept_startEvents (s : State) (trip : Option (Nat × W32)) (tampered ok : Bool) (event : Nat) :
    startKept (startEvents s trip tampered ok event) = startKept s := by
  cases trip <;> cases tampered <;> cases ok <;> simp [startEvents]

/-- Step 5 of Table 14.1: the stage that the NOR calls for. -/
def stageOf (n : Nor) : Nat := if n.outOfSvc then 5 else if n.vestibule then 4 else 1

/-- What the start sequence ends in: the machine that step 4 leaves, its events, its stage and the ROM agent. -/
theorem startUp_ends (s : State) (event : Nat) : ∃ m trip tampered ok agent,
    startKept m = { startKept s with activity := .running, tclk := 0 } ∧
    s.startUp event = { (startEvents m trip tampered ok event).modBoot fun b => { b with stage := stageOf (startEvents m trip tampered ok event).nor } with
      agent := agent } := by
  refine ⟨_, _, _, _, _, ?_, rfl⟩
  exact congrArg (fun k : StartKept => { k with activity := .running, tclk := 0 }) (startKept_catalogued s)

theorem startKept_startUp (s : State) (event : Nat) : startKept (s.startUp event) = { startKept s with activity := .running, tclk := 0 } := by
  obtain ⟨m, trip, tampered, ok, agent, hm, hs⟩ := startUp_ends s event
  rw [hs, ← hm]
  exact startKept_startEvents m trip tampered ok event

theorem startUp_stage (s : State) (event : Nat) : (s.startUp event).boot.stage = stageOf (s.startUp event).nor := by
  obtain ⟨m, trip, tampered, ok, agent, -, hs⟩ := startUp_ends s event
  rw [hs]
  rfl

theorem startKept_outOfServiceEvent (s : State) (was : Bool) : startKept (s.outOfServiceEvent was) = startKept s := by
  unfold State.outOfServiceEvent
  split
  · exact startKept_bootEvent ..
  · rfl

/-- The event of a package taken out of service changes neither its stage nor what the stage follows from. -/
theorem outOfServiceEvent_stage {s : State} (h : s.boot.stage = stageOf s.nor) (was : Bool) :
    (s.outOfServiceEvent was).boot.stage = stageOf (s.outOfServiceEvent was).nor := by
  unfold State.outOfServiceEvent
  split <;> exact h

/-! ### PACKAGE_START -/

/-- The node ID as the lands give it, and where it comes from (R420). -/
def sampledNode (l : Lands) : BitVec 16 := if l.i3cValid then l.i3cNode else l.straps

/-- The machine that the start sequence begins from: wiped, with the node ID sampled, the reset counted and PORST_N released. -/
def startsFrom (s : State) : State :=
  { ((s.modBoot fun b => { b with node := sampledNode s.lands, source := if s.lands.i3cValid then 1 else 0 }).countReset).wiped with
    lands := { s.lands with porst := false } }

/-- The package after PACKAGE_START. -/
theorem startPackage_eq (s : State) : s.startPackage =
    State.outOfServiceEvent (State.startUp (startsFrom s) (if s.nor.firstReset then 1 else 2)) s.nor.outOfSvc := rfl

/-- What is wiped holds what the reset leaves, but for the fuses, the commanders' memories and the node ID. -/
theorem startKept_startsFrom (s : State) : startKept (startsFrom s) =
    { startKept State.reset with
      activity := s.activity, lands := { s.lands with porst := false }, fuses := s.fuses, host := s.host
      node := sampledNode s.lands, source := if s.lands.i3cValid then 1 else 0 } := by
  have hu := startKept_countReset (s.modBoot fun b => { b with node := sampledNode s.lands, source := if s.lands.i3cValid then 1 else 0 })
  exact congrArg (fun k : StartKept => { startKept State.reset with
    activity := k.activity, lands := { s.lands with porst := false }, fuses := k.fuses, host := k.host, node := k.node, source := k.source }) hu

theorem startKept_startPackage (s : State) : startKept s.startPackage =
    { startKept State.reset with
      activity := .running, tclk := 0, lands := { s.lands with porst := false }, fuses := s.fuses, host := s.host
      node := sampledNode s.lands, source := if s.lands.i3cValid then 1 else 0 } := by
  rw [startPackage_eq, startKept_outOfServiceEvent, startKept_startUp, startKept_startsFrom]

theorem startPackage_stage (s : State) : s.startPackage.boot.stage = stageOf s.startPackage.nor :=
  outOfServiceEvent_stage (startUp_stage _ _) _

/-! ### PORST_N and the removal of power (R444, R476) -/

/-- The state that a reset wipes: its powered time brought up to date where the package runs. -/
def stamped (s : State) : State := if s.activity = .running then s.stampPowered else s

theorem startKept_stamped (s : State) : startKept (stamped s) = startKept s := by
  unfold stamped
  split
  · exact startKept_stampPowered s
  · rfl

/-- The state in which what was held for the NOR is written. -/
def powerWritten (s : State) : State := s.nor.unwritten.foldl (fun (s : State) e => s.rewriteField (addEntry s.nor.field e).1) s

theorem startKept_powerWritten (s : State) : startKept (powerWritten s) = startKept s := by
  obtain ⟨n, k, h⟩ := rewriteFields_eq s.nor.unwritten s
  rw [powerWritten, h]
  rfl

theorem powerWritten_none {s : State} (h : s.nor.unwritten = []) : powerWritten s = s := by rw [powerWritten, h, List.foldl_nil]

/-- In reset: PACKAGE_START is taken, and PORST_N changes nothing. -/
theorem waits_ne_runs {s : State} (h : s.activity = .held ∨ s.activity = .unpowered) : ¬ (s.activity = .running ∨ s.activity = .stopped) := by
  rcases h with h | h <;> simp [h]

theorem exec_i3cNodeWrite (s : State) (v : Bool) (n : BitVec 16) : exec (.i3cNodeWrite v n) s =
    .next (if s.activity = .held ∨ s.activity = .unpowered then { s with lands := { s.lands with i3cValid := v, i3cNode := n } } else s) := rfl

end Sys2Proof.Laws

open Sys2Proof.Machine Sys2Proof.Laws

/-- Settles O53: the start sequence keeps all but the journal, the boot report and the machine that it builds (`startKept_startPackage`,
`startPackage_stage`), and so do the other three (`startKept_stamped`, `startKept_powerWritten`). -/
theorem powerComesAndGoes : Obligations.PowerComesAndGoes := by
  intro s
  refine ⟨fun h => ⟨?start, ?held, fun v n => ?node⟩, fun h => ⟨?porst, ?runs, fun v n => ?late⟩, ?power⟩
  case start =>
    have hk := startKept_startPackage s
    refine ⟨(exec_packageStart s).trans (congrArg Host.Outcome.next (if_pos h)), congrArg StartKept.activity hk, congrArg StartKept.tclk hk,
      congrArg (fun k => k.lands.porst) hk, congrArg StartKept.node hk, congrArg StartKept.source hk, startPackage_stage s, congrArg StartKept.fuses hk,
      congrArg StartKept.host hk, congrArg StartKept.sqs hk, congrArg StartKept.cqs hk, congrArg StartKept.qps hk, congrArg StartKept.ctxs hk,
      congrArg StartKept.ops hk, congrArg StartKept.regs hk⟩
  case held => exact (exec_porstNAssert s).trans (congrArg Host.Outcome.next (if_neg (waits_ne_runs h)))
  case node => exact (exec_i3cNodeWrite s v n).trans (congrArg Host.Outcome.next (if_pos h))
  case porst =>
    have hk := startKept_stamped s
    exact ⟨(exec_porstNAssert s).trans (congrArg Host.Outcome.next (if_pos h)), rfl, congrArg StartKept.fuses hk, congrArg StartKept.host hk, rfl, rfl,
      rfl, rfl, rfl, rfl⟩
  case runs => exact (exec_packageStart s).trans (congrArg Host.Outcome.next (if_neg fun hw => waits_ne_runs hw h))
  case late => exact (exec_i3cNodeWrite s v n).trans (congrArg Host.Outcome.next (if_neg fun hw => waits_ne_runs hw h))
  case power =>
    have hk := startKept_powerWritten s
    refine ⟨exec_powerRemoval s, congrArg StartKept.fuses hk, congrArg StartKept.host hk, fun hn => ?_, rfl, rfl, rfl, rfl, rfl, rfl⟩
    change (powerWritten s).nor.field = s.nor.field
    rw [powerWritten_none hn]
end

section
/-! PROOFS. HUB_LOAD_CTRL: staging, START, the boot report and the clearing of logs (R425–R427, R433–R437, R444): O54; firmware processors become ready,
crash and restart (R427, R432, R438–R442): O55. -/

namespace Sys2Proof.Laws
open Sys2Proof.Machine

/-! ### START (R426, R427) -/

section Start

variable {s : State} {n : Nat}

theorem startBundle_elsewhere (hst : s.boot.stage ≠ 1) : s.startBundle n = s.loadResult 1 := by
  simp only [State.startBundle, ne_eq, hst, not_false_eq_true, if_true]

section Stage

variable (hst : s.boot.stage = 1)
include hst

theorem startBundle_length (hn : n = 0 ∨ 4096 < n) : s.startBundle n = s.loadResult 2 := by
  simp only [State.startBundle, hst, ne_eq, not_true_eq_false, if_false, if_pos hn]

section Length

variable (hn : 1 ≤ n) (hm : n ≤ 4096)
include hn hm

omit hst in
theorem length_ok : ¬ (n = 0 ∨ 4096 < n) := by omega

theorem startBundle_rom (hr : s.boot.romOk = false) : s.startBundle n = s.loadResult 3 := by
  have hlen := length_ok hn hm
  simp only [State.startBundle, hst, ne_eq, not_true_eq_false, if_false, if_neg hlen, hr, Bool.not_false, if_true]

section Read

variable (hr : s.boot.romOk = true)
include hr

/-- A staged bundle that does not read is refused as one whose signatures do not verify. -/
theorem startBundle_unread {q : State} (hq : s.readOwn staging (n * 4096) = (q, none)) : s.startBundle n = q.startFails 2 0 5 := by
  have hlen := length_ok hn hm
  simp only [State.startBundle, hst, ne_eq, not_true_eq_false, if_false, if_neg hlen, hr, Bool.not_true, Bool.false_eq_true, hq]

theorem startBundle_refused {q : State} {l : List Byte} {c d : Nat} (hq : s.readOwn staging (n * 4096) = (q, some l))
    (hb : q.bundleRefused l = some (c, d)) : s.startBundle n = q.startFails c 0 d := by
  have hlen := length_ok hn hm
  simp only [State.startBundle, hst, ne_eq, not_true_eq_false, if_false, if_neg hlen, hr, Bool.not_true, Bool.false_eq_true, hq, hb]

theorem startBundle_releases {q : State} {l : List Byte} (hq : s.readOwn staging (n * 4096) = (q, some l)) (hb : q.bundleRefused l = none) :
    s.startBundle n = q.release (readBundle l) l := by
  have hlen := length_ok hn hm
  simp only [State.startBundle, hst, ne_eq, not_true_eq_false, if_false, if_neg hlen, hr, Bool.not_true, Bool.false_eq_true, hq, hb]

end Read

end Length

end Stage

end Start

/-! ### The other commands of HUB_LOAD_CTRL (R425, R435–R437, R444) -/

section Load

variable {s : State} {n : Nat} (h : s.loadServed = true)
include h

theorem exec_start : exec (.start n) s = .next (s.startBundle n) := next_live' (b := s.loadServed) rfl h

theorem exec_block : exec (.block n) s = .next (if s.boot.stage = 1 then (s.stageBlock n).loadResult 0 else s.loadResult 1) :=
  next_live' (b := s.loadServed) rfl h

theorem exec_bootReport : exec .bootReport s = .next ((s.modBoot fun b => { b with window := b.window.write 0 s.bootReport }).loadResult 0) :=
  next_live' (b := s.loadServed) rfl h

theorem exec_clearFailures : exec .clearFailures s = .next (if s.boot.stage = 4 then
    ((s.modJournal fun n => { n with failed := [], vestibule := false }).packageReset true).bootEvent 12 0 0 0 else s.loadResult 1) :=
  next_live' (b := s.loadServed) rfl h

theorem exec_clearService : exec .clearService s = .next (if s.boot.stage ≠ 5 then s.loadResult 1
    else if !s.nor.cycled then s.loadResult 4
    else ((s.modJournal fun n => { n with resets := [], outOfSvc := false, cycled := false }).packageReset false).bootEvent 12 0 0 0) :=
  next_live' (b := s.loadServed) rfl h

theorem exec_packageReset : exec .packageReset s = .next (s.fencePackage 0 0) := next_live' (b := s.loadServed) rfl h

theorem exec_clearService_early (hst : s.boot.stage = 5) (hc : s.nor.cycled = false) : exec .clearService s = .next (s.loadResult 4) := by
  rw [exec_clearService h, if_neg (not_not_intro hst), hc]
  rfl

theorem exec_clearService_clears (hst : s.boot.stage = 5) (hc : s.nor.cycled = true) : exec .clearService s =
    .next (((s.modJournal fun n => { n with resets := [], outOfSvc := false, cycled := false }).packageReset false).bootEvent 12 0 0 0) := by
  rw [exec_clearService h, if_neg (not_not_intro hst), if_neg (by rw [hc]; decide)]

end Load

/-! ### Processors become ready (R427, R432) -/

section Ready

variable {s : State} {p : Nat} {b : Bundle}

section Released

variable (hb : s.boot.running = some b) (hst : s.boot.stage = 2) (hrel : (s.proc p).released = true) (hrdy : (s.proc p).ready = false)
include hb hst hrel hrdy

omit hb in
theorem procReady_awaited : ¬ (s.boot.stage ≠ 2 ∨ (!(s.proc p).released) = true ∨ (s.proc p).ready = true) := by simp [hst, hrel, hrdy]

theorem procReady_ready :
    let t := s.modProc p fun x => { x with ready := true }
    s.procReady p b.id = if t.procs.all fun e => e.2.ready then t.running3 b else t := by
  have hcond := procReady_awaited hst hrel hrdy
  simp only [State.procReady, hb, if_neg hcond, ne_eq, not_true_eq_false, if_false]

theorem procReady_wrong {id : W64} (hid : id ≠ b.id) : s.procReady p id = s.startFails 5 p 0 := by
  have hcond := procReady_awaited hst hrel hrdy
  simp only [State.procReady, hb, if_neg hcond, if_pos hid]

end Released

theorem exec_processorReady (h : s.live = true) (hp : p ≤ 7) (id : W64) : exec (.processorReady p id) s = .next (s.procReady p id) :=
  next_live (b := s.live) rfl hp h

theorem exec_startTimeout_fails (h : s.live = true) (hst : s.boot.stage = 2) (ht : s.boot.startBy ≤ s.tclk) :
    exec .startTimeout s = .next (s.startFails 6 ((s.procs.find? fun e => !e.2.ready).elim 0 (·.1)) 0) :=
  next_live' (b := s.live && s.boot.stage == 2 && decide (s.boot.startBy ≤ s.tclk)) rfl (by simp [h, hst, ht])

theorem exec_startTimeout_none (hn : s.boot.stage ≠ 2 ∨ s.tclk < s.boot.startBy) : exec .startTimeout s = .next s := by
  refine congrArg Host.Outcome.next (if_neg fun hc => ?_)
  simp only [Bool.and_eq_true, beq_iff_eq, decide_eq_true_eq] at hc
  obtain ⟨⟨-, hst⟩, ht⟩ := hc
  rcases hn with hn | hn
  · exact hn hst
  · omega

theorem exec_poweredTimeUpdate_stamps (h : s.live = true) (ht : s.nor.poweredAt + 60000000000 ≤ s.time) :
    exec .poweredTimeUpdate s = .next s.stampPowered :=
  next_live' (b := s.live && decide (s.nor.poweredAt + 60000000000 ≤ s.time)) rfl (by simp only [h, ht, decide_true, Bool.and_self])

theorem exec_poweredTimeUpdate_early (ht : s.time < s.nor.poweredAt + 60000000000) : exec .poweredTimeUpdate s = .next s := by
  refine congrArg Host.Outcome.next (if_neg fun hc => ?_)
  rw [Bool.and_eq_true, decide_eq_true_eq] at hc
  omega

end Ready

/-! ### A crash (R438–R441) -/

section Crash

variable {s : State} {p : Nat} {b : Bundle}

/-- The image that a processor restarts from: gallery 0's copy, and where that one is bad gallery 3's (R439). -/
theorem reload_copy {x : Image} (hp : p ≠ 7) (hx : (b.images.find? fun x => x.target == p) = some x) :
    (∀ {u l}, s.loadImage 0 x = (u, some l) → s.reload b p = (u, some (0, l))) ∧
    (∀ {u}, s.loadImage 0 x = (u, none) → s.reload b p = ((u.loadImage 3 x).1, (u.loadImage 3 x).2.map fun l => (1, l))) := by
  refine ⟨fun h0 => ?_, fun {u} h0 => ?_⟩
  · simp only [State.reload, if_neg hp, hx, h0]
  · rcases h3 : u.loadImage 3 x with ⟨v, _ | l⟩
    · simp only [State.reload, if_neg hp, hx, h0, h3, Option.map_none]
    · simp only [State.reload, if_neg hp, hx, h0, h3, Option.map_some]

theorem reload_island (hp : p = 7) : s.reload b p = (s, some (2, s.sec.retained)) := if_pos hp

/-- The state in which a crash is counted among those of the last second. -/
def crashed (s : State) (p : Nat) : State :=
  s.modProc p fun x => { x with crashes := s.tclk :: x.crashes.filter fun t => decide (s.tclk ≤ t + 1000000000) }

variable {cause : Nat} (hb : s.boot.running = some b) (hrel : (s.proc p).released = true)
include hb hrel

theorem crash_fourth (hn : 4 ≤ ((crashed s p).proc p).crashes.length) : s.crash p cause = (crashed s p).fencePackage 1 p := by
  unfold crashed at hn ⊢
  simp only [State.crash, hb, hrel, Bool.not_true, Bool.false_eq_true, if_false, if_pos hn]

section Reload

variable (hn : ((crashed s p).proc p).crashes.length < 4)
include hn

theorem crash_noCopy (hr : ((crashed s p).reload b p).2 = none) : s.crash p cause = ((crashed s p).reload b p).1.fencePackage 2 p := by
  rcases hl : (crashed s p).reload b p with ⟨u, r⟩
  rw [hl] at hr
  subst hr
  unfold crashed at hn hl
  simp only [State.crash, hb, hrel, Bool.not_true, Bool.false_eq_true, if_false, if_neg (Nat.not_le.mpr hn), hl]

theorem crash_restarts {k : Nat} {l : List Byte} (hr : ((crashed s p).reload b p).2 = some (k, l)) :
    let u := ((crashed s p).reload b p).1.modProc p fun x => { x with image := l }
    let r := (u.bootEvent 8 0 p cause).restartRecord p cause k ((crashed s p).proc p).crashes.length
    s.crash p cause = ((if p = 7 then r.2.modSec fun x => { x with pair := none } else r.2).record 0 r.1).event 5 := by
  rcases hl : (crashed s p).reload b p with ⟨u, r⟩
  rw [hl] at hr
  subst hr
  unfold crashed at hn hl ⊢
  simp only [State.crash, hb, hrel, Bool.not_true, Bool.false_eq_true, if_false, if_neg (Nat.not_le.mpr hn), hl]

end Reload

end Crash

section Messages

variable {s : State} {p : Nat} {b : Bundle} (h : s.live = true) (hp : p ≤ 7)
include h hp

theorem exec_watchdogFire {cause : Nat} (h1 : 1 ≤ cause) (h3 : cause ≤ 3) : exec (.watchdogFire p cause) s = .next (s.crash p cause) :=
  next_live (b := s.live && decide (1 ≤ cause ∧ cause ≤ 3)) rfl hp (by simp [h, h1, h3])

variable (hb : s.boot.running = some b)
include hb

theorem exec_ipcMessage_wrong {id : W64} (hid : id ≠ b.id) : exec (.ipcMessage p id) s = .next (s.crash p 4) :=
  next_live (b := s.live && s.boot.running.any fun b => b.id != id) rfl hp
    (by rw [h, hb, Option.any_some, Bool.true_and, bne_iff_ne]; exact hid.symm)

omit h in
theorem exec_ipcMessage_own : exec (.ipcMessage p b.id) s = .next s := by
  refine (if_pos hp).trans (congrArg Host.Outcome.next (if_neg ?_))
  rw [hb, Option.any_some, bne_self_eq_false, Bool.and_false]
  exact Bool.false_ne_true

end Messages

end Sys2Proof.Laws

open Sys2Proof.Machine Sys2Proof.Laws

/-- Settles O54: START by what its staged bundle reads as (`startBundle_unread`, `startBundle_refused`, `startBundle_releases`), the others by their stage. -/
theorem bundleStarts : Obligations.BundleStarts := by
  intro s n h
  refine ⟨fun hst => (exec_block h).trans (congrArg _ (if_pos hst)),
    fun hst => ⟨(exec_block h).trans (congrArg _ (if_neg hst)), (exec_start h).trans (congrArg _ (startBundle_elsewhere hst))⟩,
    fun hst hn => (exec_start h).trans (congrArg _ (startBundle_length hst hn)), fun hst hn hm hr => ?start,
    fun hst hn hm hr => (exec_start h).trans (congrArg _ (startBundle_rom hst hn hm hr)), exec_bootReport h,
    fun hst => (exec_clearFailures h).trans (congrArg _ (if_pos hst)), fun hst => (exec_clearFailures h).trans (congrArg _ (if_neg hst)),
    fun hst => ⟨exec_clearService_early h hst, exec_clearService_clears h hst⟩, fun hst => (exec_clearService h).trans (congrArg _ (if_pos hst)),
    exec_packageReset h⟩
  case start =>
    rcases hq : s.readOwn staging (n * 4096) with ⟨q, r⟩
    refine ⟨fun hnone => ?_, fun l hl => ⟨fun c d hb => ?_, fun hb => ?_⟩⟩
    · exact (exec_start h).trans (congrArg _ (startBundle_unread hst hn hm hr (hq.trans (congrArg _ hnone))))
    · exact (exec_start h).trans (congrArg _ (startBundle_refused hst hn hm hr (hq.trans (congrArg _ hl)) hb))
    · exact (exec_start h).trans (congrArg _ (startBundle_releases hst hn hm hr (hq.trans (congrArg _ hl)) hb))

/-- Settles O55: readiness by the bundle ID (`procReady_ready`, `procReady_wrong`), a crash by its count and the copies (`crash_fourth`, `crash_noCopy`,
`crash_restarts`). -/
theorem processorsRun : Obligations.ProcessorsRun := by
  intro s p b h hp hb
  refine ⟨fun hst hrel hrdy => ⟨(exec_processorReady h hp _).trans (congrArg _ (procReady_ready hb hst hrel hrdy)),
      fun id hid => (exec_processorReady h hp _).trans (congrArg _ (procReady_wrong hb hst hrel hrdy hid))⟩,
    fun hst ht => exec_startTimeout_fails h hst ht, exec_startTimeout_none, exec_poweredTimeUpdate_stamps h, exec_poweredTimeUpdate_early,
    fun cause h1 h3 hrel => ?crash, fun id hid => exec_ipcMessage_wrong h hp hb hid, exec_ipcMessage_own hp hb⟩
  case crash =>
    have hexec := exec_watchdogFire h hp h1 h3
    refine ⟨fun hn => hexec.trans (congrArg _ (crash_fourth hb hrel hn)), reload_island, fun x h7 hx => ?copy,
      fun hn hr => hexec.trans (congrArg _ (crash_noCopy hb hrel hn hr)), fun k l hn hr => hexec.trans (congrArg _ (crash_restarts hb hrel hn hr))⟩
    split
    · exact (reload_copy h7 hx).1 ‹_›
    · exact (reload_copy h7 hx).2 ‹_›
end

section
/-! PROOFS. Host ports, LTR, mailboxes and dirty-page logging (R155, R364, R367–R369, R380, R381, R389–R391): O58. -/

namespace Sys2Proof.Laws
open Sys2Proof.Machine

/-! ### Host ports (R363–R369) -/

section HostPorts

variable {s : State} {hp : Nat}

theorem exec_hpModeWrite_first {v : W32} (hs : s.served = true) (hr : tget s.regs (regKey 0 0x010000) = none) :
    exec (.hpModeWrite v) s = .next ([1, 2, 3].foldl
      (fun (s : State) n => s.modHp n fun x => { x with mode := hpMode v.toNat n }) (s.setWord 0 0x010000 (v.toNat % 64))) := by
  refine (next_live' (b := s.served) rfl hs).trans (congrArg Host.Outcome.next (if_neg ?_))
  rw [hr]
  exact Bool.false_ne_true

theorem exec_hpModeWrite_later {v : W32} (hs : s.served = true) (hr : (tget s.regs (regKey 0 0x010000)).isSome = true) :
    exec (.hpModeWrite v) s = .next s :=
  (next_live' (b := s.served) rfl hs).trans (congrArg Host.Outcome.next (if_pos hr))

/-- The commands of the host side of a port, each with the event that it is. -/
theorem exec_portEvent (hok : hpOk hp = true) {bars : List Nat} {a b : Option Nat} {i : Instr} {e : HostEvent}
    (hi : (i, e) ∈ [(Instr.hostLinkUp hp bars, HostEvent.up hp bars), (.perstAssert hp, .reset hp), (.hotReset hp, .reset hp),
      (.hostLinkDown hp, .down hp), (.ltrMessage hp a b, .ltr hp (ltrValue a b))]) : exec i s = .next (s.atHost e) := by
  simp only [List.mem_cons, List.not_mem_nil, or_false, Prod.mk.injEq] at hi
  obtain ⟨rfl, rfl⟩ | ⟨rfl, rfl⟩ | ⟨rfl, rfl⟩ | ⟨rfl, rfl⟩ | ⟨rfl, rfl⟩ := hi <;> exact if_pos hok

theorem hostUp_hp0 {bars : List Nat} (h0 : hp = 0) : s.hostUp hp bars =
    (List.range 32).foldl (fun (s : State) n => if (s.peer n).valid then s.probe n else s) (s.modHp 0 fun x => { x with up := true }) := by
  simp only [State.hostUp, if_pos h0]

section Other

variable {bars : List Nat} (h0 : hp ≠ 0)
include h0

theorem hostUp_endpoint (hm : (s.hp hp).mode = 1) : s.hostUp hp bars = s.modHp hp fun x => { x with up := true } := by
  simp only [State.hostUp, if_neg h0, hm, if_neg (show ¬ (1 = 2) by decide), if_true]

theorem hostUp_root (hm : (s.hp hp).mode = 2) : s.hostUp hp bars = s.enumerate hp bars := by
  simp only [State.hostUp, if_neg h0, if_pos hm]

theorem hostUp_off (h1 : (s.hp hp).mode ≠ 1) (h2 : (s.hp hp).mode ≠ 2) : s.hostUp hp bars = s := by
  simp only [State.hostUp, if_neg h0, if_neg h1, if_neg h2]

end Other

theorem enumerate_fits {bars : List Nat} {l : List (Nat × Nat)} (hl : placeBars bars 0x100000000 = some l) :
    s.enumerate hp bars = s.modHp hp fun x => { x with up := true, bars := l, disabled := false } := by
  simp only [State.enumerate, hl]

theorem enumerate_disabled {bars : List Nat} (hl : placeBars bars 0x100000000 = none) :
    s.enumerate hp bars = (s.modHp hp fun x => { x with up := true, bars := [], disabled := true }).openEvent := by
  simp only [State.enumerate, hl]

theorem hostActs_reset (he : s.isEndpoint hp = true) : s.hostActs (.reset hp) = s.portFunctions hp := if_pos he
theorem hostActs_reset_root (he : s.isEndpoint hp = false) : s.hostActs (.reset hp) = s := if_neg (Bool.eq_false_iff.mp he)
theorem hostActs_down (he : s.isEndpoint hp = true) : s.hostActs (.down hp) = s.portFunctions hp := if_pos he

theorem hostActs_down_root (he : s.isEndpoint hp = false) :
    s.hostActs (.down hp) = s.modHp hp fun x => { x with up := false, bars := [], disabled := false } := if_neg (Bool.eq_false_iff.mp he)

theorem hostActs_ltr {v : Option Nat} (h0 : hp ≠ 0) (hm : (s.hp hp).mode = 2) :
    s.hostActs (.ltr hp v) = (s.modFn (256 + hp) fun x => { x with ltr := some v }).wakeDeep := if_pos ⟨h0, hm⟩

theorem hostActs_ltr_none {v : Option Nat} (h : hp = 0 ∨ (s.hp hp).mode ≠ 2) : s.hostActs (.ltr hp v) = s := by
  refine if_neg fun hc => ?_
  obtain ⟨h0, hm⟩ := hc
  exact h.elim h0 fun hn => hn hm

end HostPorts

/-! ### The mailbox (R380, R381) -/

section Mailbox

variable {s : State} {f : Nat} (hf : fnOk f = true)
include hf

theorem exec_mboxSendToMgr : exec (.mboxSendToMgr f) s = .next (if s.boxServed f && !(s.fn f).mgrFull then
    State.interrupt { (s.modFn f fun x => { x with mgrFull := true }) with mboxPend := addNew f s.mboxPend } 0 1 else s) := if_pos hf

theorem exec_tenAck : exec (.tenAck f) s =
    .next (if s.boxServed f && (s.fn f).tenFull then (s.modFn f fun x => { x with tenFull := false }).interrupt 0 1 else s) := if_pos hf

theorem exec_mboxSendToTen : exec (.mboxSendToTen f) s =
    .next (if s.mgrServed f && !(s.fn f).tenFull then (s.modFn f fun x => { x with tenFull := true }).interrupt f 1 else s) := if_pos hf

theorem exec_mgrAck : exec (.mgrAck f) s =
    .next (if s.mgrServed f && (s.fn f).mgrFull then (s.modFn f fun x => { x with mgrFull := false }).interrupt f 1 else s) := if_pos hf

/-- The tenant's side of a mailbox that is served: its message to the manager, and its ack. -/
theorem tenant_served (hs : s.boxServed f = true) :
    ((s.fn f).mgrFull = false → exec (.mboxSendToMgr f) s =
      .next (State.interrupt { (s.modFn f fun x => { x with mgrFull := true }) with mboxPend := addNew f s.mboxPend } 0 1)) ∧
    ((s.fn f).mgrFull = true → exec (.mboxSendToMgr f) s = .next s) ∧
    ((s.fn f).tenFull = true → exec (.tenAck f) s = .next ((s.modFn f fun x => { x with tenFull := false }).interrupt 0 1)) ∧
    ((s.fn f).tenFull = false → exec (.tenAck f) s = .next s) := by
  rw [exec_mboxSendToMgr hf, exec_tenAck hf, hs]
  refine ⟨fun h => ?_, fun h => ?_, fun h => ?_, fun h => ?_⟩ <;> simp [h]

theorem tenant_unserved (hs : s.boxServed f = false) : exec (.mboxSendToMgr f) s = .next s ∧ exec (.tenAck f) s = .next s := by
  rw [exec_mboxSendToMgr hf, exec_tenAck hf, hs]
  simp

/-- The manager's side, which is served whatever the state of the function. -/
theorem manager_served (hs : s.served = true) (h0 : f ≠ 0) :
    ((s.fn f).tenFull = false → exec (.mboxSendToTen f) s = .next ((s.modFn f fun x => { x with tenFull := true }).interrupt f 1)) ∧
    ((s.fn f).tenFull = true → exec (.mboxSendToTen f) s = .next s) ∧
    ((s.fn f).mgrFull = true → exec (.mgrAck f) s = .next ((s.modFn f fun x => { x with mgrFull := false }).interrupt f 1)) ∧
    ((s.fn f).mgrFull = false → exec (.mgrAck f) s = .next s) := by
  have hm : s.mgrServed f = true := by simp [State.mgrServed, hs, h0]
  rw [exec_mboxSendToTen hf, exec_mgrAck hf, hm]
  refine ⟨fun h => ?_, fun h => ?_, fun h => ?_, fun h => ?_⟩ <;> simp [h]

end Mailbox

/-! ### Dirty-page logging (R389–R391) -/

theorem dirtyWrite_served {s : State} (hs : s.served = true) (h1 : 1 ≤ s.fnSel) (h255 : s.fnSel ≤ 255) (g : Dirty → Dirty) :
    s.dirtyWrite g = s.modFn s.fnSel fun x => { x with dirty := g x.dirty } :=
  if_pos (by simp [hs, h1, h255])

end Sys2Proof.Laws

open Sys2Proof.Machine Sys2Proof.Laws

/-- Settles O58: host events at once or kept (`atHost_live`, `atHost_stopped`), the mailbox by its sides (`tenant_served`, `manager_served`), and the
registers of dirty-page logging (`dirtyWrite_served`). -/
theorem hostPortsAndMailboxes : Obligations.HostPortsAndMailboxes := by
  refine ⟨fun s hp bars hok => ⟨fun v hs => ⟨exec_hpModeWrite_first hs, exec_hpModeWrite_later hs⟩, fun h => ?live, fun hr hl a b i e hi => ?kept,
      fun hr hl a b i hi => ?idle⟩,
    fun s f hf => ⟨tenant_served hf, tenant_unserved hf, manager_served hf, fun hs h1 h255 => ?dirty, fun h => next_live (b := s.live) rfl hf h⟩⟩
  case live =>
    have at_ : ∀ {i : Sys2Proof.Instr} {e : HostEvent} {t : State}, exec i s = .next (s.atHost e) → s.hostActs e = t → exec i s = .next t := fun he ht =>
      he.trans (congrArg Host.Outcome.next ((atHost_live h _).trans ht))
    have up : exec (.hostLinkUp hp bars) s = .next (s.atHost (.up hp bars)) := if_pos hok
    have down : exec (.hostLinkDown hp) s = .next (s.atHost (.down hp)) := if_pos hok
    have perst : exec (.perstAssert hp) s = .next (s.atHost (.reset hp)) := if_pos hok
    have hot : exec (.hotReset hp) s = .next (s.atHost (.reset hp)) := if_pos hok
    refine ⟨fun h0 => at_ up (hostUp_hp0 h0), fun h0 hm => at_ up (hostUp_endpoint h0 hm),
      fun h0 hm => ⟨fun l hl => at_ up ((hostUp_root h0 hm).trans (enumerate_fits hl)), fun hl => at_ up ((hostUp_root h0 hm).trans (enumerate_disabled hl))⟩,
      fun h0 h1 h2 => at_ up (hostUp_off h0 h1 h2), fun he => ?_,
      fun he => ⟨at_ down (hostActs_down_root he), at_ perst (hostActs_reset_root he), at_ hot (hostActs_reset_root he)⟩,
      fun a b => ⟨fun h0 hm => at_ (if_pos hok) (hostActs_ltr h0 hm), fun hn => at_ (if_pos hok) (hostActs_ltr_none hn)⟩⟩
    intro t i hi
    simp only [List.mem_cons, List.not_mem_nil, or_false] at hi
    obtain rfl | rfl | rfl := hi
    · exact at_ perst (hostActs_reset he)
    · exact at_ hot (hostActs_reset he)
    · exact at_ down (hostActs_down he)
  case kept => exact (exec_portEvent hok hi).trans (congrArg _ (atHost_stopped hr hl e))
  case idle =>
    simp only [List.mem_cons, List.not_mem_nil, or_false] at hi
    obtain rfl | rfl | rfl | rfl | rfl := hi <;> exact (if_pos hok).trans (congrArg Host.Outcome.next (atHost_idle hr _))
  case dirty =>
    exact ⟨congrArg Host.Outcome.next (dirtyWrite_served hs h1 h255 _), congrArg Host.Outcome.next (dirtyWrite_served hs h1 h255 _),
      congrArg Host.Outcome.next (dirtyWrite_served hs h1 h255 _)⟩
end

section
/-! PROOFS. Snapshots and the inventory stop (R484, R485, R490–R496): O48. -/

namespace Sys2Proof.Laws
open Sys2Proof.Machine

/-! ### Snapshots (R484, R485) -/

section Snapshots

variable {s : State} {t : Nat}

theorem exec_snapshotTake (h : s.dbgServed = true) : exec .snapshotTake s = .next (s.snapTrigger 1) := next_live' (b := s.dbgServed) rfl h

theorem exec_snapshotRelease (h : s.dbgServed = true) : exec .snapshotRelease s = .next (s.modDbg fun d => { d with held := false }) :=
  next_live' (b := s.dbgServed) rfl h

theorem exec_snapshotTimer (h : s.live = true) : exec .snapshotTimer s = .next s.snapTimer := next_live' (b := s.live) rfl h

theorem snapTimer_due (ht : s.dbg.timerAt = some t) (hd : t ≤ s.tclk) :
    s.snapTimer = (s.modDbg fun d => { d with timerAt := some (t + s.snapPeriod * 1000000) }).snapTrigger 2 := by
  simp only [State.snapTimer, ht, if_pos hd]

theorem snapTimer_early (ht : s.dbg.timerAt = some t) (hd : s.tclk < t) : s.snapTimer = s := by
  simp only [State.snapTimer, ht, if_neg (Nat.not_le.mpr hd)]

theorem exec_snapshotEdge (hr : s.activity = .running) : exec .snapshotEdge s = .next s.snapEdge := congrArg Host.Outcome.next (if_pos hr)

theorem snapEdge_none (hd : s.dbg.snapDue = none) : s.snapEdge = s := by simp only [State.snapEdge, hd]

theorem exec_snapshotEdge_none (hd : s.dbg.snapDue = none) : exec .snapshotEdge s = .next s := by
  refine congrArg Host.Outcome.next ?_
  rw [snapEdge_none hd, ite_self]

section Edge

variable (hd : s.dbg.snapDue = some t)
include hd

theorem snapEdge_early (ht : s.time < t) : s.snapEdge = s := by simp only [State.snapEdge, hd, if_pos ht]

/-- At the edge every counter is copied into the shadow under the next number, STOP_OUT pulses where that is on, and every gallery gets a record. -/
theorem snapEdge_takes (ht : t ≤ s.time) :
    let n := (s.dbg.snapSeq + 1) % 65536
    let u := s.modDbg fun d => { d with
      snapDue := none, snapTrig := 0, shadow := s.allCounters, snapSeq := n, trigger := s.dbg.snapTrig, held := s.snapHold }
    let l := leBytes 2 n ++ leBytes 1 s.dbg.snapTrig ++ List.replicate 13 0
    s.snapEdge = State.traceAll
      (if bit (s.word 0 0x120020) 3 then { u with lands := { u.lands with stopPulses := u.lands.stopPulses + 1 } } else u) 0x0E l := by
  simp only [State.snapEdge, hd, if_neg (Nat.not_lt.mpr ht)]
  rfl

end Edge

end Snapshots

/-! ### The inventory stop (R490–R494) -/

section Stop

variable {s : State} {t : Nat}

theorem exec_stop (h : s.dbgServed = true) : exec .stop s = .next (s.stopTrigger 1) := next_live' (b := s.dbgServed) rfl h

theorem exec_stopIn (hr : s.activity = .running) :
    let u := if bit (s.word 0 0x120020) 0 then s.snapTrigger 4 else s
    exec .stopIn s = .next (if bit (u.word 0 0x120020) 1 then u.stopTrigger 2 else u) := congrArg Host.Outcome.next (if_pos hr)

/-- A snapshot trigger changes no register. -/
theorem snapTrigger_word (trigger f off : Nat) : (s.snapTrigger trigger).word f off = s.word f off := by
  unfold State.snapTrigger
  split <;> rfl

theorem exec_stopHalt (h : s.live = true) : exec .stopHalt s = .next s.haltEdge := next_live' (b := s.live) rfl h

theorem haltEdge_halts (hd : s.dbg.haltDue = some t) (ht : t ≤ s.time) (hp : s.dbg.stop = .pending) :
    s.haltEdge = (s.modDbg fun d => { d with
      stop := .stopped, haltDue := none, landed := s.tvesAtRest, result := 0, scanned := 0, haltAt := s.time }).stopRecord 0 := by
  have hcond : ¬ (s.time < t ∨ s.dbg.stop ≠ .pending) := fun hc => hc.elim (Nat.not_lt.mpr ht) fun hn => hn hp
  simp only [State.haltEdge, hd, if_neg hcond]

theorem haltEdge_none (hn : ∀ t, s.dbg.haltDue = some t → t ≤ s.time → s.dbg.stop ≠ .pending) : s.haltEdge = s := by
  cases hd : s.dbg.haltDue with
  | none => simp only [State.haltEdge, hd]
  | some t =>
    have hcond : s.time < t ∨ s.dbg.stop ≠ .pending := (Nat.lt_or_ge s.time t).imp_right (hn t hd)
    simp only [State.haltEdge, hd, if_pos hcond]

theorem exec_stopHalt_none (hn : ∀ t, s.dbg.haltDue = some t → t ≤ s.time → s.dbg.stop ≠ .pending) : exec .stopHalt s = .next s := by
  refine congrArg Host.Outcome.next ?_
  rw [haltEdge_none hn, ite_self]

section Boundary

variable (hb : s.dbg.boundBy = some t)
include hb

theorem exec_boundaryWaitExpire (h : s.live = true) (hp : s.dbg.stop = .pending) (ht : t ≤ s.tclk) :
    exec .boundaryWaitExpire s = .next s.stopTaken :=
  next_live' (b := s.live && s.dbg.stop == .pending && s.dbg.boundBy.any fun t => decide (t ≤ s.tclk)) rfl (by simp [h, hp, hb, ht])

theorem exec_boundaryWaitExpire_early (ht : s.tclk < t) : exec .boundaryWaitExpire s = .next s := by
  refine congrArg Host.Outcome.next (if_neg ?_)
  rw [hb, Option.any_some, decide_eq_false (Nat.not_le.mpr ht), Bool.and_false]
  exact Bool.false_ne_true

end Boundary

end Stop

/-! ### The scan and the end of a stop (R495, R496) -/

section Scan

variable {s : State}

theorem exec_scan (h : s.dbgServed = true) : exec .scan s = .next s.scanStart := next_live' (b := s.dbgServed) rfl h

theorem scanStart_state (hp : s.dbg.stop ≠ .stopped) : s.scanStart = s.modDbg fun d => { d with result := 1 } := if_pos hp

theorem scanStart_buffer (hp : s.dbg.stop = .stopped) (hl : s.scanLen < s.scanSize) : s.scanStart = s.modDbg fun d => { d with result := 3 } := by
  simp only [State.scanStart, if_neg (not_not_intro hp), if_pos hl]

theorem scanStart_begins (hp : s.dbg.stop = .stopped) (hl : s.scanSize ≤ s.scanLen) :
    s.scanStart = s.modDbg fun d => { d with stop := .scanning, result := 0, scanned := 0 } := by
  simp only [State.scanStart, if_neg (not_not_intro hp), if_neg (Nat.not_lt.mpr hl)]

theorem exec_scanComplete (hr : s.activity = .running) (hp : s.dbg.stop = .scanning) :
    exec .scanComplete s = .next (s.writeImage.modDbg fun d => { d with stop := .scanned, scanned := s.scanSize }) :=
  congrArg Host.Outcome.next (if_pos ⟨hr, hp⟩)

theorem exec_stopResume (h : s.dbgServed = true) : exec .stopResume s = .next s.stopResume := next_live' (b := s.dbgServed) rfl h

theorem stopResume_running (hs : s.stopped = false) : s.stopResume = s.modDbg fun d => { d with result := 1 } := by
  simp only [State.stopResume, hs, Bool.not_false, if_true]

theorem stopResume_midway (hs : s.stopped = true) (hl : s.dbg.landed = false) : s.stopResume = s.modDbg fun d => { d with result := 2 } := by
  simp only [State.stopResume, hs, hl, Bool.not_true, Bool.not_false, Bool.false_eq_true, if_false, if_true]

theorem stopResume_landed (hs : s.stopped = true) (hl : s.dbg.landed = true) :
    let u := (State.stopRecord { s with lands := { s.lands with stopOut := false } } 1).modDbg fun d => { d with stop := .running, result := 0 }
    let v := (List.range 6).foldl (fun (s : State) g => if (s.gal g).cons.busy then s else s.traceDrain g) u
    let w := (v.fns.map (·.1)).foldl (fun (s : State) f => if (s.fn f).state = .active then s.actWakes f else s) v
    s.stopResume = w.dbg.kept.foldl (fun (s : State) e => s.hostActs e) (w.modDbg fun d => { d with kept := [] }) := by
  simp only [State.stopResume, hs, hl, Bool.not_true, Bool.false_eq_true, if_false]

theorem exec_stopRelease (h : s.dbgServed = true) :
    exec .stopRelease s = .next (if s.stopped then s.packageReset true else s.modDbg fun d => { d with result := 1 }) :=
  next_live' (b := s.dbgServed) rfl h

end Scan

end Sys2Proof.Laws

open Sys2Proof.Machine Sys2Proof.Laws

/-- Settles O48: snapshots by their trigger, timer and edge (`snapEdge_takes`), the stop by its halt edge, its scan and its end (`haltEdge_halts`,
`stopResume_landed` and the others). -/
theorem snapshotsAndStops : Obligations.SnapshotsAndStops := by
  refine ⟨fun s => ⟨fun h => ⟨exec_snapshotTake h, exec_snapshotRelease h⟩, fun t h ht => ?timer, fun t hr hd => ?edge, exec_snapshotEdge_none⟩,
    fun s => ⟨exec_stop, fun hr => ?stopIn, fun t h hd ht hp => (exec_stopHalt h).trans (congrArg _ (haltEdge_halts hd ht hp)), exec_stopHalt_none,
      fun t h hp hb => ⟨exec_boundaryWaitExpire hb h hp, exec_boundaryWaitExpire_early hb⟩, fun h => ?scan, exec_scanComplete, fun h => ?ends⟩⟩
  case timer =>
    exact ⟨fun hd => (exec_snapshotTimer h).trans (congrArg _ (snapTimer_due ht hd)), fun hd => (exec_snapshotTimer h).trans (congrArg _ (snapTimer_early ht hd))⟩
  case edge =>
    refine ⟨fun ht hb => ?_, fun ht hb => ?_, fun ht => (exec_snapshotEdge hr).trans (congrArg _ (snapEdge_early hd ht))⟩
    · rw [exec_snapshotEdge hr, snapEdge_takes hd ht, hb]
      rfl
    · rw [exec_snapshotEdge hr, snapEdge_takes hd ht, hb]
      rfl
  case stopIn =>
    intro u
    have hw : u.word 0 0x120020 = s.word 0 0x120020 := (apply_ite (fun x : State => x.word 0 0x120020) _ _ _).trans (by rw [snapTrigger_word, ite_self])
    refine ⟨fun hb => (exec_stopIn hr).trans (congrArg Host.Outcome.next (if_pos ?_)), fun hb => (exec_stopIn hr).trans (congrArg Host.Outcome.next (if_neg ?_))⟩
    · exact (congrArg (bit · 1) hw).trans hb
    · exact Bool.eq_false_iff.mp ((congrArg (bit · 1) hw).trans hb)
  case scan =>
    have hexec := exec_scan h
    exact ⟨fun hp => hexec.trans (congrArg _ (scanStart_state hp)), fun hp hl => hexec.trans (congrArg _ (scanStart_buffer hp hl)),
      fun hp hl => hexec.trans (congrArg _ (scanStart_begins hp hl))⟩
  case ends =>
    have hexec := exec_stopResume h
    exact ⟨fun hs hl => hexec.trans (congrArg _ (stopResume_landed hs hl)), fun hs hl => hexec.trans (congrArg _ (stopResume_midway hs hl)),
      fun hs => hexec.trans (congrArg _ (stopResume_running hs)), fun hs => (exec_stopRelease h).trans (congrArg _ (if_pos hs)),
      fun hs => (exec_stopRelease h).trans (congrArg _ (if_neg (Bool.eq_false_iff.mp hs)))⟩
end

section
/-! PROOFS. Attestation, the key exchange and the key slots (R397–R402, R413, R416): O51. -/

namespace Sys2Proof.Laws
open Sys2Proof.Machine

/-! ### SPDM over DOE (R397–R400) -/

section Attestation

variable {s : State} (hs : s.served = true) (k : Nat) (request extra : List Byte)
include hs

/-- A request that SEC supports is answered; any other is answered with ERROR. -/
theorem spdm_served : s.spdm k request extra = if spdmSupported k request = true then
      s.draw.2.modSec fun x => { x with answers := (k, Config.spdmBody k (request ++ extra) s.draw.1) :: x.answers, requests := x.requests + 1 }
    else s.modSec fun x => { x with answers := (7, [request.getD 0 0, 0x7F, 0x07, request.getD 1 0]) :: x.answers, requests := x.requests + 1 } := by
  cases hk : spdmSupported k request with
  | true => simp only [State.spdm, hs, hk, Bool.not_true, Bool.false_eq_true, if_false, if_true]
  | false => simp only [State.spdm, hs, hk, Bool.not_true, Bool.not_false, Bool.false_eq_true, if_false, if_true, spdmError]

end Attestation

/-! ### The key exchange (R401, R416) -/

section Exchange

variable {s : State}

section Failed

variable (he : s.sec.entropyBad = true)
include he

theorem kexSign_entropy : s.kexSign = s.modSec fun x => { x with kexResult := 3 } := if_pos he
theorem kexAgree_entropy : s.kexAgree = s.modSec fun x => { x with kexResult := 3 } := if_pos he

end Failed

section Working

variable (he : s.sec.entropyBad = false)
include he

theorem kexSign_signs :
    s.kexSign = s.draw.2.draw.2.modSec fun x => { x with
      pair := some s.draw.1, kexDev := ephemeralKey s.draw.1
      kexSig := identitySign s.draw.2.draw.1 (ephemeralKey s.draw.1 ++ s.draw.2.draw.2.kexChal), kexResult := 0 } :=
  if_neg (Bool.eq_false_iff.mp he)

theorem kexAgree_noPair (hp : s.sec.pair = none) : s.kexAgree = s.modSec fun x => { x with kexResult := 2 } := by
  simp only [State.kexAgree, he, hp, Bool.false_eq_true, if_false]

variable {d : Nat} (hp : s.sec.pair = some d)
include hp

theorem kexAgree_noPoint (hh : p384Point s.kexHost = false) : s.kexAgree = s.modSec fun x => { x with kexResult := 1 } := by
  simp only [State.kexAgree, he, hp, hh, Bool.false_eq_true, if_false]

theorem kexAgree_derives (hh : p384Point s.kexHost = true) :
    s.kexAgree = s.modSec fun x => { x with kek := some (deriveKek d s.kexHost), pair := none, kexResult := 0 } := by
  simp only [State.kexAgree, he, hp, hh, Bool.false_eq_true, if_false, if_true]

end Working

theorem exec_sign (hs : s.served = true) : exec .sign s = .next s.kexSign := next_live' (b := s.served) rfl hs
theorem exec_agree (hs : s.served = true) : exec .agree s = .next s.kexAgree := next_live' (b := s.served) rfl hs

end Exchange

/-! ### Key slots (R402, R413, R416) -/

section Slots

variable {s : State} {epoch ctx : Nat}

theorem slotLoad_entropy (he : s.sec.entropyBad = true) : s.slotLoad epoch ctx = s.slotResult 5 := by
  simp only [State.slotLoad, he, if_true]

section Working

variable (he : s.sec.entropyBad = false)
include he

theorem slotLoad_bound (hb : s.slotBound s.slotSel = true) : s.slotLoad epoch ctx = s.slotResult 2 := by
  simp only [State.slotLoad, he, hb, Bool.false_eq_true, if_false, if_true]

variable (hb : s.slotBound s.slotSel = false)
include hb

theorem slotLoad_noKek (hk : s.sec.kek = none) : s.slotLoad epoch ctx = s.slotResult 3 := by
  simp only [State.slotLoad, he, hb, hk, Bool.false_eq_true, if_false]

variable {kek : BitVec 256} (hk : s.sec.kek = some kek)
include hk

theorem slotLoad_noCtx (hc : tget s.ctxs ctx = none) : s.slotLoad epoch ctx = s.slotResult 4 := by
  simp only [State.slotLoad, he, hb, hk, hc, Option.isNone_none, Bool.false_eq_true, if_false, if_true]

variable {c : Context} (hc : tget s.ctxs ctx = some c)
include hc

theorem slotLoad_unwrapped (hw : unwrapKey kek s.slotWrap = none) : s.slotLoad epoch ctx = s.slotResult 1 := by
  simp only [State.slotLoad, he, hb, hk, hc, hw, Option.isNone_some, Bool.false_eq_true, if_false]

theorem slotLoad_loads {key : BitVec 256} (hw : unwrapKey kek s.slotWrap = some key) :
    s.slotLoad epoch ctx = (s.modKey s.slotSel fun _ => { state := .loaded, key, epoch, ctx, n := 0 }).slotResult 0 := by
  simp only [State.slotLoad, he, hb, hk, hc, hw, Option.isNone_some, Bool.false_eq_true, if_false]

end Working

theorem slotErase_bound (hb : s.slotBound s.slotSel = true) : s.slotErase = s.slotResult 2 := if_pos hb

theorem slotErase_erases (hb : s.slotBound s.slotSel = false) :
    s.slotErase = (s.modSec fun x => { x with slots := tdel x.slots s.slotSel }).slotResult 0 := if_neg (Bool.eq_false_iff.mp hb)

/-- The state in which a parity fault is counted and the packets at work are lost. -/
def afterParity (s : State) (p k : Nat) : State := ((s.count 0x09 p 3 1).dropInProcess p k).dropSameCycle k

theorem parityFault_loaded {p k : Nat} (h : ((afterParity s p k).keySlot k).state = .loaded) :
    s.parityFault p k = (afterParity s p k).slotLost k .invalid 4 p := by
  unfold afterParity at h ⊢
  simp only [State.parityFault, if_pos h]

theorem parityFault_other {p k : Nat} (h : ((afterParity s p k).keySlot k).state ≠ .loaded) : s.parityFault p k = afterParity s p k := by
  unfold afterParity at h ⊢
  simp only [State.parityFault, if_neg h]

theorem exec_slotLoad (hs : s.served = true) (w : W64) : exec (.slotLoad w) s = .next (s.slotLoad (bits w.toNat 31 16) (bits w.toNat 43 32)) :=
  next_live' (b := s.served) rfl hs

theorem exec_slotErase (hs : s.served = true) (w : W64) : exec (.slotErase w) s = .next s.slotErase := next_live' (b := s.served) rfl hs

theorem exec_cipherParityFault {p k : Nat} (h : s.live = true) (hp : portOk p = true) : exec (.cipherParityFault p k) s = .next (s.parityFault p k) :=
  next_live (b := s.live) rfl hp h

end Slots

end Sys2Proof.Laws

open Sys2Proof.Machine Sys2Proof.Laws

/-- Settles O51: requests by whether SEC supports them (`spdm_served`), the exchange and the slots by the first check that fails (`kexAgree_noPair`,
`slotLoad_bound` and the others). -/
theorem keysAndSlots : Obligations.KeysAndSlots := by
  refine ⟨fun s r hs => ?exchange, fun s => ⟨fun w hs => ?slots, fun p k h hp => ?parity⟩⟩
  case exchange =>
    have hsign := exec_sign hs
    have hagree := exec_agree hs
    refine ⟨congrArg Host.Outcome.next (spdm_served hs 0 r spdmVersions), congrArg Host.Outcome.next (spdm_served hs 1 r spdmCapabilities),
      congrArg Host.Outcome.next (spdm_served hs 2 r spdmAlgorithms), congrArg Host.Outcome.next (spdm_served hs 3 r (sha384 Sys2Proof.Config.certChain)),
      congrArg Host.Outcome.next (spdm_served hs 4 r Sys2Proof.Config.certChain), congrArg Host.Outcome.next (spdm_served hs 5 r (identitySign s.free r)),
      congrArg Host.Outcome.next (spdm_served hs 6 r (s.sec.measured ++ identitySign s.free (r ++ s.sec.measured))),
      fun he => ⟨hsign.trans (congrArg _ (kexSign_entropy he)), hagree.trans (congrArg _ (kexAgree_entropy he))⟩,
      fun he => ⟨hsign.trans (congrArg _ (kexSign_signs he)), fun hp => hagree.trans (congrArg _ (kexAgree_noPair he hp)),
        fun d hp hh => hagree.trans (congrArg _ (kexAgree_noPoint he hp hh)), fun d hp hh => hagree.trans (congrArg _ (kexAgree_derives he hp hh))⟩⟩
  case slots =>
    have hload := exec_slotLoad hs w
    have herase := exec_slotErase hs w
    exact ⟨fun he => hload.trans (congrArg _ (slotLoad_entropy he)), fun he hb => hload.trans (congrArg _ (slotLoad_bound he hb)),
      fun he hb hk => hload.trans (congrArg _ (slotLoad_noKek he hb hk)), fun k he hb hk hc => hload.trans (congrArg _ (slotLoad_noCtx he hb hk hc)),
      fun k c he hb hk hc hw => hload.trans (congrArg _ (slotLoad_unwrapped he hb hk hc hw)),
      fun k c key he hb hk hc hw => hload.trans (congrArg _ (slotLoad_loads he hb hk hc hw)), fun hb => herase.trans (congrArg _ (slotErase_bound hb)),
      fun hb => herase.trans (congrArg _ (slotErase_erases hb))⟩
  case parity =>
    have hexec := exec_cipherParityFault (k := k) h hp
    exact ⟨fun hl => hexec.trans (congrArg _ (parityFault_loaded hl)), fun hl => hexec.trans (congrArg _ (parityFault_other hl))⟩
end

section
/-! PROOFS. Links and credits; lanes, retraining and parking (R205, R217, R343–R346, R472): O38. -/

namespace Sys2Proof.Laws
open Sys2Proof.Machine

/-! ### Links (R205) -/

section Links

variable {s : State} {p sub d : Nat}

/-- A lane of a sub-port of a broken-out port has failed. -/
def laneBroken (s : State) (p sub : Nat) : Prop :=
  s.subCount p ≠ 1 ∧ ∃ k < 8 / s.subCount p, (s.port p).failed.getLsbD (sub * (8 / s.subCount p) + k) = true

/-- The link of a sub-port may come up. -/
def mayComeUp (s : State) (p sub : Nat) : Prop :=
  s.portEnabled p = true ∧ sub < s.subCount p ∧ s.portsHeld = false ∧ (s.port p).retrain = false ∧ (s.port p).width ≠ .down ∧ ¬ laneBroken s p sub

theorem laneBroken_iff : (s.subCount p ≠ 1 && ((List.range (8 / s.subCount p)).map (sub * (8 / s.subCount p) + ·)).any fun m =>
    (s.port p).failed.getLsbD m) = true ↔ laneBroken s p sub := by
  simp [laneBroken]

theorem linkUp_up (hm : mayComeUp s p sub) : s.linkUp p sub d = ((s.modPort p fun x => { x with
    delay := d, blocked := 0, version := 1, helloDone := false, helloSeen := false, helloNext := s.tclk, parked := false, waking := none }).modSub p sub
      fun x => { x with up := true, lldpNext := s.tclk, lldpSent := 0 }).portState p := by
  obtain ⟨he, hsub, hheld, hr, hw, hb⟩ := hm
  have hbroken := Bool.eq_false_iff.mpr (mt laneBroken_iff.mp hb)
  refine if_neg ?_
  simp only [he, hheld, hr, hw, hbroken, Bool.not_true, Bool.false_eq_true, Nat.not_le.mpr hsub, or_self, not_false_eq_true]

theorem linkUp_none (hm : ¬ mayComeUp s p sub) : s.linkUp p sub d = s := by
  refine if_pos (Decidable.byContradiction fun hc => hm ?_)
  simp only [not_or, Bool.not_eq_true, Bool.not_eq_false', Nat.not_le] at hc
  obtain ⟨he, hsub, hheld, hr, hw, hb⟩ := hc
  exact ⟨he, hsub, hheld, hr, hw, fun hl => Bool.eq_false_iff.mp hb (laneBroken_iff.mpr hl)⟩

end Links

/-! ### CREDIT frames (R217) -/

section Credits

variable {s : State} {p : Nat}

/-- A CREDIT frame is due at a port. -/
def creditDue (s : State) (p : Nat) : Prop :=
  s.portSwitched p = false ∧ (s.port p).up = true ∧
    ((s.port p).creditAt + 4000 ≤ s.tclk ∨ ((s.port p).creditNew = true ∧ (s.port p).creditAt + 128 ≤ s.tclk))

theorem creditDue_iff : creditDue s p ↔ ¬ (s.portSwitched p = true ∨ (!(s.port p).up) = true ∨
    (!(decide ((s.port p).creditAt + 4000 ≤ s.tclk) || ((s.port p).creditNew && decide ((s.port p).creditAt + 128 ≤ s.tclk)))) = true) := by
  unfold creditDue
  simp only [not_or, Bool.not_eq_true, Bool.not_eq_false', Bool.or_eq_true, Bool.and_eq_true, decide_eq_true_eq]

theorem creditFrame_sends (hd : creditDue s p) : s.creditFrame p =
    (s.sendCtrl p (s.port p).creditBytes).modPort p fun x => { x with creditSeq := (x.creditSeq + 1) % 65536, creditAt := s.tclk, creditNew := false } :=
  if_neg (creditDue_iff.mp hd)

theorem creditFrame_none (hd : ¬ creditDue s p) : s.creditFrame p = s := if_pos (Decidable.not_not.mp (mt creditDue_iff.mpr hd))

end Credits

/-! ### Lanes that fail (R344, R346) -/

section Fails

variable {s : State} {p m : Nat}

theorem laneFailed_known (hk : (s.port p).failed.getLsbD m = true ∨ (s.portSwitched p = true ∧ m = 8)) : s.laneFailed p m = s := if_pos hk

/-- The lane entered among those that this end has failed. -/
def laneNoted (s : State) (p m : Nat) : State := s.modPort p fun y => { y with failed := y.failed ||| (1#9 <<< m) }

/-- A lane of a port that is not in use, nor to replace one that has failed. -/
def laneIdle (x : Port) (m : Nat) : Prop := x.width = .down ∨ (x.lanes.contains m = false ∧ ¬ (m = 8 ∧ x.swapping.isSome = true))

theorem laneIdle_iff {x : Port} : x.width = .down ∨ (!x.lanes.contains m && !(m == 8 && x.swapping.isSome)) = true ↔ laneIdle x m := by
  simp only [laneIdle, Bool.and_eq_true, Bool.not_eq_true', Bool.and_eq_false_iff, beq_eq_false_iff_ne, Classical.not_and_iff_not_or_not, Bool.not_eq_true, ne_eq]

/-- The first failed lane of a direct port at full width, of which the partner has failed none. -/
def firstFailed (s : State) (p m : Nat) : Prop :=
  (s.port p).width = .full ∧ (s.port p).swapping = none ∧ (laneNoted s p m).portSwitched p = false ∧ (s.port p).allFailed.getLsbD 8 = false ∧
    (s.port p).peerFailed = 0 ∧ (s.port p).failed = 0

theorem firstFailed_iff : (s.port p).width = .full ∧ (s.port p).swapping = none ∧ (!(laneNoted s p m).portSwitched p) = true ∧
    (!(s.port p).allFailed.getLsbD 8) = true ∧ (s.port p).peerFailed = 0 ∧ (s.port p).failed = 0 ↔ firstFailed s p m := by
  simp only [firstFailed, Bool.not_eq_true']

variable (hk : ¬ ((s.port p).failed.getLsbD m = true ∨ (s.portSwitched p = true ∧ m = 8)))
include hk

theorem laneFailed_brokenOut (hc : (laneNoted s p m).subCount p ≠ 1) : s.laneFailed p m =
    ((laneNoted s p m).repair 0x04 7 [p, m]).linkDown p (m / (8 / (laneNoted s p m).subCount p)) :=
  (if_neg hk).trans (if_pos hc)

section Whole

variable (hc : (laneNoted s p m).subCount p = 1)
include hc

theorem laneFailed_idle (hi : laneIdle (s.port p) m) : s.laneFailed p m = (laneNoted s p m).repair 0x04 7 [p, m] :=
  (if_neg hk).trans ((if_neg (not_not_intro hc)).trans (if_pos (laneIdle_iff.mpr hi)))

variable (hi : ¬ laneIdle (s.port p) m)
include hi

theorem laneFailed_first (hf : firstFailed s p m) : s.laneFailed p m =
    ((laneNoted s p m).modPort p fun y => { y with swapping := some m }).sendCtrl p (leBytes 1 0x81 ++ leBytes 1 0 ++ leBytes 1 m) :=
  (if_neg hk).trans ((if_neg (not_not_intro hc)).trans ((if_neg (mt laneIdle_iff.mp hi)).trans (if_pos (firstFailed_iff.mpr hf))))

theorem laneFailed_later (hf : ¬ firstFailed s p m) : s.laneFailed p m = ((laneNoted s p m).repair 0x04 7 [p, m]).retrainOn p :=
  (if_neg hk).trans ((if_neg (not_not_intro hc)).trans ((if_neg (mt laneIdle_iff.mp hi)).trans (if_neg (mt firstFailed_iff.mp hf))))

end Whole

end Fails

/-! ### The spare lane (R345) -/

section Swap

/-- The bit of one lane, bit by bit. -/
theorem laneBit (m : Nat) {j : Nat} (hj : j < 9) : (1#9 <<< m).getLsbD j = decide (j = m) := by
  simp only [BitVec.getLsbD_shiftLeft, BitVec.getLsbD_one, hj, decide_true, Bool.true_and]
  rw [Bool.eq_iff_iff]
  simp only [Bool.and_eq_true, Bool.not_eq_true', decide_eq_false_iff_not, decide_eq_true_eq]
  omega

theorem failedBeside_iff {x : Port} {m : Nat} : x.failedBeside m = true ↔ ∃ j < 9, j ≠ m ∧ x.allFailed.getLsbD j = true := by
  have hbit : ∀ j < 9, (x.allFailed &&& ~~~(1#9 <<< m)).getLsbD j = (x.allFailed.getLsbD j && !decide (j = m)) := fun j hj => by
    rw [BitVec.getLsbD_and, BitVec.getLsbD_not, laneBit m hj, decide_eq_true hj, Bool.true_and]
  rw [Port.failedBeside, bne_iff_ne]
  constructor
  · intro hne
    refine Classical.byContradiction fun hn => hne (BitVec.eq_of_getLsbD_eq fun j hj => ?_)
    rw [hbit j hj, show (0 : BitVec 9) = 0#9 from rfl, BitVec.getLsbD_zero]
    by_cases hj' : j = m
    · simp [hj']
    · rw [Bool.eq_false_iff.mpr fun hl => hn ⟨j, hj, hj', hl⟩, Bool.false_and]
  · rintro ⟨j, hj, hne, hl⟩ hz
    have hb := hbit j hj
    rw [hz, show (0 : BitVec 9) = 0#9 from rfl, BitVec.getLsbD_zero, hl, decide_eq_false hne] at hb
    cases hb

variable {s u : State} {p : Nat} {k : Packet}

/-- A request for the spare lane that this end takes. -/
def swapTaken (u : State) (p m : Nat) : Prop := m ≤ 7 ∧ (u.port p).width = .full ∧ u.portSwitched p = false

theorem swapTaken_iff {m : Nat} : swapTaken u p m ↔ ¬ (7 < m ∨ (u.port p).width ≠ .full ∨ u.portSwitched p = true) := by
  simp [swapTaken, not_or]

theorem exec_laneSwap (hp : portOk p = true) (h : s.linkReady p 0x81 u k) : exec (.laneSwap p) s = .next (
    let m := fld k.body 2 1
    if 7 < m ∨ (u.port p).width ≠ .full ∨ u.portSwitched p = true then u
    else if (u.port p).failedBeside m then ((u.modPort p fun y => { y with peerFailed := y.peerFailed ||| (1#9 <<< m) }).repair 0x04 7 [p, m]).retrainOn p
    else (u.modPort p fun y => { y with peerFailed := y.peerFailed ||| (1#9 <<< m), swapping := some m }).takeSpare p m) :=
  (if_pos hp).trans (congrArg Host.Outcome.next (link_ready h _))

/-- What this end does about a failed lane once L8 has replaced it. -/
def swapEnds (s : State) (p : Nat) : State :=
  match (s.port p).swapping with
  | none => s
  | some m => (if (s.port p).lanes.contains m then s.takeSpare p m else s).modPort p fun y => { y with swapping := none }

theorem exec_laneSwapDone (hp : portOk p = true) (h : s.linkReady p 0x82 u k) : exec (.laneSwapDone p) s = .next (swapEnds u p) :=
  (if_pos hp).trans (congrArg Host.Outcome.next (link_ready h _))

theorem swapEnds_none (hs : (u.port p).swapping = none) : swapEnds u p = u := by simp only [swapEnds, hs]

theorem swapEnds_some {m : Nat} (hs : (u.port p).swapping = some m) :
    swapEnds u p = (if (u.port p).lanes.contains m then u.takeSpare p m else u).modPort p fun y => { y with swapping := none } := by
  simp only [swapEnds, hs]

theorem retrained_up (hr : (s.port p).retrain = true) :
    s.retrained p = (s.modPort p fun y => { y with retrain := false }).linkUp p 0 (s.port p).delay := by
  simp only [State.retrained, hr, Bool.not_true, Bool.false_eq_true, if_false]

theorem retrained_none (hr : (s.port p).retrain = false) : s.retrained p = s := by
  simp only [State.retrained, hr, Bool.not_false, if_true]

end Swap

/-! ### Parking (R472) -/

section Parking

variable {s t : State} {p : Nat} {heard : Bool}

/-- Whether the partner's word on parking has come is taken from what has arrived. -/
theorem park_step
    (h : let said := takeFirst (fun (a : Arrival) => a.port == p && a.pkt.ty == 0x20 && fld a.pkt.body 0 1 == 0x83) s.arrived
      (said = none ∧ t = s ∧ heard = false) ∨ (∃ a l, said = some (a, l) ∧ t = { s with arrived := l } ∧ heard = true)) :
    s.park p = t.parkStep p heard := by
  obtain ⟨hn, rfl, rfl⟩ | ⟨a, l, hs, rfl, rfl⟩ := h
  · simp only [State.park, hn]
  · simp only [State.park, hs]

theorem parkStep_parked (h : (t.port p).parked = true ∨ (t.port p).up = false) : t.parkStep p heard = t := by
  refine if_pos ?_
  rwa [Bool.not_eq_true']

section Up

variable (hk : (t.port p).parked = false) (hu : (t.port p).up = true)
include hk hu

theorem parkStep_not : t.mayPark p = false →
    t.parkStep p heard = t.modPort p fun x => { x with parkSeen := x.parkSeen || heard, parkSent := false } := fun hm => by
  simp only [State.parkStep, hk, hu, hm, Bool.not_true, Bool.not_false, Bool.false_eq_true, or_self, if_false, if_true]

variable (hm : t.mayPark p = true)
include hm

theorem parkStep_switched (hw : t.portSwitched p = true) : t.parkStep p heard = t.parkNow p := by
  simp only [State.parkStep, hk, hu, hm, hw, Bool.not_true, Bool.false_eq_true, or_self, if_false, if_true]

theorem parkStep_direct (hw : t.portSwitched p = false) :
    let u := if heard || (t.port p).parkSeen then t.modPort p fun x => { x with parkSeen := true } else t
    let v := if (t.port p).parkSent then u else
      (u.sendOn p (u.linkPacket p (leBytes 1 0x83 ++ List.replicate 3 0))).modPort p fun x => { x with parkSent := true }
    t.parkStep p heard = if (v.port p).parkSeen && (v.sub p 0).queue.isEmpty then v.parkNow p else v := by
  simp only [State.parkStep, hk, hu, hm, hw, Bool.not_true, Bool.false_eq_true, or_self, if_false]

end Up

theorem wakeStep_none (hk : (s.port p).parked = false) : s.wakeStep p = s := by
  simp only [State.wakeStep, hk, Bool.not_false, if_true]

section Waking

variable (hk : (s.port p).parked = true)
include hk

theorem wakeStep_begins (hw : (s.port p).waking = none) : s.wakeStep p = s.modPort p fun x => { x with waking := some (s.tclk + 12000) } := by
  simp only [State.wakeStep, hk, hw, Bool.not_true, Bool.false_eq_true, if_false]

variable {x : Nat} (hw : (s.port p).waking = some x)
include hw

theorem wakeStep_awake (ht : x ≤ s.tclk) :
    s.wakeStep p = s.modPort p fun x => { x with parked := false, waking := none, helloNext := s.tclk } := by
  simp only [State.wakeStep, hk, hw, if_pos ht, Bool.not_true, Bool.false_eq_true, if_false]

theorem wakeStep_early (ht : s.tclk < x) : s.wakeStep p = s := by
  simp only [State.wakeStep, hk, hw, if_neg (Nat.not_le.mpr ht), Bool.not_true, Bool.false_eq_true, if_false]

end Waking

end Parking

/-! ### The commands -/

section Commands

variable {s : State} {p : Nat} (h : s.live = true) (hp : portOk p = true)
include hp

section Live

include h

theorem exec_portLinkDown {sub : Nat} (hsub : subOk sub = true) : exec (.portLinkDown p sub) s = .next (s.linkDown p sub) :=
  next_live (b := s.live) rfl (by rw [hp, hsub]; rfl) h

theorem exec_portLinkUp {sub : Nat} (hsub : subOk sub = true) (d : Nat) : exec (.portLinkUp p sub d) s = .next (s.linkUp p sub d) :=
  next_live (b := s.live) rfl (by rw [hp, hsub]; rfl) h

theorem exec_creditFrameTimer : exec (.creditFrameTimer p) s = .next (s.creditFrame p) := next_live (b := s.live) rfl hp h

theorem exec_laneFail {m : Nat} (hm : m ≤ 8) : exec (.laneFail p m) s = .next (s.laneFailed p m) :=
  next_live (b := s.live) rfl (by rw [hp, decide_eq_true hm]; rfl) h

theorem exec_retrainComplete : exec (.retrainComplete p) s = .next (s.retrained p) := next_live (b := s.live) rfl hp h
theorem exec_park : exec (.park p) s = .next (s.park p) := next_live (b := s.live) rfl hp h
theorem exec_portWake : exec (.portWake p) s = .next (s.wakeStep p) := next_live (b := s.live) rfl hp h

end Live

theorem exec_credit {u : State} {k : Packet} (hr : s.linkReady p 0x80 u k) :
    let v := u.modPort p fun x => { x with freedBy := (List.range 13).foldl (fun t i =>
      let v := fld k.body (16 + 4 * i) 4
      if gap32 (BitVec.ofNat 32 v) (BitVec.ofNat 32 (tgetD t i 0)) < 2 ^ 31 then tset t i v else t) x.freedBy }
    exec (.credit p) s = .next (State.sendWaiting (v.port p).near.length v p) :=
  (if_pos hp).trans (congrArg Host.Outcome.next (link_ready hr _))

end Commands

end Sys2Proof.Laws

open Sys2Proof.Machine Sys2Proof.Laws

/-- Settles O38: links and credits by whether one may come up or is due (`linkUp_up`, `creditFrame_sends`), lanes by the rows of Table 11.2
(`laneFailed_first` and the others), parking by the conditions at both ends (`parkStep_direct`). -/
theorem linksAndLanes : Obligations.LinksAndLanes := by
  refine ⟨fun s p sub d h hp hsub => ?links, fun s p m h hp => ?lanes⟩
  case links =>
    intro x down broken may due
    have hup := exec_portLinkUp h hp hsub d
    have hcredit := exec_creditFrameTimer h hp
    exact ⟨exec_portLinkDown h hp hsub, fun hm => hup.trans (congrArg _ (linkUp_up hm)), fun hm => hup.trans (congrArg _ (linkUp_none hm)),
      fun hd => hcredit.trans (congrArg _ (creditFrame_sends hd)), fun hd => hcredit.trans (congrArg _ (creditFrame_none hd)),
      fun u k hr => exec_credit hp hr⟩
  case lanes =>
    intro x
    refine ⟨fun hm => ?fails, fun u k hr => ?swap, fun u k hr => ?done, fun hr => (exec_retrainComplete h hp).trans (congrArg _ (retrained_up hr)),
      fun hr => (exec_retrainComplete h hp).trans (congrArg _ (retrained_none hr)), fun t heard hsaid => ?park,
      fun hk => (exec_portWake h hp).trans (congrArg _ (wakeStep_none hk)), fun hk => ?wake⟩
    case fails =>
      intro known u idle first
      have hexec := exec_laneFail h hp hm
      exact ⟨fun hk => hexec.trans (congrArg _ (laneFailed_known hk)), fun hk hc => hexec.trans (congrArg _ (laneFailed_brokenOut hk hc)),
        fun hk hc hi => hexec.trans (congrArg _ (laneFailed_idle hk hc hi)), fun hk hc hi hf => hexec.trans (congrArg _ (laneFailed_first hk hc hi hf)),
        fun hk hc hi hf => hexec.trans (congrArg _ (laneFailed_later hk hc hi hf))⟩
    case swap =>
      intro y m taken v beside
      have hexec := exec_laneSwap hp hr
      refine ⟨fun ht => hexec.trans (congrArg Host.Outcome.next (if_pos (Decidable.not_not.mp (mt swapTaken_iff.mpr ht)))), fun ht hb => ?_, fun ht hb => ?_⟩
      · exact hexec.trans (congrArg Host.Outcome.next ((if_neg (swapTaken_iff.mp ht)).trans (if_pos (failedBeside_iff.mpr hb))))
      · exact hexec.trans (congrArg Host.Outcome.next ((if_neg (swapTaken_iff.mp ht)).trans (if_neg (mt failedBeside_iff.mp hb))))
    case done =>
      exact ⟨fun hs => (exec_laneSwapDone hp hr).trans (congrArg _ (swapEnds_none hs)),
        fun m hs => (exec_laneSwapDone hp hr).trans (congrArg _ (swapEnds_some hs))⟩
    case park =>
      have hexec := (exec_park h hp).trans (congrArg Host.Outcome.next (park_step hsaid))
      exact ⟨fun hn => hexec.trans (congrArg _ (parkStep_parked hn)), fun hk hu => ⟨fun hm => hexec.trans (congrArg _ (parkStep_not hk hu hm)),
        fun hm hw => hexec.trans (congrArg _ (parkStep_switched hk hu hm hw)), fun hm hw => hexec.trans (congrArg _ (parkStep_direct hk hu hm hw))⟩⟩
    case wake =>
      have hexec := exec_portWake h hp
      exact ⟨fun hw => hexec.trans (congrArg _ (wakeStep_begins hk hw)), fun t hw ht => hexec.trans (congrArg _ (wakeStep_awake hk hw ht)),
        fun t hw ht => hexec.trans (congrArg _ (wakeStep_early hk hw ht))⟩
end

section
/-! PROOFS. LLDP and HELLO with the neighbours (R421, R422, R431): O40. -/

namespace Sys2Proof.Laws
open Sys2Proof.Machine

/-! ### LLDP (R421, R422) -/

section Lldp

variable {s : State} {p sub : Nat}

/-- An LLDP frame is due on a sub-port. -/
def lldpDue (s : State) (p sub : Nat) : Prop :=
  (s.sub p sub).up = true ∧ (s.port p).parked = false ∧ (s.sub p sub).lldpNext ≤ s.tclk ∧ s.agent.running = true

theorem lldpDue_iff : lldpDue s p sub ↔ ¬ ((!(s.sub p sub).up) = true ∨ (s.port p).parked = true ∨ s.tclk < (s.sub p sub).lldpNext ∨
    (!s.agent.running) = true) := by
  simp only [lldpDue, not_or, Bool.not_eq_true', Bool.not_eq_false, Bool.not_eq_true, Nat.not_lt]

theorem lldpSend_sends (h : lldpDue s p sub) : s.lldpSend p sub = s.modSub p sub fun x => { x with
    queue := x.queue ++ [({ cls := 7, kind := .lldp, bytes := s.lldpFrame p sub ++ List.replicate (60 - (s.lldpFrame p sub).length) 0, at_ := s.tclk } : TxFrame)]
    lldpSent := x.lldpSent + 1, lldpNext := s.tclk + if x.lldpSent < 3 then 25000000 else 1000000000 } := if_neg (lldpDue_iff.mp h)

theorem lldpSend_none (h : ¬ lldpDue s p sub) : s.lldpSend p sub = s := if_pos (Decidable.not_not.mp (mt lldpDue_iff.mpr h))

theorem lldpTake_none (hl : (s.port p).lldpIn = []) : s.lldpTake p = s := by simp only [State.lldpTake, hl]

/-- The state in which the first frame is taken from those received. -/
def lldpTaken (s : State) (p : Nat) (rest : List (Nat × List Byte)) : State := s.modPort p fun x => { x with lldpIn := rest }

section Frame

variable {l : List Byte} {k : Nat} {rest : List (Nat × List Byte)} (hl : (s.port p).lldpIn = (k, l) :: rest)
include hl

theorem lldpTake_ignored (h : ((lldpTaken s p rest).port p).parked = true ∨ lldpNode l = none) : s.lldpTake p = lldpTaken s p rest := by
  unfold lldpTaken at h ⊢
  by_cases hk : ((s.modPort p fun x => { x with lldpIn := rest }).port p).parked = true
  · simp only [State.lldpTake, hl, hk, if_true]
  · simp only [State.lldpTake, hl, if_neg hk, h.resolve_left hk]

theorem lldpTake_names {n : Nat} (hk : ((lldpTaken s p rest).port p).parked = false) (hn : lldpNode l = some n) :
    s.lldpTake p = ((lldpTaken s p rest).modPort p fun x => { x with peerNode := n, peerMac := slice l 6 6 }).hold p 0 8 (n == (lldpTaken s p rest).node) := by
  unfold lldpTaken at hk ⊢
  simp only [State.lldpTake, hl, hk, hn, Bool.false_eq_true, if_false]

end Frame

end Lldp

/-! ### HELLO (R431) -/

/-- A LINK message of a node beyond switches. -/
def hail (t : State) (dst subtype port : Nat) : State :=
  t.launch (t.stamp { ty := 0x20, dst, plen := 16, body := t.helloBytes subtype port, first := true, last := true } 0) 7

section Hello

variable {u : State} {p : Nat} {k : Packet}

/-- What a HELLO that is acted on does: the version is settled where this end's HELLO has been answered, and the HELLO is answered. -/
def helloHeard (u : State) (p : Nat) (k : Packet) (l : List Byte) : State :=
  if (u.port p).parked ∨ !helloForm l then u
  else
    let v := if u.portSwitched p then u else u.modPort p fun x => { x with helloSeen := true }
    let w := if !v.portSwitched p && (v.port p).helloDone then v.versionSet p k l else v
    if w.portSwitched p then hail w k.src 0x02 p else w.sendOn p (w.linkPacket p (w.helloBytes 0x02 p))

theorem helloHeard_ignored (h : (u.port p).parked = true ∨ helloForm k.body = false) : helloHeard u p k k.body = u := by
  refine if_pos ?_
  rwa [Bool.not_eq_true']

section Heard

variable (hp : (u.port p).parked = false) (hf : helloForm k.body = true)
include hp hf

theorem helloHeard_direct (hd : u.portSwitched p = false) :
    let v := u.modPort p fun x => { x with helloSeen := true }
    let w := if !v.portSwitched p && (v.port p).helloDone then v.versionSet p k k.body else v
    w.portSwitched p = false → helloHeard u p k k.body = w.sendOn p (w.linkPacket p (w.helloBytes 0x02 p)) := by
  intro v w hw
  simp only [w, v] at hw
  simp only [helloHeard, hp, hf, hd, hw, Bool.not_true, Bool.false_eq_true, or_self, if_false, w, v]

theorem helloHeard_switched (hd : u.portSwitched p = true) : helloHeard u p k k.body = hail u k.src 0x02 p := by
  simp only [helloHeard, hp, hf, hd, Bool.not_true, Bool.false_and, Bool.false_eq_true, or_self, if_false, if_true]

end Heard

/-- What a HELLO_ACK does: it ends the sending of HELLO, and settles the version where both have come. -/
def ackHeard (u : State) (p : Nat) (k : Packet) (l : List Byte) : State :=
  if !helloForm l then u
  else if u.portSwitched p then
    { u.versionSet p k l with agent := { (u.versionSet p k l).agent with greeted := (u.versionSet p k l).agent.greeted.filter (· != k.src) } }
  else
    let w := u.modPort p fun x => { x with helloDone := true }
    if (w.port p).helloSeen then w.versionSet p k l else w

theorem ackHeard_malformed (hf : helloForm k.body = false) : ackHeard u p k k.body = u := by
  simp only [ackHeard, hf, Bool.not_false, if_true]

theorem ackHeard_direct (hf : helloForm k.body = true) (hd : u.portSwitched p = false) :
    let w := u.modPort p fun x => { x with helloDone := true }
    ackHeard u p k k.body = if (w.port p).helloSeen then w.versionSet p k k.body else w := by
  simp only [ackHeard, hf, hd, Bool.not_true, Bool.false_eq_true, if_false]

theorem ackHeard_switched (hf : helloForm k.body = true) (hd : u.portSwitched p = true) :
    let v := u.versionSet p k k.body
    ackHeard u p k k.body = { v with agent := { v.agent with greeted := v.agent.greeted.filter (· != k.src) } } := by
  simp only [ackHeard, hf, hd, Bool.not_true, Bool.false_eq_true, if_false, if_true]

end Hello

section Retry

variable {s : State} {p : Nat}

/-- HELLO is due to be sent again at a port. -/
def helloDue (s : State) (p : Nat) : Prop :=
  (s.port p).up = true ∧ (s.port p).parked = false ∧ (s.port p).helloNext ≤ s.tclk ∧ s.agent.running = true

theorem helloDue_iff : helloDue s p ↔ ¬ ((!(s.port p).up) = true ∨ (s.port p).parked = true ∨ s.tclk < (s.port p).helloNext ∨
    (!s.agent.running) = true) := by
  simp only [helloDue, not_or, Bool.not_eq_true', Bool.not_eq_false, Bool.not_eq_true, Nat.not_lt]

theorem helloAgain_none (h : ¬ helloDue s p) : s.helloAgain p = s := if_pos (Decidable.not_not.mp (mt helloDue_iff.mpr h))

section Due

variable (h : helloDue s p)
include h

theorem helloAgain_direct :
    let u := s.modPort p fun x => { x with helloNext := s.tclk + 1000000 }
    u.portSwitched p = false → s.helloAgain p = if (s.port p).helloDone then u else u.sendOn p (u.linkPacket p (u.helloBytes 0x01 p)) := by
  intro u hd
  exact (if_neg (helloDue_iff.mp h)).trans (if_neg (Bool.eq_false_iff.mp hd))

theorem helloAgain_switched :
    let u := s.modPort p fun x => { x with helloNext := s.tclk + 1000000 }
    u.portSwitched p = true → s.helloAgain p = u.agent.greeted.foldl (fun t n => hail t n 0x01 0) u := by
  intro u hd
  exact (if_neg (helloDue_iff.mp h)).trans (if_pos hd)

end Due

end Retry

section Commands

variable {s u : State} {p : Nat} {k : Packet} (hp : portOk p = true)
include hp

theorem exec_hello (h : s.linkReady p 1 u k) : exec (.hello p) s = .next (helloHeard u p k k.body) :=
  (if_pos hp).trans (congrArg Host.Outcome.next (link_ready h _))

theorem exec_helloAck (h : s.linkReady p 2 u k) : exec (.helloAck p) s = .next (ackHeard u p k k.body) :=
  (if_pos hp).trans (congrArg Host.Outcome.next (link_ready h _))

variable (h : s.live = true)
include h

theorem exec_lldpTransmit {sub : Nat} (hsub : subOk sub = true) : exec (.lldpTransmit p sub) s = .next (s.lldpSend p sub) :=
  next_live (b := s.live) rfl (by rw [hp, hsub]; rfl) h

theorem exec_lldpReceive : exec (.lldpReceive p) s = .next (s.lldpTake p) := next_live (b := s.live) rfl hp h
theorem exec_helloRetry : exec (.helloRetry p) s = .next (s.helloAgain p) := next_live (b := s.live) rfl hp h

end Commands

end Sys2Proof.Laws

open Sys2Proof.Machine Sys2Proof.Laws

/-- Settles O40: what an LLDP frame, a HELLO and a HELLO_ACK do (`lldpTake_names`, `helloHeard_direct`, `ackHeard_direct` and the others). -/
theorem neighboursGreeted : Obligations.NeighboursGreeted := by
  intro s p sub h hp hsub x hail lldp again
  have hretry := exec_helloRetry hp h
  refine ⟨fun hd => (exec_lldpTransmit hp h hsub).trans (congrArg _ (lldpSend_sends hd)),
    fun hd => (exec_lldpTransmit hp h hsub).trans (congrArg _ (lldpSend_none hd)),
    fun hl => (exec_lldpReceive hp h).trans (congrArg _ (lldpTake_none hl)), fun k l rest hl => ?lldp, fun u k hr => ?hello, fun u k hr => ?ack,
    fun hd => hretry.trans (congrArg _ (helloAgain_none hd)),
    fun hd => ⟨fun hw => hretry.trans (congrArg _ (helloAgain_direct hd hw)), fun hw => hretry.trans (congrArg _ (helloAgain_switched hd hw))⟩⟩
  case lldp =>
    have hexec := exec_lldpReceive hp h
    exact ⟨fun hn => hexec.trans (congrArg _ (lldpTake_ignored hl hn)), fun n hk hn => hexec.trans (congrArg _ (lldpTake_names hl hk hn))⟩
  case hello =>
    have hexec := exec_hello hp hr
    exact ⟨fun hi => hexec.trans (congrArg _ (helloHeard_ignored hi)), fun hk hf => ⟨fun hd hw => hexec.trans (congrArg _ (helloHeard_direct hk hf hd hw)),
      fun hd => hexec.trans (congrArg _ (helloHeard_switched hk hf hd))⟩⟩
  case ack =>
    have hexec := exec_helloAck hp hr
    exact ⟨fun hf => hexec.trans (congrArg _ (ackHeard_malformed hf)), fun hf => ⟨fun hd => hexec.trans (congrArg _ (ackHeard_direct hf hd)),
      fun hd => hexec.trans (congrArg _ (ackHeard_switched hf hd))⟩⟩
end

section
/-! PROOFS. The ROM agent's tree, its routes and their retirement (R207, R210, R213, R423): O41. -/

namespace Sys2Proof.Laws
open Sys2Proof.Machine

/-! ### Messages of neighbours, answered once (R213) -/

section Near

variable {u t : State} {a : Arrival} {l : List Byte} {st : Nat} {act : State → State × Nat}

/-- The REPLY to a neighbour. -/
def nearReply (t : State) (a : Arrival) (l : List Byte) (st : Nat) : State :=
  t.sendNear a.port (leBytes 1 0x80 ++ leBytes 1 0 ++ slice l 2 2 ++ leBytes 1 st)

theorem nearOnce_answered {k : Answered} (h : (u.answered.find? fun x => x.src == a.pkt.src && x.id == fld l 2 2) = some k) :
    u.nearOnce a l act = nearReply u a l k.status := by
  simp only [State.nearOnce, once_answered h, nearReply]

theorem nearOnce_new (h : (u.answered.find? fun x => x.src == a.pkt.src && x.id == fld l 2 2) = none) (e : act u = (t, st)) :
    u.nearOnce a l act = nearReply (keepAnswer t a.pkt.src (fld l 2 2) st) a l st := by
  simp only [State.nearOnce, once_new h e, nearReply]

/-- A message that comes over a direct port. -/
def fromNear (u : State) (a : Arrival) : Prop := u.portSwitched a.port = false ∧ a.port ≤ 15

end Near

/-! ### TREE (R423) -/

section Tree

variable {u : State} {a : Arrival} {l : List Byte}

/-- A TREE of the form that Table 6.5 gives it. -/
def treeForm (l : List Byte) : Prop := 9 ≤ l.length ∧ fld l 1 1 ≤ 1 ∧ zeroAt l 6 1 = true

theorem treeForm_iff : treeForm l ∧ fromNear u a ↔
    ¬ (l.length < 9 ∨ 1 < fld l 1 1 ∨ (!zeroAt l 6 1) = true ∨ u.portSwitched a.port = true ∨ 15 < a.port) := by
  simp only [treeForm, fromNear, not_or, Nat.not_lt, Bool.not_eq_true', Bool.not_eq_false, Bool.not_eq_true, and_assoc]

/-- What a TREE says of its sender: its node, root and distance. -/
def treeSaid (a : Arrival) (l : List Byte) : Nat × Nat × Nat := (a.pkt.src, fld l 4 2, fld l 8 1)

/-- The sender of a message entered as the node at its port. -/
def peerNamed (u : State) (a : Arrival) : State := u.modPort a.port fun x => { x with peerNode := a.pkt.src }

theorem treeHear_malformed (h : ¬ (treeForm l ∧ fromNear u a)) : u.treeHear a l = (u, 4) := if_pos (Decidable.not_not.mp (mt treeForm_iff.mpr h))

section Formed

variable (h : treeForm l ∧ fromNear u a)
include h

theorem treeHear_same (hs : tget (peerNamed u a).agent.heard a.port = some (treeSaid a l)) : u.treeHear a l = (peerNamed u a, 0) :=
  (if_neg (treeForm_iff.mp h)).trans (if_pos hs)

theorem treeHear_new (hs : tget (peerNamed u a).agent.heard a.port ≠ some (treeSaid a l)) : u.treeHear a l =
    (State.treeUpdate { peerNamed u a with agent := { (peerNamed u a).agent with heard := tset (peerNamed u a).agent.heard a.port (treeSaid a l) } }, 0) :=
  (if_neg (treeForm_iff.mp h)).trans (if_neg hs)

end Formed

end Tree

/-! ### SUBTREE (R423) -/

section Subtree

variable {u : State} {a : Arrival} {l : List Byte}

/-- A SUBTREE of the form that Table 6.5 gives it. -/
def subtreeForm (l : List Byte) : Prop :=
  l.length = 16 + 4 * fld l 8 2 ∧ fld l 8 2 ≤ 240 ∧ fld l 1 1 ≤ 1 ∧ zeroAt l 4 4 = true ∧ zeroAt l 12 4 = true ∧
    ((List.range (fld l 8 2)).all fun i => zeroAt l (18 + 4 * i) 2) = true

theorem subtreeForm_iff : subtreeForm l ∧ fromNear u a ↔
    ¬ (l.length ≠ 16 + 4 * fld l 8 2 ∨ 240 < fld l 8 2 ∨ 1 < fld l 1 1 ∨ (!zeroAt l 4 4) = true ∨ (!zeroAt l 12 4) = true ∨
      (!(List.range (fld l 8 2)).all fun i => zeroAt l (18 + 4 * i) 2) = true ∨ u.portSwitched a.port = true ∨ 15 < a.port) := by
  simp only [subtreeForm, fromNear, not_or, ne_eq, Classical.not_not, Nat.not_lt, Bool.not_eq_true', Bool.not_eq_false, Bool.not_eq_true, and_assoc]

/-- The nodes that stood in the subtree of a port, and those that stand there after a SUBTREE. -/
def nodesHad (u : State) (a : Arrival) : List Nat := tgetD u.agent.subtree a.port []
def nodesNow (u : State) (a : Arrival) (l : List Byte) : List Nat :=
  (nodesHad u a).take (fld l 10 2) ++ (List.range (fld l 8 2)).map fun i => fld l (16 + 4 * i) 2

/-- The state in which those nodes stand there. -/
def subtreeKept (u : State) (a : Arrival) (l : List Byte) : State :=
  { u with agent := { u.agent with subtree := tset u.agent.subtree a.port (nodesNow u a l) } }

theorem subtreeHear_malformed (h : ¬ (subtreeForm l ∧ fromNear u a)) : u.subtreeHear a l = (u, 4) :=
  if_pos (Decidable.not_not.mp (mt subtreeForm_iff.mpr h))

section Formed

variable (h : subtreeForm l ∧ fromNear u a)
include h

theorem subtreeHear_same (hs : nodesNow u a l = nodesHad u a ∨ u.agent.parent = some a.port) : u.subtreeHear a l = (u, 0) :=
  (if_neg (subtreeForm_iff.mp h)).trans (if_pos hs)

variable (hs : nodesNow u a l ≠ nodesHad u a) (hp : u.agent.parent ≠ some a.port)
include hs hp

theorem subtreeHear_differs : u.subtreeHear a l = (
    let v := subtreeKept u a l
    if !v.agent.stable || !v.agentOn then v
    else if (nodesHad u a).isPrefixOf (nodesNow u a l) && v.boot.stage != 3 then v.sendSubtree.agentAdd
    else { v with agent := { v.agent with changed := v.tclk, stable := false } }, 0) :=
  (if_neg (subtreeForm_iff.mp h)).trans (if_neg (not_or.mpr ⟨hs, hp⟩))

theorem subtreeHear_unsettled (hv : (subtreeKept u a l).agent.stable = false ∨ (subtreeKept u a l).agentOn = false) :
    u.subtreeHear a l = (subtreeKept u a l, 0) := by
  have hcond : (!(subtreeKept u a l).agent.stable || !(subtreeKept u a l).agentOn) = true := by
    rcases hv with hv | hv <;> simp [hv]
  rw [subtreeHear_differs h hs hp]
  exact congrArg (·, 0) (if_pos hcond)

variable (hst : (subtreeKept u a l).agent.stable = true) (hon : (subtreeKept u a l).agentOn = true)
include hst hon

theorem subtreeHear_adds (hpre : (nodesHad u a).isPrefixOf (nodesNow u a l) = true) (hb : (subtreeKept u a l).boot.stage ≠ 3) :
    u.subtreeHear a l = ((subtreeKept u a l).sendSubtree.agentAdd, 0) := by
  simp only [subtreeHear_differs h hs hp, hst, hon, hpre, bne_iff_ne.mpr hb, Bool.not_true, Bool.or_self, Bool.and_self, Bool.false_eq_true, if_false, if_true]

theorem subtreeHear_changes (hd : (nodesHad u a).isPrefixOf (nodesNow u a l) = false ∨ (subtreeKept u a l).boot.stage = 3) :
    u.subtreeHear a l =
      ({ subtreeKept u a l with agent := { (subtreeKept u a l).agent with changed := (subtreeKept u a l).tclk, stable := false } }, 0) := by
  have hcond : ((nodesHad u a).isPrefixOf (nodesNow u a l) && (subtreeKept u a l).boot.stage != 3) = false := by
    rcases hd with hd | hd <;> simp [hd]
  simp only [subtreeHear_differs h hs hp, hst, hon, hcond, Bool.not_true, Bool.or_self, Bool.false_eq_true, if_false]

end Formed

end Subtree

section Messages

variable {s u : State} {a : Arrival}

theorem exec_tree (h : s.fabricReady (fun l => fld l 0 1 == 8) u a) :
    exec .tree s = .next (u.nearOnce a a.pkt.body fun s => s.treeHear a a.pkt.body) := congrArg Host.Outcome.next (fabric_ready h _)

theorem exec_subtree (h : s.fabricReady (fun l => fld l 0 1 == 9) u a) :
    exec .subtree s = .next (u.nearOnce a a.pkt.body fun s => s.subtreeHear a a.pkt.body) := congrArg Host.Outcome.next (fabric_ready h _)

end Messages

/-! ### Timers (R210, R423) -/

section Timers

variable {s : State}

theorem exec_treeTimer_due (h : s.live = true) (ha : s.agentOn = true) (ht : s.agent.nextTree ≤ s.tclk) :
    exec .treeTimer s = .next (State.treeUpdate { s with agent := { s.agent with nextTree := s.tclk + 10000000 } }).sendTree :=
  next_live' (b := s.live && s.agentOn && decide (s.agent.nextTree ≤ s.tclk)) rfl (by simp [h, ha, ht])

theorem exec_treeTimer_early (hn : s.agentOn = false ∨ s.tclk < s.agent.nextTree) : exec .treeTimer s = .next s := by
  refine congrArg Host.Outcome.next (if_neg fun hc => ?_)
  simp only [Bool.and_eq_true, decide_eq_true_eq] at hc
  obtain ⟨⟨-, ha⟩, ht⟩ := hc
  rcases hn with hn | hn
  · rw [ha] at hn; cases hn
  · omega

theorem exec_treeStable_due (h : s.live = true) (ha : s.agentOn = true) (hs : s.agent.stable = false) (ht : s.agent.changed + 20000000 ≤ s.tclk) :
    exec .treeStable s = .next (State.settleRoutes (State.sendSubtree { s with agent := { s.agent with stable := true } })) :=
  next_live' (b := s.live && s.agentOn && !s.agent.stable && decide (s.agent.changed + 20000000 ≤ s.tclk)) rfl (by simp [h, ha, hs, ht])

theorem exec_treeStable_early (hn : s.agentOn = false ∨ s.agent.stable = true ∨ s.tclk < s.agent.changed + 20000000) :
    exec .treeStable s = .next s := by
  refine congrArg Host.Outcome.next (if_neg fun hc => ?_)
  simp only [Bool.and_eq_true, Bool.not_eq_true', decide_eq_true_eq] at hc
  obtain ⟨⟨⟨-, ha⟩, hs⟩, ht⟩ := hc
  rcases hn with hn | hn | hn
  · rw [ha] at hn; cases hn
  · rw [hs] at hn; cases hn
  · omega

theorem settleRoutes_own (h : s.boot.stage ≠ 3 ∨ (s.slot s.epoch).state ≠ .sealed_) : s.settleRoutes = s.agentLoad := if_pos h

section InForce

variable (hb : s.boot.stage = 3) (hs : (s.slot s.epoch).state = .sealed_)
include hb hs

theorem settleRoutes_fabric (hr : s.agent.root = s.node) : s.settleRoutes = s.changeBegin :=
  (if_neg fun hc => hc.elim (not_not_intro hb) (not_not_intro hs)).trans (if_pos hr)

theorem settleRoutes_waits (hr : s.agent.root ≠ s.node) : s.settleRoutes = s :=
  (if_neg fun hc => hc.elim (not_not_intro hb) (not_not_intro hs)).trans (if_neg hr)

end InForce

theorem changeGo_none (n : Nat) (h : s.agent.change = none) : State.changeGo (n + 1) s = s := by simp only [State.changeGo, h]

theorem changeGo_waits (n : Nat) {c : RouteChange} (h : s.agent.change = some c) (hw : s.changeWaits c = true) : State.changeGo (n + 1) s = s := by
  simp only [State.changeGo, h, hw, if_true]

/-- The old slot of the agent's own routes once its drain is over (R423). -/
def retireOld (u : State) : State :=
  match u.agent.retireAt with
  | some t =>
    if t ≤ u.tclk ∧ u.agent.lastOld + u.drainTime ≤ u.tclk then
      { (u.modSlot (1 - u.epoch) fun _ => {}) with agent := { u.agent with retireAt := none } }
    else u
  | none => u

theorem retireOld_due {u : State} {t : Nat} (hr : u.agent.retireAt = some t) (ht : t ≤ u.tclk) (hl : u.agent.lastOld + u.drainTime ≤ u.tclk) :
    retireOld u = { (u.modSlot (1 - u.epoch) fun _ => {}) with agent := { u.agent with retireAt := none } } := by
  simp only [retireOld, hr, if_pos (And.intro ht hl)]

theorem retireOld_none {u : State}
    (h : u.agent.retireAt = none ∨ (∃ t, u.agent.retireAt = some t ∧ u.tclk < t) ∨ u.tclk < u.agent.lastOld + u.drainTime) : retireOld u = u := by
  cases hr : u.agent.retireAt with
  | none => simp only [retireOld, hr]
  | some t =>
    have hcond : ¬ (t ≤ u.tclk ∧ u.agent.lastOld + u.drainTime ≤ u.tclk) := by
      rintro ⟨ht, hl⟩
      rcases h with h | ⟨t', h, hlt⟩ | h
      · rw [hr] at h; cases h
      · rw [hr] at h; cases h; omega
      · omega
    simp only [retireOld, hr, if_neg hcond]

theorem exec_agentRouteRetire (h : s.live = true) : exec .agentRouteRetire s = .next (retireOld (if s.agentOn then State.changeGo 6 s else s)) :=
  congrArg Host.Outcome.next (if_pos h)

end Timers

end Sys2Proof.Laws

open Sys2Proof.Machine Sys2Proof.Laws

/-- Settles O41: TREE and SUBTREE by their form and what was heard before (`treeHear_new`, `subtreeHear_adds`, `subtreeHear_changes`), the timers by their
time (`settleRoutes_own`, `retireOld_due` and the others). -/
theorem treeFormed : Obligations.TreeFormed := by
  refine ⟨fun s u a => ?messages, fun s h => ⟨fun ha ht => exec_treeTimer_due h ha ht, exec_treeTimer_early, fun ha hs ht => ?stable, exec_treeStable_early,
    ?retire, fun hc => changeGo_none 5 hc, fun c hc hw => changeGo_waits 5 hc hw⟩⟩
  case messages =>
    intro l src n reply answered kept near treeForm' subForm
    refine ⟨fun hr => ?tree, fun hr => ?subtree⟩
    case tree =>
      have hexec := exec_tree hr
      refine ⟨fun k hk => hexec.trans (congrArg _ (nearOnce_answered hk)),
        fun hk hf => hexec.trans (congrArg _ (nearOnce_new hk (treeHear_malformed hf))), fun hk hf hn => ⟨fun hs => ?_, fun hs => ?_⟩⟩
      · exact hexec.trans (congrArg _ (nearOnce_new hk (treeHear_same ⟨hf, hn⟩ hs)))
      · exact hexec.trans (congrArg _ (nearOnce_new hk (treeHear_new ⟨hf, hn⟩ hs)))
    case subtree =>
      have hexec := exec_subtree hr
      refine ⟨fun k hk => hexec.trans (congrArg _ (nearOnce_answered hk)),
        fun hk hf => hexec.trans (congrArg _ (nearOnce_new hk (subtreeHear_malformed hf))),
        fun hk hf hn hs => hexec.trans (congrArg _ (nearOnce_new hk (subtreeHear_same ⟨hf, hn⟩ hs))),
        fun hk hf hn hs hp => ⟨fun hv => ?_, fun hst hon hpre hb => ?_, fun hst hon hd => ?_⟩⟩
      · exact hexec.trans (congrArg _ (nearOnce_new hk (subtreeHear_unsettled ⟨hf, hn⟩ hs hp hv)))
      · exact hexec.trans (congrArg _ (nearOnce_new hk (subtreeHear_adds ⟨hf, hn⟩ hs hp hst hon hpre hb)))
      · exact hexec.trans (congrArg _ (nearOnce_new hk (subtreeHear_changes ⟨hf, hn⟩ hs hp hst hon hd)))
  case stable =>
    have hexec := exec_treeStable_due h ha hs ht
    exact ⟨fun ho => hexec.trans (congrArg _ (settleRoutes_own ho)), fun hb hf hr => hexec.trans (congrArg _ (settleRoutes_fabric hb hf hr)),
      fun hb hf hr => hexec.trans (congrArg _ (settleRoutes_waits hb hf hr))⟩
  case retire =>
    have hexec := exec_agentRouteRetire h
    exact ⟨fun t hr ht hl => hexec.trans (congrArg _ (retireOld_due hr ht hl)), fun hn => hexec.trans (congrArg _ (retireOld_none hn))⟩
end

section
/-! PROOFS. Gate lists run; frames leave, pause and halve counters (R358–R360, R362, R506): O42. -/

namespace Sys2Proof.Laws
open Sys2Proof.Machine

/-! ### Time gates (R359) -/

section Gates

variable {s : State} {p sub : Nat}

section Write

/-- What a write of PORT_GATE_CFG's second word does to the registers. -/
def gateWords (s : State) (p sub v : Nat) : State :=
  (if 256 ≤ v % 2 ^ 32 then s.setWord 0 (subBase p sub + 0x468) (v % 2 ^ 32) else s).setWord 0 (subBase p sub + 0x46C) (ofBool (bit v 32))

/-- The cycle time in force after it, and the first cycle start not yet past. -/
def gateCycleOf (u : State) (p sub : Nat) : Nat := u.word 0 (subBase p sub + 0x468)
def gateFirst (u : State) (p sub : Nat) : Nat := firstStart (u.dword 0 (subBase p sub + 0x460)) (gateCycleOf u p sub) u.gateTime

/-- The list enabled, where it was not and the write sets enable. -/
def gateEnabling (s : State) (p sub v : Nat) : State :=
  let u := gateWords s p sub v
  if bit v 32 = true ∧ s.gateEnabled p sub = false then
    u.modSub p sub fun x => { x with gateBase := gateFirst u p sub, gateCycle := gateCycleOf u p sub, gateOn := false, gates := 0xFF }
  else u

theorem gateWrite_eq (v : Nat) : s.gateWrite p sub v =
    let u := gateWords s p sub v
    if bit v 33 then (gateEnabling s p sub v).modSub p sub fun x => { x with nextCycle := gateCycleOf u p sub, pending := true, commitAt := gateFirst u p sub }
    else gateEnabling s p sub v := by
  have hcond : (bit v 32 && !s.gateEnabled p sub) = true ↔ bit v 32 = true ∧ s.gateEnabled p sub = false := by
    rw [Bool.and_eq_true, Bool.not_eq_true']
  simp only [State.gateWrite, gateEnabling, gateWords, gateFirst, gateCycleOf, hcond]

variable (hp : portOk p = true) (hsub : subOk sub = true) {w : W64}
include hp hsub

/-- Both commands of a gate list are a write of that word. -/
theorem exec_gateWrite (hs : s.served = true) (hc : sub < s.subCount p) {c : Instr} (hi : c ∈ [Instr.gateCommit p sub w, .gateEnable p sub w]) :
    exec c s = .next (s.gateWrite p sub w.toNat) := by
  simp only [List.mem_cons, List.not_mem_nil, or_false] at hi
  obtain rfl | rfl := hi <;> exact next_live (b := s.served && decide (sub < s.subCount p)) rfl (by rw [hp, hsub]; rfl) (by rw [hs, decide_eq_true hc]; rfl)

omit hp hsub in
theorem exec_gateWrite_absent (hc : s.subCount p ≤ sub) : exec (.gateCommit p sub w) s = .next s ∧ exec (.gateEnable p sub w) s = .next s := by
  have hskip : ∀ t : State, (if (portOk p && subOk sub) = true then
      (.next (if (s.served && decide (sub < s.subCount p)) = true then t else s) : Host.Outcome State Fault Refusal) else .next s) = .next s := fun t => by
    rw [decide_eq_false (Nat.not_lt.mpr hc), Bool.and_false, if_neg Bool.false_ne_true, ite_self]
  exact ⟨hskip _, hskip _⟩

end Write

theorem gateSwitch_due (hd : (s.sub p sub).pending = true) (ht : ((s.sub p sub).commitAt : Int) ≤ s.gateTime) :
    s.gateSwitch p sub = s.modSub p sub fun y => { y.at (s.gateStart p sub (1 - (s.sub p sub).bank) (s.sub p sub).commitAt (s.sub p sub).nextCycle) with
      pending := false, gateBase := y.commitAt, gateOn := true } := if_pos ⟨hd, ht⟩

theorem gateSwitch_early (h : (s.sub p sub).pending = false ∨ s.gateTime < (s.sub p sub).commitAt) : s.gateSwitch p sub = s := by
  refine if_neg fun hc => ?_
  obtain ⟨hd, ht⟩ := hc
  rcases h with h | h
  · rw [hd] at h; cases h
  · omega

section Cycle

/-- The next cycle start of the list in operation, or the first one. -/
def cycleDue (x : SubPort) : Nat := if x.gateOn then x.cycleAt + x.gateCycle else x.gateBase

theorem gateCycleBegin_due (he : s.gateEnabled p sub = true) (ht : ((cycleDue (s.sub p sub) : Nat) : Int) ≤ s.gateTime) :
    let x := s.sub p sub
    let start := cycleDue x + (s.gateTime.toNat - cycleDue x) / Nat.max 1 x.gateCycle * Nat.max 1 x.gateCycle
    s.gateCycleBegin p sub = s.modSub p sub fun y => { y.at (s.gateStart p sub x.bank start x.gateCycle) with gateOn := true } := if_pos ⟨he, ht⟩

theorem gateCycleBegin_early (h : s.gateEnabled p sub = false ∨ s.gateTime < cycleDue (s.sub p sub)) : s.gateCycleBegin p sub = s := by
  refine if_neg fun hc => ?_
  obtain ⟨he, ht⟩ := hc
  rcases h with h | h
  · rw [he] at h; cases h
  · unfold cycleDue at h; omega

/-- The entry in force ends within the cycle in progress. -/
def entryOver (s : State) (p sub : Nat) : Prop :=
  s.gateEnabled p sub = true ∧ (s.sub p sub).gateOn = true ∧ (((s.sub p sub).entryEnd : Nat) : Int) ≤ s.gateTime ∧
    (s.sub p sub).entryEnd < (s.sub p sub).cycleAt + (s.sub p sub).gateCycle

theorem gateIntervalOver_due (h : entryOver s p sub) : s.gateIntervalOver p sub =
    s.modSub p sub fun y => y.at (gateEntry (s.gateList p sub y.bank) y.bank y.cycleAt y.gateCycle (y.entry + 1) y.entryEnd) := if_pos h

theorem gateIntervalOver_early (h : ¬ entryOver s p sub) : s.gateIntervalOver p sub = s := if_neg h

end Cycle

end Gates

/-! ### The next frame (R358) -/

section Frames

variable {t : State} {p sub : Nat}

/-- A sub-port may send. -/
def maySend (t : State) (p sub : Nat) : Prop := sub < t.subCount p ∧ (t.sub p sub).up = true ∧ (t.port p).parked = false

theorem maySend_iff : maySend t p sub ↔ ¬ ((!(t.sub p sub).up) = true ∨ (t.port p).parked = true ∨ t.subCount p ≤ sub) := by
  simp only [maySend, not_or, Bool.not_eq_true', Bool.not_eq_false, Bool.not_eq_true, Nat.not_le]
  exact ⟨fun ⟨hsub, hup, hpark⟩ => ⟨hup, hpark, hsub⟩, fun ⟨hup, hpark, hsub⟩ => ⟨hsub, hup, hpark⟩⟩

/-- A weighted class has an eligible frame. -/
def weightedWaits (t : State) (p sub : Nat) : Bool := (List.range 6).any fun k => t.eligible p sub k

theorem frameStart_stays (h : ¬ maySend t p sub) : t.frameStart p sub = t := if_pos (Decidable.not_not.mp (mt maySend_iff.mpr h))

/-- The strict class whose head frame is eligible, the higher one first. -/
def strictClass (t : State) (p sub : Nat) : Option Nat := if t.eligible p sub 7 then some 7 else if t.eligible p sub 6 then some 6 else none

/-- The turn of a strict class, unless a weighted one has waited for 15 frames, or of the weighted classes. -/
def classTurn (t : State) (p sub : Nat) : Option Nat → State
  | some c =>
    if weightedWaits t p sub && decide (15 ≤ (t.sub p sub).strict) then t.sendWeighted p sub
    else (t.modSub p sub fun x => { x with strict := if weightedWaits t p sub then x.strict + 1 else 0 }).sendClass p sub c
  | none => if weightedWaits t p sub then t.sendWeighted p sub else t

section May

variable (h : maySend t p sub)
include h

theorem frameStart_control {l : List Byte} {rest : List (List Byte)} (hc : (t.sub p sub).ctrl = l :: rest) :
    t.frameStart p sub = (t.modSub p sub fun x => { x with ctrl := rest }).transmit p sub l none := by
  have hmay := maySend_iff.mp h
  simp only [State.frameStart, if_neg hmay, hc]

variable (hc : (t.sub p sub).ctrl = [])
include hc

theorem frameStart_classes : t.frameStart p sub = classTurn t p sub (strictClass t p sub) := by
  have hmay := maySend_iff.mp h
  simp only [State.frameStart, if_neg hmay, hc]
  rfl

section Strict

variable {c : Nat} (h7 : c = 7 ∨ (c = 6 ∧ t.eligible p sub 7 = false)) (he : t.eligible p sub c = true)
include h7 he

omit h hc in
theorem strictClass_of : strictClass t p sub = some c := by
  obtain rfl | ⟨rfl, hn⟩ := h7
  · exact if_pos he
  · rw [strictClass, if_neg (Bool.eq_false_iff.mp hn), if_pos he]

theorem frameStart_yields (hw : weightedWaits t p sub = true) (hn : 15 ≤ (t.sub p sub).strict) : t.frameStart p sub = t.sendWeighted p sub := by
  simp only [frameStart_classes h hc, strictClass_of h7 he, classTurn, hw, decide_eq_true hn, Bool.and_self, if_true]

theorem frameStart_strict (hn : ¬ (weightedWaits t p sub = true ∧ 15 ≤ (t.sub p sub).strict)) : t.frameStart p sub =
    (t.modSub p sub fun x => { x with strict := if weightedWaits t p sub then x.strict + 1 else 0 }).sendClass p sub c := by
  have hcond : ¬ (weightedWaits t p sub && decide (15 ≤ (t.sub p sub).strict)) = true := by rwa [Bool.and_eq_true, decide_eq_true_eq]
  simp only [frameStart_classes h hc, strictClass_of h7 he, classTurn, if_neg hcond]

end Strict

theorem frameStart_weighted (h7 : t.eligible p sub 7 = false) (h6 : t.eligible p sub 6 = false) :
    t.frameStart p sub = if weightedWaits t p sub then t.sendWeighted p sub else t := by
  simp only [frameStart_classes h hc, strictClass, classTurn, h7, h6, Bool.false_eq_true, if_false]

end May

end Frames

/-! ### Pauses and statistics (R360, R362) -/

section Pauses

variable {s : State} {p sub : Nat}

theorem pauseNext_none (h : (s.sub p sub).pauses = []) : s.pauseNext p sub = s := by simp only [State.pauseNext, h]

theorem pauseNext_settles {l : List (Nat × Option Nat)} {rest : List (List (Nat × Option Nat))} (h : (s.sub p sub).pauses = l :: rest) :
    s.pauseNext p sub = s.modSub p sub fun x => { x with pauses := rest, pausedTo := settlePause x.pausedTo l } := by
  simp only [State.pauseNext, h]

variable (hp : portOk p = true) (hsub : subOk sub = true)
include hp hsub

section Live

variable (h : s.live = true)
include h

theorem exec_gateBankSwitch : exec (.gateBankSwitch p sub) s = .next (s.gateSwitch p sub) := next_live (b := s.live) rfl (by rw [hp, hsub]; rfl) h
theorem exec_gateCycleStart : exec (.gateCycleStart p sub) s = .next (s.gateCycleBegin p sub) := next_live (b := s.live) rfl (by rw [hp, hsub]; rfl) h
theorem exec_gateIntervalEnd : exec (.gateIntervalEnd p sub) s = .next (s.gateIntervalOver p sub) :=
  next_live (b := s.live) rfl (by rw [hp, hsub]; rfl) h

theorem exec_frameStart : exec (.frameStart p sub) s = .next ((s.pfcCheck p).frameStart p sub) :=
  next_live (b := s.live) rfl (by rw [hp, hsub]; rfl) h

theorem exec_pauseFrame : exec (.pauseFrame p sub) s = .next (s.pauseNext p sub) := next_live (b := s.live) rfl (by rw [hp, hsub]; rfl) h

theorem exec_pauseExpire_over {c : Nat} (hc : c ≤ 7) (hn : s.paused p sub c = false) :
    exec (.pauseExpire p sub c) s = .next (s.modSub p sub fun x => { x with pausedTo := tdel x.pausedTo c }) :=
  next_live (b := s.live && !s.paused p sub c) rfl (by rw [hp, hsub, decide_eq_true hc]; rfl) (by rw [h, hn]; rfl)

end Live

theorem exec_pauseExpire_paused {c : Nat} (hc : c ≤ 7) (hn : s.paused p sub c = true) : exec (.pauseExpire p sub c) s = .next s := by
  refine (if_pos (show (portOk p && subOk sub && decide (c ≤ 7)) = true by rw [hp, hsub, decide_eq_true hc]; rfl)).trans (congrArg Host.Outcome.next (if_neg ?_))
  rw [hn, Bool.not_true, Bool.and_false]
  exact Bool.false_ne_true

section Half

variable {word : Nat} {v : W64} (hw : word ≤ 1)
include hw

theorem exec_statHalfClear (hs : s.served = true) (hc : sub < s.subCount p) :
    exec (.statHalfClear p sub word v) s = .next (s.halfClear p sub word v.toNat) :=
  next_live (b := s.served && decide (sub < s.subCount p)) rfl (by rw [hp, hsub, decide_eq_true hw]; rfl) (by rw [hs, decide_eq_true hc]; rfl)

theorem exec_statHalfClear_absent (hc : s.subCount p ≤ sub) : exec (.statHalfClear p sub word v) s = .next s := by
  refine (if_pos (show (portOk p && subOk sub && decide (word ≤ 1)) = true by rw [hp, hsub, decide_eq_true hw]; rfl)).trans
    (congrArg Host.Outcome.next (if_neg ?_))
  rw [decide_eq_false (Nat.not_lt.mpr hc), Bool.and_false]
  exact Bool.false_ne_true

end Half

end Pauses

end Sys2Proof.Laws

open Sys2Proof.Machine Sys2Proof.Laws

/-- Settles O42: the write of a gate list (`gateWrite_eq`), the gates by their times, the frame that a sub-port sends (`frameStart_control`,
`frameStart_strict`, `frameStart_weighted`), and pauses. -/
theorem gatesAndFrames : Obligations.GatesAndFrames := by
  refine ⟨fun s p sub w hp hsub => ?gates, fun s p sub hp hsub => ?frames⟩
  case gates =>
    intro x
    refine ⟨fun hs hc c hi => ?write, fun hc => exec_gateWrite_absent hc, fun h => ⟨fun hd ht => ?_, fun hn => ?_, ⟨fun he ht => ?_, fun hn => ?_⟩,
      ⟨fun hd => ?_, fun hn => ?_⟩⟩⟩
    case write =>
      have hexec := (exec_gateWrite hp hsub hs hc hi).trans (congrArg Host.Outcome.next (gateWrite_eq w.toNat))
      exact ⟨fun hb => hexec.trans (congrArg Host.Outcome.next (if_pos hb)),
        fun hb => hexec.trans (congrArg Host.Outcome.next (if_neg (Bool.eq_false_iff.mp hb)))⟩
    · exact (exec_gateBankSwitch hp hsub h).trans (congrArg _ (gateSwitch_due hd ht))
    · exact (exec_gateBankSwitch hp hsub h).trans (congrArg _ (gateSwitch_early hn))
    · exact (exec_gateCycleStart hp hsub h).trans (congrArg _ (gateCycleBegin_due he ht))
    · exact (exec_gateCycleStart hp hsub h).trans (congrArg _ (gateCycleBegin_early hn))
    · exact (exec_gateIntervalEnd hp hsub h).trans (congrArg _ (gateIntervalOver_due hd))
    · exact (exec_gateIntervalEnd hp hsub h).trans (congrArg _ (gateIntervalOver_early hn))
  case frames =>
    intro t x may weighted
    refine ⟨fun h => ?start, fun h => ⟨fun hn => (exec_pauseFrame hp hsub h).trans (congrArg _ (pauseNext_none hn)), fun l rest hl => ?pause,
        fun c hc hn => exec_pauseExpire_over hp hsub h hc hn, fun c hc hn => exec_pauseExpire_paused hp hsub hc hn⟩,
      fun word v hw _ hc => exec_statHalfClear_absent hp hsub hw hc, fun word v hw hs hc => exec_statHalfClear hp hsub hw hs hc⟩
    case start =>
      have hexec := exec_frameStart hp hsub h
      exact ⟨fun hm => hexec.trans (congrArg _ (frameStart_stays hm)), fun l rest hm hl => hexec.trans (congrArg _ (frameStart_control hm hl)),
        fun c hm hl h7 he => ⟨fun hw hn => hexec.trans (congrArg _ (frameStart_yields hm hl h7 he hw hn)),
          fun hn => hexec.trans (congrArg _ (frameStart_strict hm hl h7 he hn))⟩,
        fun hm hl h7 h6 => hexec.trans (congrArg _ (frameStart_weighted hm hl h7 h6))⟩
    case pause =>
      intro upd
      have hupd : (fun (t : Sys2Proof.Tab Nat) (e : Nat × Option Nat) => e.2.elim (tdel t e.1) (tset t e.1)) = upd := by
        funext t e
        obtain ⟨k, _ | v⟩ := e <;> rfl
      rw [exec_pauseFrame hp hsub h, pauseNext_settles hl, ← hupd]
      rfl
end

section
/-! PROOFS. Movement engines: timers, starts and ends of runs (R144–R146, R153, R154): O44. -/

namespace Sys2Proof.Laws
open Sys2Proof.Machine

/-! ### ME_TIMER_RUN (R144, R145) -/

section Timer

variable {s : State} {key : Nat} {c : Channel}

/-- A period of a TIMER channel has expired, within its run limit. -/
def periodOver (s : State) (c : Channel) : Prop :=
  c.armed = true ∧ c.start = 0 ∧ c.armedAt + (c.started + 1) * c.period ≤ s.tclk ∧ (c.limit = 0 ∨ c.started + 1 ≤ c.limit)

theorem periodOver_iff : periodOver s c ↔ ¬ (!c.armed || c.start != 0 || decide (s.tclk < c.armedAt + (c.started + 1) * c.period) ||
    (c.limit != 0 && decide (c.limit < c.started + 1))) = true := by
  simp only [periodOver, Bool.or_eq_true, Bool.and_eq_true, Bool.not_eq_true', bne_iff_ne, decide_eq_true_eq, not_or, Classical.not_and_iff_not_or_not,
    Bool.not_eq_false, Classical.not_not, Nat.not_lt, and_assoc, ne_eq]

variable (hc : tget s.channels key = some c)
include hc

theorem timerRun_early (h : ¬ periodOver s c) : s.timerRun key = s := by
  simp only [State.timerRun, hc, Decidable.not_not.mp (mt periodOver_iff.mpr h), if_true]

theorem timerRun_ready (h : periodOver s c) (hb : s.chanBusy key = false) : s.timerRun key = s.ready key 1 := by
  have hcond := periodOver_iff.mp h
  simp only [State.timerRun, hc, if_neg hcond, hb, Bool.false_eq_true, if_false]

theorem timerRun_overrun (h : periodOver s c) (hb : s.chanBusy key = true) : s.timerRun key =
    { (s.countFn (s.chanFn c) 10 1) with channels := tset s.channels key { c with started := c.started + 1, overruns := c.overruns + 1 } } := by
  have hcond := periodOver_iff.mp h
  simp only [State.timerRun, hc, if_neg hcond, hb, if_true]

end Timer

/-! ### ME_RUN_START (R144–R146) -/

section Starts

variable {s : State} {u : Nat}

/-- An ME that starts no run: it runs one, its cluster is fenced or replays, or its gallery is not awake. -/
def meHeld (s : State) (u : Nat) : Bool := (tgetD s.mes u {}).running.isSome || s.clusterFenced (u / 2) || s.replaying (u / 2) || !s.awake (u / 16)

theorem meHeld_iff {k e : Nat} (he : e < 2) : meHeld s (k * 2 + e) = true ↔
    (tgetD s.mes (k * 2 + e) {}).running.isSome = true ∨ s.clusterFenced k = true ∨ s.replaying k = true ∨ s.awake (k / 8) = false := by
  have hcluster : (k * 2 + e) / 2 = k := by omega
  have hgallery : (k * 2 + e) / 16 = k / 8 := by omega
  rw [meHeld, hcluster, hgallery, Bool.or_eq_true, Bool.or_eq_true, Bool.or_eq_true, Bool.not_eq_true', or_assoc, or_assoc]

theorem take_none {m : MeUnit} (h : m.ready = []) : m.take = none := by simp only [MeUnit.take, h]

theorem startMe_held (h : meHeld s u = true ∨ (tgetD s.mes u {}).ready = []) : s.startMe u = s := by
  by_cases hh : meHeld s u = true
  · exact if_pos hh
  · have hready := take_none (h.resolve_left hh)
    unfold meHeld at hh
    simp only [State.startMe, if_neg hh, hready]

section Run

variable {r : MeRun} {m : MeUnit} (hh : ¬ meHeld s u = true) (ht : (tgetD s.mes u {}).take = some (r, m))
include hh ht

section Dispatch

variable (hc : tget s.channels r.chan = none)
include hc

theorem startMe_serves (ho : (r.serves.any fun id => (s.op id).isSome) = true) :
    s.startMe u = s.modMe u fun _ => { m with running := some r, lastMove := s.tclk } := by
  unfold meHeld at hh
  simp only [State.startMe, if_neg hh, ht, hc, ho, if_true]

theorem startMe_gone (ho : (r.serves.any fun id => (s.op id).isSome) = false) : s.startMe u = s.modMe u fun _ => m := by
  unfold meHeld at hh
  simp only [State.startMe, if_neg hh, ht, hc, ho, Bool.false_eq_true, if_false]

end Dispatch

section Program

variable {c : Channel} (hc : tget s.channels r.chan = some c)
include hc

theorem startMe_later (hl : s.laterMe u r = true ∨ s.chanHeld u c = true) : s.startMe u = s := by
  have hcond : (s.laterMe u r || s.chanHeld u c) = true := by rwa [Bool.or_eq_true]
  unfold meHeld at hh
  simp only [State.startMe, if_neg hh, ht, hc, hcond, if_true]

variable (hl : s.laterMe u r = false) (hm : s.chanHeld u c = false)
include hl hm

theorem startMe_fenced (hf : (s.recov.fences.any fun x => x.domain == .function (s.chanFn c)) = true) : s.startMe u = s := by
  unfold meHeld at hh
  simp only [State.startMe, if_neg hh, ht, hc, hl, hm, hf, Bool.or_self, Bool.false_eq_true, if_false, if_true]

variable (hf : (s.recov.fences.any fun x => x.domain == .function (s.chanFn c)) = false)
include hf

theorem startMe_marked (hk : r.marked = true) : s.startMe u = s.modMe u fun _ => { m with
    running := some { chan := r.chan, k := r.k, marked := r.marked, status := some .locTriggerAborted }, lastMove := s.tclk } := by
  unfold meHeld at hh
  simp only [State.startMe, if_neg hh, ht, hc, hl, hm, hf, hk, Bool.or_self, Bool.false_eq_true, if_false, if_true]

variable (hk : r.marked = false)
include hk

theorem startMe_checked {refs : List Ref} (hr : s.rowChecks c c.pairs [] = .ok refs) : s.startMe u = s.modMe u fun _ => { m with
    running := some { chan := r.chan, k := r.k, marked := r.marked, refs := refs }, lastMove := s.tclk } := by
  unfold meHeld at hh
  simp only [State.startMe, if_neg hh, ht, hc, hl, hm, hf, hk, hr, Bool.or_self, Bool.false_eq_true, if_false]

theorem startMe_fails {st : Status} {dev : Nat} (hr : s.rowChecks c c.pairs [] = .error (st, dev)) : s.startMe u = s.modMe u fun _ => { m with
    running := some { chan := r.chan, k := r.k, marked := r.marked, status := some st, dev := dev }, lastMove := s.tclk } := by
  unfold meHeld at hh
  simp only [State.startMe, if_neg hh, ht, hc, hl, hm, hf, hk, hr, Bool.or_self, Bool.false_eq_true, if_false]

end Program

end Run

end Starts

/-! ### ME_RUN_COMPLETE (R145, R146, R153, R154) -/

theorem elim_of_none {α β : Type} {o : Option α} {b : β} {f : α → β} (h : o = none) : o.elim b f = b := by rw [h, Option.elim_none]

section Ends

variable {s : State} {u : Nat}

theorem completeMe_none (h : (tgetD s.mes u {}).running = none) : s.completeMe u = s := by simp only [State.completeMe, h]

/-- The end of a run of a channel waits for its paths to be flushed. -/
def endWaits (s : State) (chan : Nat) : Bool := s.flags.any fun p => match p.flag with
  | .meRun k _ _ => k == chan
  | _ => false

/-- The state in which an ME is free again. -/
def meFreed (s : State) (u : Nat) : State := s.modMe u fun m => { m with running := none, lastMove := s.tclk }

variable {r : MeRun} (hr : (tgetD s.mes u {}).running = some r)
include hr

section Dispatch

variable (hc : tget s.channels r.chan = none)
include hc

theorem completeMe_gathered (hp : r.pkt = none) : s.completeMe u = meFreed s u := by
  simp only [State.completeMe, hr, hc, hp, Option.elim, meFreed]

theorem completeMe_places {q n : Nat} {a : Arrival} (hp : r.pkt = some (q, n, a)) : s.completeMe u = (meFreed s u).scatterNow q n a := by
  simp only [State.completeMe, hr, hc, hp, Option.elim, meFreed]

end Dispatch

section Program

variable {c : Channel} (hc : tget s.channels r.chan = some c)
include hc

theorem completeMe_waits (hw : endWaits s r.chan = true) : s.completeMe u = s := by
  unfold State.completeMe
  rw [hr]
  dsimp only
  rw [hc]
  exact if_pos hw

variable (hw : endWaits s r.chan = false)
include hw

/-- What the end of a run comes to once nothing of it waits. -/
theorem completeMe_ends : s.completeMe u = r.status.elim
    (let m := s.moveRows c (s.chanOpen c r.chan r.k) c.pairs 0 []
      let need := if bit c.options 1 then [] else toFlush m.2.2.2.2 (m.1.chanFlags (s.chanFn c) c)
      let v := m.1.modMe u fun x => { x with running := some { r with moved := m.2.2.2.1, paths := m.2.2.2.2, dev := m.2.2.1 } }
      if need.isEmpty then v.finishMe r.chan m.2.1 m.2.2.2.1 else v.addFlag (s.chanFn c) need (.meRun r.chan m.2.1 m.2.2.2.1))
    fun st => s.finishMe r.chan st 0 := by
  unfold State.completeMe
  rw [hr]
  dsimp only
  rw [hc]
  refine (if_neg (Bool.eq_false_iff.mp hw)).trans ?_
  cases r.status <;> rfl

theorem completeMe_failed {st : Status} (hs : r.status = some st) : s.completeMe u = s.finishMe r.chan st 0 := by
  rw [completeMe_ends hr hc hw, hs]
  rfl

section Moves

variable {t : State} {st : Status} {dev n : Nat} {paths : List Path} (hs : r.status = none)
    (hm : s.moveRows c (s.chanOpen c r.chan r.k) c.pairs 0 [] = (t, st, dev, n, paths))
include hs hm

/-- The paths that the end of a run waits for, and the state in which its rows are moved. -/
def endNeeds (s t : State) (c : Channel) (paths : List Path) : List Path :=
  if bit c.options 1 then [] else toFlush paths (t.chanFlags (s.chanFn c) c)

def rowsMoved (t : State) (u : Nat) (r : MeRun) (n : Nat) (paths : List Path) (dev : Nat) : State :=
  t.modMe u fun m => { m with running := some { r with moved := n, paths, dev } }

theorem completeMe_moves : s.completeMe u = if (endNeeds s t c paths).isEmpty then (rowsMoved t u r n paths dev).finishMe r.chan st n
    else (rowsMoved t u r n paths dev).addFlag (s.chanFn c) (endNeeds s t c paths) (.meRun r.chan st n) := by
  refine (completeMe_ends hr hc hw).trans ((elim_of_none hs).trans ?_)
  rw [hm]
  rfl

theorem completeMe_flushed (hn : endNeeds s t c paths = []) : s.completeMe u = (rowsMoved t u r n paths dev).finishMe r.chan st n := by
  rw [completeMe_moves hr hc hw hs hm, if_pos (List.isEmpty_iff.mpr hn)]

theorem completeMe_flushes (hn : endNeeds s t c paths ≠ []) :
    s.completeMe u = (rowsMoved t u r n paths dev).addFlag (s.chanFn c) (endNeeds s t c paths) (.meRun r.chan st n) := by
  rw [completeMe_moves hr hc hw hs hm, if_neg (mt List.isEmpty_iff.mp hn)]

end Moves

end Program

end Ends

section Commands

variable {s : State} {k e : Nat} (h : s.live = true) (hk : k < 48) (he : e < 2)
include h hk he

theorem exec_meTimerRun {ch : Nat} (hch : ch < 16) : exec (.meTimerRun k e ch) s = .next (s.timerRun (k * 32 + e * 16 + ch)) :=
  next_live (b := s.live) rfl (by simp [hk, he, hch]) h

theorem exec_meRunStart : exec (.meRunStart k e) s = .next (s.startMe (k * 2 + e)) := next_live (b := s.live) rfl (by simp [hk, he]) h

theorem exec_meRunComplete : exec (.meRunComplete k e) s = .next (s.completeMe (k * 2 + e)) := next_live (b := s.live) rfl (by simp [hk, he]) h

end Commands

end Sys2Proof.Laws

open Sys2Proof.Machine Sys2Proof.Laws

/-- Settles O44: a period by whether it is over (`timerRun_ready`, `timerRun_overrun`), a start by what holds the run (`startMe_checked` and the others),
and an end by what it waits for (`completeMe_flushed`, `completeMe_flushes`). -/
theorem engineRuns : Obligations.EngineRuns := by
  intro s k e ch h hk he hch key u
  have htimer := exec_meTimerRun h hk he hch
  have hstart := exec_meRunStart h hk he
  have hend := exec_meRunComplete h hk he
  refine ⟨fun c hc => ⟨fun hd => htimer.trans (congrArg _ (timerRun_early hc hd)), fun hd hb => htimer.trans (congrArg _ (timerRun_ready hc hd hb)),
      fun hd hb => htimer.trans (congrArg _ (timerRun_overrun hc hd hb))⟩, ?start, fun hr => hend.trans (congrArg _ (completeMe_none hr)),
    fun r hr hc => ⟨fun hp => hend.trans (congrArg _ (completeMe_gathered hr hc hp)),
      fun q n a hp => hend.trans (congrArg _ (completeMe_places hr hc hp))⟩, fun r c hr hc => ?ends⟩
  case start =>
    intro m held
    have hheld : meHeld s u = true ↔ held := meHeld_iff he
    refine ⟨fun hn => hstart.trans (congrArg _ (startMe_held (hn.imp_left hheld.mpr))), fun r m' hh ht hc => ?_, fun r m' c hh ht hc hl => ?_,
      fun r m' c hh ht hc hl hm => ?_⟩
    · have hh' := mt hheld.mp hh
      exact ⟨fun ho => hstart.trans (congrArg _ (startMe_serves hh' ht hc ho)), fun ho => hstart.trans (congrArg _ (startMe_gone hh' ht hc ho))⟩
    · exact hstart.trans (congrArg _ (startMe_later (mt hheld.mp hh) ht hc hl))
    · have hh' := mt hheld.mp hh
      exact ⟨fun hf => hstart.trans (congrArg _ (startMe_fenced hh' ht hc hl hm hf)),
        fun hf hk => hstart.trans (congrArg _ (startMe_marked hh' ht hc hl hm hf hk)),
        fun refs hf hk hr => hstart.trans (congrArg _ (startMe_checked hh' ht hc hl hm hf hk hr)),
        fun st dev hf hk hr => hstart.trans (congrArg _ (startMe_fails hh' ht hc hl hm hf hk hr))⟩
  case ends =>
    intro waits
    have hwaits : endWaits s r.chan = waits := rfl
    exact ⟨fun hw => hend.trans (congrArg _ (completeMe_waits hr hc (hwaits.trans hw))),
      fun st hw hs => hend.trans (congrArg _ (completeMe_failed hr hc (hwaits.trans hw) hs)),
      fun t st dev n paths hw hs hm => ⟨fun hn => hend.trans (congrArg _ (completeMe_flushed hr hc (hwaits.trans hw) hs hm hn)),
        fun hn => hend.trans (congrArg _ (completeMe_flushes hr hc (hwaits.trans hw) hs hm hn))⟩⟩
end

section
/-! PROOFS. Galleries: timetables, dividers, gaps and power states (R35, R36, R42, R51, R52, R469, R508): O45. -/

namespace Sys2Proof.Laws
open Sys2Proof.Machine

section Galleries

variable {s : State} {g : Nat}

/-! ### Timetables (R51, R52) -/

theorem switchTables_none (h : (s.gal g).hold = none) : s.switchTables g = s := by simp only [State.switchTables, h]
theorem abandonTables_none (h : (s.gal g).hold = none) : s.abandonTables g = s := by simp only [State.abandonTables, h]

section Change

variable {t : Nat} {j : Job} (h : (s.gal g).hold = some (t, j))
include h

theorem switchTables_drained (hd : s.drained g = true) : s.switchTables g = (s.modGal g fun x => x.endHold true).answer j (.ok 0) := by
  simp only [State.switchTables, h, hd, if_true]

theorem switchTables_busy (hd : s.drained g = false) : s.switchTables g = s := by
  simp only [State.switchTables, h, hd, Bool.false_eq_true, if_false]

theorem abandonTables_late (hd : s.drained g = false) (ht : t + 1000000 ≤ s.tclk) :
    s.abandonTables g = (s.modGal g fun x => x.endHold false).answer j (.fail .devDrainTimeout 0) := by
  simp only [State.abandonTables, h, ht, hd, Bool.not_false, and_self, if_true]

theorem abandonTables_early (hn : s.drained g = true ∨ s.tclk < t + 1000000) : s.abandonTables g = s := by
  have hcond : ¬ (t + 1000000 ≤ s.tclk ∧ (!s.drained g) = true) := by
    rintro ⟨ht, hd⟩
    rcases hn with hn | hn
    · simp [hn] at hd
    · omega
  simp only [State.abandonTables, h, if_neg hcond]

end Change

/-! ### Dividers (R35, R36) -/

theorem changeDivider_moves (h : (s.gal g).divider ≠ Nat.max (s.gal g).floor (s.gal g).demand) :
    s.changeDivider g = (s.draw.2.modGal g fun y => { y with
      divider := Nat.max (s.gal g).floor (s.gal g).demand, aclk := s.draw.2.aclkNow g, aclkAt := s.tclk + Config.freeNat s.draw.1 % 257 }).count 0x0B g 0x11 1 :=
  if_neg (Ne.symm h)

theorem changeDivider_none (h : (s.gal g).divider = Nat.max (s.gal g).floor (s.gal g).demand) : s.changeDivider g = s := if_pos h.symm

/-! ### Power states (R469) -/

/-- A gallery has been idle for the time of the deepest state that it may take. -/
def entryDue (s : State) (g : Nat) : Prop :=
  (s.gal g).power < s.deepest g ∧ s.quiet g false = true ∧ s.awaited g = false ∧ (∀ t, (s.gal g).waking = some t → t ≤ s.tclk) ∧
    (s.gal g).idleAt + idleTime (s.deepest g) ≤ s.tclk

theorem waking_over_iff : (∀ t, (s.gal g).waking = some t → t ≤ s.tclk) ↔ ¬ ((s.gal g).waking.any fun t => decide (s.tclk < t)) = true := by
  cases (s.gal g).waking with
  | none => simp
  | some t => simp

theorem entryDue_iff : entryDue s g ↔ ¬ (s.deepest g ≤ (s.gal g).power ∨ (!s.quiet g false) = true ∨ s.awaited g = true ∨
    ((s.gal g).waking.any fun t => decide (s.tclk < t)) = true ∨ s.tclk < (s.gal g).idleAt + idleTime (s.deepest g)) := by
  rw [entryDue, waking_over_iff]
  simp only [not_or, Bool.not_eq_true', Bool.not_eq_false, Bool.not_eq_true, Nat.not_le, Nat.not_lt]

/-- The gallery in the state that it enters. -/
def entered (s : State) (g : Nat) : State := s.modGal g fun y => { y with power := s.deepest g, waking := none }

theorem enterPower_early (h : ¬ entryDue s g) : s.enterPower g = s := if_pos (Decidable.not_not.mp (mt entryDue_iff.mpr h))

section Enters

variable (h : entryDue s g)
include h

theorem enterPower_keeps (hd : s.deepest g ≠ 3) : s.enterPower g = entered s g := (if_neg (entryDue_iff.mp h)).trans (if_neg hd)

theorem enterPower_u3 (hd : s.deepest g = 3) : s.enterPower g = { (entered s g).draw.2 with
    tiers := { (entered s g).draw.2.tiers with mem := (entered s g).draw.2.tiers.mem.undefine (galTierA g).1 (galTierA g).2 (entered s g).draw.1 } } :=
  (if_neg (entryDue_iff.mp h)).trans (if_pos hd)

end Enters

/-! ### The commands -/

section Commands

variable (hg : galOk g = true)
include hg

theorem exec_gapClear_serves {m : BitVec 8} (hs : s.served = true) :
    exec (.gapClear g m) s = .next (s.modGal g fun x => { x with gaps := x.gaps.filter fun e => !m.getLsbD e.1 }) := next_live (b := s.served) rfl hg hs

theorem exec_gapClear_none {m : BitVec 8} (hs : s.served = false) : exec (.gapClear g m) s = .next s :=
  (if_pos hg).trans (congrArg Host.Outcome.next (if_neg (Bool.eq_false_iff.mp hs)))

variable (h : s.live = true)
include h

theorem exec_timetableSwitch : exec (.timetableSwitch g) s = .next (s.switchTables g) := next_live (b := s.live) rfl hg h
theorem exec_timetableDrainTimeout : exec (.timetableDrainTimeout g) s = .next (s.abandonTables g) := next_live (b := s.live) rfl hg h
theorem exec_dividerChange : exec (.dividerChange g) s = .next (s.changeDivider g) := next_live (b := s.live) rfl hg h
theorem exec_powerStateEntry : exec (.powerStateEntry g) s = .next (s.enterPower g) := next_live (b := s.live) rfl hg h
theorem exec_galleryWake : exec (.galleryWake g) s = .next (s.rouse g) := next_live (b := s.live) rfl hg h

end Commands

theorem served_of_stage (h : s.live = true) (hb : s.boot.stage = 3) : s.served = true := by simp [State.served, h, hb]
theorem not_served_of_stage (hb : s.boot.stage ≠ 3) : s.served = false := by simp [State.served, hb]

end Galleries

end Sys2Proof.Laws

open Sys2Proof.Machine Sys2Proof.Laws

/-- Settles O45: a change of timetables by whether the gallery is drained (`switchTables_drained`, `abandonTables_late`), the divider, and the power state
by whether its entry is due (`enterPower_keeps`, `enterPower_u3`). -/
theorem galleriesChange : Obligations.GalleriesChange := by
  intro s g hg h x
  have hswitch := exec_timetableSwitch hg h
  have hdrain := exec_timetableDrainTimeout hg h
  have hentry := exec_powerStateEntry hg h
  refine ⟨fun t j hh => ⟨fun hd => hswitch.trans (congrArg _ (switchTables_drained hh hd)), fun hd => hswitch.trans (congrArg _ (switchTables_busy hh hd)),
      fun hd ht => hdrain.trans (congrArg _ (abandonTables_late hh hd ht)), fun hn => hdrain.trans (congrArg _ (abandonTables_early hh hn))⟩,
    fun hh => ⟨hswitch.trans (congrArg _ (switchTables_none hh)), hdrain.trans (congrArg _ (abandonTables_none hh))⟩,
    fun hd => (exec_dividerChange hg h).trans (congrArg _ (changeDivider_moves hd)),
    fun hd => (exec_dividerChange hg h).trans (congrArg _ (changeDivider_none hd)),
    fun m => ⟨fun hb => exec_gapClear_serves hg (served_of_stage h hb), fun hb => exec_gapClear_none hg (not_served_of_stage hb)⟩,
    ⟨fun hd h3 => hentry.trans (congrArg _ (enterPower_keeps hd h3)), fun hd h3 => hentry.trans (congrArg _ (enterPower_u3 hd h3)),
      fun hd => hentry.trans (congrArg _ (enterPower_early hd))⟩, exec_galleryWake hg h⟩
end

section
/-! PROOFS. The power cap's ladder and the conservation cycle (R53, R465–R467, R473, R474): O46. -/

namespace Sys2Proof.Laws
open Sys2Proof.Machine

/-! ### The ladder (R473) -/

section Ladder

variable {s : State} {h : Int}

/-- The state in which a step of the ladder has noted whether a die is too hot. -/
def heated (s : State) (h : Int) : State := { s with power := { s.power with thermal := decide (105 ≤ h) } }

/-- The ladder is to move down: a die is too hot, or the package draws more than its cap. -/
def ladderFalls (s : State) (h : Int) : Prop := 105 ≤ h ∨ s.powerCap < s.power.watts

/-- The package has drawn less than its cap for 1 ms. -/
def ladderRises (s : State) : Prop := ∃ b, s.power.below = some b ∧ b + 1000000 ≤ s.tclk

theorem ladderFalls_iff : ((decide (105 ≤ h) : Bool) = true ∨ s.powerCap < s.power.watts) ↔ ladderFalls s h := by
  rw [ladderFalls, decide_eq_true_eq]

theorem ladderRises_iff : (s.power.below.any fun t => decide (t + 1000000 ≤ s.tclk)) = true ↔ ladderRises s := by
  simp only [Option.any_eq_true, decide_eq_true_eq, ladderRises]

section Falls

variable (hd : ladderFalls s h)
include hd

theorem ladder_falls : s.ladder h = (heated s h).ladderDown := if_pos (ladderFalls_iff.mpr hd)

theorem ladder_applies {st g : Nat} (hn : (heated s h).nextRung = some (st, g)) :
    let u := (heated s h).modGal g fun x => x.setRung st (x.rung st + 1)
    s.ladder h = { u with power := { u.power with rungs := (st, g) :: u.power.rungs } } := by
  simp only [ladder_falls hd, State.ladderDown, hn]

end Falls

/-- With every rung applied PF0 is told of a measurement above the cap. -/
theorem ladder_tells (hn : (heated s h).nextRung = none) (hw : s.powerCap < s.power.watts) : s.ladder h =
    (heated s h).draw.2.deviceEvent ((List.range 32).map fun i => Config.freeByte (heated s h).draw.1 i) := by
  rw [ladder_falls (.inr hw), State.ladderDown, hn]
  exact if_pos hw

theorem ladder_held (hn : (heated s h).nextRung = none) (hh : 105 ≤ h) (hw : s.power.watts ≤ s.powerCap) : s.ladder h = heated s h := by
  rw [ladder_falls (.inl hh), State.ladderDown, hn]
  exact if_neg (Nat.not_lt.mpr hw)

section Stays

variable (hd : ¬ ladderFalls s h)
include hd

theorem ladder_rises {st g : Nat} {r : List (Nat × Nat)} (hr : ladderRises s) (hl : s.power.rungs = (st, g) :: r) :
    let u := (heated s h).modGal g fun x => x.setRung st (x.rung st - 1)
    s.ladder h = { u with power := { u.power with rungs := r, below := some u.tclk } } := by
  have hup : s.ladder h = (heated s h).ladderUp := (if_neg (mt ladderFalls_iff.mp hd)).trans (if_pos (ladderRises_iff.mpr hr))
  have hrungs : (heated s h).power.rungs = (st, g) :: r := hl
  rw [hup, State.ladderUp, hrungs]

theorem ladder_rests (hr : ladderRises s → s.power.rungs = []) : s.ladder h = heated s h := by
  refine (if_neg (mt ladderFalls_iff.mp hd)).trans ?_
  by_cases hrise : ladderRises s
  · have hrungs : (heated s h).power.rungs = [] := hr hrise
    refine (if_pos (ladderRises_iff.mpr hrise)).trans ?_
    change (heated s h).ladderUp = heated s h
    rw [State.ladderUp, hrungs]
  · exact if_neg (mt ladderRises_iff.mp hrise)

end Stays

end Ladder

/-! ### A conservation cycle (R465–R467) -/

section Cycle

variable {s : State} {g : Nat} {l : Slack}

/-- A cycle of a gallery is due. -/
def cycleIsDue (s : State) (g : Nat) : Prop :=
  s.boot.stage = 3 ∧ (s.gal g).cons.busy = false ∧ (s.gal g).hold = none ∧ (s.gal g).power ≠ 3 ∧
    ((s.gal g).cons.again = true ∨ (s.gal g).cons.due ≤ s.poweredNow)

theorem cycleIsDue_iff : cycleIsDue s g ↔ ¬ (s.boot.stage ≠ 3 ∨ (s.gal g).cons.busy = true ∨ (s.gal g).hold.isSome = true ∨ (s.gal g).power = 3 ∨
    (!((s.gal g).cons.again || decide ((s.gal g).cons.due ≤ s.poweredNow))) = true) := by
  simp only [cycleIsDue, not_or, ne_eq, Classical.not_not, Bool.not_eq_true', Bool.not_eq_false, Bool.not_eq_true, Option.isSome_eq_false_iff, Option.isNone_iff_eq_none,
    Bool.or_eq_true, decide_eq_true_eq]

/-- The gallery's cycle entered as running. -/
def cycleBegun (s : State) (g : Nat) : State := s.modCons g fun c => { c with
  busy := true, again := false, due := if decide ((s.gal g).cons.due ≤ s.poweredNow) then c.due + 86400000 else c.due }

/-- The state in which what is worn and slow is retired. -/
def cycleRetired (t : State) (g : Nat) (l : Slack) : State := ((t.modCons g fun c => { c with noc := l.noc }).retireWorn g l).retireSlow g l

/-- The offset that a least slack calls for. -/
def offsetRaised (x : Gallery) (m : Nat) : Int := if x.offset + ceilDiv (40 - m) 4 < 10 then x.offset + ceilDiv (40 - m) 4 else 10

theorem cycle_early (h : ¬ cycleIsDue s g) : s.cycle g l = s := if_pos (Decidable.not_not.mp (mt cycleIsDue_iff.mpr h))

theorem cycle_due (h : cycleIsDue s g) : s.cycle g l = (cycleBegun s g).measureSlack g l := if_neg (cycleIsDue_iff.mp h)

/-- The measurement of a cycle: a low slack raises the offset while it can be raised, and otherwise the next row applies. -/
theorem measureSlack_eq (t : State) : t.measureSlack g l =
    let u := cycleRetired t g l
    let y := u.gal g
    if y.least l < 40 ∧ y.offset < 10 then
      ((u.modGal g fun y' => { y' with offset := offsetRaised y (y.least l) }).repair 0x0C 4 [g, ofSigned 8 (offsetRaised y (y.least l))]).modCons g fun c =>
        { c with settling := true, settleAt := u.tclk }
    else u.adjust g (y.least l) := rfl

section Adjust

variable {u : State} {m : Nat}

section Low

variable (hm : m < 40) (ho : (u.gal g).offset = 10)
include hm ho

theorem adjust_raises (hf : (u.gal g).floor < 3) :
    u.adjust g m = ((u.modGal g fun y => { y with floor := y.floor + 1 }).repair 0x0D 4 [g, (u.gal g).floor + 1]).endCycle g m :=
  congrArg (fun t : State => t.endCycle g m) (if_pos ⟨hm, ho, hf⟩)

theorem adjust_records (hf : 3 ≤ (u.gal g).floor) : u.adjust g m =
    (u.record 0 (repairRecord false { ty := 0x0D, cause := 4, loc := locBytes [g, 3], time := u.poweredNow } u.time)).endCycle g m :=
  congrArg (fun t : State => t.endCycle g m) ((if_neg fun hc => Nat.not_lt.mpr hf hc.2.2).trans (if_pos ⟨hm, ho⟩))

end Low

theorem adjust_lowers (hm : 90 ≤ m) (ho : -6 < (u.gal g).offset) : u.adjust g m =
    ((u.modGal g fun y => { y with offset := y.offset - 1 }).repair 0x0C 4 [g, ofSigned 8 ((u.gal g).offset - 1)]).endCycle g m := by
  have hlow : ¬ m < 40 := by omega
  exact congrArg (fun t : State => t.endCycle g m) ((if_neg fun hc => hlow hc.1).trans ((if_neg fun hc => hlow hc.1).trans (if_pos ⟨hm, ho⟩)))

theorem adjust_ends (hm : 40 ≤ m) (ho : 90 ≤ m → (u.gal g).offset ≤ -6) : u.adjust g m = u.endCycle g m := by
  have hlow : ¬ m < 40 := by omega
  have hhigh : ¬ (90 ≤ m ∧ -6 < (u.gal g).offset) := fun hc => Int.not_lt.mpr (ho hc.1) hc.2
  exact congrArg (fun t : State => t.endCycle g m) ((if_neg fun hc => hlow hc.1).trans ((if_neg fun hc => hlow hc.1).trans (if_neg hhigh)))

end Adjust

/-! ### The second measurement (R467) -/

/-- The voltage has settled. -/
def voltageOver (s : State) (g : Nat) : Prop := (s.gal g).cons.settling = true ∧ (s.gal g).cons.settleAt + 500000 ≤ s.tclk

theorem voltageOver_iff : voltageOver s g ↔ ¬ ((!(s.gal g).cons.settling) = true ∨ s.tclk < (s.gal g).cons.settleAt + 500000) := by
  simp only [voltageOver, not_or, Bool.not_eq_true', Bool.not_eq_false, Nat.not_lt]

theorem settled_early (h : ¬ voltageOver s g) : s.settled g l = s := if_pos (Decidable.not_not.mp (mt voltageOver_iff.mpr h))

section Over

variable (h : voltageOver s g)
include h

theorem settled_ends (hm : 40 ≤ (s.gal g).least l ∨ (s.gal g).offset ≠ 10) : s.settled g l = s.endCycle g ((s.gal g).least l) :=
  (if_neg (voltageOver_iff.mp h)).trans (if_neg fun hc => hm.elim (fun hm => by omega) fun ho => ho hc.2)

theorem settled_adjusts (hm : (s.gal g).least l < 40) (ho : (s.gal g).offset = 10) : s.settled g l = s.adjust g ((s.gal g).least l) :=
  (if_neg (voltageOver_iff.mp h)).trans (if_pos ⟨hm, ho⟩)

end Over

section Commands

variable (hg : galOk g = true) (h : s.live = true)
include hg h

theorem exec_conservationCycle : exec (.conservationCycle g l) s = .next (s.cycle g l) := next_live (b := s.live) rfl hg h
theorem exec_voltageSettled : exec (.voltageSettled g l) s = .next (s.settled g l) := next_live (b := s.live) rfl hg h
theorem exec_temperatureCheck (r : Int) : exec (.temperatureCheck g r) s = .next (s.readTemp g r) := next_live (b := s.live) rfl hg h

theorem exec_conservationRun (hb : s.boot.stage = 3) : exec (.conservationRun g) s = .next (s.modCons g fun c => { c with again := true }) :=
  next_live (b := s.served) rfl hg (served_of_stage h hb)

end Commands

end Cycle

theorem exec_powerMeasure {s : State} (h : s.live = true) (w : Nat) (l : List Nat) : exec (.powerMeasure w l) s = .next (s.measure w l) :=
  next_live' (b := s.live) rfl h

theorem exec_ladderStep {s : State} (hl : s.live = true) (h : Int) : exec (.ladderStep h) s = .next (s.ladder h) := next_live' (b := s.live) rfl hl

end Sys2Proof.Laws

open Sys2Proof.Machine Sys2Proof.Laws

/-- Settles O46: the ladder by whether it falls or rises (`ladder_applies`, `ladder_rises`), the cycle by the rows of Table 15.6 (`measureSlack_eq`,
`adjust_raises` and the others). -/
theorem powerAndConservation : Obligations.PowerAndConservation := by
  refine ⟨fun s hl => ⟨exec_powerMeasure hl, fun h => ?ladder⟩, fun s g l hg hl => ?cycle⟩
  case ladder =>
    intro hot t down due
    have hexec := exec_ladderStep hl h
    exact ⟨fun st g hd hn => hexec.trans (congrArg _ (ladder_applies hd hn)), fun hn hw => hexec.trans (congrArg _ (ladder_tells hn hw)),
      fun hn hh hw => hexec.trans (congrArg _ (ladder_held hn hh hw)), fun st g r hd hr hs => hexec.trans (congrArg _ (ladder_rises hd hr hs)),
      fun hd hr => hexec.trans (congrArg _ (ladder_rests hd hr))⟩
  case cycle =>
    intro x due t u y m up new
    have hexec := exec_conservationCycle (l := l) hg hl
    have raised : due → m < 40 → y.offset < 10 → exec (.conservationCycle g l) s = .next _ := fun hd hm ho =>
      hexec.trans (congrArg Host.Outcome.next ((cycle_due hd).trans ((measureSlack_eq _).trans (if_pos ⟨hm, ho⟩))))
    have adjusted : due → ¬ (m < 40 ∧ y.offset < 10) → exec (.conservationCycle g l) s = .next (u.adjust g m) := fun hd hn =>
      hexec.trans (congrArg Host.Outcome.next ((cycle_due hd).trans ((measureSlack_eq _).trans (if_neg hn))))
    have top : y.offset = 10 → ¬ (m < 40 ∧ y.offset < 10) := fun ho hc => by omega
    have high : 40 ≤ m → ¬ (m < 40 ∧ y.offset < 10) := fun hm hc => by omega
    refine ⟨fun hd => hexec.trans (congrArg _ (cycle_early hd)), raised, fun hd hm ho hf => (adjusted hd (top ho)).trans (congrArg _ (adjust_raises hm ho hf)),
      fun hd hm ho hf => (adjusted hd (top ho)).trans (congrArg _ (adjust_records hm ho hf)),
      fun hd hm ho => (adjusted hd (high (by omega))).trans (congrArg _ (adjust_lowers hm ho)),
      fun hd hm ho => (adjusted hd (high hm)).trans (congrArg _ (adjust_ends hm ho)), ?settled, exec_conservationRun hg hl, exec_temperatureCheck hg hl⟩
    case settled =>
      have hsettled := exec_voltageSettled (l := l) hg hl
      exact ⟨fun ha hm => hsettled.trans (congrArg _ (settled_ends ha hm)),
        fun ha hm ho hf => hsettled.trans (congrArg _ ((settled_adjusts ha hm ho).trans (adjust_raises hm ho hf))),
        fun ha hm ho hf => hsettled.trans (congrArg _ ((settled_adjusts ha hm ho).trans (adjust_records hm ho hf))),
        fun ha => hsettled.trans (congrArg _ (settled_early ha))⟩
end

section
/-! PROOFS. Scrub, refresh, repair and the firmware copies (R261, R262, R322, R326, R327, R334–R340, R457–R460, R464): O47. -/

namespace Sys2Proof.Laws
open Sys2Proof.Machine

/-! ### Fold units (R262, R464) -/

section FoldUnits

variable {s : State} {c u : Nat}

/-- A scrub pass of a fold unit's accumulator file is due. -/
def passDue (s : State) (c u : Nat) : Prop := s.present c = true ∧ tgetD (s.cluster c).scrubDue u 0 ≤ s.tclk

theorem passDue_iff : passDue s c u ↔ ¬ ((!s.present c) = true ∨ s.tclk < tgetD (s.cluster c).scrubDue u 0) := by
  simp only [passDue, not_or, Bool.not_eq_true', Bool.not_eq_false, Nat.not_lt]

/-- The corrected accumulators that no chunk holds. -/
def freeCorrected (s : State) (c u : Nat) (cor : List Nat) : List Nat := cor.filter fun i => decide (s.heldAccs c u ≤ i)

/-- The state in which the next pass is set and the corrected accumulators are kept. -/
def passNoted (s : State) (c u : Nat) (cor : List Nat) : State := s.modCluster c fun x => { x with
  scrubDue := tset x.scrubDue u ((tget (s.cluster c).scrubDue u).getD s.tclk + 600000000000), lastCorr := tset x.lastCorr u (freeCorrected s c u cor) }

theorem fuPass_early {cor : List Nat} {b : Bool} (h : ¬ passDue s c u) : s.fuPass c u cor b = s :=
  if_pos (Decidable.not_not.mp (mt passDue_iff.mpr h))

section Due

variable {cor : List Nat} (h : passDue s c u)
include h

theorem fuPass_bad : s.fuPass c u cor true =
    ((passNoted s c u cor).draw.2.badAccs c u (Config.freeNat (passNoted s c u cor).draw.1)).innerError c :=
  if_neg (passDue_iff.mp h)

theorem fuPass_corrected : s.fuPass c u cor false =
    if (freeCorrected s c u cor).any (tgetD (s.cluster c).lastCorr u []).contains then (passNoted s c u cor).failFu c u 1 else passNoted s c u cor :=
  if_neg (passDue_iff.mp h)

end Due

theorem retireFu_none (h : tget (s.cluster c).badFu u = none ∨ s.physOf c = none ∨ (s.unitsHeld c).contains u = true) : s.retireFu c u = s := by
  cases hb : tget (s.cluster c).badFu u with
  | none => simp only [State.retireFu, hb]
  | some cause =>
    cases hp : s.physOf c with
    | none => simp only [State.retireFu, hb, hp]
    | some ph =>
      have hheld : (s.unitsHeld c).contains u = true := by
        rcases h with h | h | h
        · rw [hb] at h; cases h
        · rw [hp] at h; cases h
        · exact h
      simp only [State.retireFu, hb, hp, hheld, if_true]

section Marked

variable {cause ph : Nat} (hb : tget (s.cluster c).badFu u = some cause) (hp : s.physOf c = some ph) (hh : (s.unitsHeld c).contains u = false)
include hb hp hh

theorem retireFu_spared (hs : (s.cluster c).spareFu = true) : s.retireFu c u = ((s.modCluster c fun x => { x with
    badFu := tdel x.badFu u, unitMap := x.unitMap.set u 4, spareFu := false, scrubDue := tdel x.scrubDue u, lastCorr := tdel x.lastCorr u
    accs := tdel x.accs u }).repair 0x02 cause [c / 8, ph, (s.cluster c).unitMap.getD u u]).advanceAll := by
  simp only [State.retireFu, hb, hp, hh, hs, Bool.false_eq_true, if_false, if_true]

theorem retireFu_retires (hs : (s.cluster c).spareFu = false) : s.retireFu c u = s.retire c cause := by
  simp only [State.retireFu, hb, hp, hh, hs, Bool.false_eq_true, if_false]

end Marked

end FoldUnits

/-! ### The catalogue and DDR training (R326, R457–R460) -/

section Catalogue

variable {s : State}

theorem writeEntry_none (h : s.nor.unwritten = []) : s.writeEntry = s := by simp only [State.writeEntry, h]

theorem writeEntry_writes {e : CatEntry} {r : List CatEntry} (h : s.nor.unwritten = e :: r) :
    let x := addEntry s.nor.field e
    s.writeEntry = ((s.rewriteField x.1).modNor fun n => { n with unwritten := r }).record 0 (repairRecord x.2 e s.time) := by
  simp only [State.writeEntry, h]

theorem exec_catalogueWrite (h : s.live = true) : exec .catalogueWrite s = .next s.writeEntry := next_live' (b := s.live) rfl h

theorem exec_ddrTrainingComplete (h : s.live = true) (hr : s.boot.romOk = true) (hd : s.boot.ddrDone = false) (d : List Dimm) :
    exec (.ddrTrainingComplete d) s = .next ((ddrOf d).left.foldl (fun (s : State) c => s.bootEvent (Config.dimmLeftOut % 256) 0 c 0)
      (({ s with tiers := { s.tiers with ddr := ddrOf d } }).modBoot fun b => { b with ddrDone := true })) :=
  next_live' (b := s.live && s.boot.romOk && !s.boot.ddrDone) rfl (by rw [h, hr, hd]; rfl)

theorem exec_ddrTrainingComplete_none (hn : s.boot.romOk = false ∨ s.boot.ddrDone = true) (d : List Dimm) :
    exec (.ddrTrainingComplete d) s = .next s := by
  refine congrArg Host.Outcome.next (if_neg fun hc => ?_)
  simp only [Bool.and_eq_true, Bool.not_eq_true'] at hc
  obtain ⟨⟨-, hr⟩, hd⟩ := hc
  rcases hn with hn | hn
  · rw [hr] at hn; cases hn
  · rw [hd] at hn; cases hn

end Catalogue

/-! ### Patrol scrub (R334–R336) -/

section Scrubs

variable {s : State} {u : MemUnit}

/-- A memory port is of tier C, which U3 does not put to sleep. -/
def isChan : MemUnit → Bool
  | .chan _ => true
  | _ => false

theorem isChan_iff : isChan u = true ↔ ∃ d, u = .chan d := by
  cases u <;> simp [isChan]

/-- Scrub runs at a memory port. -/
def scrubRuns (s : State) (u : MemUnit) : Prop :=
  bit (s.word 0 (galBase (unitGallery u) + 8)) 24 = true ∧ ((s.gal (unitGallery u)).power = 3 → ∃ d, u = .chan d) ∧ s.unitLines u ≠ 0

/-- It does not, as the model tests it. -/
def scrubStops (s : State) (u : MemUnit) : Bool :=
  !bit (s.word 0 (galBase (unitGallery u) + 8)) 24 || (decide ((s.gal (unitGallery u)).power = 3) && !isChan u) || s.unitLines u == 0

theorem scrubStops_iff : scrubStops s u = true ↔ ¬ scrubRuns s u := by
  simp only [scrubStops, scrubRuns, ← isChan_iff, Bool.or_eq_true, Bool.and_eq_true, Bool.not_eq_true', decide_eq_true_eq, beq_iff_eq, Classical.not_and_iff_not_or_not,
    Bool.not_eq_true, ne_eq, Classical.not_not, Classical.not_imp, or_assoc]

/-- The line that the pointer of a pass stands at. -/
def scrubbed (s : State) (u : MemUnit) : Nat := s.lineOf u ((s.scrubOf u).next % s.unitLines u)

/-- What a port's failure does: a slice is lost with its cluster. -/
def portLost (s : State) : MemUnit → State
  | .slice c => s.retire c 2
  | _ => s

/-- What is done about what scrub finds in a line. -/
def foundActs (s : State) (u : MemUnit) (line : Nat) : LineFind → State
  | .clean => s
  | .corrected p r => if s.tiers.poison.contains line then s else s.scrubCorrected u line p r
  | .uncorrectable r => s.scrubBad u line r
  | .portFault => portLost s u

theorem scrubLine_stopped {find : LineFind} (h : ¬ scrubRuns s u) : s.scrubLine u find = s := by
  have hcond := scrubStops_iff.mpr h
  cases u <;> exact if_pos hcond

theorem scrubLine_runs {find : LineFind} (h : scrubRuns s u) : s.scrubLine u find =
    ((foundActs s u (scrubbed s u)
      (if s.tiers.bad.any fun b => b.1 == scrubbed s u then .uncorrectable (Config.rowOf (scrubbed s u)) else find)).scrubSoft u (scrubbed s u)).scrubOn u := by
  have hcond : ¬ scrubStops s u = true := fun hc => scrubStops_iff.mp hc h
  cases u <;> exact if_neg hcond

section Good

variable (h : scrubRuns s u) (hb : (s.tiers.bad.any fun b => b.1 == scrubbed s u) = false)
include h hb

/-- A line without an uncorrectable codeword of its own is as it is found. -/
theorem scrubLine_found (find : LineFind) :
    s.scrubLine u find = ((foundActs s u (scrubbed s u) find).scrubSoft u (scrubbed s u)).scrubOn u := by
  rw [scrubLine_runs h, if_neg (Bool.eq_false_iff.mp hb)]

theorem scrubLine_corrected {p r : Nat} (hp : s.tiers.poison.contains (scrubbed s u) = false) : s.scrubLine u (.corrected p r) =
    ((s.scrubCorrected u (scrubbed s u) p r).scrubSoft u (scrubbed s u)).scrubOn u := by
  rw [scrubLine_found h hb, foundActs, if_neg (Bool.eq_false_iff.mp hp)]

theorem scrubLine_poisoned {p r : Nat} (hp : s.tiers.poison.contains (scrubbed s u) = true) :
    s.scrubLine u (.corrected p r) = (s.scrubSoft u (scrubbed s u)).scrubOn u := by
  rw [scrubLine_found h hb, foundActs, if_pos hp]

theorem scrubLine_portLost : s.scrubLine u .portFault = ((portLost s u).scrubSoft u (scrubbed s u)).scrubOn u := scrubLine_found h hb _

end Good

theorem scrubLine_bad {find : LineFind} (h : scrubRuns s u) (hb : (s.tiers.bad.any fun b => b.1 == scrubbed s u) = true) : s.scrubLine u find =
    ((s.scrubBad u (scrubbed s u) (Config.rowOf (scrubbed s u))).scrubSoft u (scrubbed s u)).scrubOn u := by
  rw [scrubLine_runs h, if_pos hb, foundActs]

theorem portLost_other (h : ∀ c, u ≠ .slice c) : portLost s u = s := by
  cases u with
  | slice c => exact absurd rfl (h c)
  | stack h => rfl
  | chan d => rfl

/-! ### Refresh and repairs (R334, R338, R339) -/

/-- What the end of a refresh notes at a port. -/
def refreshed (s : State) : MemUnit → State
  | .slice _ => s
  | u => s.modScrub u fun x => { x with refreshes := x.refreshes + 1 }

theorem refreshed_dram (h : ∀ c, u ≠ .slice c) : refreshed s u = s.modScrub u fun x => { x with refreshes := x.refreshes + 1 } := by
  cases u with
  | slice c => exact absurd rfl (h c)
  | stack h => rfl
  | chan d => rfl

section Refresh

variable {l : List Decay} (hu : MemUnit.ok u = true) (hl : ∀ d ∈ l, d.code < 64)
include hu hl

theorem refresh_ok : (MemUnit.ok u && l.all fun d => decide (d.code < 64)) = true := by
  rw [hu, Bool.true_and, List.all_eq_true]
  exact fun d hd => decide_eq_true (hl d hd)

theorem exec_refresh (h : s.live = true) (hn : s.unitLines u ≠ 0) :
    exec (.refresh ⟨u, l⟩) s = .next (refreshed (l.foldl (fun (s : State) d => s.decay u d) s) u) := by
  have hcond : (s.live && s.unitLines u != 0) = true := by rw [h, Bool.true_and, bne_iff_ne]; exact hn
  refine (if_pos (refresh_ok hu hl)).trans (congrArg Host.Outcome.next ((if_pos hcond).trans ?_))
  cases u <;> rfl

theorem exec_refresh_none (hn : s.unitLines u = 0) : exec (.refresh ⟨u, l⟩) s = .next s := by
  refine (if_pos (refresh_ok hu hl)).trans (congrArg Host.Outcome.next (if_neg ?_))
  rw [show (Refreshed.mk u l).unit = u from rfl, hn, bne_self_eq_false, Bool.and_false]
  exact Bool.false_ne_true

end Refresh

section RowRepair

variable {row : Nat} {b : Bool}

theorem rowDone_none (h : ((s.scrubOf u).rows.find? fun m => m.to_ == row) = none) : s.rowDone u row b = s := by
  simp only [State.rowDone, h]

/-- A row's address switched to its spare. -/
def rowSwitched (s : State) (u : MemUnit) (pc row : Nat) : State := s.modScrub u fun x => { x with
  rows := x.rows.filter fun y => !(y.pc == pc && y.to_ == row)
  fixed := if x.fixed.contains (pc, row) then x.fixed else x.fixed ++ [(pc, row)] }

theorem rowDone_stack {h : Nat} {m : Mending} (hm : ((s.scrubOf (.stack h)).rows.find? fun m => m.to_ == row) = some m) :
    let v := (rowSwitched s (.stack h) m.pc row).repair 0x05 (m.cause + 16)
      ([h, m.pc] ++ [row % 256, row / 256 % 256, row / 65536 % 256, row / 16777216 % 256])
    s.rowDone (.stack h) row b =
      if b = true ∨ 64 ≤ ((v.scrubOf (.stack h)).fixed.filter fun e => e.1 == m.pc).length then v.sparePc h m.pc m.cause else v := by
  simp only [State.rowDone, hm, rowSwitched] <;> rfl

theorem rowDone_chan {d : Nat} {m : Mending} (hm : ((s.scrubOf (.chan d)).rows.find? fun m => m.to_ == row) = some m) :
    let t := rowSwitched s (.chan d) m.pc row
    s.rowDone (.chan d) row b = t.draw.2.repair 0x08 (m.cause + 16)
      ([d, Config.freeNat t.draw.1 % 256] ++ [row % 256, row / 256 % 256, row / 65536 % 256, row / 16777216 % 256]) := by
  simp only [State.rowDone, hm, rowSwitched]

theorem rowDone_slice {c : Nat} {m : Mending} (hm : ((s.scrubOf (.slice c)).rows.find? fun m => m.to_ == row) = some m) :
    s.rowDone (.slice c) row b = rowSwitched s (.slice c) m.pc row := by
  simp only [State.rowDone, hm, rowSwitched]

end RowRepair

end Scrubs

section Spares

variable {s : State} {h pc : Nat}

theorem pcSwitch_switches {m : Mending} (hm : ((s.scrubOf (.stack h)).copies.find? fun m => m.pc == pc) = some m)
    (hb : (s.gal (h / 4)).cons.busy = false) (hl : 2 ^ 24 ≤ m.line) :
    s.pcSwitch h pc = (s.modScrub (.stack h) fun x => { x with
      copies := x.copies.filter fun y => y.pc != pc
      spared := x.spared ++ [(pc, m.to_)]
      fixed := x.fixed.filter fun e => e.1 != pc
      marks := x.marks.filter fun e => e.pc != pc }).repair 0x06 m.cause [h, pc, m.to_] := by
  simp only [State.pcSwitch, hm, hb, Nat.not_lt.mpr hl, Bool.false_eq_true, or_self, if_false]

theorem pcSwitch_none (hn : ((s.scrubOf (.stack h)).copies.find? fun m => m.pc == pc) = none ∨ (s.gal (h / 4)).cons.busy = true ∨
    ∃ m, ((s.scrubOf (.stack h)).copies.find? fun m => m.pc == pc) = some m ∧ m.line < 2 ^ 24) : s.pcSwitch h pc = s := by
  cases hm : (s.scrubOf (.stack h)).copies.find? fun m => m.pc == pc with
  | none => simp only [State.pcSwitch, hm]
  | some m =>
    have hcond : (s.gal (h / 4)).cons.busy = true ∨ m.line < 2 ^ 24 := by
      rcases hn with hn | hn | ⟨m', hn, hl⟩
      · rw [hm] at hn; cases hn
      · exact .inl hn
      · rw [hm] at hn; cases hn; exact .inr hl
    simp only [State.pcSwitch, hm, if_pos hcond]

end Spares

/-! ### The firmware copies (R320, R322) -/

section Copies

variable {s : State} {g : Nat}

/-- A gallery's firmware copy is lost. -/
def copyLost (s : State) (g : Nat) : Prop := (s.gal g).fwLost = true ∧ (s.gal g).fwHome.isSome = true

theorem copyLost_iff : copyLost s g ↔ ¬ (!(s.gal g).fwLost || (s.gal g).fwHome.isNone) = true := by
  simp only [copyLost, Bool.or_eq_true, not_or, Bool.not_eq_true', Bool.not_eq_false, Bool.not_eq_true, Option.isNone_eq_false_iff]

theorem rebuildCopy_none (h : ¬ copyLost s g) : s.rebuildCopy g = s := if_pos (Decidable.not_not.mp (mt copyLost_iff.mpr h))

section Lost

variable (h : copyLost s g)
include h

theorem rebuildCopy_nowhere (ht : s.fwTarget g = none) : s.rebuildCopy g = (s.modGal g fun x => { x with fwHome := none }).copyEvent none := by
  have hcond := copyLost_iff.mp h
  simp only [State.rebuildCopy, if_neg hcond, ht]

variable {c : Nat} {t : State} (ht : s.fwTarget g = some c)
include ht

theorem rebuildCopy_unread (hl : s.loadImages (3 - g) (s.boot.running.elim [] Bundle.copied) = (t, none)) : s.rebuildCopy g = t.copyEvent none := by
  have hcond := copyLost_iff.mp h
  simp only [State.rebuildCopy, if_neg hcond, ht, hl]

theorem rebuildCopy_rebuilds {l : List (Image × List Byte)} (hl : s.loadImages (3 - g) (s.boot.running.elim [] Bundle.copied) = (t, some l)) :
    s.rebuildCopy g =
      ((t.modGal g fun x => { x with fwHome := some c, fwLost := false }).putImages c l).copyEvent (some (t.node * 2 ^ 48 + fwPlace c)) := by
  have hcond := copyLost_iff.mp h
  simp only [State.rebuildCopy, if_neg hcond, ht, hl]

end Lost

end Copies

section Commands

variable {s : State} (h : s.live = true)
include h

theorem exec_fuScrubPass {c u : Nat} (hc : clusterOk c = true) (hu : fuOk u = true) (cor : List Nat) (b : Bool) :
    exec (.fuScrubPass c u cor b) s = .next (s.fuPass c u cor b) := next_live (b := s.live) rfl (by rw [hc, hu]; rfl) h

theorem exec_fuRetire {c u : Nat} (hc : clusterOk c = true) (hu : fuOk u = true) : exec (.fuRetire c u) s = .next (s.retireFu c u) :=
  next_live (b := s.live) rfl (by rw [hc, hu]; rfl) h

theorem exec_scrub {u : MemUnit} (hu : MemUnit.ok u = true) (find : LineFind) : exec (.scrub u find) s = .next (s.scrubLine u find) :=
  next_live (b := s.live) rfl hu h

theorem exec_rowRepairComplete {u : MemUnit} (hu : MemUnit.ok u = true) (row : Nat) (b : Bool) :
    exec (.rowRepairComplete u ⟨row, b⟩) s = .next (s.rowDone u row b) := next_live (b := s.live) rfl hu h

theorem exec_pcSpareComplete {k pc : Nat} (hk : k ≤ 23) (hp : pc ≤ 63) : exec (.pcSpareComplete k pc) s = .next (s.pcSwitch k pc) :=
  next_live (b := s.live) rfl (by rw [decide_eq_true hk, decide_eq_true hp]; rfl) h

theorem exec_fwCopyRebuild {g : Nat} (hg : galOk g = true) : exec (.fwCopyRebuild g) s = .next (s.rebuildCopy g) := next_live (b := s.live) rfl hg h

end Commands

end Sys2Proof.Laws

open Sys2Proof.Machine Sys2Proof.Laws

/-- Settles O47: fold units (`fuPass_bad`, `retireFu_spared`), one line of scrub by what is found there (`scrubLine_found`, `scrubLine_bad`), repairs
(`rowDone_stack`, `pcSwitch_switches`) and the firmware copies (`rebuildCopy_rebuilds`). -/
theorem memoryMended : Obligations.MemoryMended := by
  intro s h
  refine ⟨fun c u cor hc hu => ?pass, fun c u hc hu => ?retire, fun e r hn => (exec_catalogueWrite h).trans (congrArg _ (writeEntry_writes hn)),
    fun hn => (exec_catalogueWrite h).trans (congrArg _ (writeEntry_none hn)),
    fun d => ⟨fun hr hd => exec_ddrTrainingComplete h hr hd d, fun hn => exec_ddrTrainingComplete_none hn d⟩, fun u find hu => ?scrub,
    fun u l hu hl => ?refresh, fun u row b hu => ?rows, fun k pc hk hp => ?spares, fun g hg => ?copies⟩
  case pass =>
    have hexec := exec_fuScrubPass h hc hu cor
    exact ⟨fun hd => (hexec true).trans (congrArg _ (fuPass_bad hd)), fun hd => (hexec false).trans (congrArg _ (fuPass_corrected hd)),
      fun hd b => (hexec b).trans (congrArg _ (fuPass_early hd))⟩
  case retire =>
    have hexec := exec_fuRetire h hc hu
    exact ⟨fun cause ph hb hp hh => ⟨fun hs => hexec.trans (congrArg _ (retireFu_spared hb hp hh hs)),
      fun hs => hexec.trans (congrArg _ (retireFu_retires hb hp hh hs))⟩, fun hn => hexec.trans (congrArg _ (retireFu_none hn))⟩
  case scrub =>
    intro g line runs bad
    have hexec := exec_scrub h hu
    refine ⟨fun hr hb => (hexec _).trans (congrArg _ (scrubLine_found hr hb .clean)),
      fun p r hr hb hp => (hexec _).trans (congrArg _ (scrubLine_corrected hr hb hp)),
      fun p r hr hb hp => (hexec _).trans (congrArg _ (scrubLine_poisoned hr hb hp)),
      fun r hr hb => (hexec _).trans (congrArg _ (scrubLine_found hr hb (.uncorrectable r))), fun c hr hb hc => ?_, fun hc hr hb => ?_,
      fun hr hb => (hexec _).trans (congrArg _ (scrubLine_bad hr hb)), fun hr => (hexec _).trans (congrArg _ (scrubLine_stopped hr))⟩
    · subst hc
      exact (hexec _).trans (congrArg _ (scrubLine_portLost hr hb))
    · have hlost := scrubLine_portLost hr hb
      rw [portLost_other hc] at hlost
      exact (hexec _).trans (congrArg _ hlost)
  case refresh =>
    refine ⟨fun hc hn => (exec_refresh hu hl h hn).trans (congrArg _ (refreshed_dram hc)), fun c hc hn => ?_, fun hn => exec_refresh_none hu hl hn⟩
    subst hc
    exact exec_refresh hu hl h hn
  case rows =>
    have hexec := exec_rowRepairComplete h hu row b
    refine ⟨fun m hm => ?_, fun hn => hexec.trans (congrArg _ (rowDone_none hn))⟩
    cases u with
    | slice c => exact ⟨nofun, nofun, fun _ _ => hexec.trans (congrArg _ (rowDone_slice hm))⟩
    | stack k =>
      refine ⟨fun k' hk => ?_, nofun, nofun⟩
      cases hk
      exact hexec.trans (congrArg _ (rowDone_stack hm))
    | chan d =>
      refine ⟨nofun, fun d' hd => ?_, nofun⟩
      cases hd
      exact hexec.trans (congrArg _ (rowDone_chan hm))
  case spares =>
    have hexec := exec_pcSpareComplete h hk hp
    exact ⟨fun m hm hb hl => hexec.trans (congrArg _ (pcSwitch_switches hm hb hl)), fun hn => hexec.trans (congrArg _ (pcSwitch_none hn))⟩
  case copies =>
    have hexec := exec_fwCopyRebuild h hg
    exact ⟨fun c t l hl ht hf => hexec.trans (congrArg _ (rebuildCopy_rebuilds hl ht hf)),
      fun c t hl ht hf => hexec.trans (congrArg _ (rebuildCopy_unread hl ht hf)),
      fun hl ht => hexec.trans (congrArg _ (rebuildCopy_nowhere hl ht)), fun hl => hexec.trans (congrArg _ (rebuildCopy_none hl))⟩
end
